-- ==== Sys2Proof/Word.lean ====
section
/-! DEFINITION. The word types of the Milearel L9: bytes, 32-bit registers, 64-bit pairs and
instruction words, and the 64-byte sector (R5, R101, R204). Bit vectors are used where the spec
treats a value as bits; addresses used as keys are plain numbers. -/

namespace Sys2Proof

/-- One byte of memory (R5). -/
abbrev Byte := BitVec 8

/-- A 32-bit vector or scalar register (R204). -/
abbrev Word := BitVec 32

/-- A `.64` pair, a uniform register or an instruction word (R5, R204). -/
abbrev DWord := BitVec 64

/-- The data of one 64-byte sector (R101). -/
abbrev Sector := BitVec 512

/-- The low word of a pair, held in the even register (R204). -/
def lo32 (x : DWord) : Word := x.extractLsb' 0 32

/-- The high word of a pair, held in the odd register (R204). -/
def hi32 (x : DWord) : Word := x.extractLsb' 32 32

/-- A pair from its even and odd register (R204). -/
def pair64 (lo hi : Word) : DWord := hi ++ lo

theorem getLsbD_pair64 (l h : Word) (i : Nat) :
    (pair64 l h).getLsbD i = if i < 32 then l.getLsbD i else h.getLsbD (i - 32) :=
  BitVec.getLsbD_append (x := h) (y := l)

@[simp] theorem lo32_pair64 (l h : Word) : lo32 (pair64 l h) = l := by
  apply BitVec.eq_of_getLsbD_eq; intro i hi
  simp [lo32, getLsbD_pair64, hi]

@[simp] theorem hi32_pair64 (l h : Word) : hi32 (pair64 l h) = h := by
  apply BitVec.eq_of_getLsbD_eq; intro i hi
  simp [hi32, getLsbD_pair64, hi]

end Sys2Proof
end

