-- ==== Sys2Proof/Config.lean ====
section
/-! DEFINITION. What one implementation fixes and the values the spec leaves open. A free value is an
opaque constant: nothing in Lean can evaluate it or prove a value of it (assumption log, entries 4,
5, 6 and 7). -/

namespace Sys2Proof.Config

/-- A 32-bit value that the spec leaves unspecified, drawn with a serial number and an index
(R56, R59, R156, R178, R415). Entry 4. -/
opaque freeWord : Nat → Nat → Word

/-- A truth value that the spec leaves unspecified, such as a predicate at launch (R156). Entry 4. -/
opaque freeBool : Nat → Nat → Bool

/-- The output of a special function inside the bound of R288, as an offset in units in the last place
from the nearest value; the meaning keeps it within the bound. The first argument is the function's
opcode. Entry 5. -/
opaque specialFn : Nat → Word → Word

/-- The free credit of a Kazath port as a message goes out: the number of messages sent before it, and the port (R141). Entry 6. -/
opaque portCredit : Nat → Nat → Nat

/-- The turning walk of a plane of the on-die network: its directed switch-to-switch links in order, each as the switch and the
output port that it begins at, by stage (1 to 3), number and port (R136). Entry 6. -/
opaque turnWalk : Nat → List (Nat × Nat × Nat)

/-- The ranges of package memory that the host sets up at a port, each with its base and length: those exported through BARs (R149), and
those of the port's HDM decoders for CXL.mem (R152). Entry 7. -/
opaque barRanges : Nat → List (Nat × Nat)
opaque hdmRanges : Nat → List (Nat × Nat)

/-- The device's partition number, %dev, and the members of its partition, as the fabric manager sets them. Entry 7. -/
opaque deviceNumber : Nat
opaque partition : List Nat

/-- A host port runs CXL (R33), as it finds when its link comes up. Entry 7. -/
opaque portRunsCxl : Nat → Bool

/-- The route set that the fabric manager loads for a device or switch number (R141). Entry 7. -/
opaque routeSet : Nat → List (List Nat)

/-- A fabric number is a Kazath switch's (R154). Entry 7. -/
opaque isSwitch : Nat → Bool

/-- The difference of a core's %clock from the common cycle count (R35). Entry 6. -/
opaque clockOffset : Nat → Nat

/-- The signature of the management controller over a message (R387, R392). Entry 7. -/
opaque signature : List Byte → List Byte

/-- The digest of a byte string by SHAKE256 (R386, R387); the spec names the function and the model
does not compute it. Entry 7. -/
opaque digest : List Byte → List Byte

/-- Whether the management controller accepts a firmware image: its digest and signature check
(R387, R480). Entry 7. -/
opaque imageAccepted : List Byte → Bool

/-- Contents of the answer to a management request that the spec does not lay out (R392). Entry 7. -/
opaque mgmtBody : Nat → List Byte

/-- A byte of the identity EEPROM whose value is the module's own: its serial number, date, revision and key digest
(R386). Entry 7. -/
opaque identityByte : Nat → Byte

/-- The parts that fail training at a boot, as a DV_PLAT_FAIL value (R478). Entry 7. -/
opaque trainingResult : Nat → BitVec 48

/-- Supply margins read at a replanning: the AGED and DIE bits it sets (R481). Entry 7. -/
opaque replanResult : Nat → BitVec 16

/-- The steps of 5 mV by which a replanning, of a serial number, raises the supply of a die (R391). Entry 7. -/
opaque supplySteps : Nat → Nat → Nat

end Sys2Proof.Config
end

