-- ==== Sys2Proof/Syntax.lean ====
section
/-! DEFINITION. The syntax of the machine: operand shapes read from instruction words (R221 to R231,
R248), the operands of the device's own steps and of what reaches it from outside, and `Instr`, the
one inductive with a constructor for each row of spec/opcode_table.json. -/

namespace Sys2Proof

/-- Which word an instruction stands in: a full word, or the first or second half of a pair
(R221, R229). -/
inductive Slot where
  | full | x | y
  deriving DecidableEq, Repr, Inhabited

/-- The control fields of the word that issues an instruction (R221, R230). A half X carries no
STALL and BRK: they act once, with half Y. -/
structure Ctl where
  slot : Slot := .full
  pred : BitVec 3 := 7
  neg : Bool := false
  stall : BitVec 3 := 0
  brk : Bool := false
  deriving DecidableEq, Repr, Inhabited

/-- Type modifiers, TYPE codes 0 to 11 (R226). -/
inductive Ty where
  | dflt | s32 | u32 | w64 | f32 | f16 | bf16 | e4 | e5 | db8 | db6 | db4
  deriving DecidableEq, Repr, Inhabited

/-- Rounding modes, RND codes 0 to 4 (R210, R226). -/
inductive Rnd where
  | rn | rna | rz | ru | rd
  deriving DecidableEq, Repr, Inhabited

/-- Conditions, COND codes 0 to 7 (R227). -/
inductive Cond where
  | eq | ne | lt | le | gt | ge | num | nan
  deriving DecidableEq, Repr, Inhabited

/-- Memory orders, ORDER codes 0 to 3 (R82, R228). -/
inductive Order where
  | rlx | acq | rel | ar
  deriving DecidableEq, Repr, Inhabited

/-- Scopes, SCOPE codes 0 to 5 (R81, R228). -/
inductive Scope where
  | blk | core | die | dev | fab | sys
  deriving DecidableEq, Repr, Inhabited

/-- The four engine contexts of a block, coded 0 to 3 (R95, R320). -/
inductive Ctx where
  | copy | matrix | coll | host
  deriving DecidableEq, Repr, Inhabited

/-- A second source: a register of the operation's file, a scalar broadcast to the lanes (SB = 1), or
the value an immediate supplies, already read by its class (R223 to R225, R230, R261). -/
inductive Src where
  | reg (i : BitVec 8)
  | sreg (i : BitVec 6)
  | imm (v : DWord)
  deriving DecidableEq, Repr, Inhabited

/-- Operands of forms V, S and X (R248, R261). A one-source operation holds its source in `b`. `k` is
a field of the operation's own: LEA's k, LUT3's table, the mode of a cross-lane operation. -/
structure VOp where
  d : BitVec 8 := 0
  a : BitVec 8 := 0
  b : Src := .reg 0
  c : BitVec 8 := 0
  ty : Ty := .dflt
  rnd : Rnd := .rn
  sat : Bool := false
  x : Bool := false
  k : BitVec 8 := 0
  deriving DecidableEq, Repr, Inhabited

/-- Operands of form C and of SCMP (R227, R248). -/
structure COp where
  pd : BitVec 3 := 0
  cond : Cond := .eq
  u : Bool := false
  a : BitVec 8 := 0
  b : Src := .reg 0
  ty : Ty := .dflt
  deriving DecidableEq, Repr, Inhabited

/-- Operands of form P: predicates, or imm9[0] as the second source of a half (R267). -/
structure POp where
  d : BitVec 3 := 0
  a : BitVec 3 := 0
  b : Sum (BitVec 3) Bool := .inl 0
  deriving DecidableEq, Repr

/-- The offset of a memory operand: elements in the register form, or the immediate (R228). In an
immediate-form atomic the immediate is the operand (R308). -/
inductive MOff where
  | elems (n : BitVec 8)
  | bytes (n : BitVec 20)
  deriving DecidableEq, Repr, Inhabited

/-- Operands of form M (R228, R299). -/
structure MOp where
  d : BitVec 8 := 0
  a : BitVec 8 := 0
  off : MOff := .elems 0
  scope : Scope := .blk
  ty : Ty := .dflt
  ord : Order := .rlx
  y : BitVec 3 := 0
  c : BitVec 8 := 0
  deriving DecidableEq, Repr, Inhabited

/-- Operands of BRA (R271): the word offset and `.uni`. -/
structure BraOp where
  uni : Bool := false
  off : BitVec 20 := 0
  deriving DecidableEq, Repr, Inhabited

/-- Operands of BRX and RET (R271): `.uni` or `.lnk`, and the pair that holds the address. -/
structure BrxOp where
  flag : Bool := false
  a : BitVec 8 := 0
  deriving DecidableEq, Repr, Inhabited

/-- Operands of CALL and CALLX (R271): advance and size in units of 8 registers; CALL has an offset
and CALLX a pair. -/
structure CallOp where
  adv : BitVec 6 := 0
  size : BitVec 6 := 1
  off : BitVec 20 := 0
  b : BitVec 8 := 0
  deriving DecidableEq, Repr, Inhabited

/-- Operands of SCBRA and QBRA (R271, R332). -/
structure CBraOp where
  a : BitVec 6 := 0
  cond : Cond := .eq
  u : Bool := false
  off : BitVec 20 := 0
  deriving DecidableEq, Repr, Inhabited

/-- Operands of IFP (R273). -/
structure IfpOp where
  k : BitVec 3 := 7
  neg : Bool := false
  deriving DecidableEq, Repr, Inhabited

/-- Operands of REGROUP (R275): partner gang, first register k, and m - 1. -/
structure RegroupOp where
  g : BitVec 4 := 0
  k : BitVec 8 := 0
  m1 : BitVec 8 := 0
  deriving DecidableEq, Repr, Inhabited

/-- Operands of RDSR and WRSR (R277, R278): `r` is the data register and `t` the scalar that names
another context under X. -/
structure SrOp where
  idx : BitVec 20 := 0
  r : BitVec 8 := 0
  wide : Bool := false
  x : Bool := false
  t : BitVec 8 := 0
  deriving DecidableEq, Repr, Inhabited

/-- Operands of FENCE (R313). -/
structure FenceOp where
  ord : Order := .ar
  scope : Scope := .blk
  deriving DecidableEq, Repr, Inhabited

/-- Operands of BAR (R316). -/
structure BarOp where
  b : BitVec 4 := 0
  arv : Bool := false
  deriving DecidableEq, Repr, Inhabited

/-- Operands of WAITP (R319). -/
structure WaitpOp where
  path : BitVec 3 := 0
  all : Bool := false
  a : BitVec 6 := 0
  deriving DecidableEq, Repr, Inhabited

/-- Operands of TLWAIT, TLREAD and TLADV (R320). -/
structure TlOp where
  ctx : Ctx := .copy
  n : BitVec 6 := 0
  d : BitVec 6 := 0
  scope : Scope := .blk
  deriving DecidableEq, Repr, Inhabited

/-- Operands of a tile copy (R335, R336). -/
structure CopyOp where
  d : BitVec 6 := 0
  a : BitVec 6 := 0
  b : BitVec 6 := 0
  x : BitVec 6 := 0
  dt : Bool := false
  bar : Bool := false
  deriving DecidableEq, Repr, Inhabited

/-- Operands of a collective (R339). -/
structure CollOp where
  op : BitVec 3 := 0
  ty : Ty := .f32
  lv : BitVec 3 := 0
  a : BitVec 6 := 0
  b : BitVec 6 := 0
  deriving DecidableEq, Repr, Inhabited

/-- Operands of TLSIG (R338). -/
structure TlsigOp where
  ctx : Ctx := .copy
  a : BitVec 6 := 0
  b : BitVec 4 := 0
  deriving DecidableEq, Repr, Inhabited

/-- Operands of QADD (R332): the second source is a uniform register or an immediate. -/
structure QaddOp where
  d : BitVec 6 := 0
  a : BitVec 6 := 0
  b : Sum (BitVec 6) (BitVec 20) := .inl 0
  deriving DecidableEq, Repr

/-- Operands of QMOVI (R332). -/
structure QmoviOp where
  d : BitVec 6 := 0
  imm : BitVec 16 := 0
  h : BitVec 2 := 0
  z : Bool := false
  deriving DecidableEq, Repr, Inhabited

/-- Operands of a matrix product (R343). -/
structure MmaOp where
  d : BitVec 4 := 0
  a : BitVec 6 := 0
  b : BitVec 6 := 0
  l : BitVec 6 := 0
  pin : Bool := false
  coop : Bool := false
  ge : Bool := false
  se : Bool := false
  deriving DecidableEq, Repr, Inhabited

/-- Operands of a tile operation (R348): fields as the operation's row names them. -/
structure TileOp where
  d : BitVec 6 := 0
  a : BitVec 6 := 0
  b : BitVec 6 := 0
  c : BitVec 6 := 0
  ty : Ty := .dflt
  mode : BitVec 4 := 0
  deriving DecidableEq, Repr, Inhabited

/-- Operands of form Z that name registers only (R352). -/
structure ZOp where
  d : BitVec 8 := 0
  a : BitVec 8 := 0
  deriving DecidableEq, Repr, Inhabited

/-- Operands of SENDUI (R352). -/
structure SendOp where
  peer : Bool := false
  a : BitVec 6 := 0
  v : BitVec 6 := 0
  d : BitVec 8 := 0
  deriving DecidableEq, Repr, Inhabited

/-- Operands of SYSCALL (R352, R355). -/
structure SyscallOp where
  d : BitVec 8 := 0
  a : BitVec 8 := 0
  n : Sum (BitVec 8) (BitVec 12) := .inr 0
  deriving DecidableEq, Repr

/-- Operands of TRAPRET (R352, R357). -/
structure TrapretOp where
  k : BitVec 8 := 0
  m1 : BitVec 8 := 0
  skip : Bool := false
  deriving DecidableEq, Repr, Inhabited

/-- Operands of MIGR (R352). -/
structure MigrOp where
  named : Bool := false
  rep : BitVec 3 := 0
  deriving DecidableEq, Repr, Inhabited

/-- Operands of WLIVE (R352): counts in units of 8. -/
structure WliveOp where
  nv : BitVec 6 := 0
  ns : BitVec 4 := 0
  deriving DecidableEq, Repr, Inhabited

/-- Operands of LAUNCH and EMIT (R352): the register that holds the address, and the queue or node. -/
structure ZqOp where
  a : BitVec 8 := 0
  q : BitVec 9 := 0
  deriving DecidableEq, Repr, Inhabited

/-- Operands of SLEEPW (R352, R367). -/
structure SleepwOp where
  d : BitVec 6 := 0
  a : BitVec 8 := 0
  b : BitVec 8 := 0
  v : Bool := false
  deriving DecidableEq, Repr, Inhabited

/-! ### Operands of the device's own steps and of what reaches it from outside -/

/-- Where a slice stands: block, gang and slice number. -/
structure SliceRef where
  blk : Nat
  gang : Nat
  slice : Nat
  deriving DecidableEq, Repr, Inhabited

/-- A token holder: an L2, by its agent number, or the home of the sector (R102). -/
inductive Holder where
  | l2 (a : Nat)
  | home
  deriving DecidableEq, Repr, Inhabited

/-- A transient request (R111, R114): sector number (physical address div 64), receiver, requesting
agent, kind and T. One made at the sector's home on the home's own behalf (R304) has `home` set. -/
structure ReqMsg where
  sec : Nat
  dst : Holder
  src : Nat
  write : Bool
  t : Nat
  home : Bool := false
  deriving DecidableEq, Repr, Inhabited

/-- A message that carries tokens (R103, R106, R122, R486). `bad` marks the 8-byte granules of its data that could not be corrected
(R461). -/
structure TokMsg where
  sec : Nat
  dst : Holder
  src : Holder
  n : Nat
  own : Bool
  ser : BitVec 8
  t : Nat
  data : Option Sector
  dirty : Bool
  grant : Bool := false
  bad : BitVec 8 := 0
  deriving DecidableEq, Repr, Inhabited

/-- A press request or a recall by the home itself (R117, R119); a request carries T (R486). `ops` names the words of PRESS that
have raised it (R327). -/
structure PressReq where
  sec : Nat
  src : Holder
  write : Bool
  t : Nat := 8
  ops : List Nat := []
  deriving DecidableEq, Repr, Inhabited

/-- A vector request packet (R142 to R144): `page` is PA[41:16] at the home, or, of a read of a vault source that a notice names,
`vault`, address bits [31:16] (entry 26). `path` is the path it takes (R141), `link` the Kazath port that it leaves or enters by. -/
structure VPkt where
  kind : BitVec 4
  esz : Nat
  dst : Nat
  src : Nat
  ctx : Nat
  page : Nat
  rid : Nat
  aop : BitVec 5
  offs : List (BitVec 16)
  data : List DWord
  cmp : List DWord := []
  t : Nat := 64
  compressed : Bool := false
  link : Nat := 0
  scx : Nat := 0
  delta : BitVec 8 := 0
  path : List Nat := []
  vault : Bool := false
  deriving DecidableEq, Repr, Inhabited

/-- A transfer notice on its way to a kick register (R362, R363, R147). `sdie` and `score` are the sender's die and core. Of a global
source that passes the end of a page, `ext` gives the offset and the physical address at which each further page begins; `va` is the
virtual address of a global source, and `ts` gives the offset from which each T of its translations holds (R111, R486); of a peer's notice, `link`,
`scx` and `page` are the port by which it came and the fields of its full header (R145). -/
structure Notice where
  src : Nat
  sv : Bool
  dst : Nat
  len : Nat
  tcore : Nat
  tdev : Nat
  tasid : Nat
  bar : Bool
  slot : Nat
  sasid : Nat
  sdie : Nat
  sdev : Nat
  sender : Nat
  score : Nat := 0
  ext : List (Nat × Nat) := []
  va : Nat := 0
  ts : List (Nat × Nat) := []
  link : Nat := 0
  scx : Nat := 0
  page : Nat := 0
  deriving DecidableEq, Repr, Inhabited

/-- A marker copy or completion (R146). -/
structure Marker where
  id : Nat
  src : Nat
  copies : Nat
  path : Nat
  slice : Nat
  deriving DecidableEq, Repr, Inhabited

/-- What a host does to device memory through a BAR (R149). -/
inductive BarReq where
  | read (len : Nat)
  | write (bytes : List Byte)
  | fetchAdd (w64 : Bool) (v : DWord)
  | swap (w64 : Bool) (v : DWord)
  | cas (w64 : Bool) (c v : DWord)
  deriving DecidableEq, Repr, Inhabited

/-- An address of device memory as a CXL.mem access names it, and the host port that brings it (R153). -/
structure PortAddr where
  port : Nat
  addr : Nat
  deriving DecidableEq, Repr, Inhabited

/-- Status of a host completion (R437, R458). -/
inductive HStat where
  | ok | ur | ca | poisoned
  deriving DecidableEq, Repr, Inhabited

/-- CXL.cache snoops and grants (R128, R152). -/
inductive Snoop where
  | data | inv | cur
  deriving DecidableEq, Repr, Inhabited

/-- Line states of CXL.cache at the proxy home (R128). -/
inductive CxlState where
  | shared | exclusive | modified
  deriving DecidableEq, Repr, Inhabited

/-- The registers of the device that are written from outside a context (R157, R161, R162, R388,
R393, R404, R405, R424, R456, R457). -/
inductive DvReg where
  | qbind (die q : Nat) | qctl (die q : Nat) | slot (i : Nat) | gtimeTod | leaveLimit (die : Nat)
  | saveDrain | fltBase | fltCtl | tokrcTimeout | evacCtl
  | evacStat | evacErr | platFail | fwStat | serviceLevel | tokrcCnt | tokrcStale
  | errRf | errTs | errL1 | errL2 | errVlt | errNx (i : Nat) | errSt (i : Nat) | errLnk (i : Nat) | errInt
  deriving DecidableEq, Repr, Inhabited

/-- The target of a REGISTER_WRITE: a control register of a context, or a device register (R189). -/
inductive RegTarget where
  | cx (asid : Nat) (idx : Nat)
  | dv (r : DvReg)
  deriving DecidableEq, Repr, Inhabited

/-- Which fault ring an OVF_CLEAR names (R403, R404). -/
inductive RingRef where
  | cx (asid : Nat)
  | dev
  deriving DecidableEq, Repr, Inhabited

/-- A link: a Kazath port, or an internal link (R450, R451). -/
inductive LinkRef where
  | kazath (p : Nat)
  | internal (i : Nat)
  deriving DecidableEq, Repr, Inhabited

/-- One constructor per row of spec/opcode_table.json: the operations of opcode map 3 (R251 to R256),
each with the control fields of its word and its operands, then the steps of the device and of the
parties around it, which have no word. -/
inductive Instr where
  | iadd (c : Ctl) (o : VOp)
  | isub (c : Ctl) (o : VOp)
  | imul (c : Ctl) (o : VOp)
  | iminS (c : Ctl) (o : VOp)
  | iminU (c : Ctl) (o : VOp)
  | imaxS (c : Ctl) (o : VOp)
  | imaxU (c : Ctl) (o : VOp)
  | iabs (c : Ctl) (o : VOp)
  | andB (c : Ctl) (o : VOp)
  | orB (c : Ctl) (o : VOp)
  | xorB (c : Ctl) (o : VOp)
  | andn (c : Ctl) (o : VOp)
  | shl (c : Ctl) (o : VOp)
  | shr (c : Ctl) (o : VOp)
  | sar (c : Ctl) (o : VOp)
  | rotl (c : Ctl) (o : VOp)
  | popc (c : Ctl) (o : VOp)
  | clz (c : Ctl) (o : VOp)
  | brev (c : Ctl) (o : VOp)
  | mov (c : Ctl) (o : VOp)
  | movi (c : Ctl) (o : VOp)
  | sel (c : Ctl) (o : VOp)
  | isetp (c : Ctl) (o : COp)
  | iaddc (c : Ctl) (o : VOp)
  | fadd (c : Ctl) (o : VOp)
  | fsub (c : Ctl) (o : VOp)
  | fmul (c : Ctl) (o : VOp)
  | fmin (c : Ctl) (o : VOp)
  | fmax (c : Ctl) (o : VOp)
  | fsetp (c : Ctl) (o : COp)
  | fabs (c : Ctl) (o : VOp)
  | fneg (c : Ctl) (o : VOp)
  | hadd2 (c : Ctl) (o : VOp)
  | hmul2 (c : Ctl) (o : VOp)
  | badd2 (c : Ctl) (o : VOp)
  | bmul2 (c : Ctl) (o : VOp)
  | hmin2 (c : Ctl) (o : VOp)
  | hmax2 (c : Ctl) (o : VOp)
  | pand (c : Ctl) (o : POp)
  | por (c : Ctl) (o : POp)
  | pxor (c : Ctl) (o : POp)
  | pnot (c : Ctl) (o : POp)
  | pmov (c : Ctl) (o : POp)
  | sadd (c : Ctl) (o : VOp)
  | ssub (c : Ctl) (o : VOp)
  | smov (c : Ctl) (o : VOp)
  | smovi (c : Ctl) (o : VOp)
  | scmp (c : Ctl) (o : COp)
  | shflx (c : Ctl) (o : VOp)
  | bcast (c : Ctl) (o : VOp)
  | i2f (c : Ctl) (o : VOp)
  | f2i (c : Ctl) (o : VOp)
  | f2h (c : Ctl) (o : VOp)
  | h2f (c : Ctl) (o : VOp)
  | f2b (c : Ctl) (o : VOp)
  | b2f (c : Ctl) (o : VOp)
  | nop (c : Ctl)
  | sext (c : Ctl) (o : VOp)
  | zext (c : Ctl) (o : VOp)
  | bfe (c : Ctl) (o : VOp)
  | bfi (c : Ctl) (o : VOp)
  | fsat (c : Ctl) (o : VOp)
  | frnd (c : Ctl) (o : VOp)
  | lmask (c : Ctl) (o : VOp)
  | imad (c : Ctl) (o : VOp)
  | imulhiS (c : Ctl) (o : VOp)
  | imulhiU (c : Ctl) (o : VOp)
  | iadd3 (c : Ctl) (o : VOp)
  | lut3 (c : Ctl) (o : VOp)
  | lea (c : Ctl) (o : VOp)
  | iadd64 (c : Ctl) (o : VOp)
  | imad64 (c : Ctl) (o : VOp)
  | ishf (c : Ctl) (o : VOp)
  | smul (c : Ctl) (o : VOp)
  | sshl (c : Ctl) (o : VOp)
  | sshr (c : Ctl) (o : VOp)
  | sand (c : Ctl) (o : VOp)
  | sor (c : Ctl) (o : VOp)
  | sbfe (c : Ctl) (o : VOp)
  | smax (c : Ctl) (o : VOp)
  | bra (c : Ctl) (o : BraOp)
  | brx (c : Ctl) (o : BrxOp)
  | call (c : Ctl) (o : CallOp)
  | callx (c : Ctl) (o : CallOp)
  | ret (c : Ctl) (o : BrxOp)
  | ifp (c : Ctl) (o : IfpOp)
  | elsep (c : Ctl)
  | endifp (c : Ctl)
  | brk (c : Ctl) (o : BitVec 8)
  | cont (c : Ctl) (o : BitVec 8)
  | regang (c : Ctl) (o : BitVec 8)
  | regroup (c : Ctl) (o : RegroupOp)
  | vote (c : Ctl) (o : VOp)
  | shfl (c : Ctl) (o : VOp)
  | exit (c : Ctl)
  | yield (c : Ctl)
  | spinh (c : Ctl)
  | rdsr (c : Ctl) (o : SrOp)
  | wrsr (c : Ctl) (o : SrOp)
  | scbra (c : Ctl) (o : CBraOp)
  | prmt (c : Ctl) (o : VOp)
  | redux (c : Ctl) (o : VOp)
  | matchL (c : Ctl) (o : VOp)
  | smin (c : Ctl) (o : VOp)
  | ffma (c : Ctl) (o : VOp)
  | dadd (c : Ctl) (o : VOp)
  | dmul (c : Ctl) (o : VOp)
  | dfma (c : Ctl) (o : VOp)
  | dmin (c : Ctl) (o : VOp)
  | dmax (c : Ctl) (o : VOp)
  | dsetp (c : Ctl) (o : COp)
  | frnd64 (c : Ctl) (o : VOp)
  | frcp (c : Ctl) (o : VOp)
  | frsq (c : Ctl) (o : VOp)
  | fsqrt (c : Ctl) (o : VOp)
  | fexp2 (c : Ctl) (o : VOp)
  | flog2 (c : Ctl) (o : VOp)
  | fsin (c : Ctl) (o : VOp)
  | fcos (c : Ctl) (o : VOp)
  | ftanh (c : Ctl) (o : VOp)
  | hfma2 (c : Ctl) (o : VOp)
  | bfma2 (c : Ctl) (o : VOp)
  | f2f (c : Ctl) (o : VOp)
  | cvtfi (c : Ctl) (o : VOp)
  | cvtif (c : Ctl) (o : VOp)
  | f2e4 (c : Ctl) (o : VOp)
  | f2e5 (c : Ctl) (o : VOp)
  | e42f (c : Ctl) (o : VOp)
  | e52f (c : Ctl) (o : VOp)
  | qhist (c : Ctl) (o : MOp)
  | qscale (c : Ctl) (o : VOp)
  | qpack (c : Ctl) (o : VOp)
  | qunpk (c : Ctl) (o : VOp)
  | fclass (c : Ctl) (o : VOp)
  | fscale (c : Ctl) (o : VOp)
  | fdot2 (c : Ctl) (o : VOp)
  | idp4 (c : Ctl) (o : VOp)
  | fcopysign (c : Ctl) (o : VOp)
  | fredux (c : Ctl) (o : VOp)
  | dcvt (c : Ctl) (o : VOp)
  | ld (c : Ctl) (o : MOp)
  | st (c : Ctl) (o : MOp)
  | ldv (c : Ctl) (o : MOp)
  | stv (c : Ctl) (o : MOp)
  | ldc (c : Ctl) (o : MOp)
  | pref (c : Ctl) (o : MOp)
  | atom (c : Ctl) (o : MOp)
  | atomcas (c : Ctl) (o : MOp)
  | red (c : Ctl) (o : MOp)
  | atomv (c : Ctl) (o : MOp)
  | fence (c : Ctl) (o : FenceOp)
  | mark (c : Ctl) (o : Bool)
  | bar (c : Ctl) (o : BarOp)
  | binit (c : Ctl) (o : MOp)
  | bexp (c : Ctl) (o : MOp)
  | barv (c : Ctl) (o : MOp)
  | btest (c : Ctl) (o : MOp)
  | bret (c : Ctl) (o : MOp)
  | waitp (c : Ctl) (o : WaitpOp)
  | tlwait (c : Ctl) (o : TlOp)
  | tlread (c : Ctl) (o : TlOp)
  | cctlInv (c : Ctl) (o : MOp)
  | cctlInvl (c : Ctl) (o : MOp)
  | cctlEvict (c : Ctl) (o : MOp)
  | syncm (c : Ctl) (o : MOp)
  | ldx (c : Ctl) (o : MOp)
  | cpya (c : Ctl) (o : MOp)
  | stcw (c : Ctl) (o : MOp)
  | tladv (c : Ctl) (o : TlOp)
  | atom64 (c : Ctl) (o : MOp)
  | atomf (c : Ctl) (o : MOp)
  | probe (c : Ctl) (o : MOp)
  | tokq (c : Ctl) (o : MOp)
  | mcpredRd (c : Ctl) (o : MOp)
  | mcpredWr (c : Ctl) (o : MOp)
  | press (c : Ctl) (o : MOp)
  | ldnc (c : Ctl) (o : MOp)
  | stnc (c : Ctl) (o : MOp)
  | wbinv (c : Ctl) (o : MOp)
  | tload (c : Ctl) (o : CopyOp)
  | tstore (c : Ctl) (o : CopyOp)
  | tcopy (c : Ctl) (o : CopyOp)
  | tgath (c : Ctl) (o : CopyOp)
  | tscat (c : Ctl) (o : CopyOp)
  | creduce (c : Ctl) (o : CollOp)
  | cbcast (c : Ctl) (o : CollOp)
  | tfill (c : Ctl) (o : CopyOp)
  | tlsig (c : Ctl) (o : TlsigOp)
  | qadd (c : Ctl) (o : QaddOp)
  | qmovi (c : Ctl) (o : QmoviOp)
  | qld (c : Ctl) (o : MOp)
  | qbra (c : Ctl) (o : CBraOp)
  | qwaitEnd (c : Ctl)
  | qwaitUntil (c : Ctl) (o : BitVec 6)
  | mma (c : Ctl) (o : MmaOp)
  | mmas (c : Ctl) (o : MmaOp)
  | mmag (c : Ctl) (o : MmaOp)
  | mzero (c : Ctl) (o : TileOp)
  | mloadt (c : Ctl) (o : TileOp)
  | mstoret (c : Ctl) (o : TileOp)
  | mcvt (c : Ctl) (o : TileOp)
  | mcoop (c : Ctl) (o : BitVec 6)
  | msync (c : Ctl) (o : TileOp)
  | mtrans (c : Ctl) (o : TileOp)
  | maddt (c : Ctl) (o : TileOp)
  | mscale (c : Ctl) (o : TileOp)
  | mhist (c : Ctl) (o : TileOp)
  | mquant (c : Ctl) (o : TileOp)
  | mact (c : Ctl) (o : TileOp)
  | mrowred (c : Ctl) (o : TileOp)
  | mleaveGet (c : Ctl)
  | mleavePut (c : Ctl)
  | mfmt (c : Ctl) (o : BitVec 20)
  | sendui (c : Ctl) (o : SendOp)
  | uiret (c : Ctl)
  | uimaskWr (c : Ctl) (o : ZOp)
  | uimaskSet (c : Ctl) (o : ZOp)
  | uimaskClr (c : Ctl) (o : ZOp)
  | uimaskHnd (c : Ctl) (o : BitVec 20)
  | uipend (c : Ctl) (o : ZOp)
  | syscall (c : Ctl) (o : SyscallOp)
  | sysret (c : Ctl) (o : ZOp)
  | trapret (c : Ctl) (o : TrapretOp)
  | trapretFrz (c : Ctl) (o : Bool)
  | migr (c : Ctl) (o : MigrOp)
  | wlive (c : Ctl) (o : WliveOp)
  | launch (c : Ctl) (o : ZqOp)
  | emit (c : Ctl) (o : ZqOp)
  | kick (c : Ctl) (o : ZOp)
  | mapctlInv (c : Ctl) (o : ZOp)
  | mapctlInvall (c : Ctl) (o : ZOp)
  | mapctlHost (c : Ctl) (o : ZOp)
  | mapctlDev (c : Ctl) (o : ZOp)
  | decld (c : Ctl) (o : ZOp)
  | bkpt (c : Ctl) (o : BitVec 20)
  | sleepw (c : Ctl) (o : SleepwOp)
  | wheyArrival (core : Nat)
  | replicaAdvertisement
  | doorbell (host : Bool) (asid : Nat) (v : DWord)
  | hqRecordRead (die q : Nat)
  | entryGrant (die q : Nat)
  | launchPlacement (die : Nat)
  | unitSave (u : Nat)
  | forcedSave (u : Nat)
  | saveDrainTimeout (u : Nat)
  | unitRestore (u : Nat)
  | slotFiring (i : Nat)
  | nodeFlushTimeout (asid node : Nat)
  | blockRetirement (b : Nat)
  | launchCompletion (l : Nat)
  | accessCompletion (a : Nat)
  | engineOpBegin (b : Nat) (ctx : Ctx) (n : Nat)
  | engineOpCompletion (b : Nat) (ctx : Ctx) (n : Nat)
  | leaveGrant (die : Nat)
  | leaveExpiry (b : Nat) (ctx : Ctx)
  | sleepwWake (r : SliceRef)
  | hostUiSend (port : Nat) (pasid : BitVec 20) (data : BitVec 128)
  | uiDelivery (asid : Nat)
  | hostSyscallEnd (port : Nat) (pasid : BitVec 20) (data : BitVec 128)
  | transientRequest (m : ReqMsg)
  | transientTimeout (die sec : Nat)
  | tokenArrival (m : TokMsg)
  | writeBack (m : TokMsg)
  | pressRequest (m : PressReq)
  | pressActivation (agent : Nat) (m : PressReq)
  | pressDeactivation (sec : Nat) (src : Holder)
  | pressClear (agent sec : Nat)
  | hostSnoop (port sec : Nat) (kind : Snoop)
  | cxlMemAccess (pa : PortAddr) (req : BarReq)
  | kickNoticeArrival (n : Notice)
  | kickRetry (n : Notice)
  | copyEnginePull (core : Nat)
  | markerCopy (m : Marker)
  | markerCompletion (id dev : Nat)
  | vectorRead (p : VPkt)
  | vectorWrite (p : VPkt)
  | vectorAtomic (p : VPkt)
  | readResponse (rid : Nat) (data : List DWord)
  | writeAcceptance (rid : Nat) (code : BitVec 8)
  | atomicResponse (rid : Nat) (data : List DWord)
  | collectiveChunk (b : Nat) (n : Nat)
  | fabricRequestTimeout (rid : Nat)
  | turning (die : Nat)
  | linkReplay (l : LinkRef)
  | linkDown (l : LinkRef)
  | tokenRecreation (sec : Nat)
  | census (agent sec : Nat) (ser : BitVec 8)
  | routeWithdrawal (dev : Nat)
  | hostCompletion (tag : Nat) (st : HStat) (data : BitVec 128)
  | hostCompletionTimeout (tag : Nat)
  | handlerGangClose (die : Nat)
  | blockResume (b : Nat)
  | watchdog (b : Nat) (gang : Option Nat)
  | cxYreq (asid : Nat) (v : DWord)
  | cxHalt (asid : Nat) (v : DWord)
  | dvGtimeSet (v : DWord)
  | ppsPulse
  | dvLostClr (v : DWord)
  | ovfClear (r : RingRef)
  | errorCounterClear (r : DvReg)
  | registerWrite (r : RegTarget) (v : BitVec 256)
  | capWrite (cap : BitVec 2)
  | levelRise
  | boot (image : List Byte)
  | firmwarePush (image : List Byte)
  | supplyReplan
  | identityRead (off len : Nat)
  | getVersion
  | getCapabilities
  | negotiateAlgorithms
  | getDigests
  | getCertificate
  | challenge (nonce : List Byte)
  | getMeasurements
  | evacGo (v : DWord)
  | evacCopying
  | evacDraining
  | evacLatchFree
  | evacFailure (cause : BitVec 8)
  | emptyEntryWord (w : DWord)
  | mainSupplyLoss
  | linkUp (l : LinkRef)
  | rangeExport (base len t : Nat) (devs : List Nat)
  | tokenMessageExpiry (m : TokMsg)
  | qwaitDeadline (b : Nat)
  | peerSend (dev asid : Nat) (target : Nat) (v : BitVec 6) (p : DWord)
  | barMemoryAccess (port pa : Nat) (req : BarReq)
  | goDataResponse (port sec : Nat) (st : CxlState) (data : Option Sector)
  | pressAcknowledgement (agent sec : Nat) (act : Bool)
  | pageWalkEnd (die asid page : Nat)
  deriving DecidableEq, Repr

end Sys2Proof
end

