-- ==== Sys2Proof/Machine/OpTable.lean ====
section
/-! DEFINITION. The operations of opcode map 3 as a table (R248 to R256): for each the fields of its
word, its types and modifiers, its latency class, its pipes, the streams that may issue it and its
privilege; and the link between a constructor of `Instr`, its code and its operands. -/

namespace Sys2Proof

/-- How an immediate is read: the class of the operation (R223). -/
inductive ImmClass where
  | none | int | f32 | f64 | pk | f2f
  deriving DecidableEq, Repr, Inhabited

/-- The class under a type: F2F reads its immediate by its source format (R223). -/
def ImmClass.of (k : ImmClass) (ty : Ty) : ImmClass :=
  match k with
  | .f2f => if ty == .dflt || ty == .f32 then .f64 else .f32
  | k => k

/-- What a register field names (R224, R248): nothing, a vector register or pair, eight vector
registers, a scalar or pair, a predicate, a select predicate, the destination of a comparison, a
uniform register; and four uses that depend on another field or on the stream. `pairIf` lists the types under which the
field names a pair. -/
inductive FU where
  | no | v (pairIf : List Ty) | v8 | s (pairIf : List Ty) | p | pk | cmp | q
  | vcas | vbar | x2 | x1
  deriving DecidableEq, Repr, Inhabited

/-- A field of M[19:8] that is the operation's own, with its largest value (R262). -/
inductive Own where
  | no | lut | mode (max : Nat)
  deriving DecidableEq, Repr, Inhabited

/-- The pipes a full word occupies (R16). -/
inductive Pipe where
  | none | one | both1 | both2 | sfu
  deriving DecidableEq, Repr, Inhabited

/-- The layouts of operand fields. -/
inductive Kind where
  | v | cmp | pred | mem | k0 | bra | brx | call | callx | ret | scbra | ifp | n8 | regroup | sr | fence
  | flag | bar | waitp | tl | copy | coll | tlsig | qadd | qmovi | qbra | q1 | mma | tile | n20 | sendui | z
  | syscall | trapret | migr | wlive | zq | sleepw
  deriving DecidableEq, Repr, Inhabited

/-- One row of opcode map 3 (R248 to R257). -/
structure OpInfo where
  code : Nat
  sub : Nat := 0
  kind : Kind
  d : FU := .no
  a : FU := .no
  b : FU := .no
  c : FU := .no
  one : Bool := false
  imm : ImmClass := .none
  himm : ImmClass := .none
  types : List Ty := [.dflt]
  rnd : Bool := false
  sat : Bool := false
  x : Bool := false
  x64 : Bool := false
  own : Own := .no
  bf : Bool := false
  ords : List Order := [.rlx]
  ys : List Nat := [0]
  sx : Bool := false
  at' : Bool := false
  atf : Bool := false
  nooff : Bool := false
  noimm : Bool := false
  max : Nat := 255
  lat : Nat := 0
  pipe : Pipe := .none
  lane : Bool := true
  unif : Bool := false
  priv : Bool := false
  deriving DecidableEq, Repr, Inhabited

/-- The operands of an instruction, whatever its constructor. -/
inductive Body where
  | v (o : VOp) | cmp (o : COp) | pred (o : POp) | mem (o : MOp) | k0 | bra (o : BraOp) | brx (o : BrxOp)
  | call (o : CallOp) | cbra (o : CBraOp) | ifp (o : IfpOp) | n8 (n : BitVec 8) | regroup (o : RegroupOp)
  | sr (o : SrOp) | fence (o : FenceOp) | flag (b : Bool) | bar (o : BarOp) | waitp (o : WaitpOp) | tl (o : TlOp)
  | copy (o : CopyOp) | coll (o : CollOp) | tlsig (o : TlsigOp) | qadd (o : QaddOp) | qmovi (o : QmoviOp)
  | q1 (a : BitVec 6) | mma (o : MmaOp) | tile (o : TileOp) | n20 (n : BitVec 20) | sendui (o : SendOp)
  | z (o : ZOp) | syscall (o : SyscallOp) | trapret (o : TrapretOp) | migr (o : MigrOp) | wlive (o : WliveOp)
  | zq (o : ZqOp) | sleepw (o : SleepwOp)
  deriving DecidableEq, Repr

/-- A type that a pair is always named under. -/
def tyAll : List Ty :=
  [.dflt, .s32, .u32, .w64, .f32, .f16, .bf16, .e4, .e5, .db8, .db6, .db4]

/-- Rows of the table, part 1. -/
def opRows1 : List OpInfo := [
  { code := 0x000, kind := .v, d := .v [], a := .v [], b := .v [], imm := .int, himm := .int, types := [.dflt, .s32, .u32], sat := true, lat := 4, pipe := .one },
  { code := 0x001, kind := .v, d := .v [], a := .v [], b := .v [], imm := .int, himm := .int, types := [.dflt, .s32, .u32], sat := true, lat := 4, pipe := .one },
  { code := 0x002, kind := .v, d := .v [], a := .v [], b := .v [], imm := .int, himm := .int, types := [.dflt, .s32, .u32], sat := true, lat := 4, pipe := .one },
  { code := 0x003, kind := .v, d := .v [], a := .v [], b := .v [], imm := .int, himm := .int, lat := 4, pipe := .one },
  { code := 0x004, kind := .v, d := .v [], a := .v [], b := .v [], imm := .int, himm := .int, lat := 4, pipe := .one },
  { code := 0x005, kind := .v, d := .v [], a := .v [], b := .v [], imm := .int, himm := .int, lat := 4, pipe := .one },
  { code := 0x006, kind := .v, d := .v [], a := .v [], b := .v [], imm := .int, himm := .int, lat := 4, pipe := .one },
  { code := 0x007, kind := .v, d := .v [], b := .v [], one := true, himm := .int, types := [.dflt, .s32, .u32], sat := true, lat := 4, pipe := .one },
  { code := 0x008, kind := .v, d := .v [], a := .v [], b := .v [], imm := .int, himm := .int, types := [.dflt, .s32, .u32], lat := 4, pipe := .one },
  { code := 0x009, kind := .v, d := .v [], a := .v [], b := .v [], imm := .int, himm := .int, types := [.dflt, .s32, .u32], lat := 4, pipe := .one },
  { code := 0x00A, kind := .v, d := .v [], a := .v [], b := .v [], imm := .int, himm := .int, types := [.dflt, .s32, .u32], lat := 4, pipe := .one },
  { code := 0x00B, kind := .v, d := .v [], a := .v [], b := .v [], imm := .int, himm := .int, types := [.dflt, .s32, .u32], lat := 4, pipe := .one },
  { code := 0x00C, kind := .v, d := .v [], a := .v [], b := .v [], imm := .int, himm := .int, types := [.dflt, .s32, .u32], lat := 4, pipe := .one },
  { code := 0x00D, kind := .v, d := .v [], a := .v [], b := .v [], imm := .int, himm := .int, types := [.dflt, .s32, .u32], lat := 4, pipe := .one },
  { code := 0x00E, kind := .v, d := .v [], a := .v [], b := .v [], imm := .int, himm := .int, types := [.dflt, .s32, .u32], lat := 4, pipe := .one },
  { code := 0x00F, kind := .v, d := .v [], a := .v [], b := .v [], imm := .int, himm := .int, types := [.dflt, .s32, .u32], lat := 4, pipe := .one },
  { code := 0x010, kind := .v, d := .v [], b := .v [], one := true, himm := .int, types := [.dflt, .s32, .u32], lat := 4, pipe := .one },
  { code := 0x011, kind := .v, d := .v [], b := .v [], one := true, himm := .int, types := [.dflt, .s32, .u32], lat := 4, pipe := .one },
  { code := 0x012, kind := .v, d := .v [], b := .v [], one := true, himm := .int, types := [.dflt, .s32, .u32], lat := 4, pipe := .one },
  { code := 0x013, kind := .v, d := .v [], b := .v [], imm := .int, himm := .int, types := [.dflt, .s32, .u32], lat := 4, pipe := .one },
  { code := 0x014, kind := .v, d := .v [], a := .v [], b := .v [], imm := .int, himm := .int, types := [.dflt, .s32, .u32], lat := 4, pipe := .one },
  { code := 0x015, kind := .v, d := .v [], a := .v [], b := .v [], c := .pk, imm := .int, himm := .int, types := [.dflt, .s32, .u32], x := true, lat := 4, pipe := .one },
  { code := 0x016, kind := .cmp, d := .cmp, a := .v [], b := .v [], imm := .int, himm := .int, types := [.dflt, .s32], lat := 4, pipe := .one },
  { code := 0x017, kind := .v, d := .v [], a := .v [], b := .v [], imm := .int, himm := .int, types := [.dflt, .s32, .u32], x := true, lat := 4, pipe := .one },
  { code := 0x018, kind := .v, d := .v [], a := .v [], b := .v [], imm := .f32, himm := .f32, types := [.dflt, .f32], rnd := true, sat := true, lat := 4, pipe := .one },
  { code := 0x019, kind := .v, d := .v [], a := .v [], b := .v [], imm := .f32, himm := .f32, types := [.dflt, .f32], rnd := true, sat := true, lat := 4, pipe := .one },
  { code := 0x01A, kind := .v, d := .v [], a := .v [], b := .v [], imm := .f32, himm := .f32, types := [.dflt, .f32], rnd := true, sat := true, lat := 4, pipe := .one },
  { code := 0x01B, kind := .v, d := .v [], a := .v [], b := .v [], imm := .f32, himm := .f32, types := [.dflt, .f32], lat := 4, pipe := .one },
  { code := 0x01C, kind := .v, d := .v [], a := .v [], b := .v [], imm := .f32, himm := .f32, types := [.dflt, .f32], lat := 4, pipe := .one },
  { code := 0x01D, kind := .cmp, d := .cmp, a := .v [], b := .v [], imm := .f32, himm := .f32, types := [.dflt, .f32], lat := 4, pipe := .one }]

/-- Rows of the table, part 2. -/
def opRows2 : List OpInfo := [
  { code := 0x01E, kind := .v, d := .v [], b := .v [], one := true, himm := .f32, types := [.dflt, .f32], lat := 4, pipe := .one },
  { code := 0x01F, kind := .v, d := .v [], b := .v [], one := true, himm := .f32, types := [.dflt, .f32], lat := 4, pipe := .one },
  { code := 0x020, kind := .v, d := .v [], a := .v [], b := .v [], imm := .pk, himm := .pk, rnd := true, sat := true, lat := 4, pipe := .one },
  { code := 0x021, kind := .v, d := .v [], a := .v [], b := .v [], imm := .pk, himm := .pk, rnd := true, sat := true, lat := 4, pipe := .one },
  { code := 0x022, kind := .v, d := .v [], a := .v [], b := .v [], imm := .pk, himm := .pk, rnd := true, sat := true, lat := 4, pipe := .one },
  { code := 0x023, kind := .v, d := .v [], a := .v [], b := .v [], imm := .pk, himm := .pk, rnd := true, sat := true, lat := 4, pipe := .one },
  { code := 0x024, kind := .v, d := .v [], a := .v [], b := .v [], imm := .pk, himm := .pk, types := [.dflt, .f16, .bf16], lat := 4, pipe := .one },
  { code := 0x025, kind := .v, d := .v [], a := .v [], b := .v [], imm := .pk, himm := .pk, types := [.dflt, .f16, .bf16], lat := 4, pipe := .one },
  { code := 0x026, kind := .pred, d := .p, a := .p, b := .p, lat := 4, pipe := .one },
  { code := 0x027, kind := .pred, d := .p, a := .p, b := .p, lat := 4, pipe := .one },
  { code := 0x028, kind := .pred, d := .p, a := .p, b := .p, lat := 4, pipe := .one },
  { code := 0x029, kind := .pred, d := .p, b := .p, one := true, lat := 4, pipe := .one },
  { code := 0x02A, kind := .pred, d := .p, b := .p, one := true, lat := 4, pipe := .one },
  { code := 0x02B, kind := .v, d := .s [], a := .s [], b := .s [], imm := .int, himm := .int, types := [.dflt, .s32, .u32], sat := true, lat := 2 },
  { code := 0x02C, kind := .v, d := .s [], a := .s [], b := .s [], imm := .int, himm := .int, types := [.dflt, .s32, .u32], sat := true, lat := 2 },
  { code := 0x02D, kind := .v, d := .s [], b := .s [], imm := .int, himm := .int, types := [.dflt, .s32, .u32], lat := 2 },
  { code := 0x02E, kind := .v, d := .s [], a := .s [], b := .s [], imm := .int, himm := .int, types := [.dflt, .s32, .u32], lat := 2 },
  { code := 0x02F, kind := .cmp, d := .cmp, a := .s [], b := .s [], imm := .int, himm := .int, types := [.dflt, .s32, .u32], lat := 2 },
  { code := 0x030, kind := .v, d := .v [], a := .v [], b := .v [], imm := .int, himm := .int, types := [.dflt, .s32, .u32], lat := 6, pipe := .one },
  { code := 0x031, kind := .v, d := .v [], a := .v [], b := .v [], imm := .int, himm := .int, types := [.dflt, .s32, .u32], lat := 6, pipe := .one },
  { code := 0x032, kind := .v, d := .v [], b := .v [], one := true, imm := .int, himm := .int, types := [.dflt, .s32, .u32], rnd := true, lat := 6, pipe := .one },
  { code := 0x033, kind := .v, d := .v [], b := .v [], one := true, imm := .f32, himm := .f32, types := [.dflt, .s32, .u32], rnd := true, lat := 6, pipe := .one },
  { code := 0x034, kind := .v, d := .v [], b := .v [], one := true, imm := .f32, himm := .f32, rnd := true, sat := true, x := true, lat := 6, pipe := .one },
  { code := 0x035, kind := .v, d := .v [], b := .v [], one := true, imm := .pk, himm := .pk, x := true, lat := 6, pipe := .one },
  { code := 0x036, kind := .v, d := .v [], b := .v [], one := true, imm := .f32, himm := .f32, rnd := true, sat := true, x := true, lat := 6, pipe := .one },
  { code := 0x037, kind := .v, d := .v [], b := .v [], one := true, imm := .pk, himm := .pk, x := true, lat := 6, pipe := .one },
  { code := 0x038, kind := .k0 },
  { code := 0x039, kind := .v, d := .v [], a := .v [], b := .v [], imm := .int, himm := .int, types := [.dflt, .s32, .u32], lat := 4, pipe := .one },
  { code := 0x03A, kind := .v, d := .v [], a := .v [], b := .v [], imm := .int, himm := .int, types := [.dflt, .s32, .u32], lat := 4, pipe := .one },
  { code := 0x03B, kind := .v, d := .v [], a := .v [], b := .v [], imm := .int, himm := .int, types := [.dflt, .s32, .u32], bf := true, lat := 4, pipe := .one }]

/-- Rows of the table, part 3. -/
def opRows3 : List OpInfo := [
  { code := 0x03C, kind := .v, d := .v [], a := .v [], b := .v [], c := .v [], imm := .int, himm := .int, types := [.dflt, .s32, .u32], bf := true, lat := 4, pipe := .one },
  { code := 0x03D, kind := .v, d := .v [], b := .v [], one := true, himm := .f32, types := [.dflt, .f32], lat := 4, pipe := .one },
  { code := 0x03E, kind := .v, d := .v [], b := .v [], one := true, himm := .f32, types := [.dflt, .f32], rnd := true, lat := 4, pipe := .one },
  { code := 0x03F, kind := .v, d := .v [], b := .v [], imm := .int, himm := .int, types := [.dflt, .s32, .u32], lat := 4, pipe := .one },
  { code := 0x080, kind := .v, d := .v [], a := .v [], b := .v [], c := .v [], imm := .int, types := [.dflt, .s32, .u32], sat := true, lat := 4, pipe := .one },
  { code := 0x081, kind := .v, d := .v [], a := .v [], b := .v [], imm := .int, lat := 4, pipe := .one },
  { code := 0x082, kind := .v, d := .v [], a := .v [], b := .v [], imm := .int, lat := 4, pipe := .one },
  { code := 0x083, kind := .v, d := .v [], a := .v [], b := .v [], c := .v [], imm := .int, types := [.dflt, .s32, .u32], sat := true, lat := 4, pipe := .one },
  { code := 0x084, kind := .v, d := .v [], a := .v [], b := .v [], c := .v [], own := .lut, lat := 4, pipe := .one },
  { code := 0x085, kind := .v, d := .v [], a := .v [], b := .v [], imm := .int, types := [.dflt, .s32, .u32], own := .mode 7, lat := 4, pipe := .one },
  { code := 0x086, kind := .v, d := .v tyAll, a := .v tyAll, b := .v tyAll, imm := .int, types := [.dflt, .s32, .u32], sat := true, lat := 8, pipe := .both2 },
  { code := 0x087, kind := .v, d := .v tyAll, a := .v [], b := .v [], c := .v tyAll, imm := .int, types := [.dflt, .s32, .u32], sat := true, lat := 8, pipe := .both2 },
  { code := 0x088, kind := .v, d := .v [], a := .v [], b := .v [], c := .v [], imm := .int, types := [.dflt, .s32, .u32], x := true, lat := 4, pipe := .one },
  { code := 0x089, kind := .v, d := .s [], a := .s [], b := .s [], imm := .int, types := [.dflt, .s32, .u32], sat := true, lat := 2 },
  { code := 0x08A, kind := .v, d := .s [], a := .s [], b := .s [], imm := .int, types := [.dflt, .s32, .u32], lat := 2 },
  { code := 0x08B, kind := .v, d := .s [], a := .s [], b := .s [], imm := .int, types := [.dflt, .s32, .u32], lat := 2 },
  { code := 0x08C, kind := .v, d := .s [], a := .s [], b := .s [], imm := .int, types := [.dflt, .s32, .u32], lat := 2 },
  { code := 0x08D, kind := .v, d := .s [], a := .s [], b := .s [], imm := .int, types := [.dflt, .s32, .u32], lat := 2 },
  { code := 0x08E, kind := .v, d := .s [], a := .s [], b := .s [], imm := .int, types := [.dflt, .s32, .u32], lat := 2 },
  { code := 0x08F, kind := .v, d := .s [], a := .s [], b := .s [], imm := .int, types := [.dflt, .s32, .u32], lat := 2 },
  { code := 0x090, kind := .bra },
  { code := 0x091, kind := .brx },
  { code := 0x092, kind := .call },
  { code := 0x093, kind := .callx },
  { code := 0x094, kind := .ret },
  { code := 0x095, kind := .ifp },
  { code := 0x096, kind := .k0 },
  { code := 0x097, kind := .k0 },
  { code := 0x098, kind := .n8, max := 253 },
  { code := 0x099, kind := .n8, max := 254 }]

/-- Rows of the table, part 4. -/
def opRows4 : List OpInfo := [
  { code := 0x09A, kind := .n8 },
  { code := 0x09B, kind := .regroup },
  { code := 0x09C, kind := .v, d := .v [], a := .pk, types := [.dflt, .s32, .u32], x := true, own := .mode 3, lat := 6, pipe := .one },
  { code := 0x09D, kind := .v, d := .v [], a := .v [], b := .v [], imm := .int, types := [.dflt, .s32, .u32], own := .mode 3, lat := 6, pipe := .one },
  { code := 0x09E, kind := .k0 },
  { code := 0x09F, kind := .k0 },
  { code := 0x0A0, kind := .k0 },
  { code := 0x0A1, kind := .sr },
  { code := 0x0A2, kind := .sr },
  { code := 0x0A3, kind := .scbra },
  { code := 0x0A4, kind := .v, d := .v [], a := .v [], b := .v [], c := .v [], imm := .int, types := [.dflt, .s32, .u32], lat := 4, pipe := .one },
  { code := 0x0A5, kind := .v, d := .v [], b := .v [], one := true, types := [.dflt, .s32, .u32], own := .mode 7, lat := 6, pipe := .one },
  { code := 0x0A6, kind := .v, d := .v [], b := .v [], one := true, types := [.dflt, .s32, .u32], own := .mode 1, lat := 6, pipe := .one },
  { code := 0x0A7, kind := .v, d := .s [], a := .s [], b := .s [], imm := .int, types := [.dflt, .s32, .u32], lat := 2 },
  { code := 0x100, kind := .v, d := .v [], a := .v [], b := .v [], c := .v [], imm := .f32, types := [.dflt, .f32], rnd := true, sat := true, lat := 4, pipe := .one },
  { code := 0x101, kind := .v, d := .v tyAll, a := .v tyAll, b := .v tyAll, imm := .f64, types := [.dflt, .w64], rnd := true, sat := true, lat := 8, pipe := .both2 },
  { code := 0x102, kind := .v, d := .v tyAll, a := .v tyAll, b := .v tyAll, imm := .f64, types := [.dflt, .w64], rnd := true, sat := true, lat := 8, pipe := .both2 },
  { code := 0x103, kind := .v, d := .v tyAll, a := .v tyAll, b := .v tyAll, c := .v tyAll, imm := .f64, types := [.dflt, .w64], rnd := true, sat := true, lat := 8, pipe := .both2 },
  { code := 0x104, kind := .v, d := .v tyAll, a := .v tyAll, b := .v tyAll, imm := .f64, types := [.dflt, .w64], lat := 8, pipe := .both2 },
  { code := 0x105, kind := .v, d := .v tyAll, a := .v tyAll, b := .v tyAll, imm := .f64, types := [.dflt, .w64], lat := 8, pipe := .both2 },
  { code := 0x106, kind := .cmp, d := .cmp, a := .v tyAll, b := .v tyAll, imm := .f64, types := [.dflt, .w64], lat := 8, pipe := .both2 },
  { code := 0x107, kind := .v, d := .v tyAll, b := .v tyAll, one := true, rnd := true, lat := 8, pipe := .both2 },
  { code := 0x108, kind := .v, d := .v [], b := .v [], one := true, types := [.dflt, .f32], lat := 12, pipe := .sfu },
  { code := 0x109, kind := .v, d := .v [], b := .v [], one := true, types := [.dflt, .f32], lat := 12, pipe := .sfu },
  { code := 0x10A, kind := .v, d := .v [], b := .v [], one := true, types := [.dflt, .f32], rnd := true, lat := 12, pipe := .sfu },
  { code := 0x10B, kind := .v, d := .v [], b := .v [], one := true, types := [.dflt, .f32], lat := 12, pipe := .sfu },
  { code := 0x10C, kind := .v, d := .v [], b := .v [], one := true, types := [.dflt, .f32], lat := 12, pipe := .sfu },
  { code := 0x10D, kind := .v, d := .v [], b := .v [], one := true, types := [.dflt, .f32], lat := 12, pipe := .sfu },
  { code := 0x10E, kind := .v, d := .v [], b := .v [], one := true, types := [.dflt, .f32], lat := 12, pipe := .sfu },
  { code := 0x10F, kind := .v, d := .v [], b := .v [], one := true, types := [.dflt, .f32], lat := 12, pipe := .sfu }]

/-- Rows of the table, part 5. -/
def opRows5 : List OpInfo := [
  { code := 0x110, kind := .v, d := .v [], a := .v [], b := .v [], c := .v [], imm := .pk, rnd := true, sat := true, lat := 4, pipe := .one },
  { code := 0x111, kind := .v, d := .v [], a := .v [], b := .v [], c := .v [], imm := .pk, rnd := true, sat := true, lat := 4, pipe := .one },
  { code := 0x112, kind := .v, d := .v [.w64], b := .v [.dflt, .f32, .f16, .bf16], one := true, imm := .f2f, types := [.dflt, .f32, .w64, .f16, .bf16], rnd := true, sat := true, lat := 6, pipe := .one },
  { code := 0x113, kind := .v, d := .v [.w64], b := .v tyAll, one := true, imm := .f64, types := [.dflt, .s32, .u32, .w64], rnd := true, x64 := true, lat := 6, pipe := .one },
  { code := 0x114, kind := .v, d := .v tyAll, b := .v [.w64], one := true, imm := .int, types := [.dflt, .s32, .u32, .w64], rnd := true, x64 := true, lat := 6, pipe := .one },
  { code := 0x115, kind := .v, d := .v [], a := .v [], b := .v [], imm := .f32, rnd := true, sat := true, x := true, lat := 6, pipe := .one },
  { code := 0x116, kind := .v, d := .v [], a := .v [], b := .v [], imm := .f32, rnd := true, sat := true, x := true, lat := 6, pipe := .one },
  { code := 0x117, kind := .v, d := .v tyAll, b := .v [], one := true, imm := .int, x := true, lat := 6, pipe := .one },
  { code := 0x118, kind := .v, d := .v tyAll, b := .v [], one := true, imm := .int, x := true, lat := 6, pipe := .one },
  { code := 0x119, kind := .mem, d := .v [], a := .v [], types := [.dflt, .f32] },
  { code := 0x11A, kind := .v, d := .v [], a := .v8, b := .v [], imm := .int, lat := 6, pipe := .one },
  { code := 0x11B, kind := .v, d := .v [], a := .v [], b := .v [], imm := .int, types := [.db8, .db6, .db4], lat := 6, pipe := .one },
  { code := 0x11C, kind := .v, d := .v [], a := .v tyAll, b := .v [], imm := .int, types := [.db8, .db6, .db4], lat := 6, pipe := .one },
  { code := 0x11D, kind := .v, d := .v [], b := .v [], one := true, types := [.dflt, .f32, .f16, .bf16], lat := 4, pipe := .one },
  { code := 0x11E, kind := .v, d := .v [], a := .v [], b := .v [], imm := .int, types := [.dflt, .f32], rnd := true, sat := true, lat := 4, pipe := .one },
  { code := 0x11F, kind := .v, d := .v [], a := .v [.dflt, .f32], b := .v [.dflt, .f32], c := .v [], types := [.dflt, .f32, .f16, .bf16], rnd := true, sat := true, lat := 4, pipe := .both1 },
  { code := 0x120, kind := .v, d := .v [], a := .v [], b := .v [], c := .v [], imm := .int, types := [.dflt, .s32, .u32], sat := true, x := true, lat := 4, pipe := .both1 },
  { code := 0x121, kind := .v, d := .v [], a := .v [], b := .v [], imm := .f32, types := [.dflt, .f32], lat := 4, pipe := .one },
  { code := 0x122, kind := .v, d := .v [.w64], b := .v [.w64], one := true, types := [.dflt, .f32, .w64], own := .mode 2, lat := 6, pipe := .one },
  { code := 0x123, kind := .v, d := .v [], b := .v tyAll, one := true, imm := .f64, types := [.dflt, .f16, .bf16], rnd := true, sat := true, x := true, lat := 6, pipe := .one },
  { code := 0x180, kind := .mem, d := .v [.w64], a := .v tyAll, types := [.dflt, .s32, .u32, .w64, .f32, .f16, .bf16, .e4, .e5], sx := true, ords := [.rlx, .acq] },
  { code := 0x181, kind := .mem, d := .v [.w64], a := .v tyAll, types := [.dflt, .s32, .u32, .w64, .f32, .f16, .bf16, .e4, .e5], ords := [.rlx, .rel] },
  { code := 0x182, kind := .mem, d := .v [.w64], a := .v [], types := [.dflt, .s32, .u32, .w64, .f32, .f16, .bf16, .e4, .e5], sx := true, ords := [.rlx, .acq] },
  { code := 0x183, kind := .mem, d := .v [.w64], a := .v [], types := [.dflt, .s32, .u32, .w64, .f32, .f16, .bf16, .e4, .e5], ords := [.rlx, .rel] },
  { code := 0x184, kind := .mem, d := .s [.w64], a := .s tyAll, types := [.dflt, .w64], ords := [.rlx, .acq] },
  { code := 0x185, kind := .mem, a := .v tyAll, ys := [0, 1] },
  { code := 0x186, kind := .mem, d := .v [], a := .v tyAll, c := .v [], types := [.dflt, .u32, .s32], at' := true, ords := [.rlx, .acq, .rel, .ar], ys := [0, 1, 2, 3, 4, 5, 6, 7] },
  { code := 0x187, kind := .mem, d := .v [.w64], a := .vcas, c := .v [.w64], types := [.dflt, .u32, .w64], noimm := true, ords := [.rlx, .acq, .rel, .ar], ys := [0, 1] },
  { code := 0x188, kind := .mem, a := .v tyAll, c := .v [.w64], types := [.dflt, .u32, .s32, .w64], at' := true, ords := [.rlx, .rel], ys := [0, 1, 2, 3, 4, 5, 6, 7] },
  { code := 0x189, kind := .mem, d := .v [], a := .v [], c := .v [], types := [.dflt, .u32, .s32], at' := true, ords := [.rlx, .acq, .rel, .ar], ys := [0, 1, 2, 3, 4, 5, 6, 7] }]

/-- Rows of the table, part 6. -/
def opRows6 : List OpInfo := [
  { code := 0x18A, kind := .fence, unif := true },
  { code := 0x18B, kind := .flag },
  { code := 0x18C, kind := .bar, unif := true },
  { code := 0x18D, kind := .mem, d := .v [], a := .v [], nooff := true, noimm := true },
  { code := 0x18E, kind := .mem, d := .v [], a := .v [], nooff := true, noimm := true, ys := [0, 1] },
  { code := 0x18F, kind := .mem, a := .v [], nooff := true, noimm := true },
  { code := 0x190, kind := .mem, d := .v [], a := .v [], c := .v [], nooff := true, noimm := true, ys := [0, 1] },
  { code := 0x191, kind := .mem, a := .v [], nooff := true, noimm := true },
  { code := 0x192, kind := .waitp },
  { code := 0x193, kind := .tl, unif := true },
  { code := 0x194, kind := .tl, unif := true },
  { code := 0x195, kind := .mem, nooff := true },
  { code := 0x195, sub := 1, kind := .mem, a := .v tyAll, nooff := true, noimm := true, ys := [1] },
  { code := 0x195, sub := 2, kind := .mem, a := .v tyAll, nooff := true, noimm := true, ys := [2] },
  { code := 0x196, kind := .mem, d := .v [], nooff := true },
  { code := 0x197, kind := .mem, d := .v [.w64], a := .v [], c := .v tyAll, types := [.dflt, .w64], nooff := true, noimm := true },
  { code := 0x198, kind := .mem, d := .v [], a := .v tyAll, c := .vbar, ys := [0, 1, 2, 4, 5, 6] },
  { code := 0x199, kind := .mem, d := .x2, a := .x2, c := .x1, noimm := true, ords := [.rel], ys := [0, 1], unif := true },
  { code := 0x19A, kind := .tl },
  { code := 0x19B, kind := .mem, d := .v tyAll, a := .v tyAll, c := .v tyAll, types := [.dflt, .u32, .s32], at' := true, ords := [.rlx, .acq, .rel, .ar], ys := [0, 1, 2, 3, 4, 5, 6, 7] },
  { code := 0x19C, kind := .mem, d := .v [.w64], a := .v tyAll, c := .v [.w64], types := [.dflt, .f32, .w64, .f16, .bf16], atf := true, at' := true, ords := [.rlx, .acq, .rel, .ar], ys := [0, 1, 2, 3] },
  { code := 0x19D, kind := .mem, d := .v tyAll, a := .v tyAll },
  { code := 0x19E, kind := .mem, d := .v [], a := .v tyAll, c := .v [] },
  { code := 0x19F, kind := .mem, d := .v [], a := .v tyAll },
  { code := 0x19F, sub := 1, kind := .mem, d := .v [], a := .v tyAll, ys := [1] },
  { code := 0x1A0, kind := .mem, a := .v tyAll, ys := [0, 1] },
  { code := 0x1A1, kind := .mem, d := .v [.w64], a := .v tyAll, types := [.dflt, .s32, .u32, .w64, .f32, .f16, .bf16, .e4, .e5], sx := true, ords := [.rlx, .acq] },
  { code := 0x1A2, kind := .mem, d := .v [.w64], a := .v tyAll, types := [.dflt, .s32, .u32, .w64, .f32, .f16, .bf16, .e4, .e5], ords := [.rlx, .rel] },
  { code := 0x1A3, kind := .mem, a := .v tyAll },
  { code := 0x200, kind := .copy, unif := true, lane := false }]

/-- Rows of the table, part 7. -/
def opRows7 : List OpInfo := [
  { code := 0x201, kind := .copy, unif := true, lane := false },
  { code := 0x202, kind := .copy, unif := true, lane := false },
  { code := 0x203, kind := .copy, unif := true, lane := false },
  { code := 0x204, kind := .copy, unif := true, lane := false },
  { code := 0x205, kind := .coll, unif := true, lane := false },
  { code := 0x206, kind := .coll, unif := true, lane := false },
  { code := 0x207, kind := .copy, unif := true, lane := false },
  { code := 0x208, kind := .tlsig, unif := true, lane := false },
  { code := 0x209, kind := .qadd, lat := 2, unif := true, lane := false },
  { code := 0x20A, kind := .qmovi, lat := 2, unif := true, lane := false },
  { code := 0x20B, kind := .mem, d := .q, a := .q, types := [.dflt, .w64], ords := [.rlx, .acq], ys := [0, 1], unif := true, lane := false },
  { code := 0x20C, kind := .qbra, unif := true, lane := false },
  { code := 0x20D, kind := .k0, unif := true, lane := false },
  { code := 0x20D, sub := 1, kind := .q1, unif := true, lane := false },
  { code := 0x240, kind := .mma, unif := true, lane := false },
  { code := 0x241, kind := .mma, unif := true, lane := false },
  { code := 0x242, kind := .mma, unif := true, lane := false },
  { code := 0x243, kind := .tile, unif := true, lane := false },
  { code := 0x244, kind := .tile, unif := true, lane := false },
  { code := 0x245, kind := .tile, unif := true, lane := false },
  { code := 0x246, kind := .tile, unif := true, lane := false },
  { code := 0x247, kind := .q1, unif := true, lane := false },
  { code := 0x248, kind := .tile, unif := true, lane := false },
  { code := 0x249, kind := .tile, unif := true, lane := false },
  { code := 0x24A, kind := .tile, unif := true, lane := false },
  { code := 0x24B, kind := .tile, unif := true, lane := false },
  { code := 0x24C, kind := .tile, unif := true, lane := false },
  { code := 0x24D, kind := .tile, unif := true, lane := false },
  { code := 0x24E, kind := .tile, unif := true, lane := false },
  { code := 0x24F, kind := .tile, unif := true, lane := false }]

/-- Rows of the table, part 8. -/
def opRows8 : List OpInfo := [
  { code := 0x250, sub := 1, kind := .k0, unif := true, lane := false },
  { code := 0x250, kind := .k0, unif := true, lane := false },
  { code := 0x251, kind := .n20, unif := true, lane := false },
  { code := 0x280, kind := .sendui },
  { code := 0x281, kind := .k0 },
  { code := 0x282, kind := .z },
  { code := 0x282, sub := 1, kind := .z },
  { code := 0x282, sub := 2, kind := .z },
  { code := 0x282, sub := 3, kind := .n20 },
  { code := 0x283, kind := .z },
  { code := 0x284, kind := .syscall },
  { code := 0x285, kind := .z, priv := true },
  { code := 0x286, kind := .trapret, priv := true },
  { code := 0x286, sub := 1, kind := .flag, priv := true },
  { code := 0x287, kind := .migr },
  { code := 0x288, kind := .wlive },
  { code := 0x289, kind := .zq, unif := true },
  { code := 0x28A, kind := .zq, unif := true },
  { code := 0x28B, kind := .z, unif := true },
  { code := 0x28C, kind := .z, priv := true },
  { code := 0x28C, sub := 1, kind := .z, priv := true },
  { code := 0x28C, sub := 2, kind := .z, priv := true },
  { code := 0x28C, sub := 3, kind := .z, priv := true },
  { code := 0x28D, kind := .z, priv := true },
  { code := 0x28E, kind := .n20 },
  { code := 0x28F, kind := .sleepw }]

/-- Opcode map 3 (R251 to R257). DESIGN CHOICE (entry 6): of the two rows of R16 that fit, a cross-lane or conversion word on FP64 takes that of
its class: one pipe for one cycle. -/
def opTable : List OpInfo :=
  opRows1 ++ opRows2 ++ opRows3 ++ opRows4 ++ opRows5 ++ opRows6 ++ opRows7 ++ opRows8

/-- Code, row, control fields and operands of an instruction; the device's own steps have no word. -/
def Instr.parts : Instr → Option (Nat × Nat × Ctl × Body)
  | .iadd c o => some (0x000, 0, c, .v o)
  | .isub c o => some (0x001, 0, c, .v o)
  | .imul c o => some (0x002, 0, c, .v o)
  | .iminS c o => some (0x003, 0, c, .v o)
  | .iminU c o => some (0x004, 0, c, .v o)
  | .imaxS c o => some (0x005, 0, c, .v o)
  | .imaxU c o => some (0x006, 0, c, .v o)
  | .iabs c o => some (0x007, 0, c, .v o)
  | .andB c o => some (0x008, 0, c, .v o)
  | .orB c o => some (0x009, 0, c, .v o)
  | .xorB c o => some (0x00A, 0, c, .v o)
  | .andn c o => some (0x00B, 0, c, .v o)
  | .shl c o => some (0x00C, 0, c, .v o)
  | .shr c o => some (0x00D, 0, c, .v o)
  | .sar c o => some (0x00E, 0, c, .v o)
  | .rotl c o => some (0x00F, 0, c, .v o)
  | .popc c o => some (0x010, 0, c, .v o)
  | .clz c o => some (0x011, 0, c, .v o)
  | .brev c o => some (0x012, 0, c, .v o)
  | .mov c o => some (0x013, 0, c, .v o)
  | .movi c o => some (0x014, 0, c, .v o)
  | .sel c o => some (0x015, 0, c, .v o)
  | .isetp c o => some (0x016, 0, c, .cmp o)
  | .iaddc c o => some (0x017, 0, c, .v o)
  | .fadd c o => some (0x018, 0, c, .v o)
  | .fsub c o => some (0x019, 0, c, .v o)
  | .fmul c o => some (0x01A, 0, c, .v o)
  | .fmin c o => some (0x01B, 0, c, .v o)
  | .fmax c o => some (0x01C, 0, c, .v o)
  | .fsetp c o => some (0x01D, 0, c, .cmp o)
  | .fabs c o => some (0x01E, 0, c, .v o)
  | .fneg c o => some (0x01F, 0, c, .v o)
  | .hadd2 c o => some (0x020, 0, c, .v o)
  | .hmul2 c o => some (0x021, 0, c, .v o)
  | .badd2 c o => some (0x022, 0, c, .v o)
  | .bmul2 c o => some (0x023, 0, c, .v o)
  | .hmin2 c o => some (0x024, 0, c, .v o)
  | .hmax2 c o => some (0x025, 0, c, .v o)
  | .pand c o => some (0x026, 0, c, .pred o)
  | .por c o => some (0x027, 0, c, .pred o)
  | .pxor c o => some (0x028, 0, c, .pred o)
  | .pnot c o => some (0x029, 0, c, .pred o)
  | .pmov c o => some (0x02A, 0, c, .pred o)
  | .sadd c o => some (0x02B, 0, c, .v o)
  | .ssub c o => some (0x02C, 0, c, .v o)
  | .smov c o => some (0x02D, 0, c, .v o)
  | .smovi c o => some (0x02E, 0, c, .v o)
  | .scmp c o => some (0x02F, 0, c, .cmp o)
  | .shflx c o => some (0x030, 0, c, .v o)
  | .bcast c o => some (0x031, 0, c, .v o)
  | .i2f c o => some (0x032, 0, c, .v o)
  | .f2i c o => some (0x033, 0, c, .v o)
  | .f2h c o => some (0x034, 0, c, .v o)
  | .h2f c o => some (0x035, 0, c, .v o)
  | .f2b c o => some (0x036, 0, c, .v o)
  | .b2f c o => some (0x037, 0, c, .v o)
  | .nop c => some (0x038, 0, c, .k0)
  | .sext c o => some (0x039, 0, c, .v o)
  | .zext c o => some (0x03A, 0, c, .v o)
  | .bfe c o => some (0x03B, 0, c, .v o)
  | .bfi c o => some (0x03C, 0, c, .v o)
  | .fsat c o => some (0x03D, 0, c, .v o)
  | .frnd c o => some (0x03E, 0, c, .v o)
  | .lmask c o => some (0x03F, 0, c, .v o)
  | .imad c o => some (0x080, 0, c, .v o)
  | .imulhiS c o => some (0x081, 0, c, .v o)
  | .imulhiU c o => some (0x082, 0, c, .v o)
  | .iadd3 c o => some (0x083, 0, c, .v o)
  | .lut3 c o => some (0x084, 0, c, .v o)
  | .lea c o => some (0x085, 0, c, .v o)
  | .iadd64 c o => some (0x086, 0, c, .v o)
  | .imad64 c o => some (0x087, 0, c, .v o)
  | .ishf c o => some (0x088, 0, c, .v o)
  | .smul c o => some (0x089, 0, c, .v o)
  | .sshl c o => some (0x08A, 0, c, .v o)
  | .sshr c o => some (0x08B, 0, c, .v o)
  | .sand c o => some (0x08C, 0, c, .v o)
  | .sor c o => some (0x08D, 0, c, .v o)
  | .sbfe c o => some (0x08E, 0, c, .v o)
  | .smax c o => some (0x08F, 0, c, .v o)
  | .bra c o => some (0x090, 0, c, .bra o)
  | .brx c o => some (0x091, 0, c, .brx o)
  | .call c o => some (0x092, 0, c, .call o)
  | .callx c o => some (0x093, 0, c, .call o)
  | .ret c o => some (0x094, 0, c, .brx o)
  | .ifp c o => some (0x095, 0, c, .ifp o)
  | .elsep c => some (0x096, 0, c, .k0)
  | .endifp c => some (0x097, 0, c, .k0)
  | .brk c o => some (0x098, 0, c, .n8 o)
  | .cont c o => some (0x099, 0, c, .n8 o)
  | .regang c o => some (0x09A, 0, c, .n8 o)
  | .regroup c o => some (0x09B, 0, c, .regroup o)
  | .vote c o => some (0x09C, 0, c, .v o)
  | .shfl c o => some (0x09D, 0, c, .v o)
  | .exit c => some (0x09E, 0, c, .k0)
  | .yield c => some (0x09F, 0, c, .k0)
  | .spinh c => some (0x0A0, 0, c, .k0)
  | .rdsr c o => some (0x0A1, 0, c, .sr o)
  | .wrsr c o => some (0x0A2, 0, c, .sr o)
  | .scbra c o => some (0x0A3, 0, c, .cbra o)
  | .prmt c o => some (0x0A4, 0, c, .v o)
  | .redux c o => some (0x0A5, 0, c, .v o)
  | .matchL c o => some (0x0A6, 0, c, .v o)
  | .smin c o => some (0x0A7, 0, c, .v o)
  | .ffma c o => some (0x100, 0, c, .v o)
  | .dadd c o => some (0x101, 0, c, .v o)
  | .dmul c o => some (0x102, 0, c, .v o)
  | .dfma c o => some (0x103, 0, c, .v o)
  | .dmin c o => some (0x104, 0, c, .v o)
  | .dmax c o => some (0x105, 0, c, .v o)
  | .dsetp c o => some (0x106, 0, c, .cmp o)
  | .frnd64 c o => some (0x107, 0, c, .v o)
  | .frcp c o => some (0x108, 0, c, .v o)
  | .frsq c o => some (0x109, 0, c, .v o)
  | .fsqrt c o => some (0x10A, 0, c, .v o)
  | .fexp2 c o => some (0x10B, 0, c, .v o)
  | .flog2 c o => some (0x10C, 0, c, .v o)
  | .fsin c o => some (0x10D, 0, c, .v o)
  | .fcos c o => some (0x10E, 0, c, .v o)
  | .ftanh c o => some (0x10F, 0, c, .v o)
  | .hfma2 c o => some (0x110, 0, c, .v o)
  | .bfma2 c o => some (0x111, 0, c, .v o)
  | .f2f c o => some (0x112, 0, c, .v o)
  | .cvtfi c o => some (0x113, 0, c, .v o)
  | .cvtif c o => some (0x114, 0, c, .v o)
  | .f2e4 c o => some (0x115, 0, c, .v o)
  | .f2e5 c o => some (0x116, 0, c, .v o)
  | .e42f c o => some (0x117, 0, c, .v o)
  | .e52f c o => some (0x118, 0, c, .v o)
  | .qhist c o => some (0x119, 0, c, .mem o)
  | .qscale c o => some (0x11A, 0, c, .v o)
  | .qpack c o => some (0x11B, 0, c, .v o)
  | .qunpk c o => some (0x11C, 0, c, .v o)
  | .fclass c o => some (0x11D, 0, c, .v o)
  | .fscale c o => some (0x11E, 0, c, .v o)
  | .fdot2 c o => some (0x11F, 0, c, .v o)
  | .idp4 c o => some (0x120, 0, c, .v o)
  | .fcopysign c o => some (0x121, 0, c, .v o)
  | .fredux c o => some (0x122, 0, c, .v o)
  | .dcvt c o => some (0x123, 0, c, .v o)
  | .ld c o => some (0x180, 0, c, .mem o)
  | .st c o => some (0x181, 0, c, .mem o)
  | .ldv c o => some (0x182, 0, c, .mem o)
  | .stv c o => some (0x183, 0, c, .mem o)
  | .ldc c o => some (0x184, 0, c, .mem o)
  | .pref c o => some (0x185, 0, c, .mem o)
  | .atom c o => some (0x186, 0, c, .mem o)
  | .atomcas c o => some (0x187, 0, c, .mem o)
  | .red c o => some (0x188, 0, c, .mem o)
  | .atomv c o => some (0x189, 0, c, .mem o)
  | .fence c o => some (0x18A, 0, c, .fence o)
  | .mark c o => some (0x18B, 0, c, .flag o)
  | .bar c o => some (0x18C, 0, c, .bar o)
  | .binit c o => some (0x18D, 0, c, .mem o)
  | .bexp c o => some (0x18E, 0, c, .mem o)
  | .barv c o => some (0x18F, 0, c, .mem o)
  | .btest c o => some (0x190, 0, c, .mem o)
  | .bret c o => some (0x191, 0, c, .mem o)
  | .waitp c o => some (0x192, 0, c, .waitp o)
  | .tlwait c o => some (0x193, 0, c, .tl o)
  | .tlread c o => some (0x194, 0, c, .tl o)
  | .cctlInv c o => some (0x195, 0, c, .mem o)
  | .cctlInvl c o => some (0x195, 1, c, .mem o)
  | .cctlEvict c o => some (0x195, 2, c, .mem o)
  | .syncm c o => some (0x196, 0, c, .mem o)
  | .ldx c o => some (0x197, 0, c, .mem o)
  | .cpya c o => some (0x198, 0, c, .mem o)
  | .stcw c o => some (0x199, 0, c, .mem o)
  | .tladv c o => some (0x19A, 0, c, .tl o)
  | .atom64 c o => some (0x19B, 0, c, .mem o)
  | .atomf c o => some (0x19C, 0, c, .mem o)
  | .probe c o => some (0x19D, 0, c, .mem o)
  | .tokq c o => some (0x19E, 0, c, .mem o)
  | .mcpredRd c o => some (0x19F, 0, c, .mem o)
  | .mcpredWr c o => some (0x19F, 1, c, .mem o)
  | .press c o => some (0x1A0, 0, c, .mem o)
  | .ldnc c o => some (0x1A1, 0, c, .mem o)
  | .stnc c o => some (0x1A2, 0, c, .mem o)
  | .wbinv c o => some (0x1A3, 0, c, .mem o)
  | .tload c o => some (0x200, 0, c, .copy o)
  | .tstore c o => some (0x201, 0, c, .copy o)
  | .tcopy c o => some (0x202, 0, c, .copy o)
  | .tgath c o => some (0x203, 0, c, .copy o)
  | .tscat c o => some (0x204, 0, c, .copy o)
  | .creduce c o => some (0x205, 0, c, .coll o)
  | .cbcast c o => some (0x206, 0, c, .coll o)
  | .tfill c o => some (0x207, 0, c, .copy o)
  | .tlsig c o => some (0x208, 0, c, .tlsig o)
  | .qadd c o => some (0x209, 0, c, .qadd o)
  | .qmovi c o => some (0x20A, 0, c, .qmovi o)
  | .qld c o => some (0x20B, 0, c, .mem o)
  | .qbra c o => some (0x20C, 0, c, .cbra o)
  | .qwaitEnd c => some (0x20D, 0, c, .k0)
  | .qwaitUntil c o => some (0x20D, 1, c, .q1 o)
  | .mma c o => some (0x240, 0, c, .mma o)
  | .mmas c o => some (0x241, 0, c, .mma o)
  | .mmag c o => some (0x242, 0, c, .mma o)
  | .mzero c o => some (0x243, 0, c, .tile o)
  | .mloadt c o => some (0x244, 0, c, .tile o)
  | .mstoret c o => some (0x245, 0, c, .tile o)
  | .mcvt c o => some (0x246, 0, c, .tile o)
  | .mcoop c o => some (0x247, 0, c, .q1 o)
  | .msync c o => some (0x248, 0, c, .tile o)
  | .mtrans c o => some (0x249, 0, c, .tile o)
  | .maddt c o => some (0x24A, 0, c, .tile o)
  | .mscale c o => some (0x24B, 0, c, .tile o)
  | .mhist c o => some (0x24C, 0, c, .tile o)
  | .mquant c o => some (0x24D, 0, c, .tile o)
  | .mact c o => some (0x24E, 0, c, .tile o)
  | .mrowred c o => some (0x24F, 0, c, .tile o)
  | .mleaveGet c => some (0x250, 1, c, .k0)
  | .mleavePut c => some (0x250, 0, c, .k0)
  | .mfmt c o => some (0x251, 0, c, .n20 o)
  | .sendui c o => some (0x280, 0, c, .sendui o)
  | .uiret c => some (0x281, 0, c, .k0)
  | .uimaskWr c o => some (0x282, 0, c, .z o)
  | .uimaskSet c o => some (0x282, 1, c, .z o)
  | .uimaskClr c o => some (0x282, 2, c, .z o)
  | .uimaskHnd c o => some (0x282, 3, c, .n20 o)
  | .uipend c o => some (0x283, 0, c, .z o)
  | .syscall c o => some (0x284, 0, c, .syscall o)
  | .sysret c o => some (0x285, 0, c, .z o)
  | .trapret c o => some (0x286, 0, c, .trapret o)
  | .trapretFrz c o => some (0x286, 1, c, .flag o)
  | .migr c o => some (0x287, 0, c, .migr o)
  | .wlive c o => some (0x288, 0, c, .wlive o)
  | .launch c o => some (0x289, 0, c, .zq o)
  | .emit c o => some (0x28A, 0, c, .zq o)
  | .kick c o => some (0x28B, 0, c, .z o)
  | .mapctlInv c o => some (0x28C, 0, c, .z o)
  | .mapctlInvall c o => some (0x28C, 1, c, .z o)
  | .mapctlHost c o => some (0x28C, 2, c, .z o)
  | .mapctlDev c o => some (0x28C, 3, c, .z o)
  | .decld c o => some (0x28D, 0, c, .z o)
  | .bkpt c o => some (0x28E, 0, c, .n20 o)
  | .sleepw c o => some (0x28F, 0, c, .sleepw o)
  | .wheyArrival _ => none
  | .replicaAdvertisement => none
  | .doorbell _ _ _ => none
  | .hqRecordRead _ _ => none
  | .entryGrant _ _ => none
  | .launchPlacement _ => none
  | .unitSave _ => none
  | .forcedSave _ => none
  | .saveDrainTimeout _ => none
  | .unitRestore _ => none
  | .slotFiring _ => none
  | .nodeFlushTimeout _ _ => none
  | .blockRetirement _ => none
  | .launchCompletion _ => none
  | .accessCompletion _ => none
  | .engineOpBegin _ _ _ => none
  | .engineOpCompletion _ _ _ => none
  | .leaveGrant _ => none
  | .leaveExpiry _ _ => none
  | .sleepwWake _ => none
  | .hostUiSend _ _ _ => none
  | .uiDelivery _ => none
  | .hostSyscallEnd _ _ _ => none
  | .transientRequest _ => none
  | .transientTimeout _ _ => none
  | .tokenArrival _ => none
  | .writeBack _ => none
  | .pressRequest _ => none
  | .pressActivation _ _ => none
  | .pressDeactivation _ _ => none
  | .pressClear _ _ => none
  | .hostSnoop _ _ _ => none
  | .cxlMemAccess .. => none
  | .kickNoticeArrival _ => none
  | .kickRetry _ => none
  | .copyEnginePull _ => none
  | .markerCopy _ => none
  | .markerCompletion _ _ => none
  | .vectorRead _ => none
  | .vectorWrite _ => none
  | .vectorAtomic _ => none
  | .readResponse _ _ => none
  | .writeAcceptance _ _ => none
  | .atomicResponse _ _ => none
  | .collectiveChunk _ _ => none
  | .fabricRequestTimeout _ => none
  | .turning _ => none
  | .linkReplay _ => none
  | .linkDown _ => none
  | .tokenRecreation _ => none
  | .census _ _ _ => none
  | .routeWithdrawal _ => none
  | .hostCompletion _ _ _ => none
  | .hostCompletionTimeout _ => none
  | .handlerGangClose _ => none
  | .blockResume _ => none
  | .watchdog _ _ => none
  | .cxYreq _ _ => none
  | .cxHalt _ _ => none
  | .dvGtimeSet _ => none
  | .ppsPulse => none
  | .dvLostClr _ => none
  | .ovfClear _ => none
  | .errorCounterClear _ => none
  | .registerWrite _ _ => none
  | .capWrite _ => none
  | .levelRise => none
  | .boot _ => none
  | .firmwarePush _ => none
  | .supplyReplan => none
  | .identityRead _ _ => none
  | .getVersion => none
  | .getCapabilities => none
  | .negotiateAlgorithms => none
  | .getDigests => none
  | .getCertificate => none
  | .challenge _ => none
  | .getMeasurements => none
  | .evacGo _ => none
  | .evacCopying => none
  | .evacDraining => none
  | .evacLatchFree => none
  | .evacFailure _ => none
  | .emptyEntryWord _ => none
  | .mainSupplyLoss => none
  | .linkUp _ => none
  | .rangeExport _ _ _ _ => none
  | .tokenMessageExpiry _ => none
  | .qwaitDeadline _ => none
  | .peerSend _ _ _ _ _ => none
  | .barMemoryAccess _ _ _ => none
  | .goDataResponse _ _ _ _ => none
  | .pressAcknowledgement _ _ _ => none
  | .pageWalkEnd _ _ _ => none

/-- The instruction of a code, a row and operands. -/
def mkInstr (code sub : Nat) (c : Ctl) (b : Body) : Option Instr :=
  match code, sub, b with
  | 0x000, 0, .v o => some (.iadd c o)
  | 0x001, 0, .v o => some (.isub c o)
  | 0x002, 0, .v o => some (.imul c o)
  | 0x003, 0, .v o => some (.iminS c o)
  | 0x004, 0, .v o => some (.iminU c o)
  | 0x005, 0, .v o => some (.imaxS c o)
  | 0x006, 0, .v o => some (.imaxU c o)
  | 0x007, 0, .v o => some (.iabs c o)
  | 0x008, 0, .v o => some (.andB c o)
  | 0x009, 0, .v o => some (.orB c o)
  | 0x00A, 0, .v o => some (.xorB c o)
  | 0x00B, 0, .v o => some (.andn c o)
  | 0x00C, 0, .v o => some (.shl c o)
  | 0x00D, 0, .v o => some (.shr c o)
  | 0x00E, 0, .v o => some (.sar c o)
  | 0x00F, 0, .v o => some (.rotl c o)
  | 0x010, 0, .v o => some (.popc c o)
  | 0x011, 0, .v o => some (.clz c o)
  | 0x012, 0, .v o => some (.brev c o)
  | 0x013, 0, .v o => some (.mov c o)
  | 0x014, 0, .v o => some (.movi c o)
  | 0x015, 0, .v o => some (.sel c o)
  | 0x016, 0, .cmp o => some (.isetp c o)
  | 0x017, 0, .v o => some (.iaddc c o)
  | 0x018, 0, .v o => some (.fadd c o)
  | 0x019, 0, .v o => some (.fsub c o)
  | 0x01A, 0, .v o => some (.fmul c o)
  | 0x01B, 0, .v o => some (.fmin c o)
  | 0x01C, 0, .v o => some (.fmax c o)
  | 0x01D, 0, .cmp o => some (.fsetp c o)
  | 0x01E, 0, .v o => some (.fabs c o)
  | 0x01F, 0, .v o => some (.fneg c o)
  | 0x020, 0, .v o => some (.hadd2 c o)
  | 0x021, 0, .v o => some (.hmul2 c o)
  | 0x022, 0, .v o => some (.badd2 c o)
  | 0x023, 0, .v o => some (.bmul2 c o)
  | 0x024, 0, .v o => some (.hmin2 c o)
  | 0x025, 0, .v o => some (.hmax2 c o)
  | 0x026, 0, .pred o => some (.pand c o)
  | 0x027, 0, .pred o => some (.por c o)
  | 0x028, 0, .pred o => some (.pxor c o)
  | 0x029, 0, .pred o => some (.pnot c o)
  | 0x02A, 0, .pred o => some (.pmov c o)
  | 0x02B, 0, .v o => some (.sadd c o)
  | 0x02C, 0, .v o => some (.ssub c o)
  | 0x02D, 0, .v o => some (.smov c o)
  | 0x02E, 0, .v o => some (.smovi c o)
  | 0x02F, 0, .cmp o => some (.scmp c o)
  | 0x030, 0, .v o => some (.shflx c o)
  | 0x031, 0, .v o => some (.bcast c o)
  | 0x032, 0, .v o => some (.i2f c o)
  | 0x033, 0, .v o => some (.f2i c o)
  | 0x034, 0, .v o => some (.f2h c o)
  | 0x035, 0, .v o => some (.h2f c o)
  | 0x036, 0, .v o => some (.f2b c o)
  | 0x037, 0, .v o => some (.b2f c o)
  | 0x038, 0, .k0 => some (.nop c)
  | 0x039, 0, .v o => some (.sext c o)
  | 0x03A, 0, .v o => some (.zext c o)
  | 0x03B, 0, .v o => some (.bfe c o)
  | 0x03C, 0, .v o => some (.bfi c o)
  | 0x03D, 0, .v o => some (.fsat c o)
  | 0x03E, 0, .v o => some (.frnd c o)
  | 0x03F, 0, .v o => some (.lmask c o)
  | 0x080, 0, .v o => some (.imad c o)
  | 0x081, 0, .v o => some (.imulhiS c o)
  | 0x082, 0, .v o => some (.imulhiU c o)
  | 0x083, 0, .v o => some (.iadd3 c o)
  | 0x084, 0, .v o => some (.lut3 c o)
  | 0x085, 0, .v o => some (.lea c o)
  | 0x086, 0, .v o => some (.iadd64 c o)
  | 0x087, 0, .v o => some (.imad64 c o)
  | 0x088, 0, .v o => some (.ishf c o)
  | 0x089, 0, .v o => some (.smul c o)
  | 0x08A, 0, .v o => some (.sshl c o)
  | 0x08B, 0, .v o => some (.sshr c o)
  | 0x08C, 0, .v o => some (.sand c o)
  | 0x08D, 0, .v o => some (.sor c o)
  | 0x08E, 0, .v o => some (.sbfe c o)
  | 0x08F, 0, .v o => some (.smax c o)
  | 0x090, 0, .bra o => some (.bra c o)
  | 0x091, 0, .brx o => some (.brx c o)
  | 0x092, 0, .call o => some (.call c o)
  | 0x093, 0, .call o => some (.callx c o)
  | 0x094, 0, .brx o => some (.ret c o)
  | 0x095, 0, .ifp o => some (.ifp c o)
  | 0x096, 0, .k0 => some (.elsep c)
  | 0x097, 0, .k0 => some (.endifp c)
  | 0x098, 0, .n8 o => some (.brk c o)
  | 0x099, 0, .n8 o => some (.cont c o)
  | 0x09A, 0, .n8 o => some (.regang c o)
  | 0x09B, 0, .regroup o => some (.regroup c o)
  | 0x09C, 0, .v o => some (.vote c o)
  | 0x09D, 0, .v o => some (.shfl c o)
  | 0x09E, 0, .k0 => some (.exit c)
  | 0x09F, 0, .k0 => some (.yield c)
  | 0x0A0, 0, .k0 => some (.spinh c)
  | 0x0A1, 0, .sr o => some (.rdsr c o)
  | 0x0A2, 0, .sr o => some (.wrsr c o)
  | 0x0A3, 0, .cbra o => some (.scbra c o)
  | 0x0A4, 0, .v o => some (.prmt c o)
  | 0x0A5, 0, .v o => some (.redux c o)
  | 0x0A6, 0, .v o => some (.matchL c o)
  | 0x0A7, 0, .v o => some (.smin c o)
  | 0x100, 0, .v o => some (.ffma c o)
  | 0x101, 0, .v o => some (.dadd c o)
  | 0x102, 0, .v o => some (.dmul c o)
  | 0x103, 0, .v o => some (.dfma c o)
  | 0x104, 0, .v o => some (.dmin c o)
  | 0x105, 0, .v o => some (.dmax c o)
  | 0x106, 0, .cmp o => some (.dsetp c o)
  | 0x107, 0, .v o => some (.frnd64 c o)
  | 0x108, 0, .v o => some (.frcp c o)
  | 0x109, 0, .v o => some (.frsq c o)
  | 0x10A, 0, .v o => some (.fsqrt c o)
  | 0x10B, 0, .v o => some (.fexp2 c o)
  | 0x10C, 0, .v o => some (.flog2 c o)
  | 0x10D, 0, .v o => some (.fsin c o)
  | 0x10E, 0, .v o => some (.fcos c o)
  | 0x10F, 0, .v o => some (.ftanh c o)
  | 0x110, 0, .v o => some (.hfma2 c o)
  | 0x111, 0, .v o => some (.bfma2 c o)
  | 0x112, 0, .v o => some (.f2f c o)
  | 0x113, 0, .v o => some (.cvtfi c o)
  | 0x114, 0, .v o => some (.cvtif c o)
  | 0x115, 0, .v o => some (.f2e4 c o)
  | 0x116, 0, .v o => some (.f2e5 c o)
  | 0x117, 0, .v o => some (.e42f c o)
  | 0x118, 0, .v o => some (.e52f c o)
  | 0x119, 0, .mem o => some (.qhist c o)
  | 0x11A, 0, .v o => some (.qscale c o)
  | 0x11B, 0, .v o => some (.qpack c o)
  | 0x11C, 0, .v o => some (.qunpk c o)
  | 0x11D, 0, .v o => some (.fclass c o)
  | 0x11E, 0, .v o => some (.fscale c o)
  | 0x11F, 0, .v o => some (.fdot2 c o)
  | 0x120, 0, .v o => some (.idp4 c o)
  | 0x121, 0, .v o => some (.fcopysign c o)
  | 0x122, 0, .v o => some (.fredux c o)
  | 0x123, 0, .v o => some (.dcvt c o)
  | 0x180, 0, .mem o => some (.ld c o)
  | 0x181, 0, .mem o => some (.st c o)
  | 0x182, 0, .mem o => some (.ldv c o)
  | 0x183, 0, .mem o => some (.stv c o)
  | 0x184, 0, .mem o => some (.ldc c o)
  | 0x185, 0, .mem o => some (.pref c o)
  | 0x186, 0, .mem o => some (.atom c o)
  | 0x187, 0, .mem o => some (.atomcas c o)
  | 0x188, 0, .mem o => some (.red c o)
  | 0x189, 0, .mem o => some (.atomv c o)
  | 0x18A, 0, .fence o => some (.fence c o)
  | 0x18B, 0, .flag o => some (.mark c o)
  | 0x18C, 0, .bar o => some (.bar c o)
  | 0x18D, 0, .mem o => some (.binit c o)
  | 0x18E, 0, .mem o => some (.bexp c o)
  | 0x18F, 0, .mem o => some (.barv c o)
  | 0x190, 0, .mem o => some (.btest c o)
  | 0x191, 0, .mem o => some (.bret c o)
  | 0x192, 0, .waitp o => some (.waitp c o)
  | 0x193, 0, .tl o => some (.tlwait c o)
  | 0x194, 0, .tl o => some (.tlread c o)
  | 0x195, 0, .mem o => some (.cctlInv c o)
  | 0x195, 1, .mem o => some (.cctlInvl c o)
  | 0x195, 2, .mem o => some (.cctlEvict c o)
  | 0x196, 0, .mem o => some (.syncm c o)
  | 0x197, 0, .mem o => some (.ldx c o)
  | 0x198, 0, .mem o => some (.cpya c o)
  | 0x199, 0, .mem o => some (.stcw c o)
  | 0x19A, 0, .tl o => some (.tladv c o)
  | 0x19B, 0, .mem o => some (.atom64 c o)
  | 0x19C, 0, .mem o => some (.atomf c o)
  | 0x19D, 0, .mem o => some (.probe c o)
  | 0x19E, 0, .mem o => some (.tokq c o)
  | 0x19F, 0, .mem o => some (.mcpredRd c o)
  | 0x19F, 1, .mem o => some (.mcpredWr c o)
  | 0x1A0, 0, .mem o => some (.press c o)
  | 0x1A1, 0, .mem o => some (.ldnc c o)
  | 0x1A2, 0, .mem o => some (.stnc c o)
  | 0x1A3, 0, .mem o => some (.wbinv c o)
  | 0x200, 0, .copy o => some (.tload c o)
  | 0x201, 0, .copy o => some (.tstore c o)
  | 0x202, 0, .copy o => some (.tcopy c o)
  | 0x203, 0, .copy o => some (.tgath c o)
  | 0x204, 0, .copy o => some (.tscat c o)
  | 0x205, 0, .coll o => some (.creduce c o)
  | 0x206, 0, .coll o => some (.cbcast c o)
  | 0x207, 0, .copy o => some (.tfill c o)
  | 0x208, 0, .tlsig o => some (.tlsig c o)
  | 0x209, 0, .qadd o => some (.qadd c o)
  | 0x20A, 0, .qmovi o => some (.qmovi c o)
  | 0x20B, 0, .mem o => some (.qld c o)
  | 0x20C, 0, .cbra o => some (.qbra c o)
  | 0x20D, 0, .k0 => some (.qwaitEnd c)
  | 0x20D, 1, .q1 o => some (.qwaitUntil c o)
  | 0x240, 0, .mma o => some (.mma c o)
  | 0x241, 0, .mma o => some (.mmas c o)
  | 0x242, 0, .mma o => some (.mmag c o)
  | 0x243, 0, .tile o => some (.mzero c o)
  | 0x244, 0, .tile o => some (.mloadt c o)
  | 0x245, 0, .tile o => some (.mstoret c o)
  | 0x246, 0, .tile o => some (.mcvt c o)
  | 0x247, 0, .q1 o => some (.mcoop c o)
  | 0x248, 0, .tile o => some (.msync c o)
  | 0x249, 0, .tile o => some (.mtrans c o)
  | 0x24A, 0, .tile o => some (.maddt c o)
  | 0x24B, 0, .tile o => some (.mscale c o)
  | 0x24C, 0, .tile o => some (.mhist c o)
  | 0x24D, 0, .tile o => some (.mquant c o)
  | 0x24E, 0, .tile o => some (.mact c o)
  | 0x24F, 0, .tile o => some (.mrowred c o)
  | 0x250, 1, .k0 => some (.mleaveGet c)
  | 0x250, 0, .k0 => some (.mleavePut c)
  | 0x251, 0, .n20 o => some (.mfmt c o)
  | 0x280, 0, .sendui o => some (.sendui c o)
  | 0x281, 0, .k0 => some (.uiret c)
  | 0x282, 0, .z o => some (.uimaskWr c o)
  | 0x282, 1, .z o => some (.uimaskSet c o)
  | 0x282, 2, .z o => some (.uimaskClr c o)
  | 0x282, 3, .n20 o => some (.uimaskHnd c o)
  | 0x283, 0, .z o => some (.uipend c o)
  | 0x284, 0, .syscall o => some (.syscall c o)
  | 0x285, 0, .z o => some (.sysret c o)
  | 0x286, 0, .trapret o => some (.trapret c o)
  | 0x286, 1, .flag o => some (.trapretFrz c o)
  | 0x287, 0, .migr o => some (.migr c o)
  | 0x288, 0, .wlive o => some (.wlive c o)
  | 0x289, 0, .zq o => some (.launch c o)
  | 0x28A, 0, .zq o => some (.emit c o)
  | 0x28B, 0, .z o => some (.kick c o)
  | 0x28C, 0, .z o => some (.mapctlInv c o)
  | 0x28C, 1, .z o => some (.mapctlInvall c o)
  | 0x28C, 2, .z o => some (.mapctlHost c o)
  | 0x28C, 3, .z o => some (.mapctlDev c o)
  | 0x28D, 0, .z o => some (.decld c o)
  | 0x28E, 0, .n20 o => some (.bkpt c o)
  | 0x28F, 0, .sleepw o => some (.sleepw c o)
  | _, _, _ => none

/-- The row of a code and of the field value that tells its rows apart. -/
def opInfo (code sub : Nat) : Option OpInfo :=
  opTable.find? fun o => o.code == code && o.sub == sub

/-- The code is assigned in map 3 (R251 to R256). -/
def assigned (code : Nat) : Bool := opTable.any fun o => o.code == code

/-- The first row of a code: privilege, streams and pipes belong to the operation (R240). -/
def opRow (code : Nat) : Option OpInfo := opTable.find? fun o => o.code == code

/-- The operation has no default type (R226). -/
def OpInfo.noDflt (o : OpInfo) : Bool := !o.types.contains .dflt

/-- A vector operation's second source may be a scalar (R224, R248). -/
def OpInfo.sbOk (o : OpInfo) : Bool :=
  match o.b with
  | .v _ => !o.one
  | _ => false

/-- A half of the operation has no form with IM = 1: the operation reads no immediate (R230, R463). -/
def OpInfo.hNoIm (o : OpInfo) : Bool := o.himm == .none

/-- BFI in a half has the IM = 1 form only (R264). -/
def OpInfo.hImOnly (o : OpInfo) : Bool := o.code == 0x03C

/-- The modifiers are ones that the operation's row allows (R262, R279, R463). -/
def modOk (o : OpInfo) (ty : Ty) (rnd : Rnd) (sat x : Bool) (k : BitVec 8) : Bool :=
  o.types.contains ty && (o.rnd || rnd == .rn) && (o.sat || !sat) &&
    (o.x || !x || (o.x64 && ty == .w64)) &&
    (match o.own with
     | .no => k == 0
     | .lut => true
     | .mode m => k.toNat ≤ m)

/-- The element size of a memory type in bytes (R299). -/
def Ty.esize : Ty → Nat
  | .w64 => 8
  | .f16 | .bf16 => 2
  | .e4 | .e5 => 1
  | _ => 4

/-- The third register of an immediate form, which lies inside the immediate (R228, R325; entry 19): TOKQ's. -/
def immThird (o : OpInfo) (n : BitVec 20) : BitVec 8 := if o.code == 0x19E then n.extractLsb' 0 8 else 0

/-- The fields of a memory operation are ones that its row allows (R299, R301, R463, R467). -/
def memOk (o : OpInfo) (i : MOp) : Bool :=
  let yOk := if o.sx then i.y == 0 || (i.y == 1 && i.ty.esize ≤ 2) else o.ys.contains i.y.toNat
  let cOk := match o.c with
    | .no => i.c == 0
    | .vbar => i.y.getLsbD 2 || i.c == 0
    | _ => true
  let atOk := !o.at' || (if o.atf then (i.y == 3) == (i.ty == .f16 || i.ty == .bf16) else !(i.y == 7 && i.ty == .s32))
  let scOk := i.scope == .blk || o.ords != [.rlx]
  match i.off with
  | .bytes n =>
    !o.noimm && i.scope == .blk && i.ty == .dflt && i.ord == .rlx && i.y == 0 && i.c == immThird o n &&
      o.types.contains .dflt && o.ords.contains .rlx && o.ys.contains 0
  | .elems n =>
    o.types.contains i.ty && o.ords.contains i.ord && yOk && cOk && atOk && scOk && (!o.nooff || n == 0)

/-- The operation, type and level fields of a collective (R339, R463). -/
def collOk (o : OpInfo) (op : BitVec 3) (ty : Ty) : Bool :=
  if o.code == 0x205 then op.toNat ≤ 2 && [Ty.f32, .bf16, .w64, .s32, .u32].contains ty
  else op == 0 && ty == .dflt

/-- The fields of a tile operation are those of its row (R348, R463). -/
def tileOk (code : Nat) (t : TileOp) : Bool :=
  let tile (i : BitVec 6) : Bool := i.toNat < 16
  let no (i : BitVec 6) : Bool := i == 0
  let w := t.ty == .dflt || t.ty == .w64
  match code with
  | 0x243 => tile t.d && no t.a && no t.b && no t.c && w && t.mode == 0
  | 0x244 => tile t.d && no t.b && no t.c && w && t.mode == 0
  | 0x245 => tile t.a && no t.b && no t.c && w && t.mode == 0
  | 0x246 => tile t.d && tile t.a && no t.b && no t.c &&
      ((([Ty.bf16, .f16, .e4, .e5].contains t.ty) && (t.mode == 0 || t.mode == 2)) ||
       (t.ty == .f32 && t.mode.toNat < 4) || (t.ty == .s32 && (t.mode == 0 || t.mode == 2)))
  | 0x248 => no t.d && no t.a && no t.b && no t.c && t.ty == .dflt && t.mode.toNat < 8
  | 0x249 => tile t.d && tile t.a && no t.b && no t.c && w && t.mode == 0
  | 0x24A => tile t.d && tile t.a && tile t.b && no t.c && [Ty.dflt, .f32, .s32, .w64].contains t.ty &&
      (t.mode == 0 || t.mode == 2)
  | 0x24B => tile t.d && tile t.a && no t.c && t.ty == .dflt && !t.mode.getLsbD 3
  | 0x24C => tile t.a && no t.b && no t.c && t.ty == .dflt && t.mode == 0
  | 0x24D => tile t.a && no t.b && [Ty.db8, .db6, .db4].contains t.ty && t.mode == 0
  | 0x24E => tile t.d && tile t.a && no t.b && no t.c && t.ty == .dflt && t.mode.toNat < 3
  | 0x24F => tile t.a && no t.b && no t.c && t.ty == .dflt && t.mode.toNat < 3
  | _ => false

/-- The M field that the form Z operations with two register fields hold: MAPCTL's operation (R364). -/
def zModes (o : OpInfo) : BitVec 21 :=
  if o.code == 0x28C then BitVec.ofNat 21 (o.sub * 256) else 0

/-- The register fields of a form Z operation (R352). -/
def zOk (o : OpInfo) (d a : BitVec 8) : Bool :=
  match o.code with
  | 0x282 => d.toNat == o.sub && a.toNat < 64
  | 0x283 => d.toNat < 64 && a == 0
  | 0x285 => d.toNat < 64 && a.toNat < 64
  | 0x28B => d == 0
  | 0x28C => d.toNat < 64
  | _ => d.toNat < 64 && a.toNat < 64

/-- The D operand of a form Z operation; UIMASK's D holds its operation (R352). -/
def zD (o : OpInfo) (d : BitVec 8) : BitVec 8 := if o.code == 0x282 then 0 else d

/-! ### Registers that an instruction names (R231, R236, R463) -/

/-- The register files (R224). -/
inductive RFile where
  | v | s | p | q | t
  deriving DecidableEq, Repr, Inhabited

/-- One register named by an instruction. -/
structure RegUse where
  file : RFile
  idx : Nat
  deriving DecidableEq, Repr, Inhabited

/-- `n` registers of a file from `i` on. -/
def regRange (f : RFile) (i n : Nat) : List RegUse := (List.range n).map fun k => ⟨f, i + k⟩

/-- The registers that a field names under a type (R224). -/
def FU.regs (fu : FU) (ty : Ty) (i : Nat) : List RegUse :=
  match fu with
  | .no => []
  | .v l => regRange .v i (if l.contains ty then 2 else 1)
  | .v8 => regRange .v i 8
  | .s l => regRange .s i (if l.contains ty then 2 else 1)
  | .p | .pk => regRange .p i 1
  | .cmp => regRange .p i 1
  | .q => regRange .q i 1
  | .vcas | .vbar | .x2 | .x1 => regRange .v i 1

/-- The operation reads a scalar second source as a pair: where its second source is a pair (R279), but IADD64 extends one
register (R265). -/
def OpInfo.scalarPair (o : OpInfo) (ty : Ty) : Bool :=
  o.code != 0x086 && (match o.b with | .v l => l.contains ty | _ => false)

/-- The registers that a second source names. -/
def srcRegs (o : OpInfo) (ty : Ty) : Src → List RegUse
  | .imm _ => []
  | .reg i => o.b.regs ty i.toNat
  | .sreg i => regRange .s i.toNat (if o.scalarPair ty then 2 else 1)

/-- The operation keeps half of its destination, which it reads like a source (R291). -/
def OpInfo.keepsHalf (o : OpInfo) : Bool :=
  [0x034, 0x036, 0x115, 0x116, 0x123].contains o.code

/-- The registers that operands read, apart from the guard (R231, R291). -/
def bodyReads (o : OpInfo) : Body → List RegUse
  | .v i =>
    o.a.regs i.ty i.a.toNat ++ srcRegs o i.ty i.b ++ o.c.regs i.ty i.c.toNat ++
      (if o.keepsHalf then o.d.regs i.ty i.d.toNat else []) ++
      (if o.code == 0x017 && !i.x then [⟨.p, 6⟩] else [])
  | .cmp i => o.a.regs i.ty i.a.toNat ++ srcRegs o i.ty i.b
  | .pred i => o.a.regs .dflt i.a.toNat ++ (match i.b with | .inl p => [⟨.p, p.toNat⟩] | .inr _ => [])
  | _ => []

/-- The registers that operands write with a fixed latency (R231, R233). -/
def bodyWrites (o : OpInfo) : Body → List RegUse
  | .v i => o.d.regs i.ty i.d.toNat ++ (if o.code == 0x017 then [⟨.p, 6⟩] else [])
  | .cmp i => [⟨.p, i.pd.toNat⟩]
  | .pred i => [⟨.p, i.d.toNat⟩]
  | _ => []

/-- The registers that the operands of a memory operation name. `u` says that the sequencer issues it. -/
def memRegs (o : OpInfo) (u : Bool) (i : MOp) : List RegUse :=
  let f (fu : FU) (r : BitVec 8) : List RegUse :=
    match fu with
    | .vcas => regRange .v r.toNat (if i.y.getLsbD 0 then 1 else 2)
    | .vbar => if i.y.getLsbD 2 then regRange .v r.toNat 1 else []
    | .x2 => if u then regRange .q r.toNat 1 else regRange .v r.toNat 2
    | .x1 => regRange (if u then .q else .v) r.toNat 1
    | .s _ => if o.code == 0x184 && fu == o.a then regRange .s r.toNat 2 else fu.regs i.ty r.toNat
    | fu => fu.regs i.ty r.toNat
  let third := match i.off with | .bytes _ => if o.code == 0x19E then f o.c i.c else [] | .elems _ => f o.c i.c
  f o.d i.d ++ f o.a i.a ++ third

/-- The registers that an instruction of the remaining forms names (R271 to R278, R313 to R352). -/
def otherRegs (o : OpInfo) (u : Bool) : Body → List RegUse
  | .brx i => if o.code == 0x094 && !i.flag then [] else regRange .v i.a.toNat 2
  | .call i => if o.kind == .callx then regRange .v i.b.toNat 2 else []
  | .cbra i => if o.code == 0x0A3 then [⟨.s, i.a.toNat⟩] else if i.cond == .num then [] else [⟨.q, i.a.toNat⟩]
  | .ifp i => [⟨.p, i.k.toNat⟩]
  | .regroup i => regRange .v i.k.toNat (i.m1.toNat + 1)
  | .sr i => regRange .v i.r.toNat (if i.wide then 2 else 1) ++ (if i.x then [⟨.s, i.t.toNat⟩] else [])
  | .waitp i => [⟨.s, i.a.toNat⟩]
  | .tl i =>
    match o.code with
    | 0x194 => if u then [⟨.q, i.d.toNat⟩] else regRange .s i.d.toNat 2
    | 0x193 => if u then [⟨.q, i.n.toNat⟩] else regRange .s i.n.toNat 2
    | _ => regRange .s i.n.toNat 2 ++ [⟨.p, i.d.toNat⟩]
  | .copy i =>
    (if i.dt then [⟨.t, i.d.toNat⟩] else [⟨.q, i.d.toNat⟩]) ++ [⟨.q, i.a.toNat⟩, ⟨.q, i.x.toNat⟩] ++
      (if o.code == 0x207 then [] else if o.code == 0x202 then regRange .q i.b.toNat 2 else [⟨.q, i.b.toNat⟩])
  | .coll i => [⟨.q, i.a.toNat⟩, ⟨.q, i.b.toNat⟩]
  | .tlsig i => [⟨.q, i.a.toNat⟩]
  | .qadd i => [⟨.q, i.d.toNat⟩, ⟨.q, i.a.toNat⟩] ++ (match i.b with | .inl r => [⟨.q, r.toNat⟩] | .inr _ => [])
  | .qmovi i => [⟨.q, i.d.toNat⟩]
  | .q1 a => [⟨.q, a.toNat⟩]
  | .mma i => [⟨.t, i.d.toNat⟩, ⟨.q, i.a.toNat⟩, ⟨.q, i.b.toNat⟩, ⟨.q, i.l.toNat⟩]
  | .tile i =>
    let w := i.ty == .w64
    let t (r : BitVec 6) : List RegUse := regRange .t r.toNat (if w then 2 else 1)
    let q (r : BitVec 6) : List RegUse := [⟨.q, r.toNat⟩]
    match o.code with
    | 0x243 => t i.d
    | 0x244 => t i.d ++ q i.a
    | 0x245 => q i.d ++ t i.a
    | 0x246 => regRange .t i.d.toNat 1 ++ regRange .t i.a.toNat (if i.mode.getLsbD 0 then 2 else 1)
    | 0x248 => []
    | 0x24A => t i.d ++ t i.a ++ t i.b
    | 0x24B => t i.d ++ t i.a ++ q i.b
    | 0x24C | 0x24F => q i.d ++ t i.a
    | 0x24D => q i.d ++ t i.a ++ q i.c
    | _ => t i.d ++ t i.a
  | .sendui i => regRange .v i.d.toNat 2 ++ [⟨.s, i.a.toNat⟩]
  | .z i =>
    match o.code with
    | 0x282 => regRange .s i.a.toNat 2
    | 0x283 => regRange .s i.d.toNat 2
    | 0x285 => [⟨.s, i.d.toNat⟩, ⟨.s, i.a.toNat⟩]
    | 0x28B => [⟨if u then .q else .v, i.a.toNat⟩]
    | 0x28C => [⟨.s, i.d.toNat⟩] ++ regRange .v i.a.toNat 2
    | _ => [⟨.s, i.d.toNat⟩] ++ regRange .s i.a.toNat 2
  | .syscall i => regRange .v i.d.toNat 2 ++ regRange .v i.a.toNat 12 ++
      (match i.n with | .inl r => [⟨.v, r.toNat⟩] | .inr _ => [])
  | .trapret i => if i.m1 == 255 then [] else regRange .v i.k.toNat (i.m1.toNat + 1)
  | .zq i =>
    if u then [⟨.q, i.a.toNat⟩] else regRange .v i.a.toNat (if o.code == 0x289 then 2 else 1)
  | .sleepw i => regRange .s i.d.toNat 2 ++ regRange .v i.a.toNat (if i.v then 1 else 2) ++ [⟨.v, i.b.toNat⟩]
  | _ => []

/-- Fields that name a pair by an even index: field number (0 D, 1 A, 2 B, 3 M[7:0]) and index
(R58, R331, R408 code 0x0E). `acc64` says that the accumulator in force is an FP64 pair. -/
def pairFields (o : OpInfo) (u acc64 : Bool) : Body → List (Nat × Nat)
  | .v i =>
    let g (fu : FU) (n : Nat) (r : BitVec 8) : List (Nat × Nat) :=
      match fu with
      | .v l => if l.contains i.ty then [(n, r.toNat)] else []
      | _ => []
    let bs := match i.b with
      | .imm _ => []
      | .reg r => g o.b (if o.one then 1 else 2) r
      | .sreg r => if o.scalarPair i.ty then [(2, r.toNat)] else []
    g o.d 0 i.d ++ g o.a 1 i.a ++ bs ++ g o.c 3 i.c
  | .cmp i =>
    if o.imm == .f64 then
      (1, i.a.toNat) :: (match i.b with | .imm _ => [] | .reg r => [(2, r.toNat)] | .sreg r => [(2, r.toNat)])
    else []
  | .mem i =>
    let g (fu : FU) (n : Nat) (r : BitVec 8) : List (Nat × Nat) :=
      match fu with
      | .v l | .s l => if l.contains i.ty then [(n, r.toNat)] else []
      | .vcas => if i.y.getLsbD 0 then [] else [(n, r.toNat)]
      | .x2 => if u then [] else [(n, r.toNat)]
      | _ => []
    let third := match i.off with | .bytes _ => if o.code == 0x19E then g o.c 3 i.c else [] | .elems _ => g o.c 3 i.c
    g o.d 0 i.d ++ g o.a 1 i.a ++ third
  | .brx i => if o.code == 0x094 && !i.flag then [] else [(1, i.a.toNat)]
  | .call i => if o.kind == .callx then [(2, i.b.toNat)] else []
  | .sr i => if i.wide then [(if o.code == 0x0A1 then 0 else 1, i.r.toNat)] else []
  | .tl i =>
    if u then []
    else if o.code == 0x194 then [(0, i.d.toNat)] else [(1, i.n.toNat)]
  | .copy i => if o.code == 0x202 then [(2, i.b.toNat)] else []
  | .mma i => if acc64 then [(0, i.d.toNat)] else []
  | .tile i =>
    if i.ty == .w64 then
      match o.code with
      | 0x243 | 0x244 => [(0, i.d.toNat)]
      | 0x245 => [(1, i.a.toNat)]
      | 0x249 => [(0, i.d.toNat), (1, i.a.toNat)]
      | _ => [(0, i.d.toNat), (1, i.a.toNat), (2, i.b.toNat)]
    else if o.code == 0x246 && i.mode.getLsbD 0 then [(1, i.a.toNat)]
    else []
  | .sendui i => [(0, i.d.toNat)]
  | .z i =>
    match o.code with
    | 0x282 => [(1, i.a.toNat)]
    | 0x283 => [(0, i.d.toNat)]
    | 0x28C | 0x28D => [(1, i.a.toNat)]
    | _ => []
  | .syscall i => [(0, i.d.toNat), (1, i.a.toNat)]
  | .zq i => if u || o.code != 0x289 then [] else [(1, i.a.toNat)]
  | .sleepw i => (0, i.d.toNat) :: (if i.v then [] else [(1, i.a.toNat)])
  | _ => []

/-- The row and operands of an instruction. -/
def Instr.info (i : Instr) : Option (OpInfo × Ctl × Body) :=
  match i.parts with
  | some (code, sub, c, b) => (opInfo code sub).map fun o => (o, c, b)
  | none => none

/-- Every register that an instruction reads or writes, its guard included (R236). -/
def Instr.touched (i : Instr) (u : Bool) : List RegUse :=
  match i.info with
  | some (o, c, b) =>
    (if c.slot == .full && c.pred != 7 then [⟨.p, c.pred.toNat⟩] else []) ++ bodyReads o b ++ bodyWrites o b ++
      (match b with | .mem m => memRegs o u m | b => otherRegs o u b)
  | none => []

/-- The field of an instruction whose pair has an odd index, if any (R408 code 0x0E). -/
def Instr.oddField (i : Instr) (u acc64 : Bool) : Option Nat :=
  match i.info with
  | some (o, _, b) => ((pairFields o u acc64 b).find? fun p => p.2 % 2 == 1).map (·.1)
  | none => none

/-- The pipes that an instruction occupies as a full word, and its code (R16). -/
def Instr.pipe (i : Instr) : Pipe :=
  match i.info with
  | some (o, _, _) => o.pipe
  | none => .none

/-- The control fields of an instruction's word. -/
def Instr.ctl (i : Instr) : Ctl :=
  match i.parts with
  | some (_, _, c, _) => c
  | none => {}

end Sys2Proof
end

