-- ==== Sys2Proof/Machine/Encoding.lean ====
section
/-! DEFINITION. The fields of instruction words and halves and the codes that stand in them (R221 to
R230): what the decoder, the encoder and well-formedness share. -/

namespace Sys2Proof

/-! ### Fields -/

/-- The fields of a full word (R221). -/
structure Fields where
  op : BitVec 10
  stall : BitVec 3
  brk : Bool
  neg : Bool
  pred : BitVec 3
  d : BitVec 8
  a : BitVec 8
  b : BitVec 8
  m : BitVec 21
  deriving DecidableEq, Repr

/-- The fields of a pair half (R229). -/
structure HalfFields where
  op : BitVec 7
  d : BitVec 6
  a : BitVec 6
  im : Bool
  mx : BitVec 9
  deriving DecidableEq, Repr

/-- The fields of a full word (R221). -/
def fieldsOf (w : DWord) : Fields :=
  { op := w.extractLsb' 53 10, stall := w.extractLsb' 50 3, brk := w.getLsbD 49, neg := w.getLsbD 48,
    pred := w.extractLsb' 45 3, d := w.extractLsb' 37 8, a := w.extractLsb' 29 8,
    b := w.extractLsb' 21 8, m := w.extractLsb' 0 21 }

/-- A full word from its fields (R221). -/
def Fields.word (f : Fields) : DWord :=
  (0#1 ++ f.op ++ f.stall ++ BitVec.ofBool f.brk ++ BitVec.ofBool f.neg ++ f.pred ++ f.d ++ f.a ++ f.b ++
    f.m : BitVec 64)

/-- The fields of a half (R229): X in bits 57 to 29, Y in bits 28 to 0. -/
def halfOf (h : BitVec 29) : HalfFields :=
  { op := h.extractLsb' 22 7, d := h.extractLsb' 16 6, a := h.extractLsb' 10 6, im := h.getLsbD 9,
    mx := h.extractLsb' 0 9 }

/-- A half from its fields (R229). -/
def HalfFields.bits (f : HalfFields) : BitVec 29 :=
  (f.op ++ f.d ++ f.a ++ BitVec.ofBool f.im ++ f.mx : BitVec 29)

/-- The control fields of a full word. -/
def Fields.ctl (f : Fields) : Ctl :=
  { slot := .full, pred := f.pred, neg := f.neg, stall := f.stall, brk := f.brk }

/-! ### Codes of the modifiers (R226, R227, R228) -/

/-- The type of a TYPE code; 12 to 15 are reserved (R226). -/
def tyOf : Nat → Option Ty
  | 0 => some .dflt | 1 => some .s32 | 2 => some .u32 | 3 => some .w64 | 4 => some .f32 | 5 => some .f16
  | 6 => some .bf16 | 7 => some .e4 | 8 => some .e5 | 9 => some .db8 | 10 => some .db6 | 11 => some .db4
  | _ => none

/-- The TYPE code of a type (R226). -/
def Ty.code : Ty → BitVec 4
  | .dflt => 0 | .s32 => 1 | .u32 => 2 | .w64 => 3 | .f32 => 4 | .f16 => 5 | .bf16 => 6 | .e4 => 7
  | .e5 => 8 | .db8 => 9 | .db6 => 10 | .db4 => 11

/-- The rounding mode of an RND code; 5 to 7 are reserved (R226). -/
def rndOf : Nat → Option Rnd
  | 0 => some .rn | 1 => some .rna | 2 => some .rz | 3 => some .ru | 4 => some .rd | _ => none

/-- The RND code of a rounding mode (R226). -/
def Rnd.code : Rnd → BitVec 3
  | .rn => 0 | .rna => 1 | .rz => 2 | .ru => 3 | .rd => 4

/-- The condition of a COND code (R227). -/
def condOf (c : BitVec 3) : Cond :=
  match c.toNat with
  | 0 => .eq | 1 => .ne | 2 => .lt | 3 => .le | 4 => .gt | 5 => .ge | 6 => .num | _ => .nan

/-- The COND code of a condition (R227). -/
def Cond.code : Cond → BitVec 3
  | .eq => 0 | .ne => 1 | .lt => 2 | .le => 3 | .gt => 4 | .ge => 5 | .num => 6 | .nan => 7

/-- The order of an ORDER code (R228). -/
def ordOf (c : BitVec 2) : Order :=
  match c.toNat with
  | 0 => .rlx | 1 => .acq | 2 => .rel | _ => .ar

/-- The ORDER code of an order (R228). -/
def Order.code : Order → BitVec 2
  | .rlx => 0 | .acq => 1 | .rel => 2 | .ar => 3

/-- The scope of a SCOPE code; 6 and 7 are reserved (R228). -/
def scopeOf (c : BitVec 3) : Option Scope :=
  match c.toNat with
  | 0 => some .blk | 1 => some .core | 2 => some .die | 3 => some .dev | 4 => some .fab | 5 => some .sys
  | _ => none

/-- The SCOPE code of a scope (R228). -/
def Scope.code : Scope → BitVec 3
  | .blk => 0 | .core => 1 | .die => 2 | .dev => 3 | .fab => 4 | .sys => 5

/-- The engine context of a 2-bit code (R320). -/
def ctxOf (c : BitVec 2) : Ctx :=
  match c.toNat with
  | 0 => .copy | 1 => .matrix | 2 => .coll | _ => .host

/-- The 2-bit code of an engine context (R320). -/
def Ctx.code : Ctx → BitVec 2
  | .copy => 0 | .matrix => 1 | .coll => 2 | .host => 3

/-! ### Immediates (R223, R230) -/

/-- The value that a 20-bit immediate supplies (R223). -/
def immFull (k : ImmClass) (ty : Ty) (m : BitVec 20) : DWord :=
  match k.of ty with
  | .int | .none => m.signExtend 64
  | .f32 | .f2f => ((m ++ 0#12 : BitVec 32)).setWidth 64
  | .f64 => (m ++ 0#44 : BitVec 64)
  | .pk => ((m.extractLsb' 0 16 ++ m.extractLsb' 0 16 : BitVec 32)).setWidth 64

/-- The 20 bits that encode an immediate's value (R223). -/
def rawFull (k : ImmClass) (ty : Ty) (v : DWord) : BitVec 20 :=
  match k.of ty with
  | .int | .none => v.extractLsb' 0 20
  | .f32 | .f2f => v.extractLsb' 12 20
  | .f64 => v.extractLsb' 44 20
  | .pk => (v.extractLsb' 0 16).setWidth 20

/-- The value that imm9 supplies (R230); BFE and BFI read it as a position and a length (R264). -/
def immHalf (k : ImmClass) (ty : Ty) (bf : Bool) (m : BitVec 9) : DWord :=
  if bf then
    (m.extractLsb' 0 5).setWidth 64 + (((m.extractLsb' 5 4).setWidth 64 : DWord) + 1) * 256
  else
    match k.of ty with
    | .int | .none => m.signExtend 64
    | .f32 | .f2f => ((m ++ 0#23 : BitVec 32)).setWidth 64
    | .f64 => (m ++ 0#55 : BitVec 64)
    | .pk => (((m ++ 0#7 : BitVec 16) ++ (m ++ 0#7 : BitVec 16) : BitVec 32)).setWidth 64

/-- The 9 bits that encode a half's immediate (R230, R264). -/
def rawHalf (k : ImmClass) (ty : Ty) (bf : Bool) (v : DWord) : BitVec 9 :=
  if bf then ((v.extractLsb' 8 6 - 1).extractLsb' 0 4 ++ v.extractLsb' 0 5 : BitVec 9)
  else
    match k.of ty with
    | .int | .none => v.extractLsb' 0 9
    | .f32 | .f2f => v.extractLsb' 23 9
    | .f64 => v.extractLsb' 55 9
    | .pk => v.extractLsb' 7 9

/-- The register index of a field lies in the range of its file (R224). -/
def fieldFits (fu : FU) (i : BitVec 8) : Bool :=
  match fu with
  | .no => i == 0
  | .s _ | .q => i.toNat < 64
  | .p | .pk => i.toNat < 8
  | _ => true

end Sys2Proof
end

