-- ==== Sys2Proof/WellFormed.lean ====
section
/-! DEFINITION. Well-formedness: the instructions that have a word, or a half of a pair word, of their own
(R221 to R231, R240, R262, R299, R463). The device's own steps have no word and are well-formed as they
stand. -/

namespace Sys2Proof

/-- An index of a file of 64 registers. -/
def lt64 (i : BitVec 8) : Bool := i.toNat < 64

/-- Operands of form V, S and X in a full word (R223 to R226, R261, R262). -/
def vFullOk (o : OpInfo) (i : VOp) : Bool :=
  fieldFits o.d i.d &&
  match i.b with
  | .imm v =>
    let raw := rawFull o.imm .dflt v
    o.imm != .none && !o.noDflt && i.ty == .dflt && i.rnd == .rn && !i.sat && !i.x && i.k == 0 &&
      v == immFull o.imm .dflt raw &&
      fieldFits o.a i.a && (if o.c == .no then i.c == 0 else i.c == raw.extractLsb' 0 8 && fieldFits o.c i.c)
  | .reg r =>
    modOk o i.ty i.rnd i.sat i.x i.k && fieldFits o.c i.c && fieldFits o.b r &&
      (if o.one then i.a == 0 else fieldFits o.a i.a)
  | .sreg _ =>
    modOk o i.ty i.rnd i.sat i.x i.k && fieldFits o.c i.c && !o.one && fieldFits o.a i.a && o.sbOk

/-- Operands of form V and S in a half (R229, R230, R261, R264). -/
def vHalfOk (o : OpInfo) (i : VOp) : Bool :=
  let third : BitVec 8 := if o.c == .no || o.c == .pk then 0 else i.d
  lt64 i.d && i.k == 0 &&
  match i.b with
  | .imm v =>
    !o.hNoIm && !o.noDflt && i.ty == .dflt && i.rnd == .rn && !i.sat && !i.x &&
      v == immHalf o.himm .dflt o.bf (rawHalf o.himm .dflt o.bf v) &&
      (if o.one then i.a == 0 && i.c == 0 else lt64 i.a && fieldFits o.a i.a && i.c == third)
  | .reg r =>
    !o.hImOnly && modOk o i.ty i.rnd i.sat i.x 0 && lt64 r &&
      (if o.one || o.a == .no then i.a == 0 && i.c == 0 else i.a == i.d && i.c == third)
  | .sreg _ => false

/-- Operands of a comparison in a full word (R227). -/
def cFullOk (o : OpInfo) (i : COp) : Bool :=
  fieldFits o.a i.a &&
  match i.b with
  | .imm v => i.ty == .dflt && v == immFull o.imm .dflt (rawFull o.imm .dflt v)
  | .reg r => modOk o i.ty .rn false false 0 && fieldFits o.b r
  | .sreg _ => modOk o i.ty .rn false false 0 && o.sbOk

/-- Operands of a comparison in a half: with IM = 0 it compares with zero (R268, R284). -/
def cHalfOk (o : OpInfo) (i : COp) : Bool :=
  !i.u && lt64 i.a &&
  match i.b with
  | .imm v =>
    if i.ty == .dflt then v == immHalf o.himm .dflt false (rawHalf o.himm .dflt false v)
    else v == 0 && modOk o i.ty .rn false false 0
  | _ => false

/-- Operands of form P in a full word: registers only (R267). -/
def pFullOk (o : OpInfo) (i : POp) : Bool :=
  (!o.one || i.a == 0) && (match i.b with | .inl _ => true | .inr _ => false)

/-- Operands of form P in a half (R230, R267). -/
def pHalfOk (o : OpInfo) (i : POp) : Bool :=
  match i.b with
  | .inl _ => if o.one then i.a == 0 else i.a == i.d
  | .inr _ => !o.one || i.a == 0

/-- Operands of form M (R228, R299, R301). -/
def mFullOk (o : OpInfo) (i : MOp) : Bool :=
  fieldFits o.d i.d && fieldFits o.a i.a && memOk o i &&
  match i.off with
  | .bytes n => i.c == immThird o n && i.y == 0 && i.scope == .blk && i.ty == .dflt && i.ord == .rlx
  | .elems _ => true

/-- Operands of forms K, U and Z, by the layout of the row (R271 to R277, R313 to R320, R332 to R349,
R351, R352): each arm states the fields that the row fixes. -/
def kOk (o : OpInfo) (b : Body) : Bool :=
  match o.kind, b with
  | .k0, .k0 => true
  | .bra, .bra _ => true
  | .brx, .brx _ => true
  | .call, .call i => i.adv.toNat ≤ 32 && 1 ≤ i.size.toNat && i.size.toNat ≤ 32 && i.b == 0
  | .callx, .call i => i.adv.toNat ≤ 32 && 1 ≤ i.size.toNat && i.size.toNat ≤ 32 && i.off == 0
  | .ret, .brx i => i.flag || i.a == 0
  | .scbra, .cbra _ | .qbra, .cbra _ => true
  | .ifp, .ifp _ => true
  | .n8, .n8 n => n.toNat ≤ o.max
  | .regroup, .regroup _ => true
  | .sr, .sr i => i.t.toNat < 64 && (i.x || i.t == 0)
  | .fence, .fence i => i.ord != .rlx
  | .flag, .flag _ => true
  | .bar, .bar _ => true
  | .waitp, .waitp _ => true
  | .tl, .tl i =>
    if o.code == 0x193 then i.d == 0
    else if o.code == 0x194 then i.n == 0 && i.scope == .blk
    else i.d.toNat < 8
  | .copy, .copy i => (!i.dt || (i.d.toNat < 16 && o.code != 0x202)) && (o.code != 0x207 || i.b == 0)
  | .coll, .coll i => collOk o i.op i.ty
  | .tlsig, .tlsig _ => true
  | .qadd, .qadd _ => true
  | .qmovi, .qmovi _ => true
  | .q1, .q1 _ => true
  | .mma, .mma i => if o.code == 0x242 then i.ge || i.se else !i.ge && !i.se
  | .tile, .tile i => tileOk o.code i
  | .n20, .n20 n =>
    if o.code == 0x282 then true
    else if o.code == 0x28E then n.extractLsb' 16 4 == 0
    else n.extractLsb' 16 4 == 0 && n.extractLsb' 0 6 == 0
  | .sendui, .sendui _ => true
  | .z, .z i => if o.code == 0x282 then i.d == 0 && i.a.toNat < 64 else zOk o i.d i.a
  | .syscall, .syscall _ => true
  | .trapret, .trapret _ => true
  | .migr, .migr _ => true
  | .wlive, .wlive i => i.nv.toNat ≤ 32 && i.ns.toNat ≤ 8
  | .zq, .zq i => o.code == 0x289 || i.q.toNat < 256
  | .sleepw, .sleepw _ => true
  | _, _ => false

/-- A row, control fields and operands that a word, or a half, can hold. -/
def partsOk (o : OpInfo) (c : Ctl) (b : Body) : Bool :=
  match c.slot with
  | .full =>
    match o.kind, b with
    | .v, .v i => vFullOk o i
    | .cmp, .cmp i => cFullOk o i
    | .pred, .pred i => pFullOk o i
    | .mem, .mem i => mFullOk o i
    | _, _ => kOk o b
  | s =>
    o.code < 0x040 && c.pred == 7 && !c.neg && (s == .y || (c.stall == 0 && !c.brk)) &&
    match o.kind, b with
    | .v, .v i => vHalfOk o i
    | .cmp, .cmp i => cHalfOk o i
    | .pred, .pred i => pHalfOk o i
    | .k0, .k0 => true
    | _, _ => false

/-- The instruction is one that a word of the program can hold (R221 to R231, R262, R463). -/
def Instr.wf (i : Instr) : Bool :=
  match i.info with
  | some (o, c, b) => partsOk o c b
  | none => true

end Sys2Proof
end

