-- ==== Sys2Proof/Decode.lean ====
section
/-! DEFINITION. Decoding of 64-bit instruction words (R221 to R231, R248 to R260) and, after it, their
encoding. `decodeWord` is total: it gives an instruction, a pair, or the name of the reason it does not
(R258, R462, R463). -/

namespace Sys2Proof

/-! ### Decode tables (R238 to R241, R259, R470) -/

/-- The operations that map 2 does not name (R259). -/
def map2New (c : Nat) : Bool :=
  (0x115 ≤ c && c ≤ 0x11C) || (0x19E ≤ c && c ≤ 0x1A0) || c == 0x247 || c == 0x251 ||
  (0x280 ≤ c && c ≤ 0x283) || c == 0x287 || c == 0x288 || c == 0x28A

/-- Map 2 (R259). -/
def map2 (c : Nat) : Option Nat :=
  if (0x180 ≤ c && c ≤ 0x1A3) || (0x240 ≤ c && c ≤ 0x251) then none
  else
    let o := if 0x140 ≤ c && c ≤ 0x163 then c + 0x40
      else if 0x300 ≤ c && c ≤ 0x311 then c - 0xC0
      else if c == 0x08F then 0x0A7
      else if c == 0x0A7 then 0x08F
      else c
    if !assigned o || map2New o then none else some o

/-- A decode table: map 3, map 2, or the entries of a loaded table as read at placement (R239, R241);
`dead` decodes nothing (MAPSEL 0b00, entry 12). -/
inductive DecTable where
  | map3 | map2 | loaded (l : List (BitVec 16)) | dead
  deriving DecidableEq, Repr, Inhabited

/-- The operation number that a table's entry names, if any (R238, R258, R470). -/
def DecTable.look (t : DecTable) (c : Nat) : Option Nat :=
  match t with
  | .map3 => if assigned c then some c else none
  | .map2 => Sys2Proof.map2 c
  | .dead => none
  | .loaded l =>
    let e := l.getD c 0
    let o := (e.extractLsb' 0 10).toNat
    if e.getLsbD 15 && e.extractLsb' 10 5 == 0 && assigned o && (0x080 ≤ c || o < 0x040) then some o else none

/-! ### Decoding of forms V, S, X, C, P (R225, R227, R248, R261) -/

/-- Decodes the operands of form V, S and X in a full word (R225, R248, R261, R262, R463). B is ignored in
the immediate form (R221). There a one-source conversion takes the immediate that its row of R223 gives, and any
other one-source operation, VOTE among them, reads A (R261; entry 14). SB says that B names a scalar (R225), which it does in form S
whatever SB holds. -/
def decV (o : OpInfo) (f : Fields) : Option VOp := do
  let m := f.m
  if m.getLsbD 20 then
    -- immediate form: every modifier takes code 0 (R223)
    if (o.imm == .none && !o.one && o.b != .no) || o.noDflt then none
    if o.imm == .pk && m.extractLsb' 16 4 != 0 then none
    let v := immFull o.imm .dflt (m.extractLsb' 0 20)
    let c := m.extractLsb' 0 8
    if o.one then
      if !fieldFits o.d f.d then none
      else if o.imm != .none then some { d := f.d, b := .imm v }
      else if !fieldFits o.b f.a then none
      else some { d := f.d, b := .reg f.a }
    else
      if !fieldFits o.d f.d || !fieldFits o.a f.a then none
      else if o.b == .no then some { d := f.d, a := f.a }
      else if o.c == .no then some { d := f.d, a := f.a, b := .imm v }
      else if fieldFits o.c c then some { d := f.d, a := f.a, b := .imm v, c := c } else none
  else
    let sb := m.getLsbD 19
    let c := m.extractLsb' 0 8
    if !fieldFits o.d f.d || !fieldFits o.c c then none
    let lut := o.own == .lut
    let ty ← if lut then some .dflt else tyOf (m.extractLsb' 13 4).toNat
    let rnd ← if o.own == .no then rndOf (m.extractLsb' 10 3).toNat else some .rn
    let k : BitVec 8 := if lut then m.extractLsb' 8 8
      else if o.own == .no then 0 else (m.extractLsb' 10 3).setWidth 8
    let sat := !lut && m.getLsbD 9
    let x := !lut && m.getLsbD 8
    if lut && m.extractLsb' 16 3 != 0 then none
    if !lut && m.extractLsb' 17 2 != 0 then none
    if !modOk o ty rnd sat x k then none
    if o.one then
      if f.b != 0 || !fieldFits o.b f.a then none
      else some { d := f.d, b := .reg f.a, c, ty, rnd, sat, x, k }
    else
      if !fieldFits o.a f.a then none
      if sb && o.sbOk then
        if f.b.toNat < 64 then
          some { d := f.d, a := f.a, b := .sreg (f.b.extractLsb' 0 6), c, ty, rnd, sat, x, k }
        else none
      else if fieldFits o.b f.b then some { d := f.d, a := f.a, b := .reg f.b, c, ty, rnd, sat, x, k }
      else none

/-- Decodes form C, and SCMP (R227, R248, R266, R268, R284). -/
def decC (o : OpInfo) (f : Fields) : Option COp := do
  let m := f.m
  if f.d.getLsbD 7 || !fieldFits o.a f.a then none
  let pd := f.d.extractLsb' 0 3
  let cond := condOf (f.d.extractLsb' 3 3)
  let u := f.d.getLsbD 6
  if m.getLsbD 20 then
    some { pd, cond, u, a := f.a, b := .imm (immFull o.imm .dflt (m.extractLsb' 0 20)) }
  else
    let ty ← tyOf (m.extractLsb' 13 4).toNat
    if m.extractLsb' 17 2 != 0 || m.extractLsb' 0 13 != 0 || !modOk o ty .rn false false 0 then none
    if m.getLsbD 19 && o.sbOk then
      if f.b.toNat < 64 then
        some { pd, cond, u, a := f.a, b := .sreg (f.b.extractLsb' 0 6), ty }
      else none
    else if fieldFits o.b f.b then some { pd, cond, u, a := f.a, b := .reg f.b, ty } else none

/-- Decodes form P (R248, R267). -/
def decP (o : OpInfo) (f : Fields) : Option POp :=
  if f.m != 0 || !fieldFits o.d f.d || !fieldFits .p f.a then none
  else if o.one then
    if f.b != 0 then none
    else some { d := f.d.extractLsb' 0 3, b := .inl (f.a.extractLsb' 0 3) }
  else if !fieldFits .p f.b then none
  else some { d := f.d.extractLsb' 0 3, a := f.a.extractLsb' 0 3, b := .inl (f.b.extractLsb' 0 3) }

/-! ### Decoding of form M (R228, R299, R301) -/

/-- Decodes form M (R228, R299, R301, R463, R467). -/
def decM (o : OpInfo) (f : Fields) : Option MOp := do
  let m := f.m
  if !fieldFits o.d f.d || !fieldFits o.a f.a then none
  if m.getLsbD 20 then
    let i : MOp := { d := f.d, a := f.a, off := .bytes (m.extractLsb' 0 20), c := immThird o (m.extractLsb' 0 20) }
    if memOk o i then some i else none
  else
    let scope ← scopeOf (m.extractLsb' 17 3)
    let ty ← tyOf (m.extractLsb' 13 4).toNat
    let i : MOp :=
      { d := f.d, a := f.a, off := .elems f.b, scope, ty, ord := ordOf (m.extractLsb' 11 2),
        y := m.extractLsb' 8 3, c := m.extractLsb' 0 8 }
    if memOk o i then some i else none

/-! ### Decoding of forms K, U and Z -/

/-- `some v` when all listed conditions hold. -/
def when' (c : Bool) (v : α) : Option α := if c then some v else none

/-- Decodes a word of form K, U or Z, or one of the memory operations with fields of their own
(R271 to R277, R313 to R320, R332 to R349, R351, R352). With M[20] = 1 B is ignored (R221), but where the
operation's own rule gives it as 0. -/
def decK (o : OpInfo) (f : Fields) : Option Body :=
  let m := f.m
  let im := m.getLsbD 20
  let z := f.d == 0 && f.a == 0 && f.b == 0
  let q (i : BitVec 8) : Bool := i.toNat < 64
  let l6 (i : BitVec 8) : BitVec 6 := i.extractLsb' 0 6
  match o.kind with
  | .k0 =>
    -- QWAIT.end has M[9:8] = 0; MLEAVE holds M[20] = 1 and M[0]
    if o.code == 0x250 then
      when' (f.d == 0 && f.a == 0 && m == (if o.sub == 1 then 0x100001#21 else 0x100000#21)) .k0
    else when' (z && m == 0) .k0
  | .bra => when' (im && f.d.toNat < 2 && f.a == 0 && f.b == 0)
      (.bra { uni := f.d.getLsbD 0, off := m.extractLsb' 0 20 })
  | .brx => when' (f.d.toNat < 2 && f.b == 0 && m == 0) (.brx { flag := f.d.getLsbD 0, a := f.a })
  | .call => when' (im && f.d.toNat ≤ 32 && 1 ≤ f.a.toNat && f.a.toNat ≤ 32 && f.b == 0)
      (.call { adv := l6 f.d, size := l6 f.a, off := m.extractLsb' 0 20 })
  | .callx => when' (m == 0 && f.d.toNat ≤ 32 && 1 ≤ f.a.toNat && f.a.toNat ≤ 32)
      (.call { adv := l6 f.d, size := l6 f.a, b := f.b })
  | .ret => when' (f.d == 0 && f.b == 0 && (m == 0 && f.a == 0 || m == 0x100#21))
      (.brx { flag := m.getLsbD 8, a := f.a })
  | .scbra => when' (im && f.d.toNat < 64 && f.a.toNat < 16 && f.b == 0)
      (.cbra { a := l6 f.d, cond := condOf (f.a.extractLsb' 0 3), u := f.a.getLsbD 3, off := m.extractLsb' 0 20 })
  | .ifp => when' (f.d == 0 && f.b == 0 && m == 0 && f.a.toNat < 16)
      (.ifp { k := f.a.extractLsb' 0 3, neg := f.a.getLsbD 3 })
  | .n8 => when' (f.d == 0 && f.a == 0 && (o.code == 0x09A || f.b == 0) && im && m.extractLsb' 8 12 == 0 && (m.extractLsb' 0 8).toNat ≤ o.max)
      (.n8 (m.extractLsb' 0 8))
  | .regroup => when' (im && m.extractLsb' 4 16 == 0)
      (.regroup { g := m.extractLsb' 0 4, k := f.d, m1 := f.a })
  | .sr =>
    let r := if o.code == 0x0A1 then f.d else f.a
    -- without X the field of the scalar is unused (R277, R278)
    let t := if !f.b.getLsbD 1 then 0 else if o.code == 0x0A1 then f.a else f.d
    when' (im && f.b.toNat < 4 && q t)
      (.sr { idx := m.extractLsb' 0 20, r, wide := f.b.getLsbD 0, x := f.b.getLsbD 1, t })
  | .fence => do
    let s ← scopeOf (m.extractLsb' 17 3)
    when' (z && !im && m.extractLsb' 13 4 == 0 && m.extractLsb' 0 11 == 0 && m.extractLsb' 11 2 != 0)
      (.fence { ord := ordOf (m.extractLsb' 11 2), scope := s })
  | .flag =>
    -- MARK: Y[0]; TRAPRET.frz: M[1] = 1 and M[0]
    if o.code == 0x18B then when' (z && (m == 0 || m == 0x100#21)) (.flag (m.getLsbD 8))
    else when' (z && (m == 2 || m == 3)) (.flag (m.getLsbD 0))
  | .bar => when' (f.d == 0 && f.a == 0 && f.b.toNat < 16 && (m == 0 || m == 0x100#21))
      (.bar { b := f.b.extractLsb' 0 4, arv := m.getLsbD 8 })
  | .waitp => when' (f.d.toNat < 16 && q f.a && f.b == 0 && m == 0)
      (.waitp { path := f.d.extractLsb' 0 3, all := f.d.getLsbD 3, a := l6 f.a })
  | .tl =>
    let ord := m.extractLsb' 11 2
    match o.code with
    | 0x193 => do
      let s ← scopeOf (m.extractLsb' 17 3)
      when' (!im && f.d.toNat < 4 && q f.a && f.b == 0 && ord == 1 && m.extractLsb' 13 4 == 0 && m.extractLsb' 0 11 == 0)
        (.tl { ctx := ctxOf (f.d.extractLsb' 0 2), n := l6 f.a, scope := s })
    | 0x194 => when' (m == 0 && q f.d && f.a.toNat < 4 && f.b == 0)
        (.tl { ctx := ctxOf (f.a.extractLsb' 0 2), d := l6 f.d })
    | _ => do
      let s ← scopeOf (m.extractLsb' 17 3)
      when' (!im && f.d.toNat < 32 && q f.a && f.b == 0 && ord == 1 && m.extractLsb' 13 4 == 0 && m.extractLsb' 0 11 == 0)
        (.tl { ctx := ctxOf (f.d.extractLsb' 3 2), n := l6 f.a, d := (f.d.extractLsb' 0 3).setWidth 6, scope := s })
  | .copy => when' (!im && q f.d && q f.a && q f.b && m.extractLsb' 8 10 == 0 && q (m.extractLsb' 0 8) &&
        (!m.getLsbD 19 || (f.d.toNat < 16 && o.code != 0x202)) && (o.code != 0x207 || f.b == 0))
      (.copy { d := l6 f.d, a := l6 f.a, b := l6 f.b, x := m.extractLsb' 0 6, dt := m.getLsbD 19,
               bar := m.getLsbD 18 })
  | .coll => do
    let ty ← tyOf (m.extractLsb' 13 4).toNat
    let op := m.extractLsb' 17 3
    when' (!im && f.d == 0 && q f.a && q f.b && m.extractLsb' 0 10 == 0 && collOk o op ty)
      (.coll { op, ty, lv := m.extractLsb' 10 3, a := l6 f.a, b := l6 f.b })
  | .tlsig => when' (m == 0 && f.d.toNat < 4 && q f.a && f.b.toNat < 16)
      (.tlsig { ctx := ctxOf (f.d.extractLsb' 0 2), a := l6 f.a, b := f.b.extractLsb' 0 4 })
  | .qadd =>
    if im then when' (q f.d && q f.a) (.qadd { d := l6 f.d, a := l6 f.a, b := .inr (m.extractLsb' 0 20) })
    else when' (q f.d && q f.a && q f.b && m == 0) (.qadd { d := l6 f.d, a := l6 f.a, b := .inl (l6 f.b) })
  | .qmovi => when' (im && q f.d && f.a.toNat < 8 && f.b == 0 && m.extractLsb' 16 4 == 0)
      (.qmovi { d := l6 f.d, imm := m.extractLsb' 0 16, h := f.a.extractLsb' 0 2, z := f.a.getLsbD 2 })
  | .qbra => when' (im && !f.d.getLsbD 7 && f.d.extractLsb' 0 3 == 0 && q f.a && f.b == 0)
      (.cbra { a := l6 f.a, cond := condOf (f.d.extractLsb' 3 3), u := f.d.getLsbD 6, off := m.extractLsb' 0 20 })
  | .q1 =>
    -- QWAIT.until: M[9:8] = 1; MCOOP: M = 0
    when' (f.d == 0 && f.b == 0 && q f.a && m == (if o.code == 0x20D then 0x100#21 else 0)) (.q1 (l6 f.a))
  | .mma =>
    let ge := m.getLsbD 17
    let se := m.getLsbD 16
    when' (!im && f.d.toNat < 16 && q f.a && q f.b && m.extractLsb' 8 8 == 0 && q (m.extractLsb' 0 8) &&
        (if o.code == 0x242 then ge || se else !ge && !se))
      (.mma { d := f.d.extractLsb' 0 4, a := l6 f.a, b := l6 f.b, l := m.extractLsb' 0 6, pin := m.getLsbD 19,
              coop := m.getLsbD 18, ge, se })
  | .tile => do
    let ty ← tyOf (m.extractLsb' 12 4).toNat
    let t : TileOp := { d := l6 f.d, a := l6 f.a, b := l6 f.b, c := m.extractLsb' 0 6, ty, mode := m.extractLsb' 8 4 }
    when' (!im && q f.d && q f.a && q f.b && q (m.extractLsb' 0 8) && m.extractLsb' 16 4 == 0 && tileOk o.code t) (.tile t)
  | .n20 =>
    -- MFMT, UIMASK.hnd and BKPT (R340, R352)
    match o.code with
    | 0x282 => when' (im && f.d == 3 && f.a == 0 && f.b == 0) (.n20 (m.extractLsb' 0 20))
    | 0x28E => when' (im && z && m.extractLsb' 16 4 == 0) (.n20 (m.extractLsb' 0 20))
    | _ => when' (im && f.d == 0 && f.a == 0 && m.extractLsb' 16 4 == 0 && m.extractLsb' 0 6 == 0) (.n20 (m.extractLsb' 0 20))
  | .sendui => when' (q f.a && f.b.toNat < 64 && (m == 0 || m == 0x100#21))
      (.sendui { peer := m.getLsbD 8, a := l6 f.a, v := l6 f.b, d := f.d })
  | .z => when' (f.b == 0 && m == (zModes o) && zOk o f.d f.a) (.z { d := zD o f.d, a := f.a })
  | .syscall =>
    if im then when' (m.extractLsb' 12 8 == 0) (.syscall { d := f.d, a := f.a, n := .inr (m.extractLsb' 0 12) })
    else when' (m == 0) (.syscall { d := f.d, a := f.a, n := .inl f.b })
  | .trapret => when' (f.b == 0 && m.toNat < 2) (.trapret { k := f.d, m1 := f.a, skip := m.getLsbD 0 })
  | .migr => when' (z && im && m.extractLsb' 4 16 == 0) (.migr { named := m.getLsbD 3, rep := m.extractLsb' 0 3 })
  | .wlive => when' (z && im && m.extractLsb' 12 8 == 0 && m.extractLsb' 6 2 == 0 &&
        (m.extractLsb' 0 6).toNat ≤ 32 && (m.extractLsb' 8 4).toNat ≤ 8)
      (.wlive { nv := m.extractLsb' 0 6, ns := m.extractLsb' 8 4 })
  | .zq => when' (im && f.d == 0 && f.b == 0 &&
        (if o.code == 0x289 then m.extractLsb' 9 11 == 0 else m.extractLsb' 8 12 == 0))
      (.zq { a := f.a, q := m.extractLsb' 0 9 })
  | .sleepw => when' (q f.d && (m == 0 || m == 0x100#21)) (.sleepw { d := l6 f.d, a := f.a, b := f.b, v := m.getLsbD 8 })
  | .v | .cmp | .pred | .mem => none

/-! ### Full words, halves and pairs -/

/-- The rows of a code differ by a field: the operation of CCTL and MCPRED (Y), UIMASK (D), MAPCTL
(M[11:8]), QWAIT (M[9:8]), MLEAVE and TRAPRET (M). -/
def subOf (code : Nat) (f : Fields) : Nat :=
  match code with
  | 0x195 => if f.m.getLsbD 20 then 0 else (f.m.extractLsb' 8 3).toNat
  | 0x19F => if f.m.getLsbD 20 then 0 else (f.m.extractLsb' 8 3).toNat
  | 0x20D => (f.m.extractLsb' 8 2).toNat
  | 0x250 => (f.m.extractLsb' 0 1).toNat
  | 0x282 => (f.d.extractLsb' 0 2).toNat
  | 0x286 => (f.m.extractLsb' 1 1).toNat
  | 0x28C => (f.m.extractLsb' 8 4).toNat
  | _ => 0

/-- Decodes the operands of a full word whose operation is known. -/
def decFull (code : Nat) (f : Fields) : Option Instr := do
  let o ← opInfo code (subOf code f)
  let body ← match o.kind with
    | .v => (decV o f).map Body.v
    | .cmp => (decC o f).map Body.cmp
    | .pred => (decP o f).map Body.pred
    | .mem => (decM o f).map Body.mem
    | _ => decK o f
  mkInstr o.code o.sub f.ctl body

/-- Decodes the operands of a pair half (R229, R230, R261, R264, R268, R282, R284). -/
def decHalf (code : Nat) (slot : Slot) (stall : BitVec 3) (brk : Bool) (h : HalfFields) : Option Instr := do
  let o ← opInfo code 0
  let c : Ctl := { slot, stall, brk }
  let d8 : BitVec 8 := h.d.setWidth 8
  let a8 : BitVec 8 := h.a.setWidth 8
  let body ← match o.kind with
    | .v =>
      if h.im then
        if o.hNoIm || o.noDflt then none
        else
          let b := Src.imm (immHalf o.himm .dflt o.bf h.mx)
          let third : BitVec 8 := if o.c == .no || o.c == .pk then 0 else d8
          if o.one then some (Body.v { d := d8, b })
          else if !fieldFits o.a a8 then none
          else some (Body.v { d := d8, a := a8, b, c := third })
      else do
        let ty ← tyOf (h.mx.extractLsb' 5 4).toNat
        let rnd ← rndOf (h.mx.extractLsb' 2 3).toNat
        let sat := h.mx.getLsbD 1
        let x := h.mx.getLsbD 0
        if o.hImOnly || !modOk o ty rnd sat x 0 then none
        else if o.one || o.a == .no then some (Body.v { d := d8, b := .reg a8, ty, rnd, sat, x })
        else some (Body.v { d := d8, a := d8, b := .reg a8, c := if o.c == .no || o.c == .pk then 0 else d8, ty, rnd, sat, x })
    | .cmp => do
      let pd := h.d.extractLsb' 0 3
      let cond := condOf (h.d.extractLsb' 3 3)
      if h.im then some (Body.cmp { pd, cond, a := a8, b := .imm (immHalf o.himm .dflt false h.mx) })
      else
        let ty ← tyOf (h.mx.extractLsb' 5 4).toNat
        if h.mx.extractLsb' 0 5 != 0 || !modOk o ty .rn false false 0 then none
        else some (Body.cmp { pd, cond, a := a8, b := .imm 0, ty })
    | .pred =>
      if !(h.d.toNat < 8) || (!h.im && h.mx != 0) then none
      else if h.im then
        if o.one then some (Body.pred { d := h.d.extractLsb' 0 3, b := .inr (h.mx.getLsbD 0) })
        else if !(h.a.toNat < 8) then none
        else some (Body.pred { d := h.d.extractLsb' 0 3, a := h.a.extractLsb' 0 3, b := .inr (h.mx.getLsbD 0) })
      else if !(h.a.toNat < 8) then none
      else if o.one then some (Body.pred { d := h.d.extractLsb' 0 3, b := .inl (h.a.extractLsb' 0 3) })
      else some (Body.pred { d := h.d.extractLsb' 0 3, a := h.d.extractLsb' 0 3, b := .inl (h.a.extractLsb' 0 3) })
    | .k0 => if h.d == 0 && h.a == 0 && !h.im && h.mx == 0 then some Body.k0 else none
    | _ => none
  mkInstr o.code o.sub c body

/-- A register counts once however many operands read it (R231). -/
def dedup (l : List RegUse) : List RegUse :=
  l.foldl (fun acc r => if acc.contains r then acc else acc ++ [r]) []

/-- The operands of a half in their roles, whatever its modifiers (R229, R231, R261): the rules of R231 are checked
before those of R463 (R462). -/
def halfBody (o : OpInfo) (h : HalfFields) : Body :=
  let d8 : BitVec 8 := h.d.setWidth 8
  let a8 : BitVec 8 := h.a.setWidth 8
  let x := !h.im && h.mx.getLsbD 0
  match o.kind with
  | .v =>
    let third : BitVec 8 := if o.c == .no || o.c == .pk then 0 else d8
    if h.im then .v { d := d8, a := if o.one then 0 else a8, b := .imm 0, c := if o.one then 0 else third }
    else if o.one || o.a == .no then .v { d := d8, b := .reg a8, x }
    else .v { d := d8, a := d8, b := .reg a8, c := third, x }
  | .cmp => .cmp { pd := h.d.extractLsb' 0 3, cond := condOf (h.d.extractLsb' 3 3), a := a8, b := .imm 0 }
  | .pred =>
    let d := h.d.extractLsb' 0 3
    let a := h.a.extractLsb' 0 3
    if h.im then .pred { d, a := if o.one then 0 else a, b := .inr false }
    else .pred { d, a := if o.one then 0 else d, b := .inl a }
  | _ => .k0

/-- A scalar operation (R231, R266). -/
def OpInfo.isScalar (o : OpInfo) : Bool := match o.b with | .s _ => true | _ => false

/-- The number of the first rule of R231 that the operands of a pair's halves break, 1 to 5, if any (R408 code 0x02). -/
def pairRule (ox oy : OpInfo) (bx by' : Body) : Option Nat :=
  let bank (r : RegUse) : RFile × Nat := (r.file, r.idx % 4)
  let rx := bodyReads ox bx
  let ry := bodyReads oy by'
  let wx := bodyWrites ox bx
  let reads := dedup (rx ++ ry)
  if wx.any (fun r => (bodyWrites oy by').any (fun r' => bank r == bank r')) then some 1
  else if reads.any (fun r => (reads.filter (fun r' => bank r' == bank r)).length > 2) then some 2
  else if ry.any (fun r => wx.contains r) then some 3
  else if ox.isScalar && oy.isScalar then some 4
  else if ox.code < 0x040 && oy.code < 0x040 then none else some 5

/-- What a 64-bit word is: an instruction, a pair, an empty entry (R258), a statically illegal word
(R463), or a pair that breaks a rule of R231. -/
inductive Decoded where
  | instr (code : Nat) (i : Instr)
  | pair (cx cy : Nat) (x y : Instr)
  | empty
  | illegal (code : Nat)
  | badPair (rule : Nat)
  deriving DecidableEq, Repr

/-- Decoding of a pair word (R229 to R231, R258, R462, R463). -/
def decodePair (t : DecTable) (w : DWord) : Decoded :=
  let stall := w.extractLsb' 60 3
  let brk := w.getLsbD 59
  let hx := halfOf (w.extractLsb' 29 29)
  let hy := halfOf (w.extractLsb' 0 29)
  match (t.look hx.op.toNat).bind opRow, (t.look hy.op.toNat).bind opRow with
  | some ox, some oy =>
    match pairRule ox oy (halfBody ox hx) (halfBody oy hy) with
    | some r => .badPair r
    | none =>
      match decHalf ox.code .x 0 false hx, decHalf oy.code .y stall brk hy with
      | some x, some y => if w.getLsbD 58 then .illegal ox.code else .pair ox.code oy.code x y
      | _, _ => .illegal ox.code
  | _, _ => .empty

/-- Decoding of a word under a table (R221, R238, R258). -/
def decodeWord (t : DecTable) (w : DWord) : Decoded :=
  if w.getLsbD 63 then decodePair t w
  else
    let f := fieldsOf w
    match t.look f.op.toNat with
    | none => .empty
    | some code =>
      match decFull code f with
      | some i => .instr code i
      | none => .illegal code

/-- The instruction that map 3 reads from a word, numbered as spec/opcode_table.json numbers bits. The
word is laid out as 8 little-endian bytes (R5) and read back. -/
def wordBytes (w : DWord) : List Byte := (List.range 8).map fun i => w.extractLsb' (8 * i) 8

/-- The little-endian value of a list of bytes (R5). -/
def bytesLE : List Byte → Nat
  | [] => 0
  | b :: bs => b.toNat + 256 * bytesLE bs

/-- What the decoder reads from an instruction of the table (the host's question): bits above `nbits`
are zero. -/
def decodeTableWord (nbits w : Nat) : Option Instr :=
  let bytes := wordBytes (BitVec.ofNat 64 (w % 2 ^ nbits))
  match decodeWord .map3 (BitVec.ofNat 64 (bytesLE bytes)) with
  | .instr _ i => some i
  | _ => none


/-! ### Encoding (R221 to R231) -/

/-- The operand fields of a full word: D, A, B and M. -/
structure OpndFields where
  d : BitVec 8 := 0
  a : BitVec 8 := 0
  b : BitVec 8 := 0
  m : BitVec 21 := 0
  deriving DecidableEq, Repr

/-- M of an immediate form (R223). -/
def mImm (n : BitVec 20) : BitVec 21 := 1#1 ++ n

/-- M of a register form of an arithmetic, conversion or comparison operation (R225). -/
def mReg (sb : Bool) (ty : Ty) (rnd : BitVec 3) (sat x : Bool) (c : BitVec 8) : BitVec 21 :=
  (0#1 ++ BitVec.ofBool sb ++ 0#2 ++ ty.code ++ rnd ++ BitVec.ofBool sat ++ BitVec.ofBool x ++ c : BitVec 21)

/-- Encodes form V, S and X (R225, R248, R261, R262). -/
def encV (o : OpInfo) (i : VOp) : OpndFields :=
  let m (sb : Bool) : BitVec 21 :=
    match o.own with
    | .no => mReg sb i.ty i.rnd.code i.sat i.x i.c
    | .lut => (0#1 ++ BitVec.ofBool sb ++ 0#3 ++ i.k ++ i.c : BitVec 21)
    | .mode _ => mReg sb i.ty (i.k.extractLsb' 0 3) i.sat i.x i.c
  match i.b with
  | .imm v => { d := i.d, a := i.a, m := mImm (rawFull o.imm .dflt v) }
  | .reg r => if o.one then { d := i.d, a := r, m := m false } else { d := i.d, a := i.a, b := r, m := m false }
  | .sreg r => { d := i.d, a := i.a, b := r.setWidth 8, m := m true }

/-- Encodes form C and SCMP (R227). -/
def encC (o : OpInfo) (i : COp) : OpndFields :=
  let d : BitVec 8 := (0#1 ++ BitVec.ofBool i.u ++ i.cond.code ++ i.pd : BitVec 8)
  match i.b with
  | .imm v => { d, a := i.a, m := mImm (rawFull o.imm .dflt v) }
  | .reg r => { d, a := i.a, b := r, m := mReg false i.ty 0 false false 0 }
  | .sreg r => { d, a := i.a, b := r.setWidth 8, m := mReg true i.ty 0 false false 0 }

/-- Encodes form P (R267). -/
def encP (o : OpInfo) (i : POp) : OpndFields :=
  let b : BitVec 8 := match i.b with | .inl r => r.setWidth 8 | .inr _ => 0
  if o.one then { d := i.d.setWidth 8, a := b } else { d := i.d.setWidth 8, a := i.a.setWidth 8, b }

/-- Encodes form M (R228). -/
def encM (i : MOp) : OpndFields :=
  match i.off with
  | .bytes n => { d := i.d, a := i.a, m := mImm n }
  | .elems n =>
    { d := i.d, a := i.a, b := n, m := (0#1 ++ i.scope.code ++ i.ty.code ++ i.ord.code ++ i.y ++ i.c : BitVec 21) }

/-- M with ORDER acquire and a scope (R228, R320). -/
def mAcq (s : Scope) : BitVec 21 := (0#1 ++ s.code ++ 0#4 ++ 1#2 ++ 0#11 : BitVec 21)

/-- Encodes forms K, U and Z (R271 to R277, R313 to R320, R332 to R349, R351, R352). -/
def encK (o : OpInfo) (b : Body) : OpndFields :=
  let w (r : BitVec 6) : BitVec 8 := r.setWidth 8
  let bit (x : Bool) : BitVec 8 := (BitVec.ofBool x).setWidth 8
  let y0 (x : Bool) : BitVec 21 := if x then 0x100 else 0
  match b with
  | .k0 => { m := if o.code == 0x250 then (if o.sub == 1 then 0x100001 else 0x100000) else 0 }
  | .bra i => { d := bit i.uni, m := mImm i.off }
  | .brx i => if o.kind == .ret then { a := i.a, m := y0 i.flag } else { d := bit i.flag, a := i.a }
  | .call i =>
    if o.kind == .call then { d := w i.adv, a := w i.size, m := mImm i.off }
    else { d := w i.adv, a := w i.size, b := i.b }
  | .cbra i =>
    if o.kind == .scbra then
      { d := w i.a, a := (0#4 ++ BitVec.ofBool i.u ++ i.cond.code : BitVec 8), m := mImm i.off }
    else { d := (0#1 ++ BitVec.ofBool i.u ++ i.cond.code ++ 0#3 : BitVec 8), a := w i.a, m := mImm i.off }
  | .ifp i => { a := (0#4 ++ BitVec.ofBool i.neg ++ i.k : BitVec 8) }
  | .n8 n => { m := mImm (n.setWidth 20) }
  | .regroup i => { d := i.k, a := i.m1, m := mImm (i.g.setWidth 20) }
  | .sr i =>
    let f : BitVec 8 := (0#6 ++ BitVec.ofBool i.x ++ BitVec.ofBool i.wide : BitVec 8)
    if o.code == 0x0A1 then { d := i.r, a := i.t, b := f, m := mImm i.idx }
    else { d := i.t, a := i.r, b := f, m := mImm i.idx }
  | .fence i => { m := (0#1 ++ i.scope.code ++ 0#4 ++ i.ord.code ++ 0#11 : BitVec 21) }
  | .flag x => if o.code == 0x18B then { m := y0 x } else { m := if x then 3 else 2 }
  | .bar i => { b := i.b.setWidth 8, m := y0 i.arv }
  | .waitp i => { d := (0#4 ++ BitVec.ofBool i.all ++ i.path : BitVec 8), a := w i.a }
  | .tl i =>
    if o.code == 0x193 then { d := i.ctx.code.setWidth 8, a := w i.n, m := mAcq i.scope }
    else if o.code == 0x194 then { d := w i.d, a := i.ctx.code.setWidth 8 }
    else { d := (0#3 ++ i.ctx.code ++ i.d.extractLsb' 0 3 : BitVec 8), a := w i.n, m := mAcq i.scope }
  | .copy i =>
    { d := w i.d, a := w i.a, b := w i.b,
      m := (0#1 ++ BitVec.ofBool i.dt ++ BitVec.ofBool i.bar ++ 0#12 ++ i.x : BitVec 21) }
  | .coll i => { a := w i.a, b := w i.b, m := (0#1 ++ i.op ++ i.ty.code ++ i.lv ++ 0#10 : BitVec 21) }
  | .tlsig i => { d := i.ctx.code.setWidth 8, a := w i.a, b := i.b.setWidth 8 }
  | .qadd i =>
    match i.b with
    | .inl r => { d := w i.d, a := w i.a, b := w r }
    | .inr n => { d := w i.d, a := w i.a, m := mImm n }
  | .qmovi i =>
    { d := w i.d, a := (0#5 ++ BitVec.ofBool i.z ++ i.h : BitVec 8), m := mImm (i.imm.setWidth 20) }
  | .q1 a => { a := w a, m := if o.code == 0x20D then 0x100 else 0 }
  | .mma i =>
    { d := i.d.setWidth 8, a := w i.a, b := w i.b,
      m := (0#1 ++ BitVec.ofBool i.pin ++ BitVec.ofBool i.coop ++ BitVec.ofBool i.ge ++ BitVec.ofBool i.se ++
            0#10 ++ i.l : BitVec 21) }
  | .tile i => { d := w i.d, a := w i.a, b := w i.b, m := (0#5 ++ i.ty.code ++ i.mode ++ 0#2 ++ i.c : BitVec 21) }
  | .n20 n => { d := if o.code == 0x282 then 3 else 0, m := mImm n }
  | .sendui i => { d := i.d, a := w i.a, b := w i.v, m := y0 i.peer }
  | .z i => { d := if o.code == 0x282 then BitVec.ofNat 8 o.sub else i.d, a := i.a, m := zModes o }
  | .syscall i =>
    match i.n with
    | .inl r => { d := i.d, a := i.a, b := r }
    | .inr n => { d := i.d, a := i.a, m := mImm (n.setWidth 20) }
  | .trapret i => { d := i.k, a := i.m1, m := if i.skip then 1 else 0 }
  | .migr i => { m := mImm (0#16 ++ BitVec.ofBool i.named ++ i.rep : BitVec 20) }
  | .wlive i => { m := mImm (0#8 ++ i.ns ++ 0#2 ++ i.nv : BitVec 20) }
  | .zq i => { a := i.a, m := mImm (i.q.setWidth 20) }
  | .sleepw i => { d := w i.d, a := i.a, b := i.b, m := y0 i.v }
  | .v _ | .cmp _ | .pred _ | .mem _ => {}

/-- The operand fields of a full word (R221). -/
def encOpnds (o : OpInfo) (b : Body) : OpndFields :=
  match b with
  | .v i => encV o i
  | .cmp i => encC o i
  | .pred i => encP o i
  | .mem i => encM i
  | b => encK o b

/-- The full word of an instruction under map 3 (R221, R238); a device step has none. -/
def encode (i : Instr) : Option DWord :=
  match i.info with
  | some (o, c, b) =>
    let e := encOpnds o b
    some (Fields.word { op := BitVec.ofNat 10 o.code, stall := c.stall, brk := c.brk, neg := c.neg, pred := c.pred,
                        d := e.d, a := e.a, b := e.b, m := e.m })
  | none => none

/-- The half of an instruction under map 3 (R229, R230, R264, R267, R268). -/
def encodeHalf (i : Instr) : Option (BitVec 29) :=
  match i.info with
  | some (o, _, b) =>
    let sub (ty : Ty) (rnd : BitVec 3) (sat x : Bool) : BitVec 9 :=
      (ty.code ++ rnd ++ BitVec.ofBool sat ++ BitVec.ofBool x : BitVec 9)
    let op := BitVec.ofNat 7 o.code
    let l6 (r : BitVec 8) : BitVec 6 := r.extractLsb' 0 6
    let h : HalfFields :=
      match b with
      | .v v =>
        match v.b with
        | .imm n => { op, d := l6 v.d, a := l6 v.a, im := true, mx := rawHalf o.himm .dflt o.bf n }
        | .reg r => { op, d := l6 v.d, a := l6 r, im := false, mx := sub v.ty v.rnd.code v.sat v.x }
        | .sreg r => { op, d := l6 v.d, a := r, im := false, mx := 0 }
      | .cmp v =>
        let d : BitVec 6 := v.cond.code ++ v.pd
        match v.b with
        | .imm n =>
          if v.ty == .dflt then { op, d, a := l6 v.a, im := true, mx := rawHalf o.himm .dflt false n }
          else { op, d, a := l6 v.a, im := false, mx := sub v.ty 0 false false }
        | _ => { op, d, a := l6 v.a, im := false, mx := 0 }
      | .pred v =>
        match v.b with
        | .inl r => { op, d := v.d.setWidth 6, a := r.setWidth 6, im := false, mx := 0 }
        | .inr x => { op, d := v.d.setWidth 6, a := v.a.setWidth 6, im := true, mx := (BitVec.ofBool x).setWidth 9 }
      | _ => { op, d := 0, a := 0, im := false, mx := 0 }
    some h.bits
  | none => none

/-- The pair word of two halves (R229); STALL and BRK are those of half Y. -/
def encodePair (x y : Instr) : Option DWord :=
  match encodeHalf x, encodeHalf y with
  | some hx, some hy => some ((1#1 ++ y.ctl.stall ++ BitVec.ofBool y.ctl.brk ++ 0#1 ++ hx ++ hy : BitVec 64))
  | _, _ => none

end Sys2Proof
end

