-- ==== Sys2Proof/Machine/Event.lean ====
section
/-! DEFINITION. The device's own steps and what reaches it from outside, as data that the state can hold
(the due steps and the schedule). Each is a constructor of `Instr` with the same name and operands. -/

namespace Sys2Proof

/-- A step of the device or of a party around it: the rows of spec/opcode_table.json that have no word. -/
inductive Event where
  | wheyArrival (core : Nat)
  | replicaAdvertisement
  | doorbell (host : Bool) (asid : Nat) (v : DWord)
  | hqRecordRead (die q : Nat)
  | entryGrant (die q : Nat)
  | launchPlacement (die : Nat)
  | unitSave (u : Nat)
  | forcedSave (u : Nat)
  | saveDrainTimeout (u : Nat)
  | unitRestore (u : Nat)
  | slotFiring (i : Nat)
  | nodeFlushTimeout (asid node : Nat)
  | blockRetirement (b : Nat)
  | launchCompletion (l : Nat)
  | accessCompletion (a : Nat)
  | engineOpBegin (b : Nat) (ctx : Ctx) (n : Nat)
  | engineOpCompletion (b : Nat) (ctx : Ctx) (n : Nat)
  | leaveGrant (die : Nat)
  | leaveExpiry (b : Nat) (ctx : Ctx)
  | sleepwWake (r : SliceRef)
  | hostUiSend (port : Nat) (pasid : BitVec 20) (data : BitVec 128)
  | uiDelivery (asid : Nat)
  | hostSyscallEnd (port : Nat) (pasid : BitVec 20) (data : BitVec 128)
  | transientRequest (m : ReqMsg)
  | transientTimeout (die sec : Nat)
  | tokenArrival (m : TokMsg)
  | writeBack (m : TokMsg)
  | pressRequest (m : PressReq)
  | pressActivation (agent : Nat) (m : PressReq)
  | pressDeactivation (sec : Nat) (src : Holder)
  | pressClear (agent sec : Nat)
  | hostSnoop (port sec : Nat) (kind : Snoop)
  | cxlMemAccess (pa : PortAddr) (req : BarReq)
  | kickNoticeArrival (n : Notice)
  | kickRetry (n : Notice)
  | copyEnginePull (core : Nat)
  | markerCopy (m : Marker)
  | markerCompletion (id dev : Nat)
  | vectorRead (p : VPkt)
  | vectorWrite (p : VPkt)
  | vectorAtomic (p : VPkt)
  | readResponse (rid : Nat) (data : List DWord)
  | writeAcceptance (rid : Nat) (code : BitVec 8)
  | atomicResponse (rid : Nat) (data : List DWord)
  | collectiveChunk (b : Nat) (n : Nat)
  | fabricRequestTimeout (rid : Nat)
  | turning (die : Nat)
  | linkReplay (l : LinkRef)
  | linkDown (l : LinkRef)
  | tokenRecreation (sec : Nat)
  | census (agent sec : Nat) (ser : BitVec 8)
  | routeWithdrawal (dev : Nat)
  | hostCompletion (tag : Nat) (st : HStat) (data : BitVec 128)
  | hostCompletionTimeout (tag : Nat)
  | handlerGangClose (die : Nat)
  | blockResume (b : Nat)
  | watchdog (b : Nat) (gang : Option Nat)
  | cxYreq (asid : Nat) (v : DWord)
  | cxHalt (asid : Nat) (v : DWord)
  | dvGtimeSet (v : DWord)
  | ppsPulse
  | dvLostClr (v : DWord)
  | ovfClear (r : RingRef)
  | errorCounterClear (r : DvReg)
  | registerWrite (r : RegTarget) (v : BitVec 256)
  | capWrite (cap : BitVec 2)
  | levelRise
  | boot (image : List Byte)
  | firmwarePush (image : List Byte)
  | supplyReplan
  | identityRead (off len : Nat)
  | getVersion
  | getCapabilities
  | negotiateAlgorithms
  | getDigests
  | getCertificate
  | challenge (nonce : List Byte)
  | getMeasurements
  | evacGo (v : DWord)
  | evacCopying
  | evacDraining
  | evacLatchFree
  | evacFailure (cause : BitVec 8)
  | emptyEntryWord (w : DWord)
  | mainSupplyLoss
  | linkUp (l : LinkRef)
  | rangeExport (base len t : Nat) (devs : List Nat)
  | tokenMessageExpiry (m : TokMsg)
  | qwaitDeadline (b : Nat)
  | peerSend (dev asid : Nat) (target : Nat) (v : BitVec 6) (p : DWord)
  | barMemoryAccess (port pa : Nat) (req : BarReq)
  | goDataResponse (port sec : Nat) (st : CxlState) (data : Option Sector)
  | pressAcknowledgement (agent sec : Nat) (act : Bool)
  | pageWalkEnd (die asid page : Nat)
  deriving DecidableEq, Repr, Inhabited

end Sys2Proof
end

