-- ==== Sys2Proof/Machine/Map.lean ====
section
/-! DEFINITION. Sparse data by number: lists of (key, value) pairs with strictly rising keys, and byte
memories, which also list no byte equal to what an unlisted address reads as (entry 1: zero). -/

namespace Sys2Proof

/-- Looks a key up. -/
def mget (l : List (Nat × α)) (k : Nat) : Option α :=
  match l with
  | [] => none
  | (i, v) :: r => if k == i then some v else mget r k

/-- Sets a key, keeping the keys rising. -/
def mset (l : List (Nat × α)) (k : Nat) (v : α) : List (Nat × α) :=
  match l with
  | [] => [(k, v)]
  | (i, w) :: r => if k < i then (k, v) :: (i, w) :: r else if k == i then (k, v) :: r else (i, w) :: mset r k v

/-- Removes a key. -/
def mdel (l : List (Nat × α)) (k : Nat) : List (Nat × α) :=
  match l with
  | [] => []
  | (i, w) :: r => if k == i then mdel r k else (i, w) :: mdel r k

/-- The keys rise strictly. -/
def mwf : List (Nat × α) → Bool
  | [] => true
  | [_] => true
  | (i, _) :: (j, w) :: r => decide (i < j) && mwf ((j, w) :: r)

/-- Looks a key up in a map whose unlisted keys hold `d`. -/
def mgetD (l : List (Nat × α)) (k : Nat) (d : α) : α := (mget l k).getD d

/-- Sets a key of a map whose unlisted keys hold `d`. -/
def msetD [DecidableEq α] (l : List (Nat × α)) (k : Nat) (v d : α) : List (Nat × α) :=
  if v = d then mdel l k else mset l k v

/-- A byte memory (R5). -/
abbrev Memory := List Host.Cell

/-- The canonical form of a byte memory: rising addresses, no zero byte listed (entry 1). -/
def Memory.wf (m : Memory) : Bool := mwf m && m.all fun c => c.2 != 0

/-- What a byte address reads as; an unlisted address reads 0 (entry 1). -/
def Memory.byte (m : Memory) (a : Nat) : Byte := mgetD m a 0

/-- Writes one byte. -/
def Memory.setByte (m : Memory) (a : Nat) (v : Byte) : Memory := msetD m a v 0

/-- The `n` bytes from an address, as a little-endian number (R5). -/
def Memory.readN (m : Memory) (a : Nat) : Nat → Nat
  | 0 => 0
  | n + 1 => (m.byte a).toNat + 256 * Memory.readN m (a + 1) n

/-- Writes the low `n` bytes of a number, little-endian (R5). -/
def Memory.writeN (m : Memory) (a : Nat) (n : Nat) (v : Nat) : Memory :=
  match n with
  | 0 => m
  | n + 1 => Memory.writeN (m.setByte a (BitVec.ofNat 8 (v % 256))) (a + 1) n (v / 256)

/-- The bytes from an address. -/
def Memory.bytes (m : Memory) (a n : Nat) : List Byte := (List.range n).map fun k => m.byte (a + k)

/-- Writes bytes from an address on. -/
def Memory.writeBytes (m : Memory) (a : Nat) : List Byte → Memory
  | [] => m
  | b :: r => Memory.writeBytes (m.setByte a b) (a + 1) r

/-- Replaces the elements of a list that meet a condition. -/
def modWhere (p : α → Bool) (f : α → α) (l : List α) : List α := l.map fun x => if p x then f x else x

/-- Inserts an element after those that do not exceed it. -/
def insertBy (le : α → α → Bool) (x : α) : List α → List α
  | [] => [x]
  | y :: r => if le y x then y :: insertBy le x r else x :: y :: r

/-- Sorts a list; equal elements keep their order. -/
def sortBy (le : α → α → Bool) (l : List α) : List α := l.foldl (fun acc x => insertBy le x acc) []

/-- Appends an element that is not yet there. -/
def addNew [BEq α] (l : List α) (x : α) : List α := if l.contains x then l else l ++ [x]

end Sys2Proof
end

