-- ==== Sys2Proof/Machine/State.lean ====
section
/-! DEFINITION. The state of the machine as plain data: the units of parallel work (R38), the memories
(R73, R74), the coherence substrate (R101 to R131), the schedulers (R155 to R171), the contexts (R189),
the device registers and the platform; the reasons a step can stop; and the state after reset. -/

namespace Sys2Proof.Machine

/-! ### Lanes, slices, splits, gangs -/

/-- One lane (R38, R39, R51; %idx R45, %orig R194 and R413, %fcode R203). -/
structure Lane where
  present : Bool := false
  exited : Bool := false
  preds : BitVec 7 := 0
  nest : BitVec 8 := 0
  idx : List (BitVec 26) := []
  orig : Word := 0
  fcode : BitVec 8 := 0
  deriving DecidableEq, Repr, Inhabited

/-- A fixed-latency result that has not been written (R233, R234): the cycle from which it is read, its
register (a physical vector register, R58) and lane, and its value. -/
structure Pend where
  due : Nat
  file : RFile
  idx : Nat
  lane : Nat
  val : DWord
  deriving DecidableEq, Repr, Inhabited

/-- A return-stack entry: return address, base advance and caller frame size (R59, R180). -/
structure RetEntry where
  addr : BitVec 48
  adv : Nat
  n : Nat
  deriving DecidableEq, Repr, Inhabited

/-- What lies in a slice's spill part, newest last (R60, R61): eight registers from a position of the
slice's stack of frames, with the fixed-latency results for them that have not been written, or a return entry. -/
inductive SpillItem where
  | regs (pos : Nat) (vals : List (Nat × Word)) (pend : List Pend)
  | ret (e : RetEntry)
  deriving DecidableEq, Repr, Inhabited

/-- What an access does with its location (R93, R302 to R328). The flags of `ldx`: bit 0 a pair is written,
bit 1 the tensor lies in the vault. -/
inductive AccKind where
  | load (sx : Bool) | store | atomic (aop : BitVec 5) | red (aop : BitVec 5)
  | ldc | loadNc (sx : Bool) | storeNc | pref (l2only : Bool)
  | vload (sx : Bool) | vstore | vatomic (aop : BitVec 5) | vbar (op : Nat) | hist (base : Nat)
  | cpya (size : Nat) (slot : Option Nat) | ldx (flags : Nat) | stcw (msix : Option Nat)
  | evict | probe | tokq | mcpredRd | mcpredWr | press (write : Bool) | wbinv
  | kick (n : Notice) | mark | sendui | mapctl (op : Nat) (asid : Nat) | qld | vqld
  deriving DecidableEq, Repr, Inhabited

/-- How far the part of one lane of an access has come. -/
inductive PartSt where
  | todo            -- not begun, or waiting for a walk or for tokens
  | inPath          -- a store in the store path (R78)
  | sent (tag : Nat) -- a fabric or host request is out (R142, R149)
  | failed (code : BitVec 8) -- a replayable fault that its word raises once its other parts are known (R402, R434)
  | held (code : BitVec 8) -- held after a replayable fault (R434)
  | behind          -- held behind a held access (R435)
  | done
  deriving DecidableEq, Repr, Inhabited

/-- A translation kept by the translation unit `unit` of a die (R27, R76, R77). -/
structure TlbEntry where
  asid : Nat
  vpage : Nat
  size : Nat
  entry : DWord
  unit : Nat := 0
  deriving DecidableEq, Repr, Inhabited

/-- The part of one lane of an access. `addr` is the virtual or vault address; `pa` is kept from the
translation that performed it; `dst` is the first physical destination register; `lvl` and `out` hold the
walk level and the INFO field of a fault (R437); `also` names the other taking lanes of a word that acts once for its
slice, which fault with it (R222, R269); `spilt` is the group of registers that holds its destination where that has been spilled
(R60); `tr` is the translation that the part has gone on with (R368). -/
structure Part where
  lane : Nat
  addr : Nat
  dst : Nat := 0
  data : DWord := 0
  cmp : DWord := 0
  st : PartSt := .todo
  pa : Nat := 2 ^ 60
  lvl : Nat := 0xFF
  out : DWord := 0
  also : List Nat := []
  spilt : Option Nat := none
  tr : Option TlbEntry := none
  deriving DecidableEq, Repr, Inhabited

/-- Who issued an access: a slice of a gang, or the uniform sequencer (slice 8). -/
abbrev Issuer := SliceRef

/-- The number that stands for the uniform sequencer in a `SliceRef`. -/
def seqSlice : Nat := 8

/-- An access in flight (R93, R94). `grp` is the first access of its word (R300); `since`, where it is not 0, is the place in
program order of an access that REGROUP has cut in two, and `lines` names the slices in whose program order an access stood before a
REGROUP, each with the identity that was next at that REGROUP (R57). -/
structure Access where
  id : Nat
  who : Issuer
  path : Nat
  kind : AccKind
  esz : Nat
  asid : Nat
  ord : Order := .rlx
  scope : Scope := .blk
  pc : BitVec 48
  skid : Nat := 0
  parts : List Part
  tries : Nat := 0
  grp : Nat := 0
  since : Nat := 0
  lines : List (Nat × Issuer) := []
  deriving DecidableEq, Repr, Inhabited

/-- One slice (R38). `frameAt` is where the interrupt frame lies that the running handler has to restore, by die and vault address (R196). `base` and `low` are positions in the slice's stack of frames: register `vi` is
physical register (base + i) mod B, and `low` is the oldest position not spilled (R58, R60). -/
structure Slice where
  num : Nat
  lanes : List Lane := []
  pc : BitVec 48 := 0
  sregs : List (Nat × Word) := []
  vregs : List (Nat × Word) := []
  serial : Nat := 0
  base : Nat := 0
  n : Nat := 32
  low : Nat := 0
  ret : List RetEntry := []
  spill : List SpillItem := []
  acc : List Access := []
  pend : List Pend := []
  xasid : BitVec 13 := 0
  devs : List Nat := []
  devOvf : Bool := false
  hostWr : List (Nat × Nat) := []
  sent : List Nat := []
  syncm : List (Nat × Word) := []
  yielded : Bool := false
  frozen : Bool := false
  vlive : Nat := 0
  slive : Nat := 64
  execMask : Option (List Nat × BitVec 48) := none
  frameAt : Option (Nat × Nat) := none
  deriving DecidableEq, Repr, Inhabited

/-- What a split waits for (R166, R168). -/
inductive Wait where
  | none
  | waitp (slice path thr : Nat)
  | bar (b : Nat) (phase : Nat)
  | regang (mask : BitVec 8)
  | regroup (g k m : Nat)
  | syncm
  | tlwait (ctx : Ctx) (n : Nat)
  | btest (slot : Nat) (vn : Word)
  | sleepw (l : List (Nat × Nat × Bool × Word))
  | uiret
  | syscall (recs : List Nat)
  | launch (q : Nat)
  | emit (q : Nat)
  | release (scope : Scope) (upto : Nat)
  | counter (path : Nat)
  | departure
  deriving DecidableEq, Repr, Inhabited

/-- A split of a gang: the slices that issue together, when its next word may issue, its run and its
losses (R38, R48, R166, R232). `lastPc` is the word that it issued last (R400). `owed` says that a run must end before the gang takes a delivery (R194, R197). -/
structure Split where
  slices : List Nat
  readyAt : Nat := 0
  runLen : Nat := 0
  runStart : Nat := 0
  inRun : Bool := false
  losses : Nat := 0
  wait : Wait := .none
  made : Bool := false
  stop : Bool := false
  skid : Nat := 0
  owed : Bool := false
  lastPc : BitVec 48 := 0
  deriving DecidableEq, Repr, Inhabited

/-- A gang (R38, R41, R58). `devs`, `devOvf` and `hostWr` keep where the slices posted that had exited before a REGROUP took their places
(R57, R71). -/
structure Gang where
  num : Nat
  port : Nat := 0
  budget : Nat := 32
  slices : List Slice := []
  splits : List Split := []
  retired : Bool := false
  devs : List Nat := []
  devOvf : Bool := false
  hostWr : List (Nat × Nat) := []
  deriving DecidableEq, Repr, Inhabited

/-! ### Blocks -/

/-- A block barrier (R63, R64). `marks` holds, for each gang that has not arrived, the mask of its slices
that have executed BAR in this phase (R428); `next` holds arrivals that count toward the next phase. -/
structure Barrier where
  declared : Bool := false
  seqMember : Bool := false
  phase : Nat := 0
  expected : Nat := 0
  arrived : List Nat := []
  seqArrived : Nat := 0
  marks : List (Nat × BitVec 8) := []
  next : List (Nat × BitVec 8) := []
  deriving DecidableEq, Repr, Inhabited

/-- The matrix operation of a product word (R343). -/
inductive MatOp where
  | mma (o : MmaOp) (sparse gs : Bool)
  | tile (code : Nat) (o : TileOp)
  | coop (word : DWord)
  deriving DecidableEq, Repr, Inhabited

/-- An engine operation with the operands read at issue (R329): `q` are its q operands in the order D, A,
B, M[7:0], then B + 1. -/
inductive EngKind where
  | copy (code : Nat) (o : CopyOp)
  | coll (code : Nat) (o : CollOp) (j : Nat)
  | mat (m : MatOp)
  | pull (n : Notice)
  deriving DecidableEq, Repr, Inhabited

/-- An engine operation issued and not completed (R95, R330, R444). `groups` counts the groups done
(R445); `fault` is the code of a fault that stopped it; `inbox` holds bytes that host or fabric reads have
brought, by virtual address, and `asked` what has been asked for; `moved` counts the elements that a copy has moved (R24); `after` is the identity below which the
sequencer's accesses were issued before the operation (R96); `due` counts the bytes of a copy that are written and not posted (R98). -/
structure EngOp where
  ctx : Ctx
  num : Nat
  kind : EngKind
  q : List DWord
  pc : BitVec 48
  fmt : BitVec 20
  begun : Bool := false
  done : Bool := false
  groups : Nat := 0
  written : Nat := 0
  posted : Nat := 0
  moved : Nat := 0
  step : Nat := 0
  fault : Option (BitVec 8) := none
  inbox : List (Nat × Byte) := []
  asked : List Nat := []
  after : Nat := 0
  due : Nat := 0
  deriving DecidableEq, Repr, Inhabited

/-- The four timeline contexts of a block: numbers issued and numbers completed beyond the counter
(R95). -/
structure Timeline where
  issued : Nat := 0
  counter : Nat := 0
  extra : List Nat := []
  deriving DecidableEq, Repr, Inhabited

/-- What the uniform sequencer waits for (R166, R329). -/
inductive SeqWait where
  | none
  | bar (b : Nat) (phase : Nat)
  | tlwait (ctx : Ctx) (n : Nat)
  | until' (t : Nat)
  | ended
  | full (ctx : Ctx)
  | tlsig
  | leave
  | launch (q : Nat)
  | emit (q : Nat)
  | release (scope : Scope) (upto : Nat)
  | engines
  | load (q : Nat)
  | counter (path : Nat)
  deriving DecidableEq, Repr, Inhabited

/-- The uniform sequencer of a block (R38, R62, R329). -/
structure Sequencer where
  pc : BitVec 48 := 0
  qregs : List (Nat × DWord) := []
  pend : List Pend := []
  acc : List Access := []
  readyAt : Nat := 0
  wait : SeqWait := .none
  made : Bool := false
  ended : Bool := false
  held : List Nat := []
  devs : List Nat := []
  devOvf : Bool := false
  hostWr : List (Nat × Nat) := []
  stop : Bool := false
  deriving DecidableEq, Repr, Inhabited

/-- A lane handed to a handler gang: where it came from and the vault address of its entry (R412 to
R415). The uniform sequencer has no entry: its marks are kept here under an identity, and `op` is the engine
operation that faulted, if one did (entry 10). -/
structure Origin where
  blk : Nat
  gang : Nat
  slice : Nat
  lane : Nat
  seq : Bool
  code : BitVec 8
  entry : Nat
  oid : Nat := 0
  mark : Nat := 0
  op : Option (Ctx × Nat) := none
  deriving DecidableEq, Repr, Inhabited

/-- A halted block (R409, R417): the code that halted it and the words that faulted, per slice. -/
structure Halt where
  code : BitVec 8
  time : Nat
  origins : List Origin := []
  faulted : List (Nat × Nat × BitVec 48) := []
  recorded : List (Nat × Nat) := []
  deriving DecidableEq, Repr, Inhabited

/-- The vault region of a block on its core: offset, the program's part, spill per slice, save area
(R75, R414). -/
structure Region where
  off : Nat := 0
  prog : Nat := 0
  spill : Nat := 4096
  nslices : Nat := 0
  save : Nat := 82944
  deriving DecidableEq, Repr, Inhabited

/-- A pinned B operand as a core's tile fetch unit keeps it (R345): its reference, K and format word, the 64 bytes of its descriptor and
the row at which it begins, as they were when it was pinned, and its bytes by address. -/
structure Pin where
  ref : DWord
  k : Nat
  fmt : BitVec 20
  desc : Nat
  row : Nat
  bytes : List (Nat × Nat)
  deriving DecidableEq, Repr, Inhabited

/-- Why a unit was saved (R487). Handler gangs are those of one gathering: context, die, code and the time of its first lane (R412). -/
inductive SaveCause where
  | slot (i k : Nat) | higherPri (pri : Nat) | cxYreq | handlers (asid die : Nat) (code : BitVec 8) (first : Nat) | evac | halt
  deriving DecidableEq, Repr, Inhabited

/-- A resident, or saved, block (R38, R155, R169). `yspent` counts the cycles since its %yreq rose (R168); of a whey slice, `whey` gives
its slot and segment, and `sid` its linear index in the launch (R180). -/
structure Block where
  id : Nat
  asid : Nat
  launch : Nat
  num : Nat
  core : Nat
  firstCore : Nat
  seqx : Nat := 0
  gangs : List Gang := []
  bars : List Barrier := []
  seq : Sequencer := {}
  unif : Bool := false
  tl : List Timeline := [{}, {}, {}, {}]
  ops : List EngOp := []
  sigs : List (Ctx × Nat × Nat) := []
  fmt : BitVec 20 := 0x6600
  coop : DWord := 0
  collJ : List (Nat × Nat) := []
  leaveHeld : Bool := false
  leaves : List Ctx := []
  tcnt : Nat := 0
  tiles : List (Nat × List Word) := []
  tileSerial : Nat := 0
  region : Region := {}
  table : DecTable := .map3
  levels : List (Nat × Scope × Nat) := []
  yreq : Bool := false
  causes : List SaveCause := []
  yspent : Nat := 0
  saving : Bool := false
  halt : Option Halt := none
  handlerOf : List Origin := []
  isHandler : Bool := false
  whey : Option (Nat × Nat) := none
  sid : Nat := 0
  deriving DecidableEq, Repr, Inhabited

/-! ### Cores and dies -/

/-- A store in a core's store path (R78). `seq` is its number among the stores of its issuer to its L2 slice, and `taken` says
that the L2 slice has accepted it (R135); `t` is the T of its translation (R111); `posted` marks a store on its way to a
remote home (R126); `eng` names the engine operation that stores, if one does (R337). -/
structure SpEntry where
  acc : Nat
  lane : Nat
  who : Issuer
  asid : Nat
  va : Nat
  pa : Nat
  esz : Nat
  data : DWord
  seq : BitVec 6 := 0
  taken : Bool := false
  t : Nat := 8
  posted : Bool := false
  eng : Option (Nat × Ctx × Nat) := none
  deriving DecidableEq, Repr, Inhabited

/-- A line of the L1: its tag, which is the context and the 128-byte line of the virtual address; the line of the physical
address that it was filled from; and its two sectors, of which those that are not valid are absent (R23, R79). -/
structure L1Line where
  asid : Nat
  vline : Nat
  pline : Nat
  lo : Option Sector := none
  hi : Option Sector := none
  deriving DecidableEq, Repr, Inhabited

/-- An issue port: the cycle of its last issue, the cycles its pipes are held to, the last winner and the
split that owns the port (R16, R17, R166). -/
structure Port where
  last : Option Nat := none
  pipeA : Nat := 0
  pipeB : Nat := 0
  winner : Option (Nat × Nat) := none
  owner : Option (Nat × Nat × Nat) := none
  deriving DecidableEq, Repr, Inhabited

/-- A transfer record of a whey slice (R180): the slice with its block, the target segment, and the backing slot that holds it, or
that it is on its way to. While it waits to be pulled, `ahead` counts the notices before it in the queue of pulls of its core (R24).
`notice` is the place of its transfer notice among all (R181). -/
structure WheyRec where
  blk : Block
  seg : Nat
  slot : Nat := 0
  ahead : Nat := 0
  notice : Nat := 0
  deriving DecidableEq, Repr, Inhabited

/-- One core (R14). The instruction store is, in normal mode, the cache `icache` of sectors by context and virtual address, and in
whey mode the pinned segment `istore` (R22). `pullDone` counts the bytes that the pull at the head of `kicks` has moved (R24), and
`matTurn` is the sequencer context whose turn at the matrix engine comes next (R20). `pins` is the buffer of the tile fetch unit: the pin
of each block that has one (R14, R20, R345). `stageDone` counts the bytes that the pull of the first staged record has moved (R24). `stSeq` counts the stores of each issuer to each L2 slice (R135). `backing` is the number of backing slots and `backUsed` of those granted; `arrivals` is the arrival queue, each
record with the core whose backing slot holds it; `staged` holds the records that are being pulled into this core's backing slots, each
with its target and the core that it leaves (R181, R182). -/
structure Core where
  ports : List Port := [{}, {}, {}, {}]
  l1 : List L1Line := []
  sp : List SpEntry := []
  stSeq : List (Nat × Nat) := []
  kicks : List Notice := []
  pullTurn : Bool := false
  pullDone : Nat := 0
  matTurn : Nat := 0
  pins : List (Nat × Pin) := []
  stageDone : Nat := 0
  icache : List (Nat × Nat × Sector) := []
  pullIn : List (Nat × Byte) := []
  pullAsked : List Nat := []
  istore : Option (Nat × Nat × List Byte) := none
  backing : Nat := 0
  backUsed : Nat := 0
  arrivals : List (WheyRec × Nat) := []
  staged : List (WheyRec × Nat × Nat) := []
  advert : Nat := 0
  inService : Bool := true
  deriving DecidableEq, Repr, Inhabited

/-- The state an L2 keeps for a sector (R104), with the T that its tokens bear (R486) and the 8-byte granules of its data that can not be
corrected (R461). -/
structure L2Sector where
  ser : BitVec 8 := 0
  own : Bool := false
  dv : Bool := false
  dirty : Bool := false
  tokn : Nat := 0
  data : Sector := 0
  t : Nat := 8
  bad : BitVec 8 := 0
  deriving DecidableEq, Repr, Inhabited

/-- A token request of an agent that has not completed (R111, R114). -/
structure TokReq where
  sec : Nat
  write : Bool
  t : Nat
  sends : Nat := 1
  timeout : Nat := 0
  asids : List Nat := []
  senders : List Holder := []
  ownFrom : Option Holder := none
  pressed : Bool := false
  instr : Bool := false
  deriving DecidableEq, Repr, Inhabited

/-- Lanes gathered by the trap unit for one handler gang (R412). -/
structure Gather where
  asid : Nat
  code : BitVec 8
  first : Nat
  lanes : List Origin
  deriving DecidableEq, Repr, Inhabited

/-- The governor of a die (R167): its limit, the requests that wait (block, and the engine whose implicit leave is
wanted, or none for MLEAVE), and the times of its latest grants. -/
structure Governor where
  limit : Nat := 64
  queue : List (Nat × Option Ctx) := []
  grants : List Nat := []
  deriving DecidableEq, Repr, Inhabited

/-- What an entry of a queue pool holds (R157, R163). -/
inductive QItem where
  | launch (rec : List Byte) (addr : Nat) (asid : Nat) (seqAdd : Nat) (slot : Option Nat) (node : Option (Nat × Nat))
      (recs : List (List Byte))
  | emit (asid node : Nat) (data : List Byte) (time : Nat)
  deriving DecidableEq, Repr, Inhabited

/-- One compute die (R13). Queues are keyed by their number, device registers of the queues likewise
(R157). `turns` counts turnings (R136). `serials` holds the serials that censuses have given (R453). -/
structure Die where
  l2 : List (Nat × L2Sector) := []
  reqs : List TokReq := []
  pred : List (Nat × Word) := []
  serials : List (Nat × BitVec 8) := []
  pact : List PressReq := []
  heldActs : List PressReq := []
  tlb : List TlbEntry := []
  walks : List (Nat × Nat) := []
  walkQ : List (Nat × Nat) := []
  gather : List Gather := []
  gov : Governor := {}
  qbind : List (Nat × Word) := []
  qctl : List (Nat × Word) := []
  queues : List (Nat × List QItem) := []
  lastOf : List (Nat × Nat) := []
  rot : Nat := 0
  chosen : List Nat := []
  turns : Nat := 0
  deriving DecidableEq, Repr, Inhabited

/-! ### Homes -/

/-- What a home keeps for a sector whose tokens are not all at home under serial 0 (R105, R117 to R119,
R453, R456). `req` is a write request made on the home's own behalf (R304), and `bisPorts` are the host ports
whose CXL.mem accesses may have left the host a copy (R153). -/
structure HomeSector where
  tokn : Nat := 8
  own : Bool := true
  ser : BitVec 8 := 0
  t : Nat := 8
  lost : Bool := false
  active : Option PressReq := none
  activeAt : Nat := 0
  acksDue : List Nat := []
  deacks : List Nat := []
  deacting : Bool := false
  round : List PressReq := []
  pending : List PressReq := []
  recalled : Bool := false
  census : Option (BitVec 8 × List Nat) := none
  lastCensus : Option Nat := none
  cxl : Option CxlState := none
  req : Option TokReq := none
  bisPorts : List Nat := []
  deriving DecidableEq, Repr, Inhabited

/-- A range exported to the fabric (R486). -/
structure Export where
  base : Nat
  len : Nat
  t : Nat
  devs : List Nat
  deriving DecidableEq, Repr, Inhabited

/-- A fabric request that has not been answered (R447), and whose parts it carries: of a vector packet, each element's access and
lane (R143). -/
structure FabReq where
  rid : Nat
  acc : Nat
  lanes : List Nat
  parts : List (Nat × Nat) := []
  pkt : VPkt
  time : Nat
  sends : Nat := 1
  eng : Option (Nat × Ctx × Nat) := none
  pull : Option Nat := none
  deriving DecidableEq, Repr, Inhabited

/-- A host request outstanding (R149, R458). -/
structure HostReq where
  tag : Nat
  acc : Nat
  lane : Nat
  port : Nat
  addr : Nat
  atomic : Bool
  zero : Bool := false
  who : Issuer := ⟨0, 0, 0⟩
  sc : Option Nat := none
  time : Nat
  eng : Option (Nat × Ctx × Nat) := none
  pull : Option Nat := none
  deriving DecidableEq, Repr, Inhabited

/-- What the device has sent outside, oldest first: host writes and messages, vector packets and token
messages to other devices, management answers (R142, R149, R171, R392). The kinds of a press message are 0 request,
1 activation, 2 its acknowledgement, 3 the requester's deactivation, 4 deactivation, 5 its acknowledgement; those of a CXL
message 0 RdShared, 1 RdOwn, 2 DirtyEvict, 3 CleanEvictNoData, 4 BISnp, 5 to 7 the answers to SnpInv, SnpData and SnpCur, 8 RdOwnNoData (R128, R152, R153). -/
inductive OutMsg where
  | hostWrite (port addr : Nat) (bytes : List Byte)
  | hostRead (port tag addr len : Nat)
  | hostAtomic (port tag addr : Nat) (aop : BitVec 5) (esz : Nat) (v c : DWord)
  | msix (port vec : Nat)
  | fabric (p : VPkt)
  | fabResp (kind : BitVec 4) (dst rid : Nat) (data : List DWord)
  | refused (dst rid : Nat) (code : BitVec 8)
  | marker (dst : Nat) (m : Marker)
  | markerDone (dst id : Nat)
  | token (dst : Nat) (m : TokMsg)
  | request (dst : Nat) (m : ReqMsg)
  | press (dst : Nat) (kind : Nat) (agent : Nat) (m : PressReq)
  | census (dst agent sec : Nat) (ser : BitVec 8)
  | kickAck (dst rid : Nat)
  | peerUi (dev asid v : Nat) (p : DWord) (from' rid : Nat)
  | cxl (port sec : Nat) (kind : Nat) (data : Option Sector)
  | barData (port : Nat) (bytes : List Byte)
  | mctp (kind : Nat) (bytes : List Byte)
  | evacuate (dev : Nat) (asids : List Nat)
  | evacData (dev : Nat) (regs : List (Nat × DWord)) (mem : List Host.Cell) (pool : List (Nat × List QItem)) (units : List Nat)
  deriving DecidableEq, Repr, Inhabited

/-- An array that check bits cover (R399): NX stack or second-tier part `i`. -/
inductive ChkArray where
  | rf | ts | l1 | l2 | vlt | istore | nx (i : Nat) | st (i : Nat)
  deriving DecidableEq, Repr, Inhabited

/-- An error that an array holds until it is next used (R398, R399): the array's core or die, and whether it can not be corrected. What
strikes an array comes from outside, like any state that a claim may begin in; errors of locations that can not be corrected stand in
`badMem`, `badVault` and the L2 sectors. -/
structure Upset where
  arr : ChkArray
  at' : Nat
  hard : Bool
  deriving DecidableEq, Repr, Inhabited

/-- A marker sent for a release or MARK (R146). -/
structure MarkerOut where
  id : Nat
  who : Issuer
  acc : Nat
  dev : Nat
  deriving DecidableEq, Repr, Inhabited

/-- A marker that is arriving: its copies so far, and, once all have come, the packets accepted before it whose
elements are not all performed (R146). -/
structure MarkerIn where
  id : Nat
  src : Nat
  copies : Nat
  got : Nat
  jobs : List Nat := []
  deriving DecidableEq, Repr, Inhabited

/-- A stream context at the receiving end of a Kazath link, or what its sending end knows of it (R145), keyed by 64 × port +
index. -/
structure Stream where
  dst : Nat
  src : Nat
  ctx : Nat
  page : Nat
  deriving DecidableEq, Repr, Inhabited

/-- A request of another device that this home has accepted, and its response once there is one (R447). -/
structure Answer where
  src : Nat
  rid : Nat
  time : Nat
  resp : Option OutMsg := none
  deriving DecidableEq, Repr, Inhabited

/-- An accepted vector write or atomic whose elements are not all performed (R126, R143): each element with its place in
the packet, its physical address, data and compare value; `got` holds old values. -/
structure VecJob where
  id : Nat
  src : Nat
  rid : Nat
  kind : BitVec 4
  aop : BitVec 5
  esz : Nat
  todo : List (Nat × Nat × DWord × DWord)
  got : List (Nat × DWord) := []
  deriving DecidableEq, Repr, Inhabited

/-! ### Launches and units -/

/-- The fields of a launch record (R155). -/
structure LRec where
  ver : Nat
  nlev : Nat
  blklev : Nat
  whey : Bool
  unif : Bool
  pri : Nat
  msix : Bool
  msixv : Nat
  vaultk : Nat
  regs : Nat
  bard : BitVec 16
  bars : BitVec 16
  tcnt : Nat
  spill : Nat
  cscope : Nat
  levels : List (Nat × Nat × Nat)
  lanepc : Nat
  unifpc : Nat
  param : DWord
  cword : DWord
  seq : DWord
  notbefore : Nat
  segmap : Nat
  deriving DecidableEq, Repr, Inhabited

/-- A launch that has been placed and has not completed (R71): `devs`, `devOvf` and `hostWr` gather where its blocks'
posted writes went, and `phase` tells how far its completion store has come. Of a handler gang, `gath` names the
gathering: its code, and the time of its first lane (R412). -/
structure Launch where
  id : Nat
  asid : Nat
  die : Nat
  queue : Nat
  lrec : LRec
  addr : Nat
  nblocks : Nat
  retired : Nat := 0
  slot : Option (Nat × Nat) := none
  recs : List (List Byte) := []
  cores : List Nat := []
  handler : Bool := false
  gath : Option (BitVec 8 × Nat) := none
  devs : List Nat := []
  devOvf : Bool := false
  hostWr : List (Nat × Nat) := []
  phase : Nat := 0
  deriving DecidableEq, Repr, Inhabited

/-- A saved unit: its blocks whole, as the image in the context's save area holds them, which begins at `base` and has `len` bytes (R169,
R187, R487). -/
structure SavedUnit where
  launch : Nat
  asid : Nat
  pri : Nat
  blocks : List Block
  vault : List Host.Cell
  armed : List Nat := []
  queued : List (Nat × WheyRec × Nat) := []
  map : List (Nat × Nat × List (Nat × Nat × Nat)) := []
  causes : List SaveCause
  dies : List Nat
  base : Nat := 0
  len : Nat := 0
  deriving DecidableEq, Repr, Inhabited

/-- A whey launch in progress: its segment map and the core of each replica (R174, R175). -/
structure WheyMap where
  launch : Nat
  segs : List (Nat × Nat × List (Nat × Nat × Nat))
  deriving DecidableEq, Repr, Inhabited

/-! ### Interrupts and system calls -/

/-- The interrupt unit's state of a context that is not in its interrupt block: the designated gang and the
running handler, by block and gang (R190, R193, R196). -/
structure UiState where
  asid : Nat
  hnd : Option (Nat × Nat) := none
  running : Option (Nat × Nat) := none
  deriving DecidableEq, Repr, Inhabited

/-- A system-call record that waits to be served (R199 to R201): for each lane of the gang, by %lane, its
first physical destination register and its arguments; `acc` is the first access that a proxy atomic stands for, and `parts`
gives for each of its lanes the access and the lane in it;
`got` holds results that have been read from a host ring. -/
structure ScRec where
  id : Nat
  asid : Nat
  host : Bool
  slot : Nat := 0
  who : SliceRef
  lanes : List (Nat × Nat × List DWord)
  acc : Option Nat := none
  parts : List (Nat × Nat × Nat) := []
  posted : Bool := false
  ended : Bool := false
  num : Nat
  got : List (Nat × DWord) := []
  deriving DecidableEq, Repr, Inhabited

/-! ### The networks (R132 to R139) -/

/-- A switch of an on-die network, by stage and number (R132). -/
inductive Sw where
  | s1 (n : Nat) | s2 (n : Nat) | s3 (n : Nat)
  deriving DecidableEq, Repr, Inhabited

/-- Where a packet can begin and end: a leaf of a compute die, a base die's controllers, proxy home and ports, or a vault of the
cave die under a compute die (R132, R138, R139). -/
inductive NetEnd where
  | leaf (die n : Nat) | base (b : Nat) | vault (die k : Nat)
  deriving DecidableEq, Repr, Inhabited

/-- Where a packet is: at its source, in an input buffer of a switch, at a base die's crossbar, at a vault of the mesh, held at an L2 slice
that it has reached early (R135), or come. -/
inductive NetPos where
  | src | buf (die : Nat) (sw : Sw) (port : Nat) | base (b : Nat) | mesh (die k : Nat) | held | here
  deriving DecidableEq, Repr, Inhabited

/-- A packet on the device's networks: the step that is due when it has come; its plane and flits (R133, R134); its ends; the
vertical bridge that it uses (R139); where it is; whether turning has displaced it (R137); and of a store packet its issuing slice and
sequence number (R135). -/
structure NetPkt where
  ev : Event
  plane : Nat
  flits : Nat
  src : NetEnd
  dst : NetEnd
  bridge : Nat
  pos : NetPos := .src
  displaced : Bool := false
  who : Option Issuer := none
  seq : Option (BitVec 6) := none
  deriving DecidableEq, Repr

/-! ### The environment's schedule -/

/-- Which agent issues a word. -/
inductive Agent where
  | split (blk gang slice : Nat)
  | seq (blk : Nat)
  deriving DecidableEq, Repr, Inhabited

/-- One turn of the schedule (entry 3): an agent issues its next word; the device takes one of its due
steps; a packet of its networks crosses a link; something arrives from outside; or time passes. -/
inductive Turn where
  | issue (a : Agent)
  | work (k : Nat)
  | hop (k : Nat)
  | event (e : Event)
  | time (cycles : Nat)
  deriving DecidableEq, Repr

/-! ### The machine -/

/-- The state of the machine. -/
structure State where
  -- the model's own: the schedule, due steps, issuer, free values drawn (entries 3 and 4)
  plan : List Turn := []
  work : List Event := []
  net : List NetPkt := []
  planes : List (Nat × Nat) := []
  seqs : List (Nat × Nat) := []
  timers : List (Nat × Event) := []
  cur : Option Agent := none
  curWord : DWord := 0
  fresh : Nat := 0
  -- time (R34, R35, R162)
  now : Nat := 0
  gtime : Nat := 0
  net7 : Nat := 0
  gfrac : Nat := 0
  slew : Int := 0
  slewAcc : Nat := 0
  gtimeTod : DWord := 0
  -- memories (R73, R74)
  mem : List Host.Cell := []
  vault : List Host.Cell := []
  badMem : List Nat := []
  badVault : List Nat := []
  armed : List Nat := []
  -- work
  blocks : List Block := []
  launches : List Launch := []
  saved : List SavedUnit := []
  wheys : List WheyMap := []
  nextId : Nat := 1
  -- parts of the package
  cores : List (Nat × Core) := []
  dies : List (Nat × Die) := []
  homes : List (Nat × HomeSector) := []
  homeWait : List (Nat × Event) := []
  pressQueue : List Nat := []
  hostOwned : List Nat := []
  owningHost : List (Nat × Nat) := []
  exports : List Export := []
  -- fabric and host
  devNum : Nat := 0
  members : List Nat := []
  routes : List (Nat × List (List Nat)) := []
  linksDown : List LinkRef := []
  streams : List (Nat × Stream) := []
  sendCtx : List (Nat × Stream) := []
  fabReqs : List FabReq := []
  answers : List Answer := []
  vecJobs : List VecJob := []
  markersOut : List MarkerOut := []
  markersIn : List MarkerIn := []
  hostReqs : List HostReq := []
  cxlPorts : List Nat := []
  -- ranges of package memory exported at a host port, by port, base and length: through BARs and by HDM decoders (R149, R152)
  bars : List (Nat × Nat × Nat) := []
  hdm : List (Nat × Nat × Nat) := []
  outs : List OutMsg := []
  -- the paths of the messages sent before the route table last changed (R141)
  outPast : List (List Nat) := []
  kickWait : List (Nat × Nat × Nat) := []
  -- contexts (R189, R403, R411): registers keyed by 512 × ASID + index
  bound : List Nat := []
  cx : List (Nat × DWord) := []
  ui : List UiState := []
  sc : List ScRec := []
  scFill : List (Nat × Nat) := []
  nodes : List (Nat × Nat) := []
  -- device registers
  slots : List (Nat × BitVec 256) := []
  slotHeld : List (Nat × Nat) := []
  slotPrev : List (Nat × Nat) := []
  slotDone : List (Nat × (Nat × Nat)) := []
  saveDrain : Word := 100000
  level : BitVec 2 := 0
  cap : BitVec 2 := 3
  capFw : BitVec 2 := 3
  evacCtl : DWord := 0
  evacErr : Word := 0
  evacPhase : Nat := 0
  evacStart : Nat := 0
  latch : Bool := false
  fltBase : DWord := 0
  fltCtl : DWord := 0
  errs : List (Nat × Word) := []
  tokrcTimeout : Word := 20000
  tokrcCnt : Word := 0
  tokrcStale : Word := 0
  platFail : BitVec 48 := 0
  fwState : BitVec 2 := 0
  fwTries : BitVec 8 := 0
  fwImage : List Byte := []
  -- the image that the module's flash stores, and the steps of 5 mV by which each die's supply is raised (R387, R391)
  fwFlash : List Byte := []
  supply : List (Nat × Nat) := []
  -- errors that lie in arrays (R398, R399)
  upsets : List Upset := []
  powered : Bool := true
  boots : Nat := 0
  deriving DecidableEq, Repr

/-- Why the machine stops with a fault. The spec stops the machine nowhere: its faults are next states.
These name what no step of a run meets. -/
inductive Fault where
  /-- An instruction word executed while no agent issues a word: raised by a lane or uniform meaning when
  `State.cur` names no resident split or sequencer. `step` never does so. Safe. -/
  | noIssuer
  deriving DecidableEq, Repr

/-- Why the machine refuses an instruction. -/
inductive Refusal where
  /-- The instruction has no meaning in this model: raised by the arm of `exec` that names it. Safe. -/
  | notModelled (mnemonic : String)
  deriving DecidableEq, Repr

/-- The machine right after reset: the values the spec gives, and for every other register zero (entry
2). No block is resident and memory lists nothing. -/
def State.reset : State := {}

end Sys2Proof.Machine
end

