-- ==== Sys2Proof/Machine/Ops.lean ====
section
/-! DEFINITION. The named operations over the state: access to blocks, slices, dies and contexts; the
coherent view of memory (R101 to R108); translation (R76, R77, R438); vault addresses (R74, R75);
fault records (R401 to R404); and taking a trap and returning from one (R407 to R422). -/

namespace Sys2Proof.Machine

/-! ### Blocks, gangs, slices -/

/-- The block with an identity, resident on a core. -/
def State.blk (s : State) (b : Nat) : Option Block := s.blocks.find? fun x => x.id == b

/-- Changes one block. -/
def State.modBlk (s : State) (b : Nat) (f : Block → Block) : State :=
  { s with blocks := modWhere (fun x => x.id == b) f s.blocks }

/-- The gang of a number (R47). -/
def Block.gang (b : Block) (g : Nat) : Option Gang := b.gangs.find? fun x => x.num == g

/-- Changes one gang of a block. -/
def Block.modGang (b : Block) (g : Nat) (f : Gang → Gang) : Block :=
  { b with gangs := modWhere (fun x => x.num == g) f b.gangs }

/-- The slice of a number in its gang (R39). -/
def Gang.slice (g : Gang) (k : Nat) : Option Slice := g.slices.find? fun x => x.num == k

/-- Changes one slice of a gang. -/
def Gang.modSlice (g : Gang) (k : Nat) (f : Slice → Slice) : Gang :=
  { g with slices := modWhere (fun x => x.num == k) f g.slices }

/-- The split that holds a slice (R48). -/
def Gang.splitOf (g : Gang) (k : Nat) : Option Split := g.splits.find? fun x => x.slices.contains k

/-- Changes the split that holds a slice. -/
def Gang.modSplit (g : Gang) (k : Nat) (f : Split → Split) : Gang :=
  { g with splits := modWhere (fun x => x.slices.contains k) f g.splits }

/-- Changes one gang. -/
def State.modGang (s : State) (b g : Nat) (f : Gang → Gang) : State := s.modBlk b fun x => x.modGang g f

/-- Changes one split. -/
def State.modSplit (s : State) (b g k : Nat) (f : Split → Split) : State := s.modGang b g fun x => x.modSplit k f

/-- Changes one slice. -/
def State.modSlice (s : State) (r : SliceRef) (f : Slice → Slice) : State :=
  s.modGang r.blk r.gang fun x => x.modSlice r.slice f

/-- Changes a block's sequencer. -/
def State.modSeq (s : State) (b : Nat) (f : Sequencer → Sequencer) : State :=
  s.modBlk b fun x => { x with seq := f x.seq }

/-- A slice by where it stands. -/
def State.slice (s : State) (r : SliceRef) : Option Slice :=
  match s.blk r.blk with
  | some b => (match b.gang r.gang with | some g => g.slice r.slice | none => none)
  | none => none

/-- The lane numbers of a slice that are present and have not exited (R39, R40, R69). -/
def Slice.live (sl : Slice) : List Nat :=
  (List.range 4).filter fun j => match sl.lanes[j]? with | some l => l.present && !l.exited | none => false

/-- The slice has retired: all its present lanes have exited (R69). -/
def Slice.gone (sl : Slice) : Bool := sl.live.isEmpty

/-- The active lanes of a slice; a frozen slice has none (R51, R418). -/
def Slice.active (sl : Slice) : List Nat :=
  if sl.frozen then []
  else sl.live.filter fun j => match sl.lanes[j]? with | some l => l.nest == 0 | none => false

/-- A lane of a slice; an absent position reads as an absent lane (R39). -/
def Slice.lane (sl : Slice) (j : Nat) : Lane := sl.lanes.getD j {}

/-- Changes one lane. -/
def Slice.modLane (sl : Slice) (j : Nat) (f : Lane → Lane) : Slice :=
  { sl with lanes := sl.lanes.mapIdx fun i l => if i == j then f l else l }

/-- The count of an in-flight path: an access counts until it and every earlier one on the path has
completed (R93, R94). -/
def accCount (l : List Access) (path : Nat) : Nat := (l.filter fun a => a.path == path).length

/-- Identities of live gangs: those with a slice that has not retired. -/
def Gang.liveSlices (g : Gang) : List Slice := g.slices.filter fun x => !x.gone

/-! ### Cores, dies, homes, contexts -/

/-- A core (R14). -/
def State.core (s : State) (c : Nat) : Core := mgetD s.cores c {}

/-- Changes a core. -/
def State.modCore (s : State) (c : Nat) (f : Core → Core) : State :=
  { s with cores := mset s.cores c (f (s.core c)) }

/-- A compute die (R13). -/
def State.die (s : State) (d : Nat) : Die := mgetD s.dies d {}

/-- Changes a die. -/
def State.modDie (s : State) (d : Nat) (f : Die → Die) : State :=
  { s with dies := mset s.dies d (f (s.die d)) }

/-- The compute die of a core (R12). -/
def dieOf (core : Nat) : Nat := core / 64

/-- The device number of a fabric address (R73). -/
def fabDev (pa : Nat) : Nat := pa / 2 ^ 42 % 512

/-- The address under which an export lists a sector: in this device's memory, or in the fabric class for a range that another
device has exported (R486; entry 25). -/
def State.expKey (s : State) (sec : Nat) : Nat :=
  if 2 ^ 51 ≤ sec * 64 && fabDev (sec * 64) == s.devNum then sec * 64 % 2 ^ 42 else sec * 64

/-- The export that holds a sector (R486). -/
def State.exportOf (s : State) (sec : Nat) : Option Export :=
  s.exports.find? fun e => decide (e.base ≤ s.expKey sec ∧ s.expKey sec < e.base + e.len)

/-- The T of a sector: that of its export, else 8 (R486). -/
def State.sectorT (s : State) (sec : Nat) : Nat := match s.exportOf sec with | some e => e.t | none => 8

/-- What the home of a sector keeps (R105): at first all T tokens, the owner token among them, serial 0. -/
def State.home (s : State) (sec : Nat) : HomeSector :=
  (mget s.homes sec).getD { tokn := s.sectorT sec, t := s.sectorT sec }

/-- Changes what a home keeps for a sector. -/
def State.modHome (s : State) (sec : Nat) (f : HomeSector → HomeSector) : State :=
  { s with homes := mset s.homes sec (f (s.home sec)) }

/-- The reset value of a control register of a context (R189, R239; entry 2). -/
def cxReset (i : Nat) : DWord := if i == 0x102 then 3 else if i == 0x106 then 2 else 0

/-- A control register of a context (R189, R403, R411). PEND and MASK are kept in the interrupt block. -/
def State.cxr (s : State) (asid i : Nat) : DWord := mgetD s.cx (512 * asid + i) (cxReset i)

/-- Sets a control register of a context. -/
def State.setCx (s : State) (asid i : Nat) (v : DWord) : State :=
  { s with cx := msetD s.cx (512 * asid + i) v (cxReset i) }

/-- A field of a 64-bit register, as a number. -/
def fld (v : DWord) (lo n : Nat) : Nat := v.toNat / 2 ^ lo % 2 ^ n

/-- The context is a supervisor context (R189, R202). -/
def State.sup (s : State) (asid : Nat) : Bool := (s.cxr asid 0x100).getLsbD 0

/-- The ASID is in use. -/
def State.inUse (s : State) (asid : Nat) : Bool := s.bound.contains asid

/-- Adds due steps of the device (entry 3). -/
def State.push (s : State) (l : List Event) : State := { s with work := s.work ++ l }

/-- Sets a step due at a time. -/
def State.timer (s : State) (t : Nat) (i : Event) : State := { s with timers := s.timers ++ [(t, i)] }

/-- Adds a message to the outside (R142, R149). -/
def State.send (s : State) (m : OutMsg) : State := { s with outs := s.outs ++ [m] }

/-- A new identity. -/
def State.newId (s : State) : Nat × State := (s.nextId, { s with nextId := s.nextId + 1 })

/-- A free value's serial number, never drawn before (entry 4). -/
def State.draw (s : State) : Nat × State := (s.fresh, { s with fresh := s.fresh + 1 })

/-! ### The coherent view of memory (R101 to R108) -/

/-- The address in this device's package memory of a package address, or of a fabric address whose home is
this device (R73, R107). -/
def memAddr (pa : Nat) : Nat := if pa < 2 ^ 51 then pa else pa % 2 ^ 42

/-- Byte `k` of a sector. -/
def secByte (d : Sector) (k : Nat) : Byte := d.extractLsb' (8 * k) 8

/-- Sets byte `k` of a sector. -/
def setSecByte (d : Sector) (k : Nat) (v : Byte) : Sector :=
  (d &&& ~~~((255 : Sector) <<< (8 * k))) ||| ((v.setWidth 512) <<< (8 * k))

/-- A sector from 64 bytes of memory. -/
def State.memSector (s : State) (sec : Nat) : Sector :=
  BitVec.ofNat 512 (Memory.readN s.mem (memAddr (sec * 64)) 64)

/-- Writes a sector to memory. -/
def State.setMemSector (s : State) (sec : Nat) (d : Sector) : State :=
  { s with mem := Memory.writeN s.mem (memAddr (sec * 64)) 64 d.toNat }

/-- The L2 state of a sector at a die (R104); an L2 that holds no token keeps none. -/
def State.l2 (s : State) (d sec : Nat) : L2Sector := mgetD (s.die d).l2 sec {}

/-- Sets the L2 state of a sector; with no token left the state is dropped (R105, R108). -/
def State.setL2 (s : State) (d sec : Nat) (x : L2Sector) : State :=
  s.modDie d fun y => { y with l2 := if x.tokn == 0 then mdel y.l2 sec else mset y.l2 sec x }

/-- The data that travels with the owner token of a sector, if a message carries it (R103). -/
def State.inFlight (s : State) (sec : Nat) : Option Sector :=
  s.work.findSome? fun i =>
    match i with
    | .tokenArrival m | .writeBack m => if m.sec == sec && m.own then m.data else none
    | _ => none

/-- The current value of a sector: that of the agent or message with the owner token, else the home's
(R103, R108, R304). -/
def State.current (s : State) (sec : Nat) : Sector :=
  match (List.range 8).find? fun d => (s.l2 d sec).own && (s.l2 d sec).dv with
  | some d => (s.l2 d sec).data
  | none => (s.inFlight sec).getD (s.memSector sec)

/-- The current value of a byte (R5, R103). -/
def State.rd1 (s : State) (pa : Nat) : Byte :=
  match (List.range 8).find? fun d => (s.l2 d (pa / 64)).own && (s.l2 d (pa / 64)).dv with
  | some d => secByte (s.l2 d (pa / 64)).data (pa % 64)
  | none => match s.inFlight (pa / 64) with
    | some d => secByte d (pa % 64)
    | none => Memory.byte s.mem (memAddr pa)

/-- The current value of `n` bytes, little-endian (R5). -/
def State.rd (s : State) (pa : Nat) : Nat → Nat
  | 0 => 0
  | n + 1 => (s.rd1 pa).toNat + 256 * State.rd s (pa + 1) n

/-- The current value of `n` bytes as a list. -/
def State.rdBytes (s : State) (pa n : Nat) : List Byte := (List.range n).map fun k => s.rd1 (pa + k)

/-- Changes the data of a message that carries a sector. -/
def eventMapData (i : Event) (sec : Nat) (f : Sector → Sector) : Event :=
  match i with
  | .tokenArrival m => if m.sec == sec then .tokenArrival { m with data := m.data.map f } else i
  | .writeBack m => if m.sec == sec then .writeBack { m with data := m.data.map f } else i
  | i => i

/-- A byte written at one instant wherever a current copy of its sector lies (R89, entry 8). A write
that covers an uncorrectable granule makes it correct again when it covers all of it (R461). -/
def State.wr1 (s : State) (pa : Nat) (v : Byte) : State :=
  let sec := pa / 64
  let f := fun d => setSecByte d (pa % 64) v
  let s1 : State := { s with mem := Memory.setByte s.mem (memAddr pa) v, work := s.work.map fun i => eventMapData i sec f }
  (List.range 8).foldl (fun s d =>
    match mget (s.die d).l2 sec with
    | some x => s.setL2 d sec { x with data := f x.data }
    | none => s) s1

/-- Bytes written at one instant (entry 8). -/
def State.wrBytes (s : State) (pa : Nat) : List Byte → State
  | [] => s
  | b :: r => State.wrBytes (s.wr1 pa b) (pa + 1) r

/-- The little-endian bytes of a number (R5). -/
def leBytes (n v : Nat) : List Byte := (List.range n).map fun k => BitVec.ofNat 8 (v / 256 ^ k % 256)

/-- The number that bytes hold, little-endian (R5). -/
def ofBytes (l : List Byte) : Nat := bytesLE l

/-! ### Translation (R72 to R77, R438) -/

/-- Address classes (R72, R73). -/
inductive AClass where
  | package | fabric | host
  deriving DecidableEq, Repr, Inhabited

/-- The class of a virtual address (R72). -/
def vaClass (va : Nat) : AClass :=
  match va / 2 ^ 46 % 4 with
  | 2 => .fabric
  | 3 => .host
  | _ => .package

/-- The class of a physical address, if the map of R73 has it. -/
def paClass (pa : Nat) : Option AClass :=
  if pa < 0x00C000000000 then some .package
  else if 0x020000000000 ≤ pa && pa < 0x038000000000 then some .package
  else if 2 ^ 48 ≤ pa && pa < 3 * 2 ^ 48 then some .host
  else if 2 ^ 51 ≤ pa && pa < 2 ^ 52 then some .fabric
  else none

/-- The in-flight path of a class (R72, R93). -/
def AClass.path : AClass → Nat
  | .package => 2 | .fabric => 3 | .host => 4

/-- What a walk gives (R76, R438): a leaf entry with its page size in address bits, or a fault with the
level and the entry read there. -/
inductive Walk where
  | ok (entry : DWord) (size : Nat)
  | fault (code : BitVec 8) (level : Nat) (entry : DWord)
  deriving DecidableEq, Repr, Inhabited

/-- One level of a walk and the levels below it (R76, R77, R438). -/
def State.walkFrom (s : State) (va : Nat) (level table : Nat) : Walk :=
    let idx := if level == 0 then va / 2 ^ 16 % 32 else va / 2 ^ (12 + 9 * level) % 512
    let e : DWord := BitVec.ofNat 64 (s.rd (table + 8 * idx) 8)
    let size := if level == 0 then 16 else 12 + 9 * level
    if !e.getLsbD 0 then .fault 0x20 level e
    else if e.getLsbD 1 then
      let addr := fld e 12 40 * 4096
      let tok := fld e 62 2
      if level == 3 || addr % 2 ^ size != 0 || tok == 3 then .fault 0x20 level e
      else if tok != 0 && (paClass addr == some .package || paClass addr == some .host) then .fault 0x20 level e
      else .ok e size
    else
      match level with
      | 0 => .fault 0x20 0 e
      | l + 1 => State.walkFrom s va l (fld e 12 40 * 4096 + (if l == 0 then fld e 8 4 * 256 else 0))

/-- A full walk of a context's table (R76, R438). -/
def State.walk (s : State) (asid va : Nat) : Walk :=
  if !s.inUse asid || fld (s.cxr asid 0x101) 12 40 == 0 then .fault 0x22 0xFF 0
  else if 2 ^ 48 ≤ va then .fault 0x20 0xFF 0
  else s.walkFrom va 3 (fld (s.cxr asid 0x101) 12 40 * 4096)

/-- What an access wants of a page (R77). -/
inductive Want where
  | load | store | atomic | fetch | any
  deriving DecidableEq, Repr, Inhabited

/-- The physical address that a leaf gives (R77). -/
def leafPa (e : DWord) (size va : Nat) : Nat := fld e 12 40 * 4096 + va % 2 ^ size

/-- The permission and class checks of a leaf (R438, code 0x21). -/
def leafOk (e : DWord) (size va : Nat) (w : Want) : Bool :=
  let rd := e.getLsbD 2
  let wr := e.getLsbD 3
  let ex := e.getLsbD 4
  (match w with
   | .load => rd
   | .store => wr
   | .atomic => rd && wr
   | .fetch => ex
   | .any => true) && paClass (leafPa e size va) == some (vaClass va)

/-- A translation made at once, with its checks: the physical address and the leaf, or the fault (R438). -/
def State.xlat (s : State) (asid va : Nat) (w : Want) : Sum (Nat × DWord) (BitVec 8 × Nat × DWord) :=
  match s.walk asid va with
  | .fault c l e => .inr (c, l, e)
  | .ok e size => if leafOk e size va w then .inl (leafPa e size va, e) else .inr (0x21, (size - 12) / 9, e)

/-- The T that a leaf's TOK names (R77). -/
def leafT (e : DWord) : Nat :=
  match fld e 62 2 with
  | 1 => 64
  | 2 => 256
  | _ => 8

/-- `n` bytes at a virtual address of a context, as the device's own units read them; `none` where the
translation fails (entry 9). -/
def State.vrd (s : State) (asid va n : Nat) : Option Nat :=
  match s.xlat asid va .any with
  | .inl (pa, _) => some (s.rd pa n)
  | .inr _ => none

/-- Bytes written at a virtual address of a context by the device's own units (entry 9). -/
def State.vwr (s : State) (asid va : Nat) (l : List Byte) : State :=
  match s.xlat asid va .any with
  | .inl (pa, _) => s.wrBytes pa l
  | .inr _ => s

/-! ### Vaults (R74, R75, R170, R414) -/

/-- Offset of the spill area and of the trap save area of a region (R75). -/
def Region.spillOff (r : Region) : Nat := r.off + r.prog
def Region.saveOff (r : Region) : Nat := r.off + r.prog + r.spill * r.nslices
def Region.size (r : Region) : Nat := r.prog + r.spill * r.nslices + r.save

/-- The block whose region holds a vault address of a die, by the core index under which the region was
first placed (R74, R75, R170). -/
def State.regionAt (s : State) (die addr : Nat) : Option Block :=
  s.blocks.find? fun b => dieOf b.core == die && b.firstCore % 64 == addr / 2 ^ 22 &&
    decide (b.region.off ≤ addr % 2 ^ 22 ∧ addr % 2 ^ 22 < b.region.off + b.region.size)

/-- Where a vault address lies: the alias table maps a region's first core onto its present one (R170). -/
def State.vaultCore (s : State) (die addr : Nat) : Nat :=
  match s.regionAt die addr with
  | some b => b.core % 64
  | none => addr / 2 ^ 22 % 64

/-- The key of a vault byte: die and address (R74). A region keeps its addresses when it moves to another core
(R170), so its bytes are kept under them. -/
def State.vkey (_s : State) (die addr : Nat) : Nat := die * 2 ^ 28 + addr % 2 ^ 28

/-- Vault bytes as a number, little-endian. -/
def State.vlRd (s : State) (die addr n : Nat) : Nat := Memory.readN s.vault (s.vkey die addr) n

/-- Writes vault bytes (R80). -/
def State.vlWr (s : State) (die addr n v : Nat) : State :=
  { s with vault := Memory.writeN s.vault (s.vkey die addr) n v }

/-- Writes a list of vault bytes. -/
def State.vlWrBytes (s : State) (die addr : Nat) (l : List Byte) : State :=
  { s with vault := Memory.writeBytes s.vault (s.vkey die addr) l }

/-- A program of block `b` may address the vault bytes: its own part, the parts of its launch's other blocks
on the die, or, for a handler gang, the trap save areas of its origins' blocks (R75, R412). -/
def State.vaultOk (s : State) (b : Block) (addr n : Nat) : Bool :=
  let die := dieOf b.core
  let off := addr % 2 ^ 22
  decide (addr + n ≤ 2 ^ 28) &&
  ((s.blocks.any fun x => dieOf x.core == die && x.launch == b.launch && x.firstCore % 64 == addr / 2 ^ 22 &&
      decide (x.region.off ≤ off ∧ off + n ≤ x.region.off + x.region.prog)) ||
   (b.whey.isSome && (s.launches.any fun l => l.id == b.launch && l.cores.any fun c =>
      dieOf c == die && c % 64 == addr / 2 ^ 22 && decide (off + n ≤ b.region.prog))) ||
   (b.isHandler && (b.handlerOf.any fun o => match s.blk o.blk with
      | some x => x.firstCore % 64 == addr / 2 ^ 22 &&
          decide (x.region.saveOff ≤ off ∧ off + n ≤ x.region.saveOff + x.region.save)
      | none => false)))

/-- The transfer records of travelling slices: in backing slots, or on their way there (R180). -/
def State.recs (s : State) : List WheyRec := s.cores.flatMap fun c => (c.2.arrivals.map (·.1)) ++ c.2.staged.map (·.1)

/-- Changes the blocks that transfer records hold (R187). -/
def State.modRecs (s : State) (f : Block → Block) : State :=
  { s with cores := s.cores.map fun x =>
      (x.1, { x.2 with arrivals := x.2.arrivals.map fun a => ({ a.1 with blk := f a.1.blk }, a.2),
                       staged := x.2.staged.map fun a => ({ a.1 with blk := f a.1.blk }, a.2) }) }

/-- A vault address of a block's region, from an offset in the vault (R74). -/
def Block.vaddr (b : Block) (off : Nat) : Nat := b.firstCore % 64 * 2 ^ 22 + off

/-- The vault address of the trap entry of a lane; whey slices index by slot (R414). -/
def Block.entryAddr (b : Block) (gang lane : Nat) : Nat :=
  let i := match b.whey with
    | some (slot, _) => 4 * slot + lane % 4
    | none => 32 * gang + lane
  b.vaddr (b.region.saveOff + 0x400 + 160 * i)

/-- The vault address of the interrupt frame of a slice (R195). -/
def Block.frameAddr (b : Block) (slice : Nat) : Nat := b.vaddr (b.region.saveOff + 64 * slice)

/-- The vault address of the frozen frame of a slice (R418). -/
def Block.frozenAddr (b : Block) (slice : Nat) : Nat := b.vaddr (b.region.saveOff + 0x200 + 64 * slice)

/-! ### Vector registers (R58, R60) -/

/-- The physical register that window index `i` names (R58). -/
def Slice.phys (sl : Slice) (budget i : Nat) : Nat := (sl.base + i) % budget

/-- A physical register of a lane; one that nothing has written holds an unspecified value (R156, entry 4). -/
def Slice.vphys (sl : Slice) (p j : Nat) : Word := (mget sl.vregs (4 * p + j)).getD (Config.freeWord sl.serial (4 * p + j))

/-- Writes a physical register of a lane. -/
def Slice.setPhys (sl : Slice) (p j : Nat) (v : Word) : Slice := { sl with vregs := mset sl.vregs (4 * p + j) v }

/-- Window register `i` of a lane (R58). -/
def Slice.v (sl : Slice) (budget i j : Nat) : Word := sl.vphys (sl.phys budget i) j

/-- The pair at window register `i` (R204). -/
def Slice.v64 (sl : Slice) (budget i j : Nat) : DWord := pair64 (sl.v budget i j) (sl.v budget (i + 1) j)

/-- A scalar register (R38). -/
def Slice.s (sl : Slice) (i : Nat) : Word := mgetD sl.sregs i 0

/-- A pair of scalar registers (R204). -/
def Slice.s64 (sl : Slice) (i : Nat) : DWord := pair64 (sl.s i) (sl.s (i + 1))

/-- Writes a scalar register. -/
def Slice.setS (sl : Slice) (i : Nat) (v : Word) : Slice := { sl with sregs := msetD sl.sregs i v 0 }

/-- Writes a pair of scalar registers. -/
def Slice.setS64 (sl : Slice) (i : Nat) (v : DWord) : Slice := (sl.setS i (lo32 v)).setS (i + 1) (hi32 v)

/-- A predicate of a lane; p7 reads 1 (R222). -/
def Lane.p (l : Lane) (i : Nat) : Bool := i == 7 || l.preds.getLsbD i

/-- Writes a predicate of a lane; a write to p7 is discarded (R222). -/
def Lane.setP (l : Lane) (i : Nat) (v : Bool) : Lane :=
  if i < 7 then { l with preds := (l.preds &&& ~~~((1 : BitVec 7) <<< i)) ||| ((BitVec.ofBool v).setWidth 7 <<< i) } else l

/-- A uniform register (R38). -/
def Sequencer.q (q : Sequencer) (i : Nat) : DWord := mgetD q.qregs i 0

/-- Writes a uniform register. -/
def Sequencer.setQ (q : Sequencer) (i : Nat) (v : DWord) : Sequencer := { q with qregs := msetD q.qregs i v 0 }

/-- Writes one fixed-latency result into its register (R233). -/
def Slice.land (sl : Slice) (p : Pend) : Slice :=
  match p.file with
  | .v => sl.setPhys p.idx p.lane (lo32 p.val)
  | .s => sl.setS p.idx (lo32 p.val)
  | .p => sl.modLane p.lane fun l => l.setP p.idx (p.val.getLsbD 0)
  | _ => sl

/-- The results that a word issued at cycle `t` reads, in the order in which they are written: by the cycle from which they are
read, and of two with one such cycle the later-issued prevails (R233, R234). -/
def dueBy (l : List Pend) (t : Nat) : List Pend :=
  sortBy (fun x y => decide (x.due ≤ y.due)) (l.filter fun p => decide (p.due ≤ t))

/-- Lands every result that a word issued at cycle `t` reads (R233, R234). -/
def Slice.landTo (sl : Slice) (t : Nat) : Slice :=
  let sl' := (dueBy sl.pend t).foldl Slice.land sl
  { sl' with pend := sl.pend.filter fun p => decide (t < p.due) }

/-- Lands the sequencer's results (R233). -/
def Sequencer.landTo (q : Sequencer) (t : Nat) : Sequencer :=
  let q' := (dueBy q.pend t).foldl (fun q p => q.setQ p.idx p.val) q
  { q' with pend := q.pend.filter fun p => decide (t < p.due) }

/-! ### Error counters (R398, R399, R405) -/

/-- A count that saturates (R405, R457). -/
def satInc (x : Word) : Word := if x == 0xFFFFFFFF then x else x + 1

/-- The key of an error counter. -/
def errKey : DvReg → Option Nat
  | .errRf => some 0
  | .errTs => some 1
  | .errL1 => some 2
  | .errL2 => some 3
  | .errVlt => some 4
  | .errInt => some 5
  | .errSt i => if i < 4 then some (8 + i) else none
  | .errNx i => if i < 12 then some (16 + i) else none
  | .errLnk i => if i < 48 then some (64 + i) else none
  | _ => none

/-- Charges an error counter, which saturates (R405). -/
def State.chargeErr (s : State) (r : DvReg) : State :=
  match errKey r with
  | some k => { s with errs := msetD s.errs k (satInc (mgetD s.errs k 0)) 0 }
  | none => s

/-- The counter of an array's corrected errors (R405). DESIGN CHOICE (entry 6): those of an instruction store count with the L1's. -/
def ChkArray.counter : ChkArray → DvReg
  | .rf => .errRf
  | .ts => .errTs
  | .l1 | .istore => .errL1
  | .l2 => .errL2
  | .vlt => .errVlt
  | .nx i => .errNx i
  | .st i => .errSt i

/-- The use of an array meets the errors that it holds: corrected ones are charged to their counter, without a record, and whether one
can not be corrected is told (R398, R399). -/
def State.meet (s : State) (arr : ChkArray) (at' : Nat) : Bool × State :=
  let mine : Upset → Bool := fun u => u.arr == arr && u.at' == at'
  let l := s.upsets.filter mine
  let s := (l.filter fun u => !u.hard).foldl (fun s _ => s.chargeErr arr.counter) s
  (l.any (·.hard), { s with upsets := s.upsets.filter fun u => !mine u })

/-- A word of a core issues: its register file and its instruction store are read (R399). Uncorrectable data in the register file is
0x60 (R461). DEDUCED (entry 6): an instruction store, whose contents are clean, is refilled, as R461 has it for the L1. -/
def State.meetIssue (s : State) (core : Nat) : Bool × State :=
  if s.upsets.isEmpty then (false, s)
  else
    let i := s.meet .istore core
    (if i.1 then i.2.modCore core fun c => { c with icache := [] } else i.2).meet .rf core

/-! ### Fault records (R401 to R404) -/

/-- What a fault reports (R401, R407): its code, whether it is precise, its word, address, skid and the
sixteen detail bytes. -/
structure FInfo where
  code : BitVec 8
  prec : Bool := true
  pc : BitVec 48 := 0
  addr : DWord := 0
  skid : Nat := 0
  agent : Nat := 0
  detail : List Byte := []
  op : Option (Ctx × Nat) := none
  deriving DecidableEq, Repr, Inhabited

/-- A fault record (R401). -/
def recordBytes (f : FInfo) (asid gang smask block lmask core orig gtime : Nat) : List Byte :=
  [f.code, if f.prec then 0xC0 else 0x80, BitVec.ofNat 8 f.agent, 0] ++ leBytes 2 asid ++ leBytes 1 gang ++
    leBytes 1 smask ++ leBytes 4 block ++ leBytes 4 lmask ++ leBytes 8 f.pc.toNat ++ leBytes 8 f.addr.toNat ++
    leBytes 1 (min f.skid 24) ++ [0] ++ leBytes 2 core ++ leBytes 4 orig ++ leBytes 8 gtime ++
    (f.detail ++ List.replicate 16 0).take 16

/-- What a ring does with a record: where it is written, and the control register after it (R403). A full
or absent ring takes none and sets OVF. -/
def ringPut (base ctl : DWord) : Option Nat × DWord :=
  let lg := fld ctl 0 4
  let put := fld ctl 48 16
  let take := fld ctl 32 16
  let n := 2 ^ lg
  if lg < 2 || 12 < lg || fld base 6 42 == 0 || (put + 1) % n == take % n then (none, ctl ||| 16)
  else (some (fld base 6 42 * 64 + 64 * put),
        (ctl &&& 0x0000FFFFFFFFFFFF#64) ||| BitVec.ofNat 64 ((put + 1) % n * 2 ^ 48))

/-- Writes a record to a context's ring (R403). -/
def State.putRecord (s : State) (asid : Nat) (r : List Byte) : State :=
  let (at', ctl) := ringPut (s.cxr asid 0x116) (s.cxr asid 0x117)
  let s := s.setCx asid 0x117 ctl
  match at' with
  | some a => s.vwr asid a r
  | none => s

/-- Writes a record to the device ring, which also raises an MSI-X message and a report to management
(R404). -/
def State.putDevice (s : State) (r : List Byte) : State :=
  let (at', ctl) := ringPut s.fltBase s.fltCtl
  let s := { s with fltCtl := ctl }
  -- a machine fault ends an evacuation that is under way (R482)
  let s := if s.evacPhase == 0 || s.evacPhase == 5 then s else s.push [.evacFailure 4]
  let s := match at' with
    | some a => s.wrBytes a r
    | none => s
  (s.send (.msix 0 (fld ctl 21 11))).send (.mctp 1 r)

/-- The lane mask of lanes of a slice, by %lane (R47). -/
def maskOf (slice : Nat) (lanes : List Nat) : Nat := lanes.foldl (fun m j => m ||| 2 ^ (4 * slice + j)) 0

/-- Writes the record of an event in one gang, sequencer or engine (R402). Machine codes go to the device
ring and are copied to the context's (R404). -/
def State.record (s : State) (b : Block) (gang : Nat) (f : FInfo) (smask lmask orig : Nat) : State :=
  let r := recordBytes f b.asid gang smask b.num lmask b.core orig s.gtime
  let s := if 0x60 ≤ f.code.toNat && f.code.toNat ≤ 0x63 then s.putDevice r else s
  s.putRecord b.asid r

/-! ### Halt, trap and return (R407 to R422) -/

/-- The gang is a context's handler in progress (R193). -/
def State.uiRuns (s : State) (bid gang : Nat) : Bool := s.ui.any fun u => u.running == some (bid, gang)

/-- ORIG of a record: %orig of the faulting lane in a handler, otherwise 0 (R401). -/
def State.origIn (s : State) (b : Block) (gang : Nat) (l : Lane) : Nat :=
  if b.isHandler || s.uiRuns b.id gang then l.orig.toNat else 0

/-- ORIG of the first of faulting lanes (R401). -/
def State.origOf (s : State) (b : Block) (g : Gang) (who : List (Nat × List Nat)) : Nat :=
  match who.filter fun x => !x.2.isEmpty with
  | (k, j :: _) :: _ => (match g.slice k with | some sl => s.origIn b g.num (sl.lane j) | none => 0)
  | _ => 0

/-- The code of a fault that a supervisor gang takes per lane, in %fcode (R418). -/
def perLaneCode (c : BitVec 8) : Bool :=
  let n := c.toNat
  (0x23 ≤ n && n ≤ 0x2F) || (0x40 ≤ n && n ≤ 0x46)

/-- The PC that a stopped split will issue next (R402). -/
def Gang.splitPc (g : Gang) (sp : Split) : BitVec 48 :=
  match sp.slices with
  | k :: _ => (match g.slice k with | some sl => sl.pc | none => 0)
  | [] => 0

/-- The DETAIL bytes of a memory fault (R437). -/
def memDetail (kind path level tries prog : Nat) (info : DWord) : List Byte :=
  leBytes 1 kind ++ leBytes 1 path ++ leBytes 1 level ++ leBytes 1 tries ++ leBytes 4 prog ++ leBytes 8 info.toNat

/-- The KIND of an access in a fault record (R437). -/
def AccKind.faultKind : AccKind → Nat
  | .store | .storeNc | .vstore | .stcw _ => 1
  | .atomic _ | .red _ | .vatomic _ => 2
  | .press _ => 7
  | .kick _ => 4
  | _ => 0

/-- The lanes that a part of an access stands for (R222, R269). -/
def partLanes (p : Part) : List Nat := p.lane :: p.also

/-- The held parts of a slice's accesses that no record names yet (R434). -/
def heldNew (h : Halt) (sl : Slice) : List (Access × Part × BitVec 8) :=
  sl.acc.flatMap fun a => a.parts.filterMap fun p =>
    match p.st with
    | .held c => if h.recorded.contains (a.id, p.lane) then none else some (a, p, c)
    | _ => none

/-- The bytes of a lane's trap entry (R414, R415). -/
def entryBytes (rpc : BitVec 48) (code : BitVec 8) (l : Lane) (regs : List Word) : List Byte :=
  leBytes 8 rpc.toNat ++ [code, 1, l.nest, l.preds.setWidth 8] ++ List.replicate 20 0 ++
    (regs.flatMap fun w => leBytes 4 w.toNat)

/-- Writes the trap entries of lanes of a slice; results already issued are written first (R415, R423). -/
def State.writeEntries (s : State) (b : Block) (g : Gang) (sl : Slice) (lanes : List Nat) (code : BitVec 8)
    (rpc : BitVec 48) : State :=
  let sl := sl.landTo (s.now + 16)
  let s := s.modSlice ⟨b.id, g.num, sl.num⟩ fun x => x.landTo (s.now + 16)
  lanes.foldl (fun s j =>
    let regs := (List.range 32).map fun i => sl.v g.budget i j
    s.vlWrBytes (dieOf b.core) (b.entryAddr g.num (4 * sl.num + j)) (entryBytes rpc code (sl.lane j) regs)) s

/-- Adds faulting lanes to the die's trap unit (R412). -/
def State.gatherLanes (s : State) (d asid : Nat) (code : BitVec 8) (l : List Origin) : State :=
  let gs := (s.die d).gather
  let s := s.modDie d fun x =>
    { x with gather :=
        if gs.any fun g => g.asid == asid && g.code == code then
          modWhere (fun g => g.asid == asid && g.code == code) (fun g => { g with lanes := g.lanes ++ l }) gs
        else gs ++ [{ asid, code, first := s.gtime, lanes := l }] }
  s.timer (s.gtime + 1000) (.handlerGangClose d)

/-- What the record of a held access's part holds (R434, R437). -/
def heldInfo (a : Access) (p : Part) (code : BitVec 8) : FInfo :=
  { code, prec := false, pc := a.pc, addr := BitVec.ofNat 64 p.addr, skid := a.skid,
    agent := match a.kind with | .kick _ => (if 0x24 ≤ code.toNat && code.toNat ≤ 0x28 then 2 else 0) | _ => 0,
    detail := memDetail a.kind.faultKind a.path p.lvl a.tries 0 p.out }

/-- Records parts of one word that raised one code in a gang (R402). -/
def State.recordParts (s : State) (b : Block) (g : Gang) (code : BitVec 8) (l : List (Slice × Access × Part)) : State :=
  match l with
  | [] => s
  | (sl, a, p) :: _ =>
    let smask := (l.map fun x => x.1.num).foldl addNew [] |>.foldl (fun m n => m + 2 ^ n) 0
    let lmask := (l.flatMap fun x => (partLanes x.2.2).map fun j => 4 * x.1.num + j).foldl addNew [] |>.foldl (fun m n => m + 2 ^ n) 0
    s.record b g.num (heldInfo a p code) smask lmask (s.origIn b g.num (sl.lane p.lane))

/-- Records held accesses of a gang whose slices stop (R402, R434): a record for each access and code, with
PREC 0 and the words issued since; then, with CX_TRAP_CTL.V = 1, the lanes' entries, whose RPC is the word at
which the slice stopped. -/
def State.stopHeld (s : State) (b : Block) (g : Gang) (found : List (Slice × Access × Part × BitVec 8)) :
    State :=
  let keys := (found.map fun x => (x.2.2.2, x.2.1.pc)).foldl addNew []
  let keys := sortBy (fun x y => decide (x.1.toNat ≤ y.1.toNat)) keys
  let s := keys.foldl (fun s k =>
    s.recordParts b g k.1 ((found.filter fun x => x.2.2.2 == k.1 && x.2.1.pc == k.2).map fun x => (x.1, x.2.1, x.2.2.1))) s
  let s := s.modBlk b.id fun b =>
    { b with halt := b.halt.map fun h => { h with recorded := h.recorded ++ (found.map (fun x => (x.2.1.id, x.2.2.1.lane))) } }
  if !(s.cxr b.asid 0x11E).getLsbD 63 then s
  else
    let have' := match s.blk b.id with
      | some b => (match b.halt with | some h => h.origins | none => [])
      | none => []
    let each := found.flatMap fun x => (partLanes x.2.2.1).map fun j => (x.1, j, x.2.2.2)
    let lanes := each.foldl (fun (acc : List (Slice × Nat × BitVec 8)) x =>
      if acc.any (fun y => y.1.num == x.1.num && y.2.1 == x.2.1) ||
          have'.any (fun o => o.gang == g.num && o.slice == x.1.num && o.lane == x.2.1) then acc
      else acc ++ [x]) []
    lanes.foldl (fun s x =>
      let s := s.writeEntries b g x.1 [x.2.1] x.2.2 x.1.pc
      let o : Origin := { blk := b.id, gang := g.num, slice := x.1.num, lane := x.2.1, seq := false, code := x.2.2,
                          entry := b.entryAddr g.num (4 * x.1.num + x.2.1) }
      let s := s.modBlk b.id fun b => { b with halt := b.halt.map fun h => { h with origins := h.origins ++ [o] } }
      s.gatherLanes (dieOf b.core) b.asid x.2.2 [o]) s

/-- Writes what a split records when it stops in a halted block (R402, R409, R434): the faults of its held
accesses, or, in a gang that did not fault, the record of a stop. -/
def State.stopRecord (s : State) (b : Block) (g : Gang) (sp : Split) (h : Halt) : State :=
  let found := (g.slices.filter fun sl => sp.slices.contains sl.num).flatMap fun sl =>
    (heldNew h sl).map fun x => (sl, x)
  if !found.isEmpty then s.stopHeld b g found
  else if sp.stop || (h.faulted.any fun x => x.1 == g.num) ||
      (g.slices.any fun sl => sl.acc.any fun a => h.recorded.any fun x => x.1 == a.id) then s
  else s.record b g.num { code := h.code, prec := false, pc := g.splitPc sp, skid := sp.skid } 0 0 0

/-- Stops the splits of a halted block that are not within a run, and its sequencer, which waits at its QWAIT.end where the
block has no uniform stream (R62, R409, R476). Accesses that come to be held
after their split has stopped are recorded as well (R434). Fault records come first: while the run goes on in which an access
is held, no other stop is recorded (R402). -/
def State.stopIdle (s : State) (bid : Nat) : State :=
  match s.blk bid with
  | none => s
  | some b =>
    match b.halt with
    | none => s
    | some h =>
      let fresh : Gang → Split → Bool := fun g sp => g.slices.any fun sl => sp.slices.contains sl.num && !(heldNew h sl).isEmpty
      let late := b.gangs.any fun g => g.splits.any fun sp => sp.inRun && fresh g sp
      let goes : Gang → Split → Bool := fun g sp => !sp.inRun && (fresh g sp || (!sp.stop && !late))
      let todo := b.gangs.flatMap fun g => (g.splits.filter (goes g)).map fun sp => (g, sp)
      let todo := todo.filter (fun x => fresh x.1 x.2) ++ todo.filter (fun x => !fresh x.1 x.2)
      let s := todo.foldl (fun s x => s.stopRecord b x.1 x.2 h) s
      let s := s.modBlk bid fun b =>
        { b with gangs := b.gangs.map fun g =>
            { g with splits := g.splits.map fun sp => if goes g sp then { sp with stop := true } else sp } }
      if b.whey.isNone && !b.seq.stop && !late then
        let s := if h.faulted.any fun x => x.1 == 16 then s
          else s.record b 0 { code := h.code, prec := false, pc := b.seq.pc, agent := 1 } 0 0 0
        s.modSeq bid fun q => { q with stop := true }
      else s

/-- Halts a block (R409). A block that is halted already stays so. -/
def State.haltBlock (s : State) (bid : Nat) (code : BitVec 8) (faulted : List (Nat × Nat × BitVec 48)) : State :=
  s.modBlk bid fun b =>
    match b.halt with
    | none => { b with halt := some { code, time := s.now, faulted } }
    | some h => { b with halt := some { h with faulted := h.faulted ++ faulted } }

/-- Ends the run of a split and stops it (R407, R409). -/
def Split.halted (sp : Split) : Split := { sp with inRun := false, runLen := 0, stop := true }

/-- Halts every unit of a context: records, saves under R169, and CX_HALT.HALT (R405, R422). -/
def State.haltContext (s : State) (asid : Nat) (code : BitVec 8) : State :=
  let bs := (s.blocks.filter fun b => b.asid == asid).map Block.id
  let s := bs.foldl (fun s b => (s.haltBlock b code []).stopIdle b) s
  let s := s.setCx asid 0x11F (s.cxr asid 0x11F ||| 1)
  let us := (s.blocks.filter fun b => b.asid == asid).map Block.id
  s.push (us.map fun b => .unitSave b)

/-- Freezes a supervisor slice (R418): the frozen frame is written, s56 and s57 take the code and mask,
and the slice continues at its context's CX_TRAP_ENTRY with every lane inactive. A fault in a frozen slice
halts every unit of the context (R420). The event's records come before it (R402, R406). -/
def State.freeze (s : State) (r : SliceRef) (lanes : List Nat) (f : FInfo) (rpc : BitVec 48) : State :=
  match s.blk r.blk, s.slice r with
  | some b, some sl =>
    if sl.frozen then s.haltContext b.asid f.code
    else
      let mask := lanes.foldl (fun m j => m ||| 2 ^ j) 0
      let frame := leBytes 8 rpc.toNat ++ [f.code] ++ leBytes 1 mask ++ List.replicate 6 0 ++ leBytes 8 f.addr.toNat ++
        List.replicate 8 0 ++ ((List.range 8).flatMap fun k => leBytes 4 (sl.s (56 + k)).toNat)
      let s := s.vlWrBytes (dieOf b.core) (b.frozenAddr sl.num) frame
      let s := s.modSlice r fun sl =>
        let sl := (sl.setS 56 (f.code.setWidth 32)).setS 57 (BitVec.ofNat 32 mask)
        { sl with frozen := true, pc := (s.cxr b.asid 0x108).extractLsb' 0 48 }
      -- the slice leaves its split, since its next word differs (R48)
      s.modGang r.blk r.gang fun g =>
        match g.splitOf r.slice with
        | some sp =>
          if sp.slices.length == 1 then g.modSplit r.slice fun sp => { sp with wait := .none, made := false, inRun := false, runLen := 0, readyAt := s.now + 1 }
          else
            let rest := modWhere (fun x : Split => x.slices.contains r.slice)
              (fun x => { x with slices := x.slices.filter fun k => k != r.slice }) g.splits
            { g with splits := rest ++ [{ slices := [r.slice], readyAt := s.now + 1 }] }
        | none => g
  | _, _ => s

/-- Sets %fcode of lanes to the code of their oldest fault (R203, R418). -/
def State.setFcode (s : State) (r : SliceRef) (lanes : List Nat) (code : BitVec 8) : State :=
  s.modSlice r fun sl => lanes.foldl (fun sl j => sl.modLane j fun l => if l.fcode == 0 then { l with fcode := code } else l) sl

/-- Lanes of slices of one gang that take a fault: each slice with its faulting lanes and the RPC that their
entries receive. -/
abbrev Faulting := List (Nat × List Nat × BitVec 48)

/-- The codes that halt the whole context (R405, R422). -/
def contextCode (c : BitVec 8) : Bool := c == 0x60 || c == 0x62 || c == 0x2D

/-- A fault in a gang halts its whole context: in a context with SUP = 1 the machine codes 0x60 and 0x62 freeze a slice, as R418
says; 0x2D halts it in both, by R405 and R461, although R418 counts it among the per-lane codes (entry 6). -/
def chargedIn (sup : Bool) (c : BitVec 8) : Bool := if sup then c == 0x2D else contextCode c

/-- Records one code of an event in a gang, with the lanes that raised it (R402). -/
def State.recordLanes (s : State) (b : Block) (g : Gang) (who : Faulting) (f : FInfo) : State :=
  s.record b g.num f (who.foldl (fun m x => m ||| 2 ^ x.1) 0) (who.foldl (fun m x => m ||| maskOf x.1 x.2.1) 0)
    (s.origOf b g (who.map fun x => (x.1, x.2.1)))

/-- Takes one code of an event in a gang of a context with SUP = 0: the record, the halt, the trap entries
(R402, R407, R409, R415). -/
def State.trapOne (s : State) (b : Block) (g : Gang) (who : Faulting) (f : FInfo) : State :=
  let s := s.recordLanes b g who f
  if contextCode f.code then s
  else
    let s := s.haltBlock b.id f.code (who.map fun x => (g.num, x.1, f.pc))
    let s := who.foldl (fun s x => s.modSplit b.id g.num x.1 Split.halted) s
    if !(s.cxr b.asid 0x11E).getLsbD 63 then s
    else
      let s := who.foldl (fun s x => match g.slice x.1 with
        | some sl => s.writeEntries b g sl x.2.1 f.code x.2.2
        | none => s) s
      let os := who.flatMap fun x => x.2.1.map fun j =>
        ({ blk := b.id, gang := g.num, slice := x.1, lane := j, seq := false, code := f.code,
           entry := b.entryAddr g.num (4 * x.1 + j) } : Origin)
      let s := s.modBlk b.id fun b => { b with halt := b.halt.map fun h => { h with origins := h.origins ++ os } }
      s.gatherLanes (dieOf b.core) b.asid f.code os

/-- Takes an event's traps in gangs of a block: the shared entry to exception handling. In a supervisor context the
codes of R418 set %fcode or, after their records, freeze slices; elsewhere the fault records are written in ascending code order, the
block halts, the lanes' entries are written and the trap unit gathers them (R402, R407 to R415); with
CX_TRAP_CTL.V = 0, and for a code charged to the context, the context is halted (R412, R422). -/
def State.trapGangs (s : State) (bid : Nat) (gs : List (Nat × List (Faulting × FInfo))) : State :=
  match s.blk bid with
  | none => s
  | some b =>
    let fs := gs.flatMap fun x => match b.gang x.1 with | some g => x.2.map fun f => (g, f) | none => []
    if s.sup b.asid then
      let lane : FInfo → Bool := fun f => perLaneCode f.code && !chargedIn true f.code
      let s := (fs.filter fun x => !lane x.2.2).foldl (fun s x => s.recordLanes b x.1 x.2.1 x.2.2) s
      fs.foldl (fun s x =>
        let f := x.2.2
        if lane f then x.2.1.foldl (fun s y => s.setFcode ⟨bid, x.1.num, y.1⟩ y.2.1 f.code) s
        else if chargedIn true f.code then s.haltContext b.asid f.code
        else x.2.1.foldl (fun s y => s.freeze ⟨bid, x.1.num, y.1⟩ y.2.1 f y.2.2) s) s
    else
      match fs with
      | [] => s
      | x :: _ =>
        let s := (fs.foldl (fun s x => s.trapOne b x.1 x.2.1 x.2.2) s).stopIdle bid
        if !(s.cxr b.asid 0x11E).getLsbD 63 || fs.any fun y => contextCode y.2.2.code then s.haltContext b.asid x.2.2.code
        else s

/-- Takes an event's traps in one gang. -/
def State.trap (s : State) (bid gang : Nat) (fs : List (Faulting × FInfo)) : State := s.trapGangs bid [(gang, fs)]

/-- Takes a trap whose origin is the uniform sequencer or an engine context (R408, R413, R444). -/
def State.trapSeq (s : State) (bid : Nat) (f : FInfo) : State :=
  match s.blk bid with
  | none => s
  | some b =>
    let s := s.record b 0 f 0 0 0
    if contextCode f.code then s.haltContext b.asid f.code
    else
      let s := s.haltBlock bid f.code [(16, 0, f.pc)]
      let s := s.modSeq bid fun q => { q with stop := true }
      if !(s.cxr b.asid 0x11E).getLsbD 63 then (s.stopIdle bid).haltContext b.asid f.code
      else
        let (oid, s) := s.newId
        let o : Origin := { blk := bid, gang := 16, slice := seqSlice, lane := 0, seq := true, code := f.code,
                            entry := 0, oid, op := f.op }
        let s := s.modBlk bid fun b => { b with halt := b.halt.map fun h => { h with origins := h.origins ++ [o] } }
        (s.stopIdle bid).gatherLanes (dieOf b.core) b.asid f.code [o]

/-- The origin word of a handler lane (R413). -/
def origWord (b : Block) (o : Origin) : Word :=
  let core := b.core % 64
  let org : Nat := if o.seq then 0 else match b.whey with
    | some (slot, _) => slot * 8 + o.lane % 4 * 2
    | none => b.seqx * 512 + o.gang * 32 + (4 * o.slice + o.lane)
  BitVec.ofNat 32 (2 ^ 30 + core * 2 ^ 21 + org * 2 ^ 10 + (if b.whey.isSome then 512 else 0) +
    (if o.seq then 256 else 0) + o.code.toNat)

/-- Marks an origin's trap entry: bit 1 RET, bit 2 SKIP, bit 3 EXIT (R414, R416), and lets the block resume
when its last entry is marked. -/
def State.markEntry (s : State) (o : Origin) (bits : Nat) : State :=
  match s.blk o.blk with
  | none => s
  | some b =>
    let d := dieOf b.core
    let old := s.vlRd d (o.entry + 9) 1
    let s :=
      if o.seq then
        s.modBlk o.blk fun b => { b with halt := b.halt.map fun h =>
          { h with origins := modWhere (fun x => x.oid == o.oid && x.seq) (fun x => { x with mark := x.mark ||| bits }) h.origins } }
      else s.vlWr d (o.entry + 9) 1 (old ||| bits)
    s.push [.blockResume o.blk]

/-- Return from exception: a handler lane returns to its origin (R357, R416). `regs` are the registers it
returns, from window index `k`. -/
def State.trapReturn (s : State) (o : Origin) (k : Nat) (regs : List Word) (skip : Bool) : State :=
  match s.blk o.blk with
  | none => s
  | some b =>
    let s := if o.seq then s else s.vlWrBytes (dieOf b.core) (o.entry + 32 + 4 * k) (regs.flatMap fun w => leBytes 4 w.toNat)
    s.markEntry o (if skip then 6 else 2)

/-- Return from exception in a frozen supervisor slice (R420). -/
def State.unfreeze (s : State) (r : SliceRef) (skip : Bool) : State :=
  match s.blk r.blk with
  | none => s
  | some b =>
    let d := dieOf b.core
    let a := b.frozenAddr r.slice
    let rpc : BitVec 48 := BitVec.ofNat 48 (s.vlRd d a 8)
    let regs := (List.range 8).map fun k => BitVec.ofNat 32 (s.vlRd d (a + 32 + 4 * k) 4)
    s.modSlice r fun sl =>
      let sl := regs.zipIdx.foldl (fun sl x => sl.setS (56 + x.2) x.1) sl
      { sl with frozen := false, pc := if skip then rpc + 8 else rpc }

end Sys2Proof.Machine
end

