-- ==== Sys2Proof/Machine/Operands.lean ====
section
/-! DEFINITION. Operands and the end of a word: the lanes in which a word takes effect (R222), the values
its sources read (R224, R225), the results it leaves to be written (R233, R234), and how its split goes on
(R48, R166, R177, R232). -/

namespace Sys2Proof.Machine

/-! ### The issuing split -/

/-- Runs a lane-stream meaning on the split that issues the word; `cur` names it by a slice. -/
def withSplit (s : State) (f : Block → Gang → Split → State) : Host.Outcome State Fault Refusal :=
  match s.cur with
  | some (.split b g k) =>
    match s.blk b with
    | some blk =>
      match blk.gang g with
      | some gg => (match gg.splitOf k with | some sp => .next (f blk gg sp) | none => .fault .noIssuer)
      | none => .fault .noIssuer
    | none => .fault .noIssuer
  | _ => .fault .noIssuer

/-- Runs a uniform-stream meaning on the block whose sequencer issues the word. -/
def withSeq (s : State) (f : Block → State) : Host.Outcome State Fault Refusal :=
  match s.cur with
  | some (.seq b) => (match s.blk b with | some blk => .next (f blk) | none => .fault .noIssuer)
  | _ => .fault .noIssuer

/-- The member slices of a split, in ascending number. -/
def memberSlices (g : Gang) (sp : Split) : List Slice := g.slices.filter fun sl => sp.slices.contains sl.num

/-- The guard of a lane (R222). -/
def guardOf (c : Ctl) (l : Lane) : Bool := l.p c.pred.toNat != c.neg

/-- The lanes of a slice in which a word takes effect: active, admitted by the guard, and, for the first word
of a slice that resumes from a trap, returned without .skip (R222, R417). -/
def effLanes (c : Ctl) (sl : Slice) : List Nat :=
  sl.active.filter fun j => guardOf c (sl.lane j) &&
    (match sl.execMask with | some (l, pc) => pc != sl.pc || l.contains j | none => true)

/-- A word executed once per slice takes effect (R222); in a frozen slice only with PRED = 7 and NEG = 0
(R419). -/
def takes (c : Ctl) (sl : Slice) : Bool :=
  if sl.frozen then c.pred == 7 && !c.neg else !(effLanes c sl).isEmpty

/-- The lowest taking lane of a slice (R269, R351). -/
def lowLane (c : Ctl) (sl : Slice) : Nat := (effLanes c sl).headD 0

/-- A second source in a lane, 32 bits: a register, a scalar of the slice, or the immediate (R224, R225). -/
def srcV (b : Nat) (sl : Slice) (j : Nat) : Src → Word
  | .reg i => sl.v b i.toNat j
  | .sreg i => sl.s i.toNat
  | .imm v => lo32 v

/-- A second source in a lane, 64 bits (R224, R279). -/
def srcV64 (b : Nat) (sl : Slice) (j : Nat) : Src → DWord
  | .reg i => sl.v64 b i.toNat j
  | .sreg i => sl.s64 i.toNat
  | .imm v => v

/-- A scalar operation's second source (R266). -/
def srcS (sl : Slice) : Src → Word
  | .reg i => sl.s i.toNat
  | .sreg i => sl.s i.toNat
  | .imm v => lo32 v

/-- A result of a lane before it is written: file, index as the word names it, value. -/
abbrev Result := RFile × Nat × DWord

/-- Leaves a lane's results to be written with latency `lat` (R233). -/
def queueResults (b now lat j : Nat) (rs : List Result) (sl : Slice) : Slice :=
  rs.foldl (fun sl r =>
    let idx := match r.1 with | .v => sl.phys b r.2.1 | _ => r.2.1
    { sl with pend := sl.pend ++ [{ due := now + lat, file := r.1, idx, lane := j, val := r.2.2 }] }) sl

/-- A 32-bit result in a vector register. -/
def rv (d : BitVec 8) (v : Word) : List Result := [(.v, d.toNat, v.setWidth 64)]

/-- A 64-bit result in a vector pair (R204). -/
def rv64 (d : BitVec 8) (v : DWord) : List Result :=
  [(.v, d.toNat, (lo32 v).setWidth 64), (.v, d.toNat + 1, (hi32 v).setWidth 64)]

/-- A predicate result. -/
def rp (p : Nat) (v : Bool) : List Result := [(.p, p, (BitVec.ofBool v).setWidth 64)]

/-- A scalar result. -/
def rs (d : Nat) (v : Word) : List Result := [(.s, d, v.setWidth 64)]

/-- Applies a change to every member slice of the issuing split. -/
def onMembers (s : State) (b : Block) (g : Gang) (sp : Split) (f : Slice → Slice) : State :=
  s.modGang b.id g.num fun gg =>
    { gg with slices := gg.slices.map fun sl => if sp.slices.contains sl.num then f sl else sl }

/-! ### Ending a word -/

/-- The port is owned by a split of a gang, or by one that is no longer there. -/
def Port.ownedBy (p : Port) (bid : Nat) (g : Gang) (k : Nat) : Bool :=
  match p.owner with
  | some (i, n, j) => i == bid && n == g.num && g.splits.all fun sp => !sp.slices.contains j || sp.slices.contains k
  | none => false

/-- Ends the run of a split: its port is free for the next arbitration (R166), and the gang owes no run before a delivery (R194); in a
halted block the split stops and writes its record (R402, R409). -/
def State.endRun (s : State) (bid gang k : Nat) : State :=
  match s.blk bid with
  | none => s
  | some b =>
    match b.gang gang with
    | none => s
    | some g =>
      let s := s.modCore b.core fun c =>
        { c with ports := c.ports.mapIdx fun i p => if i == g.port && p.ownedBy bid g k then { p with owner := none } else p }
      let s := s.modGang bid gang fun g => { g with splits := g.splits.map fun sp => { sp with owed := false } }
      let s := s.modSplit bid gang k fun sp => { sp with inRun := false, runLen := 0 }
      if b.halt.isSome then s.stopIdle bid else s

/-- The address of the word after the one at `pc`. -/
def nextPc (pc : BitVec 48) : BitVec 48 := pc + 8

/-- The segments of a whey launch (R175): base, length in words, replicas. -/
def State.segs (s : State) (launch : Nat) : List (Nat × Nat × List (Nat × Nat × Nat)) :=
  match s.wheys.find? fun w => w.launch == launch with
  | some w => w.segs
  | none => []

/-- The number of the segment that contains an address (R177). -/
def State.segOf (s : State) (launch : Nat) (pc : BitVec 48) : Option Nat :=
  (s.segs launch).findIdx? fun x => decide (x.1 ≤ pc.toNat ∧ pc.toNat < x.1 + 8 * x.2.1)

/-- Regroups the members of a split by their program counters: one split for each, ordered by its lowest
slice (R48). -/
def partition (l : List (Nat × BitVec 48)) : List (List Nat) :=
  l.foldl (fun acc x =>
    if acc.any fun grp => (grp.any fun k => (l.find? fun y => y.1 == k).map (·.2) == some x.2) then
      acc.map fun grp => if grp.any fun k => (l.find? fun y => y.1 == k).map (·.2) == some x.2 then grp ++ [x.1] else grp
    else acc ++ [[x.1]]) []

/-- Moves the members of a split to their next words: counters, the cycle of the next issue, parting, the end
of the run, and departures of whey slices (R48, R166, R177, R232). `stay` names slices that do not move and
leave the split (they trapped). A word that is executed again after a wait has ended its run before: it counts in no run and ends
none (R166). -/
def moveSplit (s : State) (b : Block) (g : Gang) (sp : Split) (c : Ctl) (target : Slice → BitVec 48)
    (endRun : Bool) (stay : List Nat := []) : State :=
  let at' := s.now + 1 + c.stall.toNat
  let mem := (memberSlices g sp).filter fun sl => !stay.contains sl.num
  let tgt := mem.map fun sl => (sl.num, target sl)
  let s := s.modGang b.id g.num fun gg =>
    { gg with slices := gg.slices.map fun sl =>
        match tgt.find? fun x => x.1 == sl.num with
        | some x => { sl with pc := x.2, execMask := none }
        | none => sl }
  let groups := partition tgt
  let groups := if stay.isEmpty then groups else groups ++ [sp.slices.filter stay.contains]
  match sp.slices with
  | [] => s
  | k :: _ =>
    let again := sp.wait != .none
    let run := if again then sp.runLen else sp.runLen + 1
    let parted := decide (1 < groups.length)
    let s :=
      if parted then
        s.modGang b.id g.num fun gg =>
          { gg with splits := gg.splits.flatMap fun x =>
              if x.slices.contains k then
                groups.map fun grp =>
                  { slices := grp, readyAt := at', inRun := x.inRun, runLen := run, runStart := x.runStart, lastPc := x.lastPc, skid := x.skid,
                    stop := x.stop }
              else [x] }
      else s.modSplit b.id g.num k fun x =>
        { x with readyAt := at', runLen := run, wait := .none, made := false,
                 skid := if b.halt.isSome then x.skid + 1 else x.skid }
    let out := b.whey.isSome && (tgt.any fun x => (s.segOf b.launch x.2) != (b.whey.map (·.2)))
    let s := if out then s.modSplit b.id g.num k fun x => { x with wait := .departure } else s
    if (!again && (endRun || c.brk || decide (24 ≤ run))) || parted || out then
      (groups.foldl (fun s grp => match grp with | k :: _ => s.endRun b.id g.num k | [] => s) s)
    else s

/-- The normal end of a lane-stream word: every member goes on at the next word (R232). The first half of a
pair ends nothing (R229). -/
def finish (s : State) (b : Block) (g : Gang) (sp : Split) (c : Ctl) (endRun : Bool := false) : State :=
  if c.slot == .x then s else moveSplit s b g sp c (fun sl => nextPc sl.pc) endRun

/-- A lane-stream word that computes in each lane: results with latency `lat`, then the next word (R222,
R233). -/
def vecWord (c : Ctl) (lat : Nat) (f : Nat → Slice → Nat → List Result) (s : State) : Host.Outcome State Fault Refusal :=
  withSplit s fun b g sp =>
    let s := onMembers s b g sp fun sl =>
      (effLanes c sl).foldl (fun sl' j => queueResults g.budget s.now lat j (f g.budget sl j) sl') sl
    finish s b g sp c

/-- A lane-stream word that computes once per slice (R222, R266). -/
def sliceWord (c : Ctl) (lat : Nat) (f : Slice → List Result) (s : State) : Host.Outcome State Fault Refusal :=
  withSplit s fun b g sp =>
    let s := onMembers s b g sp fun sl => if takes c sl then queueResults g.budget s.now lat 0 (f sl) sl else sl
    finish s b g sp c

/-- A split waits at its word: the run ends, the word is executed again when the wait is over (R166). `made`
says that its part of the wait, an arrival, has been made (R409). -/
def waitAt (s : State) (b : Block) (g : Gang) (sp : Split) (w : Wait) (made : Bool := false) : State :=
  match sp.slices with
  | [] => s
  | k :: _ =>
    let s := s.modSplit b.id g.num k fun x => { x with wait := w, made := x.made || made, losses := 0 }
    s.endRun b.id g.num k

/-- The split may not issue its next word before the stall of the word at which it waits has passed (R232). -/
def State.keepStall (s : State) (b : Block) (g : Gang) (sp : Split) (c : Ctl) : State :=
  s.modSplit b.id g.num (sp.slices.headD 0) fun x => { x with readyAt := max x.readyAt (s.now + 1 + c.stall.toNat) }

/-- The normal end of a uniform-stream word (R232, R329). -/
def finishSeqTo (s : State) (b : Block) (c : Ctl) (pc : BitVec 48) : State :=
  s.modSeq b.id fun q =>
    { q with pc, readyAt := s.now + 1 + c.stall.toNat, wait := .none, made := false, stop := q.stop || b.halt.isSome }

/-- The uniform stream goes on at the next word. -/
def finishSeq (s : State) (b : Block) (c : Ctl) : State := finishSeqTo s b c (nextPc b.seq.pc)

/-- The sequencer waits at its word (R166, R400). -/
def waitSeq (s : State) (b : Block) (w : SeqWait) (made : Bool := false) : State :=
  s.modSeq b.id fun q => { q with wait := w, made := q.made || made }

/-- A uniform word that writes q registers with latency 2 (R233, R332). -/
def seqWord (c : Ctl) (f : Sequencer → List (Nat × DWord)) (s : State) : Host.Outcome State Fault Refusal :=
  withSeq s fun b =>
    let s := s.modSeq b.id fun q =>
      { q with pend := q.pend ++ (f b.seq).map fun r => { due := s.now + 2, file := .q, idx := r.1, lane := 0, val := r.2 } }
    finishSeq s b c

/-! ### Faults of a word -/

/-- The detail bytes of an execution fault: the instruction word, then the code's own field (R407). -/
def execDetail (w : DWord) (extra : Nat) : List Byte := leBytes 8 w.toNat ++ leBytes 8 extra

/-- Lanes of slices, by slice number. -/
abbrev Lanes := List (Nat × List Nat)

/-- Traps a word precisely in listed lanes of member slices, for each code its own (R402, R407, R464): the word
has no effect there, and those slices stay at it; the other slices go on to their next words. A code that a
supervisor gang takes per lane stops nothing (R418). The STALL of a word that stops a slice is not applied (R407). -/
def trapMany (s : State) (b : Block) (g : Gang) (sp : Split) (c : Ctl) (target : Slice → BitVec 48)
    (fs : List (BitVec 8 × DWord × List Byte × Lanes)) : State :=
  let fs := (fs.map fun x => (x.1, x.2.1, x.2.2.1, x.2.2.2.filter fun y => !y.2.isEmpty)).filter fun x => !x.2.2.2.isEmpty
  let fs := sortBy (fun x y => decide (x.1.toNat ≤ y.1.toNat)) fs
  let stopping := if s.sup b.asid then fs.filter fun x => !perLaneCode x.1 else fs
  let stay := (stopping.flatMap fun x => x.2.2.2.map (·.1)).eraseDups
  let pc := g.splitPc sp
  let s :=
    if c.slot == .x && stay.isEmpty then s
    else if !stay.isEmpty && stay.length == sp.slices.length then (match sp.slices with | k :: _ => s.endRun b.id g.num k | [] => s)
    else if stay.isEmpty then moveSplit s b g sp c target false
    else moveSplit s b g sp { c with stall := 0 } target true stay
  if fs.isEmpty then s
  else s.trap b.id g.num (fs.map fun x =>
    (x.2.2.2.map fun y => (y.1, y.2, pc), { code := x.1, pc, addr := x.2.1, detail := x.2.2.1 }))

/-- Traps a word with one execution code (R407, R408). -/
def trapWord (s : State) (b : Block) (g : Gang) (sp : Split) (c : Ctl) (code : BitVec 8) (who : Lanes)
    (addr : DWord := 0) (extra : Nat := 0) : State :=
  trapMany s b g sp c (fun sl => nextPc sl.pc) [(code, addr, execDetail s.curWord extra, who)]

/-- Traps a uniform word precisely: the sequencer stays at it (R407, R408). -/
def trapSeqWord (s : State) (b : Block) (code : BitVec 8) (addr : DWord := 0) (extra : Nat := 0) : State :=
  s.trapSeq b.id { code, pc := b.seq.pc, addr, agent := 1, detail := execDetail s.curWord extra }

/-- Every active lane of a split, by slice (R408: "split lanes"); in a split with none, its live lanes stand for it
(entry 6). -/
def splitLanes (g : Gang) (sp : Split) : Lanes :=
  let mem := memberSlices g sp
  let idle := mem.all fun sl => !sl.frozen && sl.active.isEmpty
  mem.map fun sl => (sl.num, if sl.frozen then [0] else if idle then sl.live else sl.active)

/-- The lanes in which a word would take effect, by slice. -/
def takingLanes (g : Gang) (sp : Split) (c : Ctl) : Lanes := (memberSlices g sp).map fun sl => (sl.num, effLanes c sl)

end Sys2Proof.Machine
end

