-- ==== Sys2Proof/Machine/Flags.lean ====
section
/-! DEFINITION. Integer arithmetic: saturation, bit fields, permutations, comparisons, carries and masks
(R205, R227, R262 to R266, R270). Exact results are formed on integers and narrowed at the end. -/

namespace Sys2Proof.Machine

/-- Clamps to a range of integers. -/
def clampI (lo hi x : Int) : Int := if x < lo then lo else if hi < x then hi else x

/-- sat_s32 and sat_uns32, as 32-bit patterns (R205). -/
def satS32 (x : Int) : Word := BitVec.ofInt 32 (clampI (-(2 ^ 31)) (2 ^ 31 - 1) x)
def satU32 (x : Int) : Word := BitVec.ofInt 32 (clampI 0 (2 ^ 32 - 1) x)

/-- sat_s64 and sat_uns64, as 64-bit patterns (R262). -/
def satS64 (x : Int) : DWord := BitVec.ofInt 64 (clampI (-(2 ^ 63)) (2 ^ 63 - 1) x)
def satU64 (x : Int) : DWord := BitVec.ofInt 64 (clampI 0 (2 ^ 64 - 1) x)

/-- An operation is signed under TYPE 0 and .s32 (R263). -/
def tySigned (ty : Ty) : Bool := ty != .u32

/-- The value of a 32-bit pattern under a type (R262, R263). -/
def val32 (ty : Ty) (w : Word) : Int := if tySigned ty then w.toInt else w.toNat

/-- The value of a 64-bit pattern under a type. -/
def val64 (ty : Ty) (w : DWord) : Int := if tySigned ty then w.toInt else w.toNat

/-- An exact integer result narrowed to 32 bits, clamped under .sat (R263). -/
def narrow32 (ty : Ty) (sat : Bool) (x : Int) : Word :=
  if sat then (if tySigned ty then satS32 x else satU32 x) else BitVec.ofInt 32 x

/-- An exact integer result narrowed to 64 bits, clamped under .sat (R265). -/
def narrow64 (ty : Ty) (sat : Bool) (x : Int) : DWord :=
  if sat then (if tySigned ty then satS64 x else satU64 x) else BitVec.ofInt 64 x

/-- IADD, ISUB and IMUL (R263). -/
def iaddV (ty : Ty) (sat : Bool) (a b : Word) : Word := narrow32 ty sat (val32 ty a + val32 ty b)
def isubV (ty : Ty) (sat : Bool) (a b : Word) : Word := narrow32 ty sat (val32 ty a - val32 ty b)
def imulV (ty : Ty) (sat : Bool) (a b : Word) : Word := narrow32 ty sat (val32 ty a * val32 ty b)

/-- Minimum and maximum, signed or unsigned (R263, R266). -/
def minV (signed : Bool) (a b : Word) : Word := if (if signed then a.slt b else a.ult b) then a else b
def maxV (signed : Bool) (a b : Word) : Word := if (if signed then b.slt a else b.ult a) then a else b

/-- IABS (R263): under .sat the most negative value gives 0x7FFF_FFFF. -/
def iabsV (sat : Bool) (a : Word) : Word :=
  let x : Int := a.toInt.natAbs
  if sat then satS32 x else BitVec.ofInt 32 x

/-- SHL, SHR and SAR by b[7:0] (R263). -/
def shlV (a b : Word) : Word := a <<< (b.toNat % 256)
def shrV (a b : Word) : Word := a >>> (b.toNat % 256)
def sarV (a b : Word) : Word := a.sshiftRight (min (b.toNat % 256) 31)

/-- ROTL by b[4:0] (R263). -/
def rotlV (a b : Word) : Word := a.rotateLeft (b.toNat % 32)

/-- POPC (R263). -/
def popcV (a : Word) : Word := BitVec.ofNat 32 ((List.range 32).filter a.getLsbD).length

/-- CLZ (R263). -/
def clzV (a : Word) : Word := BitVec.ofNat 32 (if a == 0 then 32 else 31 - a.toNat.log2)

/-- A word from its bits. -/
def ofBits32 (f : Nat → Bool) : Word := (List.range 32).foldl (fun w i => if f i then w ||| (1#32 <<< i) else w) 0

/-- BREV (R263). -/
def brevV (a : Word) : Word := ofBits32 fun i => a.getLsbD (31 - i)

/-- MOVI (R263). -/
def moviV (a b : Word) : Word := BitVec.ofNat 32 (b.toNat * 2 ^ 12 + a.toNat % 2 ^ 12)

/-- SEXT and ZEXT of a[n-1:0] with n := b[5:0] (R263). -/
def sextV (a b : Word) : Word :=
  let n := b.toNat % 64
  if n == 0 then 0 else if 32 ≤ n then a else ofBits32 fun i => if i < n then a.getLsbD i else a.getLsbD (n - 1)
def zextV (a b : Word) : Word :=
  let n := b.toNat % 64
  if 32 ≤ n then a else ofBits32 fun i => decide (i < n) && a.getLsbD i

/-- bfe (R264). -/
def bfeV (a : Word) (pos len : Nat) (signed : Bool) : Word :=
  let len := min len 32
  let f := fun i => if pos + i < 32 then a.getLsbD (pos + i) else signed && a.getLsbD 31
  if len == 0 then 0 else ofBits32 fun i => if i < len then f i else signed && f (len - 1)

/-- bfi (R264). -/
def bfiV (base field : Word) (pos len : Nat) : Word :=
  ofBits32 fun i => if pos ≤ i ∧ i - pos < min len 32 then field.getLsbD (i - pos) else base.getLsbD i

/-- Position and length in a second source (R264). -/
def bfPos (b : Word) : Nat := b.toNat % 256
def bfLen (b : Word) : Nat := b.toNat / 256 % 256

/-- IADDC: the sum and the carry out of bit 31 (R263). -/
def iaddcV (a b : Word) (cin : Bool) : Word × Bool :=
  let x := a.toNat + b.toNat + cin.toNat
  (BitVec.ofNat 32 x, decide (2 ^ 32 ≤ x))

/-- LUT3 (R265). -/
def lut3V (tbl : BitVec 8) (a b c : Word) : Word :=
  ofBits32 fun i => tbl.getLsbD ((a.getLsbD i).toNat + 2 * (b.getLsbD i).toNat + 4 * (c.getLsbD i).toNat)

/-- ISHF (R265). -/
def ishfV (left : Bool) (a b c : Word) : Word :=
  let v := b.toNat * 2 ^ 32 + a.toNat
  let n := c.toNat % 64
  if left then BitVec.ofNat 32 (v * 2 ^ n % 2 ^ 64 / 2 ^ 32) else BitVec.ofNat 32 (v / 2 ^ n)

/-- PRMT (R265). -/
def prmtV (a b c : Word) : Word :=
  let v := b.toNat * 2 ^ 32 + a.toNat
  let sel := fun k =>
    let n := c.toNat / 16 ^ k % 16
    let byte := v / 256 ^ (n % 8) % 256
    if n < 8 then byte else if 128 ≤ byte then 255 else 0
  BitVec.ofNat 32 (sel 0 + 256 * sel 1 + 65536 * sel 2 + 16777216 * sel 3)

/-- LMASK of a lane number (R266). -/
def lmaskV (lane : Nat) (b : Word) : Word :=
  ofBits32 fun n =>
    match b.toNat % 8 with
    | 0 => n == lane
    | 1 => decide (n < lane)
    | 2 => decide (n ≤ lane)
    | 3 => decide (lane < n)
    | 4 => decide (lane ≤ n)
    | 5 => n != lane
    | 6 => true
    | _ => false

/-- An integer comparison (R227, R268): num is true and nan is false. -/
def cmpI (c : Cond) (a b : Int) : Bool :=
  match c with
  | .eq => decide (a = b)
  | .ne => decide (a ≠ b)
  | .lt => decide (a < b)
  | .le => decide (a ≤ b)
  | .gt => decide (b < a)
  | .ge => decide (b ≤ a)
  | .num => true
  | .nan => false

/-- ISETP and SCMP: signed, or unsigned under U (R227, R266, R268). -/
def isetpV (c : Cond) (u : Bool) (a b : Word) : Bool :=
  if u then cmpI c a.toNat b.toNat else cmpI c a.toInt b.toInt

/-- A 64-bit comparison with zero (QBRA, R332). -/
def cmp0 (c : Cond) (u : Bool) (a : DWord) : Bool :=
  if u then cmpI c a.toNat 0 else cmpI c a.toInt 0

/-- IDP4 (R285): the exact sum. -/
def idp4V (ty : Ty) (su sat : Bool) (a b c : Word) : Word :=
  let byte := fun (w : Word) (k : Nat) (signed : Bool) =>
    let x := w.extractLsb' (8 * k) 8
    (if signed then x.toInt else x.toNat : Int)
  let sa := su || tySigned ty
  let sb := !su && tySigned ty
  let cv : Int := if su || tySigned ty then c.toInt else c.toNat
  let x := (List.range 4).foldl (fun acc k => acc + byte a k sa * byte b k sb) cv
  if sat then (if su || tySigned ty then satS32 x else satU32 x) else BitVec.ofInt 32 x

end Sys2Proof.Machine
end

