-- ==== Sys2Proof/Machine/FloatArith.lean ====
section
/-! DEFINITION. Floating-point arithmetic (R206 to R212, R218, R220, R280 to R289): a value is decoded
exactly, the exact result is formed, and it is rounded once. -/

namespace Sys2Proof.Machine

/-- A floating-point format (R206). E4M3 has no infinity. -/
structure Fmt where
  ebits : Nat
  mbits : Nat
  bias : Nat
  hasInf : Bool := true
  deriving DecidableEq, Repr, Inhabited

def fE4 : Fmt := { ebits := 4, mbits := 3, bias := 7, hasInf := false }
def fE5 : Fmt := { ebits := 5, mbits := 2, bias := 15 }
def fH : Fmt := { ebits := 5, mbits := 10, bias := 15 }
def fB : Fmt := { ebits := 8, mbits := 7, bias := 127 }
def fS : Fmt := { ebits := 8, mbits := 23, bias := 127 }
def fD : Fmt := { ebits := 11, mbits := 52, bias := 1023 }

/-- An exact value: NaN, an infinity, or (-1)^neg × m × 2^e. -/
inductive FV where
  | nan
  | inf (neg : Bool)
  | fin (neg : Bool) (m : Nat) (e : Int)
  deriving DecidableEq, Repr, Inhabited

/-- The width of a format. -/
def Fmt.width (f : Fmt) : Nat := 1 + f.ebits + f.mbits

/-- The encoding of the largest finite magnitude (R206). -/
def Fmt.maxFin (f : Fmt) : Nat := if f.hasInf then (2 ^ f.ebits - 1) * 2 ^ f.mbits - 1 else 2 ^ (f.ebits + f.mbits) - 2

/-- The canonical NaN of a format (R208). -/
def Fmt.nan (f : Fmt) : Nat :=
  if f.hasInf then (2 ^ f.ebits - 1) * 2 ^ f.mbits + 2 ^ (f.mbits - 1) else 2 ^ (f.ebits + f.mbits) - 1

/-- The sign bit of a format's encoding. -/
def Fmt.sign (f : Fmt) (neg : Bool) : Nat := if neg then 2 ^ (f.ebits + f.mbits) else 0

/-- The exact value of an encoding (R206, R207). -/
def Fmt.decode (f : Fmt) (x : Nat) : FV :=
  let m := x % 2 ^ f.mbits
  let e := x / 2 ^ f.mbits % 2 ^ f.ebits
  let neg := x / 2 ^ (f.ebits + f.mbits) % 2 == 1
  if e == 2 ^ f.ebits - 1 && f.hasInf then (if m == 0 then .inf neg else .nan)
  else if !f.hasInf && e == 2 ^ f.ebits - 1 && m == 2 ^ f.mbits - 1 then .nan
  else if e == 0 then .fin neg m (1 - f.bias - f.mbits)
  else .fin neg (m + 2 ^ f.mbits) (e - f.bias - f.mbits)

/-- What rounding beyond the largest finite magnitude gives (R211). -/
def Fmt.overflow (f : Fmt) (mode : Rnd) (sat neg : Bool) : Nat :=
  let big := f.sign neg + f.maxFin
  let inf := if f.hasInf then f.sign neg + (2 ^ f.ebits - 1) * 2 ^ f.mbits else f.nan
  if sat then big
  else
    match mode with
    | .rn | .rna => inf
    | .rz => big
    | .ru => if neg then big else inf
    | .rd => if neg then inf else big

/-- The integer that rounding m × 2^(-d) gives, by mode and sign (R210). -/
def roundShift (mode : Rnd) (neg : Bool) (m d : Nat) : Nat :=
  if m.log2 + 2 < d then
    (match mode with
     | .ru => if neg || m == 0 then 0 else 1
     | .rd => if neg && m != 0 then 1 else 0
     | _ => 0)
  else
    let n := m / 2 ^ d
    let r := m % 2 ^ d
    let half := 2 ^ d / 2
    let up :=
      if r == 0 then false
      else match mode with
        | .rn => decide (half < r) || (r == half && n % 2 == 1 && d != 0)
        | .rna => decide (half ≤ r)
        | .rz => false
        | .ru => !neg
        | .rd => neg
    if up then n + 1 else n

/-- round(f, x, mode) with .sat (R210, R211): the encoding of the result. -/
def Fmt.round (f : Fmt) (mode : Rnd) (sat : Bool) (x : FV) : Nat :=
  match x with
  | .nan => f.nan
  | .inf neg =>
    if f.hasInf && !sat then f.sign neg + (2 ^ f.ebits - 1) * 2 ^ f.mbits else f.overflow mode sat neg
  | .fin neg m e =>
    if m == 0 then f.sign neg
    else
      let l : Int := (m.log2 : Int) + e
      let ee : Int := max l (1 - f.bias)
      let q : Int := ee - f.mbits
      if (2 ^ f.ebits : Int) < ee + f.bias then f.overflow mode sat neg
      else
        let n := if q ≤ e then m * 2 ^ (e - q).toNat else roundShift mode neg m (q - e).toNat
        let bits := (ee + f.bias - 1).toNat * 2 ^ f.mbits + n
        if f.maxFin < bits then f.overflow mode sat neg else f.sign neg + bits

/-- The sign of a value. -/
def FV.neg : FV → Bool
  | .nan => false
  | .inf n => n
  | .fin n _ _ => n

/-- The value is a zero. -/
def FV.isZero : FV → Bool
  | .fin _ 0 _ => true
  | _ => false

def FV.isNan : FV → Bool
  | .nan => true
  | _ => false

/-- The opposite value (R281). -/
def FV.negate : FV → FV
  | .nan => .nan
  | .inf n => .inf !n
  | .fin n m e => .fin (!n) m e

/-- An exact signed integer times a power of two. -/
structure Dy where
  n : Int
  e : Int
  deriving DecidableEq, Repr, Inhabited

/-- The exact sum. -/
def Dy.add (x y : Dy) : Dy :=
  if x.n == 0 then y else if y.n == 0 then x
  else if x.e ≤ y.e then { n := x.n + y.n * 2 ^ (y.e - x.e).toNat, e := x.e }
  else { n := x.n * 2 ^ (x.e - y.e).toNat + y.n, e := y.e }

/-- A signed magnitude as an exact number. -/
def dyOf (neg : Bool) (m : Nat) (e : Int) : Dy := { n := if neg then -(m : Int) else m, e }

/-- The exact number as a value; `zneg` is the sign of a zero. -/
def Dy.toFV (x : Dy) (zneg : Bool) : FV := if x.n == 0 then .fin zneg 0 0 else .fin (decide (x.n < 0)) x.n.natAbs x.e

/-- The exact sum of values (R208, R209, R218, R282, R285): NaN for a NaN term or infinities of both
signs; a zero sum keeps the sign that all terms share when all are zeros, and else is +0, or -0 under .rd. -/
def sumFV (mode : Rnd) (l : List FV) : FV :=
  if l.any FV.isNan then .nan
  else
    let pinf := l.any fun x => x == .inf false
    let ninf := l.any fun x => x == .inf true
    if pinf && ninf then .nan
    else if pinf then .inf false
    else if ninf then .inf true
    else
      let s := l.foldl (fun acc x => match x with | .fin n m e => acc.add (dyOf n m e) | _ => acc) ({ n := 0, e := 0 } : Dy)
      let zneg :=
        if l.all fun x => x.isZero && x.neg then !l.isEmpty
        else if l.all fun x => x.isZero && !x.neg then false
        else mode == .rd
      s.toFV zneg

/-- The exact product (R208): ∞ × 0 is NaN. -/
def mulFV (x y : FV) : FV :=
  match x, y with
  | .nan, _ | _, .nan => .nan
  | .inf n, .inf n' => .inf (n != n')
  | .inf n, .fin n' m _ | .fin n' m _, .inf n => if m == 0 then .nan else .inf (n != n')
  | .fin n m e, .fin n' m' e' => .fin (n != n') (m * m') (e + e')

/-- The exact sum of a group of a matrix operation (R218): an exact zero is -0 only when every term is
-0. -/
def groupSum (l : List FV) : FV := sumFV .rn l

/-- x < y on values that are not NaN; -0 equals +0. -/
def ltFV (x y : FV) : Bool :=
  match x, y with
  | .inf n, .inf n' => n && !n'
  | .inf n, .fin _ _ _ => n
  | .fin _ _ _, .inf n => !n
  | .fin n m e, .fin n' m' e' => decide (((dyOf n m e).add { n := -(dyOf n' m' e').n, e := e' }).n < 0)
  | _, _ => false

/-- x = y on values that are not NaN; -0 equals +0. -/
def eqFV (x y : FV) : Bool := !x.isNan && !y.isNan && !ltFV x y && !ltFV y x

/-- A floating-point comparison (R227, R284). -/
def cmpF (c : Cond) (u : Bool) (x y : FV) : Bool :=
  let un := x.isNan || y.isNan
  match c with
  | .num => !un || u
  | .nan => un
  | .eq => if un then u else eqFV x y
  | .ne => if un then u else !eqFV x y
  | .lt => if un then u else ltFV x y
  | .le => if un then u else ltFV x y || eqFV x y
  | .gt => if un then u else ltFV y x
  | .ge => if un then u else ltFV y x || eqFV x y

/-- The order of R280: -0 counts as less than +0. -/
def ltMin (x y : FV) : Bool := ltFV x y || (x.isZero && y.isZero && x.neg && !y.neg)

/-- Minimum and maximum of encodings (R280). -/
def Fmt.minMax (f : Fmt) (mx : Bool) (a b : Nat) : Nat :=
  let x := f.decode a
  let y := f.decode b
  if x.isNan && y.isNan then f.nan
  else if x.isNan then b
  else if y.isNan then a
  else if mx then (if ltMin x y then b else a) else (if ltMin y x then b else a)

/-- Addition, multiplication and fused multiply-add of encodings (R209, R282, R286, R287). -/
def Fmt.add (f : Fmt) (mode : Rnd) (sat : Bool) (a b : Nat) : Nat := f.round mode sat (sumFV mode [f.decode a, f.decode b])
def Fmt.sub (f : Fmt) (mode : Rnd) (sat : Bool) (a b : Nat) : Nat :=
  f.round mode sat (sumFV mode [f.decode a, (f.decode b).negate])
def Fmt.mul (f : Fmt) (mode : Rnd) (sat : Bool) (a b : Nat) : Nat := f.round mode sat (mulFV (f.decode a) (f.decode b))
def Fmt.fma (f : Fmt) (mode : Rnd) (sat : Bool) (a b c : Nat) : Nat :=
  f.round mode sat (sumFV mode [mulFV (f.decode a) (f.decode b), f.decode c])

/-- A packed 16-bit operation: each half by itself (R287). -/
def packed (f : Nat → Nat → Nat) (a b : Word) : Word :=
  BitVec.ofNat 32 (f (a.toNat % 65536) (b.toNat % 65536) + 65536 * f (a.toNat / 65536) (b.toNat / 65536))
def packed3 (f : Nat → Nat → Nat → Nat) (a b c : Word) : Word :=
  BitVec.ofNat 32 (f (a.toNat % 65536) (b.toNat % 65536) (c.toNat % 65536) +
    65536 * f (a.toNat / 65536) (b.toNat / 65536) (c.toNat / 65536))

/-- FABS, FNEG, FCOPYSIGN (R281): only the sign changes; a NaN gives the canonical NaN. -/
def Fmt.setSign (f : Fmt) (neg : Bool) (a : Nat) : Nat :=
  if (f.decode a).isNan then f.nan else f.sign neg + a % 2 ^ (f.ebits + f.mbits)

/-- FSAT (R282). DEDUCED (entry 32): its own row, by which a NaN gives +0, is followed where R281 lists FSAT among the operations that return
the canonical NaN. -/
def fsatV (a : Word) : Word :=
  match fS.decode a.toNat with
  | .nan => 0
  | x => if ltFV x (.fin false 0 0) || x.isZero then 0 else if ltFV (.fin false 1 0) x then 0x3F800000 else a

/-- An exact value rounded to an integer by a mode (R212, R282). -/
def roundInt (mode : Rnd) (neg : Bool) (m : Nat) (e : Int) : Nat :=
  if 0 ≤ e then m * 2 ^ e.toNat else roundShift mode neg m (-e).toNat

/-- FRND (R282): an integral value in the same format; the sign is kept. -/
def Fmt.rnd (f : Fmt) (mode : Rnd) (a : Nat) : Nat :=
  match f.decode a with
  | .nan => f.nan
  | .inf n => f.sign n + (2 ^ f.ebits - 1) * 2 ^ f.mbits
  | .fin n m e => if 0 ≤ e then a else f.round mode false (.fin n (roundInt mode n m e) 0)

/-- A float to an integer, saturating (R212). -/
def toIntSat (lo hi : Int) (mode : Rnd) : FV → Int
  | .nan => 0
  | .inf n => if n then lo else hi
  | .fin n m e =>
    if 200 < (m.log2 : Int) + e then (if m == 0 then 0 else if n then lo else hi)
    else
      let k : Int := roundInt mode n m e
      clampI lo hi (if n then -k else k)

/-- The exact value of an integer. -/
def ofIntFV (x : Int) : FV := .fin (decide (x < 0)) x.natAbs 0

/-- FSCALE (R282). -/
def fscaleV (mode : Rnd) (sat : Bool) (a b : Word) : Word :=
  match fS.decode a.toNat with
  | .fin n m e => BitVec.ofNat 32 (fS.round mode sat (.fin n m (e + b.toInt)))
  | x => BitVec.ofNat 32 (fS.round mode sat x)

/-- FCLASS (R283). -/
def Fmt.classOf (f : Fmt) (a : Nat) : Word :=
  let bit : Nat :=
    match f.decode a with
    | .nan => if a / 2 ^ (f.mbits - 1) % 2 == 1 then 9 else 8
    | .inf n => if n then 0 else 7
    | .fin n m _ =>
      if m == 0 then (if n then 3 else 4)
      else if a / 2 ^ f.mbits % 2 ^ f.ebits == 0 then (if n then 2 else 5)
      else if n then 1 else 6
  BitVec.ofNat 32 (2 ^ bit)

/-- FDOT2 (R285): one rounding of the exact sum of two products and c. -/
def fdot2V (mode : Rnd) (sat : Bool) (a0 a1 b0 b1 c : FV) : Word :=
  BitVec.ofNat 32 (fS.round mode sat (sumFV mode [mulFV a0 b0, mulFV a1 b1, c]))

/-- redux_tree (R220): a fixed tree over leaves; `none` is an empty leaf. Each level joins neighbours. -/
def reduxLevel (f : α → α → α) : List (Option α) → List (Option α)
  | [] => []
  | [x] => [x]
  | x :: y :: r =>
    (match x, y with
     | none, none => none
     | some a, none => some a
     | none, some b => some b
     | some a, some b => some (f a b)) :: reduxLevel f r

/-- The tree with strides 1, 2, 4 and so on, `k` levels. -/
def reduxTree (f : α → α → α) (k : Nat) (l : List (Option α)) : Option α :=
  match k with
  | 0 => (l.headD none)
  | k + 1 => reduxTree f k (reduxLevel f l)

/-! ### Special functions (R288, R289)

The results of the special functions are not fixed by the spec beyond a bound. The model takes any result inside
the bound: an opaque function of the input's bits (entry 5), replaced by the value nearest the exact one
where it would lie outside. Exact values are formed in fixed point with `fxP` fraction bits. -/

/-- Fraction bits of the fixed point. -/
def fxP : Nat := 320

/-- A fixed-point product. -/
def fxMul (x y : Int) : Int := x * y / 2 ^ fxP

/-- sum of x^k / k! for k from `k` to `k + n`, given the term of `k`. -/
def fxExp (x : Int) : Nat → Nat → Int → Int
  | 0, _, t => t
  | n + 1, k, t => t + fxExp x n (k + 1) (fxMul t x / ((k + 1 : Nat) : Int))

/-- sum of 1 / (k 2^k), which is ln 2. -/
def fxLn2 : Nat → Nat → Int
  | 0, _ => 0
  | n + 1, k => 2 ^ fxP / (((k : Nat) : Int) * 2 ^ k) + fxLn2 n (k + 1)

/-- arctan of 1/q, by its series. -/
def fxAtan (q : Nat) : Nat → Nat → Int
  | 0, _ => 0
  | n + 1, k => (if k % 2 == 0 then 1 else -1) * (2 ^ (2 * fxP) / ((q ^ (2 * k + 1) * (2 * k + 1) : Nat) : Int)) + fxAtan q n (k + 1)

/-- π with 2 × `fxP` fraction bits (Machin). -/
def fxPi : Int := 4 * (4 * fxAtan 5 300 0 - fxAtan 239 150 0)

/-- 2^x for a fixed-point x in [0, 1). -/
def fxExp2 (x : Int) : Int := fxExp (fxMul x (fxLn2 340 1)) 100 0 (2 ^ fxP)

/-- Bits of log2 of a fixed-point number in [1, 2). -/
def fxLog2 (x : Int) : Nat → Int
  | 0 => 0
  | n + 1 =>
    let y := fxMul x x
    if 2 * 2 ^ fxP ≤ y then 2 ^ n + fxLog2 (y / 2) n else fxLog2 y n

/-- The alternating series of sine and cosine: terms t, -t x² / ((k+1)(k+2)), and so on. -/
def fxSin (x2 : Int) : Nat → Nat → Int → Int
  | 0, _, t => t
  | n + 1, k, t => t - fxSin x2 n (k + 2) (fxMul t x2 / ((((k + 1) * (k + 2) : Nat)) : Int))

/-- Sine and cosine of an exact argument m × 2^e, reduced by multiples of π/2 (R288). -/
def fxSinCos (m : Nat) (e : Int) : Int × Int :=
  let half := fxPi / 2                       -- 2 * fxP fraction bits
  let x : Int := if 0 ≤ e then (m : Int) * 2 ^ e.toNat * 2 ^ (2 * fxP) else (m : Int) * 2 ^ (2 * fxP) / 2 ^ (-e).toNat
  let k := x / half
  let r := (x - k * half) / 2 ^ fxP
  let r2 := fxMul r r
  let sn := fxSin r2 60 1 r
  let cs := fxSin r2 60 0 (2 ^ fxP)
  match (k % 4).toNat with
  | 0 => (sn, cs)
  | 1 => (cs, -sn)
  | 2 => (-sn, -cs)
  | _ => (-cs, sn)

/-- An FP32 value as fixed point times 2^(-k). -/
def FV.dy : FV → Dy
  | .fin n m e => dyOf n m e
  | _ => { n := 0, e := 0 }

/-- |r - y| ≤ bound, on exact numbers. -/
def Dy.within (r y bound : Dy) : Bool :=
  let d := r.add { n := -y.n, e := y.e }
  let a : Dy := { n := d.n.natAbs, e := d.e }
  decide ((a.add { n := -bound.n, e := bound.e }).n ≤ 0)

/-- One unit in the last place of FP32 at a value (R288). -/
def ulpAt (y : Dy) : Dy :=
  if y.n == 0 then { n := 1, e := -149 }
  else { n := 1, e := max ((y.n.natAbs.log2 : Int) + y.e) (-126) - 23 }

/-- The free result of a special function, kept inside its bound and range (R288, R289, entry 5): `y` is the
exact value, `bound` its error bound, and the result is finite and lies in [lo, hi]. -/
def boundedResult (op : Nat) (a : Word) (y bound lo hi : Dy) : Word :=
  let r := Config.specialFn op a
  let ok : Word → Bool := fun w =>
    match fS.decode w.toNat with
    | .fin n m e =>
      let d := dyOf n m e
      d.within y bound && decide (0 ≤ (d.add { n := -lo.n, e := lo.e }).n) && decide (0 ≤ (hi.add { n := -d.n, e := d.e }).n)
    | _ => false
  if ok r then r else BitVec.ofNat 32 (fS.round .rn true (y.toFV false))

/-- The larger of two bounds. -/
def Dy.max (x y : Dy) : Dy := if (x.add { n := -y.n, e := y.e }).n < 0 then y else x

/-- `k` units. -/
def Dy.scale (x : Dy) (k : Int) : Dy := { x with n := x.n * k }

/-- A bound that nothing exceeds. -/
def dyHuge : Dy := { n := 1, e := 128 }

/-- A fixed-point number as an exact number. -/
def ofFx (x : Int) : Dy := { n := x, e := -(fxP : Int) }

def fpInf (neg : Bool) : Word := if neg then 0xFF800000 else 0x7F800000
def fpNan : Word := 0x7FC00000
def fpZero (neg : Bool) : Word := if neg then 0x80000000 else 0
def fpOne (neg : Bool) : Word := if neg then 0xBF800000 else 0x3F800000

/-- A natural number is a power of two. -/
def isPow2 (m : Nat) : Bool := m == 2 ^ m.log2

/-- The integer square root, bit by bit. -/
def isqrtGo (n : Nat) : Nat → Nat → Nat
  | 0, r => r
  | k + 1, r => let r' := r + 2 ^ k; isqrtGo n k (if r' * r' ≤ n then r' else r)

/-- The integer square root. -/
def isqrt (n : Nat) : Nat := isqrtGo n (n.log2 / 2 + 1) 0

/-- A free finite non-zero result of a sign, where no finite value lies within the error bound (R289, entry 5). -/
def finiteResult (op : Nat) (neg : Bool) (a : Word) : Word :=
  let r := Config.specialFn op a
  match fS.decode r.toNat with
  | .fin n m _ => if n == neg && m != 0 then r else BitVec.ofNat 32 (fS.round .rn true (.inf neg))
  | _ => BitVec.ofNat 32 (fS.round .rn true (.inf neg))

/-- FRCP (R288, R289). The reciprocal of a non-zero magnitude below 2^-128 lies more than the bound above every finite value, and
R289 gives a finite result there too; that of 2^-128 is one of the largest finite values, within the bound. -/
def frcpV (a : Word) : Word :=
  match fS.decode a.toNat with
  | .nan => fpNan
  | .inf n => fpZero n
  | .fin n m e =>
    if m == 0 then fpInf n
    else if a.toNat % 2 ^ 31 < 0x200000 then finiteResult 0x108 n a
    else if isPow2 m && a.toNat % 2 ^ 31 != 0x200000 then BitVec.ofNat 32 (fS.round .rn false (.fin n 1 (-e - m.log2)))
    else
      let y : Dy := { n := (if n then -1 else 1) * (2 ^ (400 + m.log2) / (m : Int)), e := -e - 400 - m.log2 }
      boundedResult 0x108 a y (ulpAt y) { n := -1, e := 128 } dyHuge

/-- FRSQ (R288, R289). -/
def frsqV (a : Word) : Word :=
  match fS.decode a.toNat with
  | .nan => fpNan
  | .inf n => if n then fpNan else 0
  | .fin n m e =>
    if m == 0 then fpInf n
    else if n then fpNan
    else if isPow2 m && (e + m.log2) % 2 == 0 then BitVec.ofNat 32 (fS.round .rn false (.fin false 1 (-((e + m.log2) / 2))))
    else
      -- 1/sqrt(m 2^e) = sqrt(2^(800 - k) / m) 2^(-(800 + e - k)/2), with 800 + e - k even
      let k : Nat := (e % 2).toNat
      let y : Dy := { n := isqrt (2 ^ (800 - k) / m), e := -((800 + e - k) / 2) }
      boundedResult 0x109 a y (ulpAt y) { n := 0, e := 0 } dyHuge

/-- FSQRT (R288, R289): correctly rounded by RND. -/
def fsqrtV (mode : Rnd) (a : Word) : Word :=
  match fS.decode a.toNat with
  | .nan => fpNan
  | .inf n => if n then fpNan else fpInf false
  | .fin n m e =>
    if m == 0 then a
    else if n then fpNan
    else
      let k : Nat := (e % 2).toNat
      let v := m * 2 ^ (200 + k)              -- the exponent of v is even
      let r := isqrt v
      let sticky : Nat := if r * r == v then 0 else 1
      BitVec.ofNat 32 (fS.round mode false (.fin false (2 * r + sticky) ((e - 200 - k) / 2 - 1)))

/-- FEXP2 (R288, R289). -/
def fexp2V (a : Word) : Word :=
  match fS.decode a.toNat with
  | .nan => fpNan
  | .inf n => if n then 0 else fpInf false
  | .fin n m e =>
    if m == 0 then fpOne false
    else if 8 < (m.log2 : Int) + e then (if n then 0 else fpInf false)
    else
      let x : Int := (if n then -1 else 1) * (if 0 ≤ e then (m : Int) * 2 ^ (e.toNat + fxP) else (m : Int) * 2 ^ fxP / 2 ^ (-e).toNat)
      let i := x / 2 ^ fxP
      let f := x - i * 2 ^ fxP
      if 128 ≤ i then fpInf false
      else if i < -149 then 0
      else if f == 0 && (0 ≤ e || m % 2 ^ (-e).toNat == 0) then BitVec.ofNat 32 (fS.round .rn false (.fin false 1 i))
      else
        let y : Dy := { n := fxExp2 f, e := i - fxP }
        boundedResult 0x10B a y ((ulpAt y).scale 2) { n := 1, e := -149 } dyHuge

/-- FLOG2 (R288, R289). -/
def flog2V (a : Word) : Word :=
  match fS.decode a.toNat with
  | .nan => fpNan
  | .inf n => if n then fpNan else fpInf false
  | .fin n m e =>
    if m == 0 then fpInf true
    else if n then fpNan
    else
      let l : Int := (m.log2 : Int) + e
      if isPow2 m then BitVec.ofNat 32 (fS.round .rn false (ofIntFV l))
      else
        let x : Int := (m : Int) * 2 ^ fxP / 2 ^ m.log2
        let y : Dy := { n := l * 2 ^ 200 + fxLog2 x 200, e := -200 }
        let inside := l == 0 || l == -1
        boundedResult 0x10C a y (if inside then { n := 1, e := -22 } else (ulpAt y).scale 2) { n := -150, e := 0 } { n := 128, e := 0 }

/-- FSIN and FCOS (R288, R289). -/
def fsinV (cos : Bool) (a : Word) : Word :=
  match fS.decode a.toNat with
  | .nan => fpNan
  | .inf _ => fpNan
  | .fin n m e =>
    if m == 0 then (if cos then fpOne false else a)
    else
      let sc := fxSinCos m e
      let y := ofFx (if cos then sc.2 else if n then -sc.1 else sc.1)
      boundedResult (if cos then 0x10E else 0x10D) a y { n := 1, e := -21 } { n := -1, e := 0 } { n := 1, e := 0 }

/-- FTANH (R288, R289). -/
def ftanhV (a : Word) : Word :=
  match fS.decode a.toNat with
  | .nan => fpNan
  | .inf n => fpOne n
  | .fin n m e =>
    if m == 0 then a
    else
      -- tanh x = (1 - w) / (1 + w) with w = 2^(-2x / ln 2)
      let w : Int :=
        if 7 < (m.log2 : Int) + e then 0
        else
          let x : Int := if 0 ≤ e then (m : Int) * 2 ^ (e.toNat + fxP) else (m : Int) * 2 ^ fxP / 2 ^ (-e).toNat
          let t := -(2 * x * 2 ^ fxP / fxLn2 340 1)
          let i := t / 2 ^ fxP
          fxExp2 (t - i * 2 ^ fxP) / 2 ^ (-i).toNat
      let one : Int := 2 ^ fxP
      let v := (one - w) * one / (one + w)
      let y := ofFx (if n then -v else v)
      boundedResult 0x10F a y (((ulpAt y).scale 2).max { n := 1, e := -22 }) { n := -1, e := 0 } { n := 1, e := 0 }

/-! ### Dual-exponent block formats (R213 to R216) -/

/-- Element width, largest magnitude and k of a block format (R213); the default gap (R216). -/
def dbW : Ty → Nat
  | .db8 => 8 | .db6 => 6 | _ => 4
def dbK : Ty → Int
  | .db8 => 132 | .db6 => 130 | _ => 128
def dbMax (ty : Ty) : Nat := 2 ^ (dbW ty - 2) - 1
def dbGap : Ty → Nat
  | .db8 => 4 | .db6 => 3 | _ => 2

/-- db_decode (R214). -/
def dbDecode (ty : Ty) (e0 e1 el : Nat) : FV :=
  let w := dbW ty
  let neg := el / 2 ^ (w - 2) % 2 == 1
  let m := el % 2 ^ (w - 2)
  if e0 == 255 || e1 == 255 then .nan
  else
    let e := if el / 2 ^ (w - 1) % 2 == 1 then e1 else e0
    if e == 0 then .fin neg 0 0 else .fin neg m (e - dbK ty)

/-- The histogram bin of an FP32 value (R215); zeros and NaNs have none. -/
def histBin (a : Word) : Option Nat :=
  match fS.decode a.toNat with
  | .nan => none
  | .inf _ => some 255
  | .fin _ m _ => if m == 0 then none else some (a.toNat / 2 ^ 23 % 256)

/-- The smallest index at which the running sum of a histogram reaches a target. -/
def reach (l : List Nat) (target acc i : Nat) : Nat :=
  match l with
  | [] => i
  | x :: r => if target ≤ acc + x then i else reach r target (acc + x) (i + 1)

/-- clip_exp (R215). -/
def clipExp (hist : List Nat) (p : Nat) : Nat :=
  let n := hist.foldl (· + ·) 0
  if n == 0 then 254
  else min (reach hist (((p + 1) * n + 65535) / 65536) 0 0 + 1) 254

/-- round_rne_int(|x| / 2^k) of a finite magnitude. -/
def rneScaled (m : Nat) (e k : Int) : Nat := roundInt .rn false m (e - k)

/-- db_pack (R216): E0, E1 and the element codes. -/
def dbPack (ty : Ty) (xs : List Word) (c g : Nat) : Nat × Nat × List Nat :=
  let w := dbW ty
  let mx := dbMax ty
  let vs := xs.map fun x => fS.decode x.toNat
  if vs.any FV.isNan then (255, 255, xs.map fun _ => 0)
  else
    let es : List Int := vs.filterMap fun v => match v with
      | .fin _ m e => if m == 0 then none else some ((m.log2 : Int) + e + 127)
      | _ => none
    let m : Int := match es with
      | [] => c
      | x :: r => r.foldl max x
    let e1 : Nat := (max (min (min (m + 1) (c : Int)) 254) 1).toNat
    let e0 : Nat := e1 - g
    let el := fun (v : FV) =>
      let s := if v.neg then 2 ^ (w - 2) else 0
      match v with
      | .fin _ m e =>
        let n0 := if e0 == 0 then mx + 1 else if m == 0 then 0 else rneScaled m e (e0 - dbK ty)
        if n0 ≤ mx then s + n0
        else 2 ^ (w - 1) + s + (if m == 0 then 0 else min (rneScaled m e (e1 - dbK ty)) mx)
      | _ => 2 ^ (w - 1) + s + mx
    (e0, e1, vs.map el)

/-- The element string of a block as one integer (R213). -/
def dbString (ty : Ty) (els : List Nat) : Nat := els.foldr (fun x acc => x + 2 ^ dbW ty * acc) 0

end Sys2Proof.Machine
end

