-- ==== Sys2Proof/Machine/Float.lean ====
section
/-! DEFINITION. Floating-point arithmetic, special functions and conversions of the lane stream (R280 to
R291). -/

namespace Sys2Proof.Machine

/-- An encoding of 32 bits as a register value. -/
def w32 (x : Nat) : Word := BitVec.ofNat 32 x

/-- The format of a packed or scalar 16-bit type (R226). -/
def fmt16 (ty : Ty) : Fmt := if ty == .bf16 then fB else fH

/-- Writes a 16-bit result into one half of d and keeps the other half as read at issue (R291). -/
def halfInto (old : Word) (hi : Bool) (x : Nat) : Word :=
  if hi then w32 (old.toNat % 65536 + x * 65536) else w32 (old.toNat / 65536 * 65536 + x)

/-- `FADD` (R282). -/
def execFadd (c : Ctl) (o : VOp) (s : State) : Host.Outcome State Fault Refusal :=
  vecWord c 4 (fun b sl j => rv o.d (w32 (fS.add o.rnd o.sat (sl.v b o.a.toNat j).toNat (srcV b sl j o.b).toNat))) s

/-- `FSUB` (R282). -/
def execFsub (c : Ctl) (o : VOp) (s : State) : Host.Outcome State Fault Refusal :=
  vecWord c 4 (fun b sl j => rv o.d (w32 (fS.sub o.rnd o.sat (sl.v b o.a.toNat j).toNat (srcV b sl j o.b).toNat))) s

/-- `FMUL` (R282). -/
def execFmul (c : Ctl) (o : VOp) (s : State) : Host.Outcome State Fault Refusal :=
  vecWord c 4 (fun b sl j => rv o.d (w32 (fS.mul o.rnd o.sat (sl.v b o.a.toNat j).toNat (srcV b sl j o.b).toNat))) s

/-- `FMIN` (R280, R282). -/
def execFmin (c : Ctl) (o : VOp) (s : State) : Host.Outcome State Fault Refusal :=
  vecWord c 4 (fun b sl j => rv o.d (w32 (fS.minMax false (sl.v b o.a.toNat j).toNat (srcV b sl j o.b).toNat))) s

/-- `FMAX` (R280, R282). -/
def execFmax (c : Ctl) (o : VOp) (s : State) : Host.Outcome State Fault Refusal :=
  vecWord c 4 (fun b sl j => rv o.d (w32 (fS.minMax true (sl.v b o.a.toNat j).toNat (srcV b sl j o.b).toNat))) s

/-- `FSETP` (R284). -/
def execFsetp (c : Ctl) (o : COp) (s : State) : Host.Outcome State Fault Refusal :=
  vecWord c 4 (fun b sl j => rp o.pd.toNat (cmpF o.cond o.u (fS.decode (sl.v b o.a.toNat j).toNat) (fS.decode (srcV b sl j o.b).toNat))) s

/-- `FABS` (R281, R282). -/
def execFabs (c : Ctl) (o : VOp) (s : State) : Host.Outcome State Fault Refusal :=
  vecWord c 4 (fun b sl j => rv o.d (w32 (fS.setSign false (srcV b sl j o.b).toNat))) s

/-- `FNEG` (R281, R282). -/
def execFneg (c : Ctl) (o : VOp) (s : State) : Host.Outcome State Fault Refusal :=
  vecWord c 4 (fun b sl j => rv o.d (w32 (fS.setSign ((srcV b sl j o.b).toNat < 2 ^ 31) (srcV b sl j o.b).toNat))) s

/-- `HADD2` (R287). -/
def execHadd2 (c : Ctl) (o : VOp) (s : State) : Host.Outcome State Fault Refusal :=
  vecWord c 4 (fun b sl j => rv o.d (packed (fH.add o.rnd o.sat) (sl.v b o.a.toNat j) (srcV b sl j o.b))) s

/-- `HMUL2` (R287). -/
def execHmul2 (c : Ctl) (o : VOp) (s : State) : Host.Outcome State Fault Refusal :=
  vecWord c 4 (fun b sl j => rv o.d (packed (fH.mul o.rnd o.sat) (sl.v b o.a.toNat j) (srcV b sl j o.b))) s

/-- `BADD2` (R287). -/
def execBadd2 (c : Ctl) (o : VOp) (s : State) : Host.Outcome State Fault Refusal :=
  vecWord c 4 (fun b sl j => rv o.d (packed (fB.add o.rnd o.sat) (sl.v b o.a.toNat j) (srcV b sl j o.b))) s

/-- `BMUL2` (R287). -/
def execBmul2 (c : Ctl) (o : VOp) (s : State) : Host.Outcome State Fault Refusal :=
  vecWord c 4 (fun b sl j => rv o.d (packed (fB.mul o.rnd o.sat) (sl.v b o.a.toNat j) (srcV b sl j o.b))) s

/-- `HMIN2` (R280, R287). -/
def execHmin2 (c : Ctl) (o : VOp) (s : State) : Host.Outcome State Fault Refusal :=
  vecWord c 4 (fun b sl j => rv o.d (packed ((fmt16 o.ty).minMax false) (sl.v b o.a.toNat j) (srcV b sl j o.b))) s

/-- `HMAX2` (R280, R287). -/
def execHmax2 (c : Ctl) (o : VOp) (s : State) : Host.Outcome State Fault Refusal :=
  vecWord c 4 (fun b sl j => rv o.d (packed ((fmt16 o.ty).minMax true) (sl.v b o.a.toNat j) (srcV b sl j o.b))) s

/-- `FSAT` (R282). -/
def execFsat (c : Ctl) (o : VOp) (s : State) : Host.Outcome State Fault Refusal :=
  vecWord c 4 (fun b sl j => rv o.d (fsatV (srcV b sl j o.b))) s

/-- `FRND` (R282). -/
def execFrnd (c : Ctl) (o : VOp) (s : State) : Host.Outcome State Fault Refusal :=
  vecWord c 4 (fun b sl j => rv o.d (w32 (fS.rnd o.rnd (srcV b sl j o.b).toNat))) s

/-- `FFMA` (R282). -/
def execFfma (c : Ctl) (o : VOp) (s : State) : Host.Outcome State Fault Refusal :=
  vecWord c 4 (fun b sl j => rv o.d (w32 (fS.fma o.rnd o.sat (sl.v b o.a.toNat j).toNat (srcV b sl j o.b).toNat (sl.v b o.c.toNat j).toNat))) s

/-- `FCLASS` (R283). -/
def execFclass (c : Ctl) (o : VOp) (s : State) : Host.Outcome State Fault Refusal :=
  vecWord c 4 (fun b sl j => 
    rv o.d (if o.ty == .f16 || o.ty == .bf16 then (fmt16 o.ty).classOf ((srcV b sl j o.b).toNat % 65536) else fS.classOf (srcV b sl j o.b).toNat)) s

/-- `FSCALE` (R282). -/
def execFscale (c : Ctl) (o : VOp) (s : State) : Host.Outcome State Fault Refusal :=
  vecWord c 4 (fun b sl j => rv o.d (fscaleV o.rnd o.sat (sl.v b o.a.toNat j) (srcV b sl j o.b))) s

/-- `FCOPYSIGN` (R281, R282). -/
def execFcopysign (c : Ctl) (o : VOp) (s : State) : Host.Outcome State Fault Refusal :=
  vecWord c 4 (fun b sl j => rv o.d (w32 (fS.setSign ((srcV b sl j o.b).getLsbD 31) (sl.v b o.a.toNat j).toNat))) s

/-- `FDOT2` (R285). -/
def execFdot2 (c : Ctl) (o : VOp) (s : State) : Host.Outcome State Fault Refusal :=
  vecWord c 4 (fun b sl j => 
    let x : Nat × Nat × Nat × Nat :=
      if o.ty == .f16 || o.ty == .bf16 then
        ((sl.v b o.a.toNat j).toNat % 65536, (sl.v b o.a.toNat j).toNat / 65536, (srcV b sl j o.b).toNat % 65536, (srcV b sl j o.b).toNat / 65536)
      else
        let av := sl.v64 b o.a.toNat j
        let bv := srcV64 b sl j o.b
        ((lo32 av).toNat, (hi32 av).toNat, (lo32 bv).toNat, (hi32 bv).toNat)
    let f := if o.ty == .f16 || o.ty == .bf16 then fmt16 o.ty else fS
    rv o.d (fdot2V o.rnd o.sat (f.decode x.1) (f.decode x.2.1) (f.decode x.2.2.1) (f.decode x.2.2.2) (fS.decode (sl.v b o.c.toNat j).toNat))) s

/-- `IDP4` (R285: .su under X). -/
def execIdp4 (c : Ctl) (o : VOp) (s : State) : Host.Outcome State Fault Refusal :=
  vecWord c 4 (fun b sl j => rv o.d (idp4V o.ty o.x o.sat (sl.v b o.a.toNat j) (srcV b sl j o.b) (sl.v b o.c.toNat j))) s

/-- `DADD` (R286). -/
def execDadd (c : Ctl) (o : VOp) (s : State) : Host.Outcome State Fault Refusal :=
  vecWord c 8 (fun b sl j => 
    rv64 o.d (BitVec.ofNat 64 (fD.add o.rnd o.sat (sl.v64 b o.a.toNat j).toNat (srcV64 b sl j o.b).toNat))) s

/-- `DMUL` (R286). -/
def execDmul (c : Ctl) (o : VOp) (s : State) : Host.Outcome State Fault Refusal :=
  vecWord c 8 (fun b sl j => 
    rv64 o.d (BitVec.ofNat 64 (fD.mul o.rnd o.sat (sl.v64 b o.a.toNat j).toNat (srcV64 b sl j o.b).toNat))) s

/-- `DFMA` (R286). -/
def execDfma (c : Ctl) (o : VOp) (s : State) : Host.Outcome State Fault Refusal :=
  vecWord c 8 (fun b sl j => 
    rv64 o.d (BitVec.ofNat 64 (fD.fma o.rnd o.sat (sl.v64 b o.a.toNat j).toNat (srcV64 b sl j o.b).toNat (sl.v64 b o.c.toNat j).toNat))) s

/-- `DMIN` (R280, R286). -/
def execDmin (c : Ctl) (o : VOp) (s : State) : Host.Outcome State Fault Refusal :=
  vecWord c 8 (fun b sl j => 
    rv64 o.d (BitVec.ofNat 64 (fD.minMax false (sl.v64 b o.a.toNat j).toNat (srcV64 b sl j o.b).toNat))) s

/-- `DMAX` (R280, R286). -/
def execDmax (c : Ctl) (o : VOp) (s : State) : Host.Outcome State Fault Refusal :=
  vecWord c 8 (fun b sl j => 
    rv64 o.d (BitVec.ofNat 64 (fD.minMax true (sl.v64 b o.a.toNat j).toNat (srcV64 b sl j o.b).toNat))) s

/-- `DSETP` (R284). -/
def execDsetp (c : Ctl) (o : COp) (s : State) : Host.Outcome State Fault Refusal :=
  vecWord c 8 (fun b sl j => rp o.pd.toNat (cmpF o.cond o.u (fD.decode (sl.v64 b o.a.toNat j).toNat) (fD.decode (srcV64 b sl j o.b).toNat))) s

/-- `FRND.64` (R286). -/
def execFrnd64 (c : Ctl) (o : VOp) (s : State) : Host.Outcome State Fault Refusal :=
  vecWord c 8 (fun b sl j => 
    rv64 o.d (BitVec.ofNat 64 (fD.rnd o.rnd (srcV64 b sl j o.b).toNat))) s

/-- `HFMA2` (R287). -/
def execHfma2 (c : Ctl) (o : VOp) (s : State) : Host.Outcome State Fault Refusal :=
  vecWord c 4 (fun b sl j => 
    rv o.d (packed3 (fH.fma o.rnd o.sat) (sl.v b o.a.toNat j) (srcV b sl j o.b) (sl.v b o.c.toNat j))) s

/-- `BFMA2` (R287). -/
def execBfma2 (c : Ctl) (o : VOp) (s : State) : Host.Outcome State Fault Refusal :=
  vecWord c 4 (fun b sl j => 
    rv o.d (packed3 (fB.fma o.rnd o.sat) (sl.v b o.a.toNat j) (srcV b sl j o.b) (sl.v b o.c.toNat j))) s

/-- `FRCP` (R288, R289). -/
def execFrcp (c : Ctl) (o : VOp) (s : State) : Host.Outcome State Fault Refusal :=
  vecWord c 12 (fun b sl j => rv o.d (frcpV (srcV b sl j o.b))) s

/-- `FRSQ` (R288, R289). -/
def execFrsq (c : Ctl) (o : VOp) (s : State) : Host.Outcome State Fault Refusal :=
  vecWord c 12 (fun b sl j => rv o.d (frsqV (srcV b sl j o.b))) s

/-- `FSQRT` (R288, R289). -/
def execFsqrt (c : Ctl) (o : VOp) (s : State) : Host.Outcome State Fault Refusal :=
  vecWord c 12 (fun b sl j => rv o.d (fsqrtV o.rnd (srcV b sl j o.b))) s

/-- `FEXP2` (R288, R289). -/
def execFexp2 (c : Ctl) (o : VOp) (s : State) : Host.Outcome State Fault Refusal :=
  vecWord c 12 (fun b sl j => rv o.d (fexp2V (srcV b sl j o.b))) s

/-- `FLOG2` (R288, R289). -/
def execFlog2 (c : Ctl) (o : VOp) (s : State) : Host.Outcome State Fault Refusal :=
  vecWord c 12 (fun b sl j => rv o.d (flog2V (srcV b sl j o.b))) s

/-- `FSIN` (R288, R289). -/
def execFsin (c : Ctl) (o : VOp) (s : State) : Host.Outcome State Fault Refusal :=
  vecWord c 12 (fun b sl j => rv o.d (fsinV false (srcV b sl j o.b))) s

/-- `FCOS` (R288, R289). -/
def execFcos (c : Ctl) (o : VOp) (s : State) : Host.Outcome State Fault Refusal :=
  vecWord c 12 (fun b sl j => rv o.d (fsinV true (srcV b sl j o.b))) s

/-- `FTANH` (R288, R289). -/
def execFtanh (c : Ctl) (o : VOp) (s : State) : Host.Outcome State Fault Refusal :=
  vecWord c 12 (fun b sl j => rv o.d (ftanhV (srcV b sl j o.b))) s

/-- `I2F` (R290). -/
def execI2f (c : Ctl) (o : VOp) (s : State) : Host.Outcome State Fault Refusal :=
  vecWord c 6 (fun b sl j => rv o.d (w32 (fS.round o.rnd false (ofIntFV (val32 o.ty (srcV b sl j o.b)))))) s

/-- `F2I` (R212, R290). -/
def execF2i (c : Ctl) (o : VOp) (s : State) : Host.Outcome State Fault Refusal :=
  vecWord c 6 (fun b sl j => 
    let x := fS.decode (srcV b sl j o.b).toNat
    rv o.d (if o.ty == .u32 then BitVec.ofInt 32 (toIntSat 0 (2 ^ 32 - 1) o.rnd x)
      else BitVec.ofInt 32 (toIntSat (-(2 ^ 31)) (2 ^ 31 - 1) o.rnd x))) s

/-- `F2H` (R290, R291: .hi under X). -/
def execF2h (c : Ctl) (o : VOp) (s : State) : Host.Outcome State Fault Refusal :=
  vecWord c 6 (fun b sl j => 
    rv o.d (halfInto (sl.v b o.d.toNat j) o.x (fH.round o.rnd o.sat (fS.decode (srcV b sl j o.b).toNat)))) s

/-- `F2B` (R290, R291: .hi under X). -/
def execF2b (c : Ctl) (o : VOp) (s : State) : Host.Outcome State Fault Refusal :=
  vecWord c 6 (fun b sl j => 
    rv o.d (halfInto (sl.v b o.d.toNat j) o.x (fB.round o.rnd o.sat (fS.decode (srcV b sl j o.b).toNat)))) s

/-- `H2F` (R290: .hi under X). -/
def execH2f (c : Ctl) (o : VOp) (s : State) : Host.Outcome State Fault Refusal :=
  vecWord c 6 (fun b sl j => 
    rv o.d (w32 (fS.round .rn false (fH.decode ((srcV b sl j o.b).toNat / (if o.x then 65536 else 1) % 65536))))) s

/-- `B2F` (R290: .hi under X). -/
def execB2f (c : Ctl) (o : VOp) (s : State) : Host.Outcome State Fault Refusal :=
  vecWord c 6 (fun b sl j => 
    rv o.d (w32 (fS.round .rn false (fB.decode ((srcV b sl j o.b).toNat / (if o.x then 65536 else 1) % 65536))))) s

/-- `F2F` (R290: by TYPE). -/
def execF2f (c : Ctl) (o : VOp) (s : State) : Host.Outcome State Fault Refusal :=
  vecWord c 6 (fun b sl j => 
    let v := srcV64 b sl j o.b
    match o.ty with
    | .w64 => rv64 o.d (BitVec.ofNat 64 (fD.round .rn o.sat (fS.decode (srcV b sl j o.b).toNat)))
    | .f16 | .bf16 =>
      let f := fmt16 o.ty
      rv o.d (w32 (f.round o.rnd o.sat (fS.decode (lo32 v).toNat) + 65536 * f.round o.rnd o.sat (fS.decode (hi32 v).toNat)))
    | _ => rv o.d (w32 (fS.round o.rnd o.sat (fD.decode v.toNat)))) s

/-- `CVTFI` (R212, R290: .uns under X). -/
def execCvtfi (c : Ctl) (o : VOp) (s : State) : Host.Outcome State Fault Refusal :=
  vecWord c 6 (fun b sl j => 
    let x := fD.decode (srcV64 b sl j o.b).toNat
    match o.ty with
    | .w64 =>
      rv64 o.d (if o.x then BitVec.ofInt 64 (toIntSat 0 (2 ^ 64 - 1) o.rnd x)
        else BitVec.ofInt 64 (toIntSat (-(2 ^ 63)) (2 ^ 63 - 1) o.rnd x))
    | .u32 => rv o.d (BitVec.ofInt 32 (toIntSat 0 (2 ^ 32 - 1) o.rnd x))
    | _ => rv o.d (BitVec.ofInt 32 (toIntSat (-(2 ^ 31)) (2 ^ 31 - 1) o.rnd x))) s

/-- `CVTIF` (R290: .uns under X). -/
def execCvtif (c : Ctl) (o : VOp) (s : State) : Host.Outcome State Fault Refusal :=
  vecWord c 6 (fun b sl j => 
    let x : Int := match o.ty with
      | .w64 => if o.x then ((srcV64 b sl j o.b).toNat : Int) else (srcV64 b sl j o.b).toInt
      | _ => val32 o.ty (srcV b sl j o.b)
    rv64 o.d (BitVec.ofNat 64 (fD.round o.rnd false (ofIntFV x)))) s

/-- `F2E4` (R290, R291). -/
def execF2e4 (c : Ctl) (o : VOp) (s : State) : Host.Outcome State Fault Refusal :=
  vecWord c 6 (fun b sl j => 
    let lo := fE4.round o.rnd o.sat (fS.decode (sl.v b o.a.toNat j).toNat)
    let hi := fE4.round o.rnd o.sat (fS.decode (srcV b sl j o.b).toNat)
    rv o.d (halfInto (sl.v b o.d.toNat j) o.x (lo + 256 * hi))) s

/-- `F2E5` (R290, R291). -/
def execF2e5 (c : Ctl) (o : VOp) (s : State) : Host.Outcome State Fault Refusal :=
  vecWord c 6 (fun b sl j => 
    let lo := fE5.round o.rnd o.sat (fS.decode (sl.v b o.a.toNat j).toNat)
    let hi := fE5.round o.rnd o.sat (fS.decode (srcV b sl j o.b).toNat)
    rv o.d (halfInto (sl.v b o.d.toNat j) o.x (lo + 256 * hi))) s

/-- `E42F` (R290, R291: bytes 2 and 3 under X). -/
def execE42f (c : Ctl) (o : VOp) (s : State) : Host.Outcome State Fault Refusal :=
  vecWord c 6 (fun b sl j => 
    let h := (srcV b sl j o.b).toNat / (if o.x then 65536 else 1) % 65536
    let one := fun x => w32 (fS.round .rn false (fE4.decode x))
    rv64 o.d (pair64 (one (h % 256)) (one (h / 256)))) s

/-- `E52F` (R290, R291: bytes 2 and 3 under X). -/
def execE52f (c : Ctl) (o : VOp) (s : State) : Host.Outcome State Fault Refusal :=
  vecWord c 6 (fun b sl j => 
    let h := (srcV b sl j o.b).toNat / (if o.x then 65536 else 1) % 65536
    let one := fun x => w32 (fS.round .rn false (fE5.decode x))
    rv64 o.d (pair64 (one (h % 256)) (one (h / 256)))) s

/-- `DCVT` (R290, R291). -/
def execDcvt (c : Ctl) (o : VOp) (s : State) : Host.Outcome State Fault Refusal :=
  vecWord c 6 (fun b sl j => 
    rv o.d (halfInto (sl.v b o.d.toNat j) o.x ((fmt16 o.ty).round o.rnd o.sat (fD.decode (srcV64 b sl j o.b).toNat)))) s

end Sys2Proof.Machine
end

