-- ==== Sys2Proof/Machine/CrossLane.lean ====
section
/-! DEFINITION. Exchange between lanes (R269, R270, R292). -/

namespace Sys2Proof.Machine

/-- A taking lane: its number in the gang, its slice and its place in the slice (R269). -/
abbrev Taking := List (Nat × Slice × Nat)

/-- The taking lanes of the issuing split, in ascending lane number (R269). -/
def takingOf (c : Ctl) (g : Gang) (sp : Split) : Taking :=
  (memberSlices g sp).flatMap fun sl => (effLanes c sl).map fun j => (4 * sl.num + j, sl, j)

/-- A value of taking lane `n`, or a default where lane `n` is not taking. -/
def Taking.at (t : Taking) (n : Nat) (f : Slice → Nat → α) (d : α) : α :=
  match t.find? fun x => x.1 == n with
  | some x => f x.2.1 x.2.2
  | none => d

/-- The lowest taking lane's value. -/
def Taking.low (t : Taking) (f : Slice → Nat → α) (d : α) : α :=
  match t with
  | x :: _ => f x.2.1 x.2.2
  | [] => d

/-- The mask of taking lanes that meet a condition. -/
def Taking.mask (t : Taking) (f : Slice → Nat → Bool) : Word :=
  BitVec.ofNat 32 (t.foldl (fun m x => if f x.2.1 x.2.2 then m ||| 2 ^ x.1 else m) 0)

/-- A cross-lane word: each taking lane receives what `f` computes from all taking lanes (R269), with latency
`lat`. -/
def crossWord (c : Ctl) (lat : Nat) (f : Nat → Taking → Nat → Slice → Nat → List Result) (s : State) :
    Host.Outcome State Fault Refusal :=
  withSplit s fun b g sp =>
    let t := takingOf c g sp
    let s := onMembers s b g sp fun sl =>
      (effLanes c sl).foldl (fun sl' j =>
        queueResults g.budget s.now lat j (f g.budget t (4 * sl.num + j) sl j) sl') sl
    finish s b g sp c

/-- `SHFLX` (R270: within each slice). -/
def execShflx (c : Ctl) (o : VOp) (s : State) : Host.Outcome State Fault Refusal :=
  crossWord c 6 (fun b t l sl j =>
    let n := 4 * (l / 4) + ((l % 4) ^^^ (srcV b sl j o.b).toNat % 4)
    rv o.d (t.at n (fun sl j => sl.v b o.a.toNat j) (sl.v b o.a.toNat j))) s

/-- `BCAST` (R270). -/
def execBcast (c : Ctl) (o : VOp) (s : State) : Host.Outcome State Fault Refusal :=
  crossWord c 6 (fun b t l sl j =>
    let n := t.low (fun sl j => (srcV b sl j o.b).toNat % 32) l
    rv o.d (t.at n (fun sl j => sl.v b o.a.toNat j) (sl.v b o.a.toNat j))) s

/-- `SHFL` (R270: .from, .fwd, .back and .swap by k). -/
def execShfl (c : Ctl) (o : VOp) (s : State) : Host.Outcome State Fault Refusal :=
  crossWord c 6 (fun b t l sl j =>
    let k := (srcV b sl j o.b).toNat % 32
    let n := match o.k.toNat with
      | 0 => k
      | 1 => (l + k) % 32
      | 2 => (l + 32 - k) % 32
      | _ => l ^^^ k
    rv o.d (t.at n (fun sl j => sl.v b o.a.toNat j) (sl.v b o.a.toNat j))) s

/-- `VOTE` (R270: .all, .any, .uni and .ballot by k; the predicate is negated when X = 1). -/
def execVote (c : Ctl) (o : VOp) (s : State) : Host.Outcome State Fault Refusal :=
  crossWord c 6 (fun _ t _ _ _ =>
    let p : Slice → Nat → Bool := fun sl j => (sl.lane j).p (o.a.toNat % 8) != o.x
    let all := t.all fun x => p x.2.1 x.2.2
    let any := t.any fun x => p x.2.1 x.2.2
    rv o.d (match o.k.toNat with
      | 0 => if all then 1 else 0
      | 1 => if any then 1 else 0
      | 2 => if all || !any then 1 else 0
      | _ => t.mask p)) s

/-- The reduction of two values under a mode of REDUX (R270). -/
def reduxOp (mode : Nat) (x y : Word) : Word :=
  match mode with
  | 0 => x + y
  | 1 => minV true x y
  | 2 => minV false x y
  | 3 => maxV true x y
  | 4 => maxV false x y
  | 5 => x &&& y
  | 6 => x ||| y
  | _ => x ^^^ y

/-- `REDUX` (R270: the mode is k). -/
def execRedux (c : Ctl) (o : VOp) (s : State) : Host.Outcome State Fault Refusal :=
  crossWord c 6 (fun b t _ _ _ =>
    let vs := t.map fun x => srcV b x.2.1 x.2.2 o.b
    rv o.d (vs.tail.foldl (reduxOp o.k.toNat) (vs.headD 0))) s

/-- `MATCH` (R270: .any and .all by k). -/
def execMatchL (c : Ctl) (o : VOp) (s : State) : Host.Outcome State Fault Refusal :=
  crossWord c 6 (fun b t _ sl j =>
    let v := srcV b sl j o.b
    let same : Slice → Nat → Bool := fun sl' j' => srcV b sl' j' o.b == v
    rv o.d (if o.k == 0 then t.mask same else if t.all fun x => same x.2.1 x.2.2 then t.mask fun _ _ => true else 0)) s

/-- One node of FREDUX (R220, R292): the rounded sum, the minimum or the maximum, on encodings. -/
def freduxNode (f : Fmt) (mode : Nat) (x y : Nat) : Nat :=
  match mode with
  | 0 => f.add .rn false x y
  | 1 => f.minMax false x y
  | _ => f.minMax true x y

/-- `FREDUX` (R220, R292: the tree over lane numbers). -/
def execFredux (c : Ctl) (o : VOp) (s : State) : Host.Outcome State Fault Refusal :=
  crossWord c 6 (fun b t _ _ _ =>
    let w := o.ty == .w64
    let f := if w then fD else fS
    let val : Slice → Nat → Nat := fun sl j => if w then (srcV64 b sl j o.b).toNat else (srcV b sl j o.b).toNat
    let leaves := (List.range 32).map fun n => (t.at n (fun sl j => some (val sl j)) none : Option Nat)
    let r := (reduxTree (freduxNode f o.k.toNat) 5 leaves).getD 0
    if w then rv64 o.d (BitVec.ofNat 64 r) else rv o.d (BitVec.ofNat 32 r)) s

end Sys2Proof.Machine
end

