-- ==== Sys2Proof/Machine/Frames.lean ====
section
/-! DEFINITION. Register windows and the return stack: growing and shrinking a slice's frame, with spills and
refills (R58 to R61, R179, R194). -/

namespace Sys2Proof.Machine

/-- The bytes that a slice's spill part holds (R60, R61). -/
def spillUsed (l : List SpillItem) : Nat :=
  l.foldl (fun n x => match x with | .regs _ _ _ => n + 128 | .ret _ => n + 16) 0

/-- A result that has not been written names one of eight physical registers. -/
def Pend.inEight (p : Pend) (budget pos : Nat) : Bool := p.file == .v && (List.range 8).any fun r => (pos + r) % budget == p.idx

/-- Accesses with those parts that will write one of eight physical registers, and whose destination is not spilled, redirected. -/
def redirect (l : List Access) (budget pos : Nat) (way : Option Nat) : List Access :=
  l.map fun a => { a with parts := a.parts.map fun p =>
    if p.spilt.isNone && (List.range 8).any fun r => (pos + r) % budget == p.dst then { p with spilt := way } else p }

/-- Copies the oldest eight registers to the spill part (R60). What is still to be written to them, results of fixed latency and
the values of loads in flight, goes to the copy. -/
def Slice.spillEight (sl : Slice) (budget : Nat) : Slice :=
  let keys := (List.range 8).flatMap fun r => (List.range 4).map fun j => 4 * ((sl.low + r) % budget) + j
  let vals := keys.map fun k => (k, (mget sl.vregs k).getD (Config.freeWord sl.serial k))
  let mine : Pend → Bool := fun p => p.inEight budget sl.low
  { sl with spill := sl.spill ++ [.regs sl.low vals (sl.pend.filter mine)], pend := sl.pend.filter fun p => !mine p,
            acc := redirect sl.acc budget sl.low (some sl.low), low := sl.low + 8 }

/-- Spills until the resident registers up to `top` fit (R60); `k` bounds the groups. -/
def Slice.spillTo (budget top : Nat) : Nat → Slice → Slice
  | 0, sl => sl
  | k + 1, sl => if budget < top - sl.low then Slice.spillTo budget top k (sl.spillEight budget) else sl

/-- Pushes a return entry; a 17th pushes the oldest into the spill part (R61). -/
def Slice.pushRet (sl : Slice) (e : RetEntry) : Slice :=
  let l := e :: sl.ret
  { sl with ret := l.take 16, spill := sl.spill ++ (l.drop 16).map fun x => .ret x }

/-- Registers of a new frame that hold unspecified values at entry (R59, entry 4). -/
def Slice.freshRegs (sl : Slice) (budget fromIdx toIdx serial : Nat) : Slice :=
  let keys := (List.range (toIdx - fromIdx)).flatMap fun r =>
    (List.range 4).map fun j => 4 * ((sl.base + fromIdx + r) % budget) + j
  { sl with vregs := keys.foldl (fun m k => mset m k (Config.freeWord serial k)) sl.vregs }

/-- Raises the window by `adv` and sets the frame size, pushing `e` if there is one (R59 to R61): the new
slice, or the bytes that its spill part held when a spill did not fit. In whey mode nothing spills (R179). -/
def Slice.grow (sl : Slice) (cap budget : Nat) (whey : Bool) (adv size : Nat) (e : Option RetEntry) (serial : Nat) :
    Sum Slice Nat :=
  let top := sl.base + adv + size
  let sl1 := sl.spillTo budget top 64
  let sl2 := match e with | some e => sl1.pushRet e | none => sl1
  if whey && sl2.spill.length != sl.spill.length then .inr 0
  else if cap < spillUsed sl2.spill then .inr (spillUsed sl.spill)
  else
    let n := sl.n
    let sl3 := { sl2 with base := sl.base + adv, n := size }
    .inl (sl3.freshRegs budget (n - adv) size serial)

/-- The position that stands for a frame that has ended: what is still to be written to it goes nowhere. -/
def noFrame : Nat := 2 ^ 60

/-- Puts eight spilled registers back, with what is still to be written to them (R60); what the frames that have ended had in
flight for the same physical registers goes nowhere. -/
def Slice.unspill (sl : Slice) (budget pos : Nat) (vals : List (Nat × Word)) (pend : List Pend) : Slice :=
  let back : Part → Part := fun p => if p.spilt == some pos then { p with spilt := none } else p
  { sl with vregs := vals.foldl (fun m x => mset m x.1 x.2) sl.vregs,
            pend := (sl.pend.filter fun p => !p.inEight budget pos) ++ pend,
            acc := (redirect sl.acc budget pos (some noFrame)).map fun a => { a with parts := a.parts.map back } }

/-- Writes a word of a spilled register's copy. -/
def Slice.setSpilt (sl : Slice) (pos r j : Nat) (v : Word) : Slice :=
  { sl with spill := sl.spill.map fun x => match x with
      | .regs p vals pend => if p == pos then .regs p (mset vals (4 * r + j) v) pend else x
      | .ret e => .ret e }

/-- Lowers the window to `base` with frame size `n`, refilling what was spilled of it (R59, R60); whether a
refill took place. -/
def Slice.shrink (sl : Slice) (budget base n : Nat) : Slice × Bool :=
  let back := sl.spill.filter fun x => match x with | .regs p _ _ => decide (base ≤ p) | .ret _ => false
  let sl := back.foldl (fun sl x => match x with | .regs p v l => sl.unspill budget p v l | .ret _ => sl) sl
  ({ sl with base, n, low := min sl.low base,
             spill := sl.spill.filter fun x => match x with | .regs p _ _ => decide (p < base) | .ret _ => true },
   !back.isEmpty)

/-- Pops a return entry; a return that empties the hardware entries refills them (R61). -/
def Slice.popRet (sl : Slice) : Option (RetEntry × Slice) :=
  match sl.ret with
  | [] => none
  | e :: r =>
    if !r.isEmpty then some (e, { sl with ret := r })
    else
      let rets := sl.spill.filterMap fun x => match x with | .ret e => some e | .regs _ _ _ => none
      let back := (rets.reverse).take 16
      let keep := rets.take (rets.length - 16)
      let regs := sl.spill.filter fun x => match x with | .regs _ _ _ => true | .ret _ => false
      some (e, { sl with ret := back, spill := if rets.isEmpty then sl.spill else keep.map .ret ++ regs })

/-- The position of a slice among the slices of its block, which names its spill part (R60, R75). -/
def Block.sliceIndex (b : Block) (gang slice : Nat) : Nat :=
  (b.gangs.filter fun g => decide (g.num < gang)).foldl (fun n g => n + g.slices.length) 0 + slice

/-- The vault address at which a spill of a slice failed (R408 code 0x0C). -/
def Block.spillAddr (b : Block) (gang slice used : Nat) : Nat :=
  b.vaddr (b.region.spillOff + b.region.spill * b.sliceIndex gang slice + used)

/-- A return entry as 8 bytes: address, caller frame size ÷ 8, base advance ÷ 8 (R180). -/
def RetEntry.bytes (e : RetEntry) : List Byte := leBytes 6 e.addr.toNat ++ leBytes 1 (e.n / 8) ++ leBytes 1 (e.adv / 8)

/-- The bytes of a spill part: 16 for each register, 4 for each lane, and 16 for each return entry, of which the last 8 are zero
(R60, R61; entry 28). -/
def spillBytes (l : List SpillItem) : List Byte :=
  l.flatMap fun x => match x with
    | .regs _ vals _ => vals.flatMap fun y => leBytes 4 y.2.toNat
    | .ret e => e.bytes ++ List.replicate 8 0

/-- A slice whose spill part has grown leaves it in the vault (R60, R61). -/
def State.writeSpill (s : State) (b : Block) (gang : Nat) (old new : Slice) : State :=
  if old.spill.length < new.spill.length then
    s.vlWrBytes (dieOf b.core) (b.spillAddr gang new.num 0) (spillBytes new.spill)
  else s

/-- How much of the vault a slice's spill part has; a whey slice has none (R60, R179). -/
def Block.spillCap (b : Block) : Nat := if b.whey.isSome then 0 else b.region.spill

end Sys2Proof.Machine
end

