-- ==== Sys2Proof/Machine/Ui.lean ====
section
/-! DEFINITION. The interrupt unit (R189 to R198) and the system-call unit (R199 to R201): sends, permission,
delivery into a handler gang, the rings and the end of a record. -/

namespace Sys2Proof.Machine

/-! ### Acquire -/

/-- The action of an acquire on the core's L1 (R85): at .die and wider it discards the sectors of the
contexts named. The L1 is write-through, so every sector is clean (R23). -/
def State.acquire (s : State) (core : Nat) (asids : List Nat) (sc : Scope) : State :=
  match sc with
  | .blk | .core => s
  | _ => s.modCore core fun c =>
      { c with l1 := c.l1.filter fun x => !asids.contains x.asid, icache := c.icache.filter fun x => !asids.contains x.1 }

/-! ### The interrupt block -/

/-- The address of a context's interrupt block; 0 where it has none (R189). -/
def State.uiBase (s : State) (asid : Nat) : Nat := fld (s.cxr asid 0x113) 10 38 * 1024

/-- Bytes of the interrupt block (R190). -/
def State.uiRd (s : State) (asid off n : Nat) : Nat :=
  if s.uiBase asid == 0 then 0 else (s.vrd asid (s.uiBase asid + off) n).getD 0

/-- Writes bytes of the interrupt block (R190). -/
def State.uiWr (s : State) (asid off n v : Nat) : State :=
  if s.uiBase asid == 0 then s else s.vwr asid (s.uiBase asid + off) (leBytes n v)

/-- The interrupt unit's own state of a context. -/
def State.uiOf (s : State) (asid : Nat) : UiState := (s.ui.find? fun x => x.asid == asid).getD { asid }

/-- Sets the interrupt unit's own state of a context. -/
def State.setUi (s : State) (u : UiState) : State :=
  { s with ui := (s.ui.filter fun x => x.asid != u.asid) ++ [u] }

/-- The lowest vector that is pending and unmasked (R193). -/
def State.uiVector (s : State) (asid : Nat) : Option Nat :=
  let x := Nat.land (s.uiRd asid 0 8) (s.uiRd asid 8 8)
  (List.range 64).find? fun v => x.testBit v

/-- A delivery is due (R193). -/
def State.uiDue (s : State) (asid : Nat) : Bool :=
  (s.cxr asid 0x110).getLsbD 63 && (s.uiVector asid).isSome && (s.uiOf asid).running.isNone

/-- Takes up a delivery that is due as a step of the device (R193). -/
def State.uiPoke (s : State) (asid : Nat) : State := if s.uiDue asid then s.push [.uiDelivery asid] else s

/-- A delivery that has come to be due waits for the next run end of the handler gang: its splits that stand between two runs owe one
(R194). `was` says that it was due before. -/
def State.uiMark (s : State) (was : Bool) (asid : Nat) : State :=
  if was || !s.uiDue asid then s
  else match (s.uiOf asid).hnd with
    | some (bid, gang) => s.modGang bid gang fun g =>
        { g with splits := g.splits.map fun sp => if !sp.inRun && sp.wait == .none then { sp with owed := true } else sp }
    | none => s

/-- Applies a permitted send (R192). -/
def State.uiApply (s : State) (asid v : Nat) (p : DWord) (src : Nat) : State :=
  let was := s.uiDue asid
  let pend := s.uiRd asid 0 8
  let fresh := !pend.testBit v
  let mode := s.uiRd asid (0x10 + v / 4) 1 / 4 ^ (v % 4) % 4
  let pay : DWord := if fresh then 0 else BitVec.ofNat 64 (s.uiRd asid (0x200 + 8 * v) 8)
  let cnt := if fresh then 0 else s.uiRd asid (0x101 + 4 * v) 1
  let pay := match mode with
    | 1 => pay + p
    | 2 => p
    | _ => pay ||| p
  let s := s.uiWr asid (0x200 + 8 * v) 8 pay.toNat
  let s := s.uiWr asid (0x100 + 4 * v) 1 (src % 256)
  let s := s.uiWr asid (0x101 + 4 * v) 1 (min (cnt + 1) 255)
  let s := s.uiWr asid 0 8 (Nat.lor pend (2 ^ v))
  (s.uiMark was asid).uiPoke asid

/-- Who sends (R191): a local context, a context of a peer device, or a host request. -/
inductive Sender where
  | loc (asid : Nat) | peer (dev asid : Nat) | host (port pasid : Nat)
  deriving DecidableEq, Repr, Inhabited

/-- An entry of the permission table matches a sender (R191). -/
def permMatch (e : Nat) : Sender → Bool
  | .loc a => e / 2 ^ 62 % 4 == 1 && e % 4096 == a
  | .peer d a => e / 2 ^ 62 % 4 == 2 && e % 4096 == a && e / 2 ^ 52 % 512 == d
  | .host p x => e / 2 ^ 62 % 4 == 3 && e / 2 ^ 61 % 2 == p && e / 2 ^ 32 % 2 ^ 20 == x

/-- The first entry of the target's permission table that matches a sender, with its VMASK (R191). -/
def State.uiEntry (s : State) (asid : Nat) (who : Sender) : Option (Nat × Nat) :=
  let base := fld (s.cxr asid 0x114) 4 44 * 16
  let n := min (fld (s.cxr asid 0x115) 0 9) 256
  (List.range n).findSome? fun i =>
    let e := (s.vrd asid (base + 16 * i) 16).getD 0
    if permMatch (e % 2 ^ 64) who then some (i, e / 2 ^ 64) else none

/-- A send to a context (R191, R192, R429): the state after it, or the code of its refusal. -/
def State.uiSend (s : State) (asid v : Nat) (p : DWord) (who : Sender) : Sum State (BitVec 8) :=
  if !s.inUse asid || s.uiBase asid == 0 then .inr 0x41
  else match s.uiEntry asid who with
    | none => .inr 0x40
    | some (i, m) => if m.testBit v then .inl (s.uiApply asid v p i) else .inr 0x40

/-! ### Delivery (R194 to R198) -/

/-- The interrupt frame of a slice (R195). -/
def frameBytes (sl : Slice) (rpc : BitVec 48) (reexec : Bool) (split : Nat) : List Byte :=
  let nest := (List.range 4).foldl (fun n j => n + (sl.lane j).nest.toNat * 2 ^ (8 * j)) 0
  let pred := (List.range 4).foldl (fun n j => n + (sl.lane j).preds.toNat * 2 ^ (7 * j)) 0
  leBytes 8 rpc.toNat ++ leBytes 4 nest ++ leBytes 4 pred ++ leBytes 1 (sl.n / 8) ++ leBytes 1 split ++
    leBytes 1 (if reexec then 1 else 0) ++ List.replicate 13 0 ++
    ((List.range 8).flatMap fun k => leBytes 4 (sl.s (56 + k)).toNat)

/-- The gang can take a delivery: each of its splits is between runs, and owes none, or waits at WAITP, TLWAIT, BTEST or
SLEEPW (R194). -/
def Gang.uiReady (g : Gang) : Bool :=
  !g.retired && g.splits.all fun sp => !sp.inRun && !sp.stop && !sp.owed &&
    (match sp.wait with | .none | .waitp .. | .tlwait .. | .btest .. | .sleepw .. => true | _ => false)

/-- Where a slice resumes after the handler, and whether its word is executed again (R194, R367). -/
def resumeAt (sp : Split) (sl : Slice) : BitVec 48 × Bool :=
  match sp.wait with
  | .waitp .. | .tlwait .. | .btest .. => (sl.pc, true)
  | .sleepw .. => (nextPc sl.pc, false)
  | _ => (sl.pc, false)

/-- The slice as it enters the handler: new window, counters 0, s62, s63 and %orig (R194). -/
def Slice.enter (sl : Slice) (entry : BitVec 48) (pay : DWord) (orig : Word) : Slice :=
  let sl := (sl.setS 62 (lo32 pay)).setS 63 (hi32 pay)
  { sl with pc := entry, yielded := false, execMask := none,
            lanes := sl.lanes.map fun l => if l.present && !l.exited then { l with nest := 0, orig } else l }

/-- The cycle from which a gang's next word may issue: the STALL of the words that its splits issued last is kept (R232). -/
def Gang.readyAfter (g : Gang) (t : Nat) : Nat := g.splits.foldl (fun t sp => max t sp.readyAt) t

/-- Delivers the lowest due vector to the handler gang: it enters every slice that has not exited, or none
(R193, R194). DESIGN CHOICE (entry 30): the unit takes the vector, and clears its PEND, as the gang enters, so that a send before that
coalesces into it; and the fixed-latency results that are outstanding at a delivery, as at UIRET, are written before the next word,
where R234 speaks of no delivery. A further delivery, made when the handler's slices stand at UIRET, leaves the frames as they
are (R196). -/
def State.uiEnter (s : State) (asid v bid gang : Nat) (again : Bool) : State :=
  match s.blk bid with
  | none => s
  | some b =>
    match b.gang gang with
    | none => s
    | some g =>
      let pay : DWord := BitVec.ofNat 64 (s.uiRd asid (0x200 + 8 * v) 8)
      let cnt := s.uiRd asid (0x101 + 4 * v) 1
      let src := s.uiRd asid (0x100 + 4 * v) 1
      let orig : Word := BitVec.ofNat 32 (2 ^ 31 + v * 2 ^ 24 + cnt * 256 + src)
      let entry := (s.cxr asid 0x110).extractLsb' 0 48
      let live := g.liveSlices.map fun sl => sl.landTo (s.now + 16)
      let grown := live.zipIdx.map fun x => (x.1, x.1.grow b.spillCap g.budget b.whey.isSome x.1.n 32 none (s.fresh + x.2))
      let bad := if again then [] else grown.filterMap fun x => match x.2 with | .inr u => some (x.1, u) | .inl _ => none
      match bad with
      | (sl0, used) :: _ =>
        -- no slice enters; the vector stays pending (R194)
        let f := fun (sl : Slice) => { code := 0x0C, prec := false, pc := sl.pc,
                                       detail := leBytes 8 0 ++ leBytes 8 (b.spillAddr gang sl0.num used) : FInfo }
        s.trap bid gang (bad.map fun x => ([(x.1.num, x.1.live, x.1.pc)], f x.1))
      | [] =>
        let s := s.uiWr asid 0 8 (Nat.xor (s.uiRd asid 0 8) (2 ^ v))
        let s := { s with fresh := s.fresh + live.length }
        let s := s.acquire b.core [asid] .dev
        let s := if again then s else live.foldl (fun s sl =>
          let sp := (g.splitOf sl.num).getD { slices := [sl.num] }
          let r := resumeAt sp sl
          s.vlWrBytes (dieOf b.core) (b.frameAddr sl.num) (frameBytes sl r.1 r.2 (sp.slices.headD 0))) s
        let s := s.setUi { s.uiOf asid with running := some (bid, gang) }
        let s := if again then s else grown.foldl (fun s x => match x.2 with
          | .inl sl' => s.writeSpill b gang x.1 sl'
          | .inr _ => s) s
        s.modGang bid gang fun gg =>
          { gg with
            slices := gg.slices.map fun sl =>
              if sl.gone then sl
              else if again then sl.enter entry pay orig
              else match grown.find? fun x => x.1.num == sl.num with
                | some (_, .inl sl') => { sl'.enter entry pay orig with frameAt := none }
                | _ => sl
            splits := [{ slices := live.map (·.num), readyAt := g.readyAfter (s.now + 1) }] }

/-- The handler's slices restore their frames and resume (R196). A whey slice that has travelled since its delivery restores the frame
that the delivery wrote, at the core where it stood then (entry 30). -/
def State.uiLeave (s : State) (asid bid gang : Nat) : State :=
  match s.blk bid with
  | none => s
  | some b =>
    match b.gang gang with
    | none => s
    | some g =>
      let d := dieOf b.core
      let live := (g.liveSlices.map fun sl => sl.landTo (s.now + 16)).map fun sl =>
        let at' : Nat × Nat := sl.frameAt.getD (d, b.frameAddr sl.num)
        let d := at'.1
        let a := at'.2
        let rpc : BitVec 48 := BitVec.ofNat 48 (s.vlRd d a 8)
        let nest := s.vlRd d (a + 8) 4
        let pred := s.vlRd d (a + 12) 4
        let n := 8 * s.vlRd d (a + 16) 1
        let split := s.vlRd d (a + 17) 1
        let sl := (List.range 8).foldl (fun sl k => sl.setS (56 + k) (BitVec.ofNat 32 (s.vlRd d (a + 32 + 4 * k) 4))) sl
        let sl := (sl.shrink g.budget (sl.base - n) n).1
        let lanes := sl.lanes.mapIdx fun j l =>
          if l.present && !l.exited then
            { l with nest := BitVec.ofNat 8 (nest / 2 ^ (8 * j) % 256), preds := BitVec.ofNat 7 (pred / 2 ^ (7 * j) % 128) }
          else l
        (split, { sl with pc := rpc, lanes, frameAt := none })
      let keys := (live.map (·.1)).foldl addNew []
      let s := s.setUi { s.uiOf asid with running := none }
      let s := s.modGang bid gang fun gg =>
        { gg with
          slices := gg.slices.map fun sl => ((live.map (·.2)).find? fun x => x.num == sl.num).getD sl
          splits := keys.map fun k =>
            { slices := (live.filter fun x => x.1 == k).map fun x => x.2.num, readyAt := g.readyAfter (s.now + 1) } }
      s.uiPoke asid

/-! ### System calls (R199 to R201) -/

/-- The ring that a record goes to: base, length, and for a host ring its port. -/
def State.scRing (s : State) (asid : Nat) (host : Bool) : Nat × Nat × Nat :=
  if host then
    (fld (s.cxr asid 0x11B) 11 37 * 2048, fld (s.cxr asid 0x11C) 0 13, fld (s.cxr asid 0x11B) 48 1)
  else (fld (s.cxr asid 0x118) 11 37 * 2048, fld (s.cxr asid 0x119) 0 13, 0)

/-- The ring is configured: LEN and base are not 0 (R429 code 0x42). -/
def State.scOk (s : State) (asid : Nat) (host : Bool) : Bool :=
  let r := s.scRing asid host
  r.1 != 0 && r.2.1 != 0

/-- The slot of a ring is free (R200). -/
def State.scFree (s : State) (asid : Nat) (host : Bool) (slot : Nat) : Bool :=
  let r := s.scRing asid host
  if host then !(s.sc.any fun x => x.asid == asid && x.host && x.posted && x.slot == slot)
  else (s.vrd asid (r.1 + 2048 * slot + 2) 1).getD 0 == 0

/-- The bytes of a slot (R200). -/
def scBytes (r : ScRec) (block gang : Nat) : List Byte :=
  let lm := r.lanes.foldl (fun m x => m + 2 ^ x.1) 0
  let args := (List.range 32).flatMap fun l =>
    match r.lanes.find? fun x => x.1 == l with
    | some x => (List.range 6).flatMap fun k => leBytes 8 (x.2.2.getD k 0).toNat
    | none => List.replicate 48 0
  leBytes 2 r.num ++ [1, 0] ++ leBytes 4 lm ++ leBytes 4 block ++ leBytes 1 gang ++ [0] ++ leBytes 2 r.asid ++
    List.replicate 48 0 ++ args

/-- A block by identity, resident or saved. -/
def State.anyBlk (s : State) (bid : Nat) : Option Block :=
  match s.blk bid with
  | some b => some b
  | none => s.saved.findSome? fun u => u.blocks.find? fun b => b.id == bid

/-- Changes a slice of a block, resident or saved (R168, R201). -/
def State.modSliceAny (s : State) (r : SliceRef) (f : Slice → Slice) : State :=
  let s := s.modSlice r f
  { s with saved := s.saved.map fun u =>
      { u with blocks := modWhere (fun b => b.id == r.blk) (fun b => b.modGang r.gang fun g => g.modSlice r.slice f) u.blocks } }

/-- The next record of a ring: the oldest that is not posted and comes after no other unposted one of its slice, whose records are
posted in program order and, for one word, in ascending number (R199, R201). -/
def State.scNext (s : State) (asid : Nat) (host : Bool) : Option ScRec :=
  (s.sc.zipIdx.find? fun x => x.1.asid == asid && x.1.host == host && !x.1.posted &&
    !((s.sc.take x.2).any fun y => !y.posted && y.who == x.1.who)).map (·.1)

/-- Posts the next record of a ring if its slot is free (R200, R201). -/
def State.scPost (s : State) (asid : Nat) (host : Bool) : State :=
  match s.scNext asid host with
  | none => s
  | some r =>
    let ring := s.scRing asid host
    let key := 2 * asid + host.toNat
    let slot := mgetD s.scFill key 0 % max ring.2.1 1
    if !s.scFree asid host slot then s
    else
      let blk := match s.anyBlk r.who.blk with | some b => b.num | none => 0
      let bytes := scBytes r blk r.who.gang
      let s := { s with scFill := mset s.scFill key ((slot + 1) % max ring.2.1 1),
                        sc := modWhere (fun x => x.id == r.id) (fun x => { x with posted := true, slot }) s.sc }
      if host then
        (s.send (.hostWrite ring.2.2 (ring.1 + 2048 * slot) bytes)).send (.msix ring.2.2 (fld (s.cxr asid 0x11D) 0 11))
      else
        let s := s.vwr asid (ring.1 + 2048 * slot) bytes
        let n := s.cxr asid 0x11A
        if n.getLsbD 63 then
          match s.uiSend (fld n 32 12) (fld n 0 6) (BitVec.ofNat 64 slot) (.loc asid) with
          | .inl s' => s'
          | .inr _ => s
        else s

/-- Posts what can be posted of a context's records (R199, R200). -/
def State.scPosts (s : State) (asid : Nat) : State := s.sc.foldl (fun s _ => (s.scPost asid false).scPost asid true) s

/-- Adds a record for a ring and posts it if it can be (R199, R200). -/
def State.scAdd (s : State) (r : ScRec) : State := ({ s with sc := s.sc ++ [r] }).scPosts r.asid

end Sys2Proof.Machine
end

