-- ==== Sys2Proof/Machine/Token.lean ====
section
/-! DEFINITION. Token coherence (R101 to R131): agents and homes, requests and their answers, tokens on their
way, the predictor and presses. -/

namespace Sys2Proof.Machine

/-! ### Agents and homes (R102, R107) -/

/-- A sector of the fabric class (R73). -/
def isFab (sec : Nat) : Bool := decide (2 ^ 51 ≤ sec * 64)

/-- The home of a sector is this device. -/
def State.homeHere (s : State) (sec : Nat) : Bool := !isFab sec || fabDev (sec * 64) == s.devNum

/-- The agent number of a die of this device (R102). -/
def State.agentOf (s : State) (sec d : Nat) : Nat := if isFab sec then 8 * s.devNum + d else d

/-- The die of this device that an agent number names. -/
def State.agentDie (s : State) (sec a : Nat) : Option Nat :=
  if isFab sec then (if a / 8 == s.devNum then some (a % 8) else none) else if a < 8 then some a else none

/-- The agent set of a sector (R102). Of a range of another device whose export has not been told to this one, the devices are
taken to be the members of the partition (entry 25). -/
def State.agents (s : State) (sec : Nat) : List Nat :=
  if !isFab sec then List.range 8
  else
    let devs := match s.exportOf sec with
      | some e => e.devs
      | none => if s.homeHere sec then [] else addNew s.members s.devNum
    devs.flatMap fun d => (List.range 8).map fun k => 8 * d + k

/-- A host sector held under CXL.cache: its port (R128). -/
def State.cxlPort (s : State) (sec : Nat) : Option Nat :=
  if paClass (sec * 64) == some .host then
    let p := sec * 64 / 2 ^ 48 - 1
    if s.cxlPorts.contains p then some p else none
  else none

/-- The 64 KiB page of a package sector is owned by the host, or is on its way there (R130). -/
def State.hostPage (s : State) (sec : Nat) : Bool :=
  let pg := sec / 1024
  s.hostOwned.contains pg || s.owningHost.any fun x => x.1 == pg

/-! ### The predictor (R115, R116) -/

/-- The stack of an NX address, the address in the stack, and its channel (R107). -/
def nxStack (pa : Nat) : Nat := pa / 2 ^ 12 % 2 ^ 28 % 12
def nxAddr (pa : Nat) : Nat := pa / 2 ^ 12 % 2 ^ 28 / 12 * 4096 + pa % 4096
def nxChannel (pa : Nat) : Nat := nxAddr pa / 2 ^ 8 % 2 ^ 7

/-- The address of a second-tier address in its controller's range (R107). -/
def tier2Addr (pa : Nat) : Nat := (pa - 0x020000000000) / 2 ^ 14 % 2 ^ 28 * 4096 + pa % 4096

/-- The L2 slice of a physical address (R107). -/
def l2Slice (pa : Nat) : Nat := (Nat.xor (Nat.xor (pa / 2 ^ 7 % 16) (pa / 2 ^ 11 % 16)) (pa / 2 ^ 15 % 16))

/-- The key of a sector's predictor entry: slice and index (R115). -/
def predKey (sec : Nat) : Nat :=
  let pa := sec * 64
  l2Slice pa * 8192 + Nat.xor (pa / 2 ^ 6 % 8192) (pa / 2 ^ 19 % 8192)

/-- A predictor entry. -/
def State.predEntry (s : State) (d sec : Nat) : Word := mgetD (s.die d).pred (predKey sec) 0

/-- Writes a predictor entry. -/
def State.setPred (s : State) (d sec : Nat) (e : Word) : State :=
  s.modDie d fun x => { x with pred := msetD x.pred (predKey sec) e 0 }

/-- The entry that names a set of holders or one agent (R115). -/
def predWord (sec : Nat) (mode : Bool) (home : Bool) (mask : Nat) : Word :=
  BitVec.ofNat 32 (2 ^ 31 + sec * 64 / 2 ^ 32 % 65536 * 2 ^ 15 + (if mode then 2 ^ 14 else 0) +
    (if home then 2 ^ 13 else 0) + mask % 4096)

/-- The set that the predictor names for a sector (R114 to R116). DESIGN CHOICE (entry 25): an entry's numbers are agent numbers of
R102 whatever class of sector the entry is used for, so MODE 0 on a fabric sector names the agents 0 to 7, and a MODE 1 number of
8 or more on a package sector goes to the device number ÷ 8. -/
def State.predicted (s : State) (d sec : Nat) : Option (List Holder) :=
  let e := (s.predEntry d sec).toNat
  if e / 2 ^ 31 == 1 && e / 2 ^ 15 % 65536 == sec * 64 / 2 ^ 32 % 65536 then
    let home : List Holder := if e / 2 ^ 13 % 2 == 1 then [.home] else []
    if e / 2 ^ 14 % 2 == 1 then some (if home.isEmpty then [.l2 (e % 4096)] else home)
    else some (((List.range 8).filter fun k => e.testBit k).map .l2 ++ home)
  else none

/-- Trains the predictor when a request completes (R116). DESIGN CHOICE (entry 25): where no tokens arrived for the request, a fabric
entry stays as it was, and a package entry takes an empty MASK. -/
def State.train (s : State) (d : Nat) (r : TokReq) : State :=
  if isFab r.sec then
    let who := match r.ownFrom with | some h => some h | none => r.senders.head?
    match who with
    | some .home => s.setPred d r.sec (predWord r.sec true true 0)
    | some (.l2 a) => s.setPred d r.sec (predWord r.sec true false a)
    | none => s
  else
    let mask := (r.senders.foldl addNew []).foldl (fun m h => match h with | .l2 a => m ||| 2 ^ (a % 8) | .home => m) 0
    s.setPred d r.sec (predWord r.sec false (r.senders.contains .home) mask)

/-- The predictor names the agent that took the owner token alone (R116). -/
def State.trainSent (s : State) (d sec a : Nat) : State :=
  s.setPred d sec (if isFab sec then predWord sec true false a else predWord sec false false (2 ^ (a % 8)))

/-! ### Messages -/

/-- Sends a token message to its holder (R103). -/
def State.sendTok (s : State) (m : TokMsg) : State :=
  match m.dst with
  | .l2 a =>
    (match s.agentDie m.sec a with
     | some _ => s.push [.tokenArrival m]
     | none => s.send (.token (a / 8) m))
  | .home => if s.homeHere m.sec then s.push [.tokenArrival m] else s.send (.token (fabDev (m.sec * 64)) m)

/-- Sends a transient request to one holder (R111). -/
def State.sendReq (s : State) (m : ReqMsg) : State :=
  match m.dst with
  | .l2 a =>
    (match s.agentDie m.sec a with
     | some _ => s.push [.transientRequest m]
     | none => s.send (.request (a / 8) m))
  | .home => if s.homeHere m.sec then s.push [.transientRequest m] else s.send (.request (fabDev (m.sec * 64)) m)

/-- Sends a press request to the sector's home (R117). -/
def State.sendPress (s : State) (m : PressReq) : State :=
  if s.homeHere m.sec then s.push [.pressRequest m] else s.send (.press (fabDev (m.sec * 64)) 0 0 m)

/-- One send of a request: to the predicted set, or by broadcast (R114). -/
def State.sendRound (s : State) (d : Nat) (r : TokReq) (broadcast : Bool) : State :=
  let me := s.agentOf r.sec d
  let all : List Holder := (s.agents r.sec).map .l2 ++ [.home]
  let dsts := if broadcast then all else (s.predicted d r.sec).getD all
  let dsts := dsts.filter fun h => h != .l2 me
  let s := dsts.foldl (fun s h => s.sendReq { sec := r.sec, dst := h, src := me, write := r.write, t := r.t }) s
  s.timer (s.gtime + 2000) (.transientTimeout d r.sec)

/-- The retry limit of a context (R114). -/
def State.retryOf (s : State) (asid : Nat) : Nat := fld (s.cxr asid 0x106) 0 3

/-- Asks for tokens of a sector: joins the outstanding request of the kind, or makes one (R111, R114). -/
def State.need (s : State) (d sec : Nat) (write : Bool) (t asid : Nat) : State :=
  if (s.die d).reqs.any fun r => r.sec == sec && r.write == write then
    let f := fun (r : TokReq) => { r with asids := addNew r.asids asid, instr := false }
    s.modDie d fun x => { x with reqs := modWhere (fun r => r.sec == sec && r.write == write) f x.reqs }
  else
    let r : TokReq := { sec, write, t, timeout := s.gtime + 2000, asids := [asid] }
    let s := s.modDie d fun x => { x with reqs := x.reqs ++ [r] }
    s.sendRound d r false

/-- The retry limit of a request: the smallest of the contexts that wait on it (R111, R114). -/
def State.retryLimit (s : State) (r : TokReq) : Nat :=
  match r.asids.map s.retryOf with | [] => 0 | x :: l => l.foldl min x

/-- One send of a write request on a home's own behalf, to every agent of the set (R304; entry 25). -/
def State.homeRound (s : State) (r : TokReq) : State :=
  ((s.agents r.sec).foldl (fun s a => s.sendReq { sec := r.sec, dst := .l2 a, src := 0, write := true, t := r.t, home := true }) s).timer
    (s.gtime + 2000) (.transientTimeout 8 r.sec)

/-- A home gathers the tokens of a sector for a store of its own: it joins the request that is out, or makes one (R111, R304). -/
def State.homeWant (s : State) (sec asid : Nat) : State :=
  match (s.home sec).req with
  | some r => s.modHome sec fun h => { h with req := some { r with asids := addNew r.asids asid } }
  | none =>
    let r : TokReq := { sec, write := true, t := (s.home sec).t, timeout := s.gtime + 2000, asids := [asid] }
    (s.modHome sec fun h => { h with req := some r }).homeRound r

/-- A request of this agent for the sector is outstanding (R104 WPEND and RPEND). -/
def State.pendReq (s : State) (d sec : Nat) (write : Bool) : Bool :=
  (s.die d).reqs.any fun r => r.sec == sec && r.write == write

/-- The press active at a die's L2 for a sector (R104 PACT, R118). -/
def State.pact (s : State) (d sec : Nat) : Option Holder :=
  ((s.die d).pact.find? fun x => x.sec == sec).map (·.src)

/-- The state word of an L2 (R104). -/
def State.stateWord (s : State) (d sec : Nat) : Word :=
  let w := s.pendReq d sec true
  let r := s.pendReq d sec false
  match mget (s.die d).l2 sec with
  | some x =>
    BitVec.ofNat 32 (x.ser.toNat * 2 ^ 24 + x.own.toNat * 2 ^ 23 + x.dv.toNat * 2 ^ 22 + x.dirty.toNat * 2 ^ 21 +
      w.toNat * 2 ^ 20 + r.toNat * 2 ^ 19 + (s.pact d sec).isSome.toNat * 2 ^ 18 + x.tokn)
  | none => BitVec.ofNat 32 (w.toNat * 2 ^ 20 + r.toNat * 2 ^ 19 +
      (if w || r then (s.pact d sec).isSome.toNat * 2 ^ 18 else 0))

/-- The state word that TOKQ reads at a home: TOKN, OWN and SER (R325). -/
def State.homeWord (s : State) (sec : Nat) : Word :=
  let h := s.home sec
  BitVec.ofNat 32 (h.ser.toNat * 2 ^ 24 + h.own.toNat * 2 ^ 23 + h.tokn)

/-! ### Answers to a transient request (R112) -/

/-- Refuses the requests of an agent for a sector (R448, R456, R486). On this device the refusal is a message without
tokens, marked as dirty for a lost sector. -/
def State.refuseTo (s : State) (sec a : Nat) (code : BitVec 8) : State :=
  match s.agentDie sec a with
  | some _ => s.push [.tokenArrival { sec, dst := .l2 a, src := .home, n := 0, own := false, ser := 0, t := s.sectorT sec,
                                      data := none, dirty := code == 0x2D }]
  | none => s.send (.refused (a / 8) sec code)

/-- Takes `n` tokens from an L2, the owner token among them when `own`. -/
def State.takeL2 (s : State) (d sec n : Nat) (own : Bool) : State :=
  let x := s.l2 d sec
  s.setL2 d sec { x with tokn := x.tokn - n, own := x.own && !own, dirty := x.dirty && !own, dv := x.dv && n < x.tokn }

/-- All tokens of an L2's sector, as a message carries them (R103, R106, R122, R486). -/
def State.allToks (s : State) (d sec : Nat) (dst : Holder) (grant : Bool) : TokMsg :=
  let x := s.l2 d sec
  { sec, dst, src := .l2 (s.agentOf sec d), n := x.tokn, own := x.own, ser := x.ser, t := x.t,
    data := if x.own then some x.data else none, dirty := x.own && x.dirty, grant, bad := x.bad }

/-- Sends all tokens of an L2's sector to a holder (R118, R122); an owner token that goes to another agent trains the
predictor (R116). -/
def State.giveAll (s : State) (d sec : Nat) (dst : Holder) (grant : Bool := false) : State :=
  let x := s.l2 d sec
  if x.tokn == 0 then s
  else
    let t := (s.takeL2 d sec x.tokn true).sendTok (s.allToks d sec dst grant)
    match dst with
    | .l2 a => if x.own then t.trainSent d sec a else t
    | .home => t

/-- Tokens go to the home of their sector as a write-back (R113, R122). -/
def State.sendBack (s : State) (m : TokMsg) : State :=
  let m := { m with dst := .home }
  if s.homeHere m.sec then s.push [.writeBack m] else s.send (.token (fabDev (m.sec * 64)) m)

/-- An L2 evicts a sector: all of its tokens go home, and it keeps no state for it (R122). -/
def State.evict (s : State) (d sec : Nat) : State :=
  (s.takeL2 d sec (s.l2 d sec).tokn true).sendBack (s.allToks d sec .home false)

/-- The sectors that the L2 slice of a sector holds; a slice of 8 MiB holds 131,072 (R26). -/
def State.sliceHolds (s : State) (d sec : Nat) : List Nat :=
  ((s.die d).l2.map (·.1)).filter fun x => l2Slice (x * 64) == l2Slice (sec * 64)

/-- The L2 slice of a sector has room for it (R26). -/
def State.l2Room (s : State) (d sec : Nat) : Bool := (s.l2 d sec).tokn != 0 || decide ((s.sliceHolds d sec).length < 131072)

/-- A full slice makes room by evicting its lowest-numbered sector for which neither WPEND nor PACT is set, if there is one (R26,
R122; entry 18). -/
def State.makeRoom (s : State) (d sec : Nat) : State :=
  if s.l2Room d sec then s
  else match (s.sliceHolds d sec).find? fun x => !s.pendReq d x true && (s.pact d x).isNone with
    | some x => s.evict d x
    | none => s

/-- Sends all tokens of a home's sector to a holder (R112, R118). -/
def State.homeGive (s : State) (sec : Nat) (dst : Holder) (grant : Bool := false) : State :=
  let h := s.home sec
  if h.tokn == 0 then s
  else
    let m : TokMsg := { sec, dst, src := .home, n := h.tokn, own := h.own, ser := h.ser, t := h.t,
                        data := if h.own then some (s.memSector sec) else none, dirty := false, grant }
    (s.modHome sec fun h => { h with tokn := 0, own := false }).sendTok m

/-- A die's L2 answers a transient request (R112, R124); one whose T is not that of the tokens it holds is refused (R486). -/
def State.answerL2 (s : State) (d : Nat) (m : ReqMsg) : State :=
  let x := s.l2 d m.sec
  let dst : Holder := if m.home then .home else .l2 m.src
  if dst == .l2 (s.agentOf m.sec d) then s
  else if x.tokn != 0 && x.t != m.t then s.refuseTo m.sec m.src 0x2C
  else if s.pendReq d m.sec true || (s.pact d m.sec).isSome then s
  else if !m.write then
    if !x.own || x.tokn == 0 then s
    else if 2 ≤ x.tokn then
      (s.takeL2 d m.sec 1 false).sendTok
        { sec := m.sec, dst, src := .l2 (s.agentOf m.sec d), n := 1, own := false, ser := x.ser, t := m.t,
          data := some x.data, dirty := false, bad := x.bad }
    else s.giveAll d m.sec dst
  else s.giveAll d m.sec dst

/-- The home refuses a request: its T differs, the range is not exported to the device, or the sector is lost
(R448, R456, R486). -/
def State.homeRefuses (s : State) (sec dev t : Nat) : Bool :=
  s.sectorT sec != t || (s.home sec).lost ||
    (isFab sec && (match s.exportOf sec with | some e => !e.devs.contains dev | none => true))

/-- The proxy home holds the line in the state that a grant needs: Shared or Exclusive for a non-owner token, Exclusive or Modified
where the grant leaves all tokens given out (R128); other sectors need none. -/
def State.cxlOk (s : State) (sec : Nat) (all : Bool) : Bool :=
  match s.cxlPort sec with
  | none => true
  | some _ =>
    match (s.home sec).cxl with
    | some .exclusive => true
    | some .modified => all
    | some .shared => !all
    | none => false

/-- Before a device agent is granted tokens of a package sector that the hosts may hold, each of them is told to
give it up: BISnp (R153). -/
def State.biSnoop (s : State) (sec : Nat) : State :=
  if (s.cxlPort sec).isNone && (s.home sec).cxl.isSome then
    (s.home sec).bisPorts.foldl (fun s p => s.send (.cxl p sec 4 none)) (s.modHome sec fun h => { h with cxl := none, bisPorts := [] })
  else s

/-- What the proxy home asks the host when it cannot grant (R128, R152): the line for reading (RdShared), after a Modified line has
been evicted (DirtyEvict); the line for writing (RdOwn), or, where it holds the line Shared, its ownership alone (RdOwnNoData). -/
def State.cxlAsk (s : State) (sec : Nat) (all : Bool) : State :=
  match s.cxlPort sec with
  | some p =>
    (match all, (s.home sec).cxl with
     | true, some .shared => s.send (.cxl p sec 8 none)
     | true, _ => s.send (.cxl p sec 1 none)
     | false, some .modified =>
       ((s.modHome sec fun h => { h with cxl := none }).send (.cxl p sec 2 (some (s.memSector sec)))).send (.cxl p sec 0 none)
     | false, _ => s.send (.cxl p sec 0 none))
  | none => s

/-! ### Presses (R117 to R121) -/

/-- The base-die class of a package-side home for the press tables: controllers 0 to 3, proxy homes 4 and 5,
fabric homes 6 (R107, R121). -/
def homeClass (sec : Nat) : Nat :=
  let pa := sec * 64
  if isFab sec then 6
  else if 2 ^ 48 ≤ pa then (if pa < 2 ^ 49 then 4 else 5)
  else if 0x020000000000 ≤ pa then pa / 2 ^ 12 % 4
  else nxStack pa / 3

/-- The presses active at a home (R121). -/
def State.activeAt (s : State) (cls : Nat) : Nat :=
  (s.homes.filter fun x => homeClass x.1 == cls && (x.2.active.isSome || x.2.deacting)).length

/-- The sort key of a press in a round: the home's recall first, then ascending agent (R119). -/
def pressKey (m : PressReq) : Nat := match m.src with | .home => 0 | .l2 a => a + 1

/-- The paths of the route set of a device or switch, without those that begin at a port that is down (R141, R451). A set
that nothing has loaded is one path from port 0. -/
def State.paths (s : State) (dev : Nat) : List (List Nat) :=
  (mgetD s.routes dev [[0]]).filter fun p => !s.linksDown.contains (.kazath (p.headD 0))

/-- A route set of this device holds a path to a device (R141, R455). -/
def State.reaches (s : State) (dev : Nat) : Bool := dev == s.devNum || !(s.paths dev).isEmpty

/-- The agents of a sector's set that its home can reach (R455). -/
def State.reachable (s : State) (sec : Nat) : List Nat :=
  (s.agents sec).filter fun a => !isFab sec || s.reaches (a / 8)

/-- Sends an activation, or its end, to every agent of the set (R118). -/
def State.pressAll (s : State) (sec : Nat) (on : Bool) (m : PressReq) : State :=
  (s.reachable sec).foldl (fun s a =>
    match s.agentDie sec a with
    | some _ => s.push [if on then .pressActivation a m else .pressClear a sec]
    | none => s.send (.press (a / 8) (if on then 1 else 4) a m)) s

/-- All tokens of a sector are home and no press of it is active. -/
def State.allHome (s : State) (sec : Nat) : Bool :=
  let h := s.home sec
  h.tokn == h.t && h.active.isNone && !h.deacting && h.census.isNone

/-- Serves the active press at the home: its tokens go to the requester (R118). A press that becomes active on a page that is the
host's, or on its way there, gathers none and ends: what needs its tokens is held (R130, R460). A lost sector refuses it (R456). -/
def State.pressServe (s : State) (sec : Nat) (m : PressReq) (grant : Bool) : State :=
  match m.src with
  | .home => if (s.home sec).tokn == (s.home sec).t then s.modHome sec fun h => { h with deacting := true } else s
  | .l2 a =>
    if s.hostPage sec then s.modHome sec fun h => { h with deacting := true }
    else if (s.home sec).lost then
      (s.modHome sec fun h => { h with deacting := true }).refuseTo sec a 0x2D
    else if s.cxlOk sec true then (s.biSnoop sec).homeGive sec (.l2 a) grant
    else s.cxlAsk sec true

/-- The sectors of a home's class that wait for a place among its active presses, in the order in which they came (R121). -/
def State.pressLine (s : State) (cls : Nat) : List Nat := s.pressQueue.filter fun x => homeClass x == cls

/-- A press of a sector can become active: a package-side home has 8 places, and the sectors that wait for one take it in the order in
which they came to wait (R121). DESIGN CHOICE (entry 25): that order is the model's. -/
def State.pressPlace (s : State) (sec : Nat) : Bool :=
  let cls := homeClass sec
  decide (6 ≤ cls) || (decide (s.activeAt cls < 8) && (s.pressLine cls).headD sec == sec)

/-- Activates the next press of a sector when none is active and the last has ended; where the round is empty, every pending
request enters a new one (R118, R119, R121). -/
def State.pressNext (s : State) (sec : Nat) : State :=
  let h := s.home sec
  if h.active.isSome || h.deacting || h.census.isSome then s
  else
    let h := if h.round.isEmpty then { h with round := sortBy (fun x y => decide (pressKey x ≤ pressKey y)) h.pending, pending := [] } else h
    match h.round with
    | [] => { s.modHome sec fun _ => h with pressQueue := s.pressQueue.filter fun x => x != sec }
    | m :: r =>
      if !s.pressPlace sec then { s.modHome sec fun _ => h with pressQueue := addNew s.pressQueue sec }
      else
        let s : State := { s with pressQueue := s.pressQueue.filter fun x => x != sec }
        let s := s.modHome sec fun _ =>
          { h with round := r, active := some m, activeAt := s.gtime, acksDue := s.reachable sec, deacting := false }
        let s := s.timer (s.gtime + s.tokrcTimeout.toNat) (.tokenRecreation sec)
        (s.pressAll sec true m).pressServe sec m false

/-- The number that no agent has: a PRESS_ACKNOWLEDGEMENT that bears it is the turn in which a home at rest opens a round (R119). -/
def noAgent : Nat := 2 ^ 32

/-- A press request reaches its home: one for each agent, the write kind if both are wanted (R117, R119). DESIGN CHOICE (entry 25): a home
at rest opens the round in a turn of its own, so that requests which come before it are in the round as well. -/
def State.pressAdd (s : State) (m : PressReq) : State :=
  let both : PressReq → PressReq := fun x => { x with write := x.write || m.write, ops := x.ops ++ m.ops }
  let s := s.modHome m.sec fun h =>
    if (h.pending.any fun x => x.src == m.src) then { h with pending := modWhere (fun x => x.src == m.src) both h.pending }
    else if h.round.any fun x => x.src == m.src then { h with round := modWhere (fun x => x.src == m.src) both h.round }
    else if m.src == .home then { h with pending := m :: h.pending, recalled := true }
    else { h with pending := h.pending ++ [m] }
  let h := s.home m.sec
  if h.active.isSome || h.deacting || h.census.isSome then s else s.push [.pressAcknowledgement noAgent m.sec false]

/-- The home recalls every token of a sector; while a press of it is active the recall waits for the next round (R119, R130). -/
def State.recall (s : State) (sec : Nat) : State :=
  if s.allHome sec || (s.home sec).recalled then s else s.pressAdd { sec, src := .home, write := true }

/-- A home of this device answers a transient request (R112), but not while a request of its own is out (R112, R304). A Modified line
of which agents still hold tokens is recalled before the host takes it back (R128). -/
def State.answerHome (s : State) (m : ReqMsg) : State :=
  let h := s.home m.sec
  let dev := if isFab m.sec then m.src / 8 else s.devNum
  if h.active.isSome || h.req.isSome || s.hostPage m.sec then s
  else if s.homeRefuses m.sec dev m.t then
    s.refuseTo m.sec m.src (if (s.home m.sec).lost then 0x2D else 0x2C)
  else if h.tokn == 0 || (!m.write && !h.own) then s
  else
    let all := m.write || h.tokn < 2
    if !s.cxlOk m.sec all then (if h.cxl == some .modified && !s.allHome m.sec then s.recall m.sec else s.cxlAsk m.sec all)
    else
    let s := s.biSnoop m.sec
    if !all then
      (s.modHome m.sec fun h => { h with tokn := h.tokn - 1 }).sendTok
        { sec := m.sec, dst := .l2 m.src, src := .home, n := 1, own := false, ser := h.ser, t := h.t,
          data := some (s.memSector m.sec), dirty := false }
    else s.homeGive m.sec (.l2 m.src)

/-- The end of an activation: once every acknowledgement is in, the deactivation goes to every agent (R118
step 5). -/
def State.pressEnd (s : State) (sec : Nat) : State :=
  let h := s.home sec
  match h.active with
  | some m =>
    if h.deacting && h.acksDue.isEmpty then
      let s := s.modHome sec fun h =>
        { h with active := none, deacks := s.reachable sec, deacting := true, recalled := h.recalled && m.src != .home }
      s.pressAll sec false m
    else s
  | none => s

/-- What has waited for a sector's tokens to be home goes on; a request on the home's own behalf is complete (R111, R153, R304, R328,
R130). -/
def State.homeRise (s : State) (sec : Nat) (turns : List Event) : State :=
  if s.allHome sec then
    let l := (s.homeWait.filter fun x => x.1 == sec).map (·.2)
    let s := if (s.home sec).req.isSome then s.modHome sec fun h => { h with req := none } else s
    { s with homeWait := s.homeWait.filter fun x => x.1 != sec }.push (l ++ turns)
  else s

/-- The home takes tokens that arrive (R105, R122, R123, R454): the owner's dirty data is written to memory, or, if it
could not be corrected, the sector is lost (R461); under an active press they go on to the requester, but not during a
census (R453), nor where the press has ended because its page is the host's (R130); a recall ends when all are home. -/
def State.homeTake (s : State) (m : TokMsg) : State :=
  let h := s.home m.sec
  if m.ser != h.ser then { s with tokrcStale := satInc s.tokrcStale }
  else
    let s := match m.own, m.dirty, m.data with
      | true, true, some d => if m.bad == 0 then s.setMemSector m.sec d else s.modHome m.sec fun h => { h with lost := true }
      | true, true, none => s.modHome m.sec fun h => { h with lost := true }
      | _, _, _ => s
    let s := s.modHome m.sec fun h =>
      { h with tokn := h.tokn + m.n, own := h.own || m.own,
               cxl := if m.own && m.dirty && (s.cxlPort m.sec).isSome then some .modified else h.cxl }
    let h := s.home m.sec
    if h.census.isSome then s
    else match h.active with
      | some { src := .l2 a, .. } => if (h.deacting && s.hostPage m.sec) || !s.cxlOk m.sec true then s else s.homeGive m.sec (.l2 a)
      | some { src := .home, .. } =>
        if h.tokn == h.t then (s.modHome m.sec fun h => { h with deacting := true }).pressEnd m.sec else s
      | none => s

end Sys2Proof.Machine
end

