-- ==== Sys2Proof/Machine/Mem.lean ====
section
/-! DEFINITION. Accesses in flight (R78 to R94, R299 to R328): their order in a slice, translation units, the
store path and the L1, tokens, vaults, the fabric and the host ports, and replayable faults (R434 to R440). -/

namespace Sys2Proof.Machine

/-! ### The accesses of an issuer -/

/-- The accesses that an issuer has in flight, in issue order (R94). -/
def State.accs (s : State) (w : Issuer) : List Access :=
  if w.slice == seqSlice then (match s.blk w.blk with | some b => b.seq.acc | none => [])
  else match s.slice w with
    | some sl => sl.acc
    | none => []

/-- Changes the accesses of an issuer. -/
def State.modAccs (s : State) (w : Issuer) (f : List Access → List Access) : State :=
  if w.slice == seqSlice then s.modSeq w.blk fun q => { q with acc := f q.acc }
  else s.modSlice w fun sl => { sl with acc := f sl.acc }

/-- Every access of a block in flight. -/
def Block.accs (b : Block) : List Access := b.seq.acc ++ b.gangs.flatMap fun g => g.slices.flatMap fun sl => sl.acc

/-- Every access in flight. -/
def State.allAccs (s : State) : List Access := s.blocks.flatMap Block.accs

/-- An access by identity. -/
def State.accOf (s : State) (id : Nat) : Option Access := s.allAccs.find? fun a => a.id == id

/-- Changes an access. -/
def State.modAcc (s : State) (w : Issuer) (id : Nat) (f : Access → Access) : State :=
  s.modAccs w fun l => modWhere (fun a => a.id == id) f l

/-- Changes the part of a lane. -/
def State.modPart (s : State) (a : Access) (lane : Nat) (f : Part → Part) : State :=
  s.modAcc a.who a.id fun a => { a with parts := modWhere (fun p => p.lane == lane) f a.parts }

/-- The operation of a context with a number (R95). -/
def Block.opOf (b : Block) (k : Ctx) (n : Nat) : Option EngOp := b.ops.find? fun x => x.ctx == k && x.num == n

/-- Changes an operation. -/
def State.modOp (s : State) (bid : Nat) (k : Ctx) (n : Nat) (f : EngOp → EngOp) : State :=
  s.modBlk bid fun b => { b with ops := modWhere (fun x => x.ctx == k && x.num == n) f b.ops }

/-- The core on which an access was issued. -/
def State.coreOfAcc (s : State) (a : Access) : Nat := match s.blk a.who.blk with | some b => b.core | none => 0

/-- The store of a part leaves its core's store path. -/
def State.leavePath (s : State) (a : Access) (lane : Nat) : State :=
  s.modCore (s.coreOfAcc a) fun c => { c with sp := c.sp.filter fun e => !(e.acc == a.id && e.lane == lane) }

/-- The sector of a line that holds an address: addresses and their translations name the same half (R23). -/
def L1Line.sector (x : L1Line) (a : Nat) : Option Sector := if a / 64 % 2 == 0 then x.lo else x.hi

/-- Sets a sector of a line, or makes it invalid. -/
def L1Line.setSector (x : L1Line) (a : Nat) (d : Option Sector) : L1Line := if a / 64 % 2 == 0 then { x with lo := d } else { x with hi := d }

/-- The line's tag is that of an address (R23). -/
def L1Line.hit (x : L1Line) (asid va : Nat) : Bool := x.asid == asid && x.vline == va / 128

/-- The L1's sector (R23). -/
def Core.l1Find (c : Core) (asid va : Nat) : Option Sector := (c.l1.find? fun x => x.hit asid va).bind fun x => x.sector va

/-- Makes the copies of a physical sector in an L1 invalid (R91). -/
def Core.l1DropPa (c : Core) (pa : Nat) : Core :=
  { c with l1 := c.l1.map fun x => if x.pline == pa / 128 then x.setSector pa none else x }

/-- Discards an L1 line (R323). -/
def Core.l1Drop (c : Core) (asid va : Nat) : Core := { c with l1 := c.l1.filter fun x => !x.hit asid va }

/-- The access acts on vault memory (R74). -/
def AccKind.vault : AccKind → Bool
  | .vload _ | .vstore | .vatomic _ | .vbar _ | .hist _ | .vqld => true
  | .ldx n => decide (2 ≤ n)
  | _ => false

/-- The access stores at its global address without reading it. -/
def AccKind.stores : AccKind → Bool
  | .store | .storeNc | .stcw _ => true
  | _ => false

/-- The access writes registers of a slice or sequencer when it completes (R93, R235). -/
def AccKind.loads : AccKind → Bool
  | .load _ | .ldc | .loadNc _ | .atomic _ | .vload _ | .vatomic _ | .vbar _ | .ldx _ | .qld | .vqld
  | .probe | .tokq | .mcpredRd => true
  | _ => false

/-- Kinds that act once for their slice (R305, R317, R322 to R328, R269). -/
def AccKind.once : AccKind → Bool
  | .ldc | .stcw _ | .vbar _ | .evict | .probe | .tokq | .mcpredRd | .mcpredWr | .wbinv | .kick _ | .mapctl .. | .sendui => true
  | _ => false

/-- Every part of an access is done. -/
def Access.complete (a : Access) : Bool := a.parts.all fun p => p.st == .done

/-- The place of an access in its issuer's program order (R57, R94). -/
def Access.key (a : Access) : Nat := if a.since == 0 then a.id else a.since

/-- An access comes before another in program order; pieces of one access keep the order of their identities (R57). -/
def Access.before (x a : Access) : Bool := decide (x.key < a.key) || (x.key == a.key && decide (x.id < a.id))

/-- Two accesses stood, before a REGROUP, in the program order of one slice (R57). -/
def Access.sharesLine (x a : Access) : Bool := x.lines.any a.lines.contains

/-- The accesses that an access has a place among in program order: those of its issuer, and those whose order in a former slice a
REGROUP has left as it was (R57, R94). -/
def State.order (s : State) (a : Access) : List Access :=
  s.accs a.who ++ match s.blk a.who.blk with
    | some b => b.accs.filter fun x => x.who != a.who && x.sharesLine a
    | none => []

/-- Drops from the head of each path the accesses that are complete (R94), and looks again at operations that
wait for others (R328, R364). -/
def dropDone (l : List Access) (path : Nat) : List Access :=
  match l with
  | [] => []
  | a :: r => if a.path == path then (if a.complete then dropDone r path else a :: r) else a :: dropDone r path

/-- Kinds that a home performs, and that look again when its tokens rise (R304, R328, R364; R91 under CXL.cache). -/
def AccKind.atHome : AccKind → Bool
  | .mapctl .. | .wbinv | .storeNc | .loadNc _ | .atomic _ | .red _ => true
  | _ => false

/-- The operations in flight that look again once tokens are home. -/
def State.homeOps (s : State) : List Nat := (s.allAccs.filter fun a => a.kind.atHome && !a.complete).map (·.id)

/-- The turn of what stores an entry of a store path. -/
def SpEntry.turn (e : SpEntry) : Event :=
  match e.eng with
  | some (b, k, n) => .engineOpCompletion b k n
  | none => .accessCompletion e.acc

/-- The turns of what looks again once tokens are home: those operations, and the stores to host memory in the store paths (R78, R128). -/
def State.homeTurns (s : State) : List Event :=
  s.homeOps.map Event.accessCompletion ++ (s.cores.flatMap fun x => x.2.sp.filter fun e => paClass e.pa == some .host).map SpEntry.turn

/-- The operations of a block that have not begun have their turn: what the sequencer did before them has come on (R96). -/
def State.opTurns (s : State) (w : Issuer) : List Event :=
  if w.slice != seqSlice then []
  else match s.blk w.blk with
    | some b => (b.ops.filter fun op => !op.begun && op.fault.isNone).map fun op => .engineOpBegin b.id op.ctx op.num
    | none => []

/-- Lets the counters of an issuer fall (R94); when one falls, operations that wait for others are looked at
again (R96, R328, R364). -/
def State.drain (s : State) (w : Issuer) : State :=
  let n := (s.accs w).length
  let s := s.modAccs w fun l => (List.range 9).foldl dropDone l
  if (s.accs w).length == n then s else s.push (s.homeOps.map Event.accessCompletion ++ s.opTurns w)

/-! ### Order within a slice (R80, R88, R109, R300, R435) -/

/-- Kinds that may go on behind a store in the store path, which forwards it to them or keeps them in order (R78, R79). -/
def AccKind.forwards : AccKind → Bool
  | .load _ | .store | .storeNc | .ldc | .qld | .pref _ | .stcw _ | .cpya .. | .ldx _ => true
  | _ => false

/-- An earlier part of an access of kind `x` holds up a later access to the same bytes' sector: unless it is done, or is a store
that lies in the store path, from which a plain load or store may go on (R78, R79). -/
def holdsUp (x k : AccKind) (p : Part) : Bool :=
  match p.st with
  | .done => false
  | .inPath => !k.forwards
  | .sent _ => !(x.stores && k.forwards)
  | _ => true

/-- Kinds that touch no location: they are ordered with nothing. -/
def AccKind.free : AccKind → Bool
  | .evict | .probe | .tokq | .mcpredRd | .mcpredWr | .press _ | .wbinv | .kick _ | .mark | .sendui | .mapctl .. => true
  | _ => false

/-- A release of the issuer's accesses before `upto` is not yet complete (R85, R125): loads have returned and vault stores are
written; a `wide` one, at .die or wider, also waits until everything that counts on the global path has completed, package and
fabric-shared stores being performed; a narrow one waits for no token event, so not for a PREF. A QHIST is none of these: it is
waited for by its path (R294). -/
def relOpen (l : List Access) (wide : Bool) (upto : Nat) : Bool :=
  l.any fun a => decide (a.key < upto) && (
    (wide && a.path == 2 && !a.complete) ||
    (!a.kind.free && !(match a.kind with | .pref _ | .hist _ => true | _ => false) && a.parts.any fun p =>
      match p.st with
      | .done => false
      | .inPath => wide
      | .sent _ => !a.kind.stores
      | _ => true))

/-- A part of the same word, in another lane, comes before: lanes act in ascending order (R300, R311). A held
part holds up no lane of its own word (R434), nor does a request on its way to the host, whose port keeps the order
(R150, R151). -/
def holdsLane (path : Nat) (p : Part) : Bool :=
  match p.st with
  | .sent _ => path != 4
  | .done | .inPath | .failed _ | .held _ | .behind => false
  | _ => true

/-- The accesses of the other slices of its word that come before an access (R300). -/
def State.siblings (s : State) (a : Access) : List Access :=
  match s.blk a.who.blk with
  | none => []
  | some b => b.accs.filter fun x => x.grp == a.grp && x.before a && x.who != a.who

/-- The vault address that a part touches, if it touches one: for CPYA, that of its destination (R74, R321). -/
def vaultAddr (k : AccKind) (p : Part) : Option Nat :=
  match k with
  | .cpya .. => some p.dst
  | k => if k.vault then some p.addr else none

/-- The global address that a part touches, if it touches one. -/
def globalAddr (k : AccKind) (p : Part) : Option Nat := if k.vault then none else some p.addr

/-- Two addresses lie in one block of `n` bytes. -/
def sameBlock (n : Nat) (x y : Option Nat) : Bool :=
  match x, y with
  | some x, some y => x / n == y / n
  | _, _ => false

/-- Two parts touch one sector of one space (R80, R88). -/
def sameSector (x : Access) (q : Part) (a : Access) (p : Part) : Bool :=
  sameBlock 64 (vaultAddr x.kind q) (vaultAddr a.kind p) ||
  (x.asid == a.asid && sameBlock 64 (globalAddr x.kind q) (globalAddr a.kind p))

/-- The access has an address of host class (R72, R150). -/
def Access.host (a : Access) : Bool :=
  a.path == 4 || (a.parts.any fun p => match globalAddr a.kind p with | some va => decide (vaClass va = .host) | none => false)

/-- An earlier access `x`, not complete, has a part that must go out before a part of `a`: a store to the store path before a
store, unless it is held at the translation unit (R78, R460); a request to the host port before another (R150); a packet to one
vault before another (R138). -/
def goesFirst (x : Access) (q : Part) (a : Access) (p : Part) : Bool :=
  (x.kind.stores && a.kind.stores && x.tries != 0x80 && q.st == .todo) ||
  (x.host && a.host && (match q.st with | .sent _ | .done => false | _ => true)) ||
  (q.st == .todo && sameBlock (2 ^ 22) (vaultAddr x.kind q) (vaultAddr a.kind p))

/-- The part must wait for earlier parts of its slice or its word: to the same sector in the same space, for an
earlier acquire, for what must go out before it, and, for a copy that posts, for what its release covers (R78, R80, R84, R88, R98,
R138, R150, R151, R300). -/
def blocked (l sib : List Access) (a : Access) (p : Part) : Bool :=
  if a.kind.free then false
  else
    (l.any fun x =>
      x.before a && !x.kind.free && !x.complete &&
        ((x.ord == .acq || x.ord == .ar) || (x.parts.any fun q => goesFirst x q a p || (sameSector x q a p && holdsUp x.kind a.kind q)))) ||
    ((a :: sib).any fun x => x.parts.any fun q =>
      (x.id != a.id || decide (q.lane < p.lane)) &&
        ((sameSector x q a p && holdsLane x.path q) || (q.st == .todo && goesFirst x q a p))) ||
    (match a.kind with | .cpya _ (some _) => relOpen l true a.key | _ => false)

/-- Marks the parts behind a held part of the same sector (R435). -/
def markBehind (l : List Access) : List Access :=
  l.map fun a => { a with parts := a.parts.map fun p =>
    if p.st == .todo && !a.kind.free && (l.any fun x => x.before a &&
        x.parts.any fun q => sameSector x q a p && (match q.st with | .failed _ | .held _ => true | _ => false))
    then { p with st := .behind } else p }

/-! ### Results -/

/-- A loaded value, zero- or sign-extended (R299). -/
def loadExt (sx : Bool) (esz : Nat) (v : Nat) : DWord :=
  match sx, esz with
  | true, 1 => ((BitVec.ofNat 8 v).signExtend 32).setWidth 64
  | true, 2 => ((BitVec.ofNat 16 v).signExtend 32).setWidth 64
  | _, _ => BitVec.ofNat 64 v

/-- The lanes that receive a result: the part's own, or every lane of the mask in `cmp` for an operation made
once for the slice (R317, R324 to R326). -/
def resultLanes (k : AccKind) (p : Part) : List Nat :=
  match k with
  | .probe | .tokq | .mcpredRd | .vbar _ => (List.range 4).filter fun j => p.cmp.getLsbD j
  | _ => [p.lane]

/-- Writes the result of a part into its registers, after the fixed-latency results that are due (R234, R299, R305, R332). -/
def State.deliver (s : State) (a : Access) (p : Part) (v : Nat) : State :=
  let sx := match a.kind with | .load x | .loadNc x | .vload x => x | _ => false
  let v := loadExt sx a.esz v
  if !a.kind.loads then s
  else if a.who.slice == seqSlice then s.modSeq a.who.blk fun q => { (q.landTo s.now).setQ p.dst v with held := q.held.erase p.dst }
  else s.modSlice a.who fun sl =>
    let sl := sl.landTo s.now
    match a.kind with
    | .ldc => if a.esz == 8 then sl.setS64 p.dst v else sl.setS p.dst (lo32 v)
    | k => (resultLanes k p).foldl (fun sl j =>
        let put : Nat → Word → Slice → Slice := fun r v sl => match p.spilt with
          | some pos => sl.setSpilt pos r j v
          | none => sl.setPhys r j v
        let sl := put p.dst (lo32 v) sl
        if a.esz == 8 || (match k with | .ldx n => n % 2 == 1 | _ => false) then put (p.dst + 1) (hi32 v) sl else sl) sl

/-- A part is done: its result is delivered. A store has left the store path; what an atomic or LDNC has touched leaves the L1 (R79,
R91). -/
def State.donePart (s : State) (a : Access) (p : Part) (v : Nat) : State :=
  let s := match a.kind with
    | .store | .stcw _ | .storeNc => s.leavePath a p.lane
    | .atomic _ | .red _ | .loadNc _ => s.modCore (s.coreOfAcc a) fun c => c.l1DropPa p.pa
    | _ => s
  (s.deliver a p v).modPart a p.lane fun p => { p with st := .done }

/-! ### Faults of accesses (R434 to R438, R418, R461) -/

/-- Some lane of a word has neither been performed nor faulted. -/
def Block.wordOpen (b : Block) (grp : Nat) : Bool :=
  b.accs.any fun a => a.grp == grp && a.parts.any fun p => match p.st with | .todo | .sent _ => true | _ => false

/-- The faulted parts of a slice's part of a word, that no fault has raised yet. -/
def Slice.failedParts (sl : Slice) (grp : Nat) : List (Access × Part × BitVec 8) :=
  sl.acc.flatMap fun a => if a.grp != grp then [] else a.parts.filterMap fun p =>
    match p.st with | .failed c => some (a, p, c) | _ => none

/-- Writes the records of a word that raises a code charged to the context: every code that its lanes raised, in ascending order,
the held ones with the words issued so far (R402, R405, R434). -/
def State.chargeWord (s : State) (b : Block) (g : Gang) (found : List (Slice × Access × Part × BitVec 8)) : State :=
  let codes := sortBy (fun (x y : BitVec 8) => decide (x.toNat ≤ y.toNat)) ((found.map (·.2.2.2)).foldl addNew [])
  codes.foldl (fun s c =>
    let l := found.filter fun x => x.2.2.2 == c
    if s.sup b.asid || contextCode c then s.recordParts b g c (l.map fun x => (x.1, x.2.1, x.2.2.1)) else s.stopHeld b g l) s

/-- Raises the faults of a word once every lane of it is known (entry 20). Replayable ones: in a supervisor gang each
faulting slice is frozen (R418), after the records (R402, R406); elsewhere the parts are held and the block halts (R409, R434).
Then those that are charged to the context (R405). -/
def State.raiseWord (s : State) (bid gang grp : Nat) : State :=
  match s.blk bid with
  | none => s
  | some b =>
    match b.gang gang with
    | none => s
    | some g =>
      let found := g.slices.flatMap fun sl => (sl.failedParts grp).map fun x => (sl, x)
      if found.isEmpty || b.wordOpen grp then s
      else
        let sup := s.sup b.asid
        let hold : Part → Part := fun p => match p.st with
          | .failed c => { p with st := if contextCode c then .done else .held c }
          | _ => p
        let acc : Access → Access := fun a => if a.grp == grp then { a with parts := a.parts.map hold } else a
        let s := s.modGang bid gang fun g => { g with slices := g.slices.map fun sl => { sl with acc := sl.acc.map acc } }
        let replay := found.filter fun x => !chargedIn sup x.2.2.2
        let codes := sortBy (fun (x y : BitVec 8) => decide (x.toNat ≤ y.toNat)) (replay.map (·.2.2.2))
        let charged := sortBy (fun (x y : BitVec 8) => decide (x.toNat ≤ y.toNat)) ((found.map (·.2.2.2)).filter (chargedIn sup))
        let s := match codes with
          | [] => if charged.isEmpty then s else s.chargeWord b g found
          | code :: _ =>
            if sup then
              g.slices.foldl (fun s sl =>
                let l := sortBy (fun x y => decide (x.2.2.toNat ≤ y.2.2.toNat))
                  ((replay.filter fun x => x.1.num == sl.num).map (·.2))
                match l with
                | [] => s
                | (a, p, c) :: _ =>
                  s.freeze ⟨bid, gang, sl.num⟩ ((l.flatMap fun x => partLanes x.2.1).foldl addNew []) (heldInfo a p c) sl.pc) (s.chargeWord b g found)
            else
              let s := s.haltBlock bid code []
              let s := (if charged.isEmpty then s else s.chargeWord b g found).stopIdle bid
              if !(s.cxr b.asid 0x11E).getLsbD 63 then s.haltContext b.asid code else s
        match charged with
        | [] => s
        | code :: _ => s.haltContext b.asid code

/-- A part's fault that is charged to the context (R405, R461). -/
def State.machineFault (s : State) (a : Access) (p : Part) (code : BitVec 8) : State :=
  match s.blk a.who.blk with
  | none => s
  | some b =>
    if a.who.slice == seqSlice then
      let s := s.record b 0 { heldInfo a p code with agent := 1 } 0 0 0
      (s.modPart a p.lane fun p => { p with st := .done }).haltContext b.asid code
    else (s.modPart a p.lane fun p => { p with st := .failed code }).raiseWord b.id a.who.gang a.grp

/-- A part faults with a replayable code (R434): what is behind it is held with it, and its word raises the fault. In a
supervisor gang a per-lane code drops the part and sets %fcode (R418). 0x2D is charged to the context (R461). -/
def State.failPart (s : State) (a : Access) (p : Part) (code : BitVec 8) (lvl : Nat) (info : DWord) : State :=
  match s.blk a.who.blk with
  | none => s
  | some b =>
    let s := (s.modAcc a.who a.id fun x => { x with tries := a.tries }).modPart a p.lane fun p => { p with lvl, out := info }
    let p := { p with lvl, out := info }
    if contextCode code then s.machineFault a p code
    else if s.sup b.asid && a.who.slice != seqSlice && perLaneCode code then
      ((s.modPart a p.lane fun p => { p with st := .done }).setFcode a.who (partLanes p) code).raiseWord b.id a.who.gang a.grp
    else if a.who.slice == seqSlice then
      let s := (s.modPart a p.lane fun p => { p with st := .held code }).modAccs a.who markBehind
      s.trapSeq b.id { heldInfo a p code with agent := 1 }
    else
      let s := s.modPart a p.lane fun p => { p with st := .failed code }
      (s.modAccs a.who markBehind).raiseWord b.id a.who.gang a.grp

/-! ### Translation units (R27, R76, R439) -/

/-- The unit that translates an access (R27, R76). -/
def tlbUnit (asid va : Nat) : Nat := Nat.xor (Nat.xor (va / 2 ^ 16 % 16) (va / 2 ^ 20 % 16)) (asid % 16)

/-- A translation kept by the unit of an access (R27, R76). -/
def State.tlbFind (s : State) (d asid va : Nat) : Option TlbEntry :=
  (s.die d).tlb.find? fun e => e.unit == tlbUnit asid va && e.asid == asid && e.vpage == va / 2 ^ e.size

/-- The translation of a part: the one that it has gone on with, whatever has been dropped since, or what its unit keeps (R76, R364,
R368). -/
def State.trOf (s : State) (a : Access) (p : Part) : Option TlbEntry :=
  match p.tr with
  | some e => some e
  | none => s.tlbFind (dieOf (s.coreOfAcc a)) a.asid p.addr

/-- A unit keeps a translation; with 4,096 kept, the oldest goes (R27). -/
def tlbAdd (l : List TlbEntry) (e : TlbEntry) : List TlbEntry :=
  if l.contains e then l
  else if (l.filter fun x => x.unit == e.unit).length < 4096 then l ++ [e]
  else (match l.find? fun x => x.unit == e.unit with | some x => l.erase x | none => l) ++ [e]

/-- A translation as the unit of an access has it, or as a walk gives it now (R76). -/
def State.lookup (s : State) (d asid va : Nat) : Walk :=
  match s.tlbFind d asid va with
  | some e => .ok e.entry e.size
  | none => s.walk asid va

/-- A translation at a die with its checks: the physical address and the leaf, or the fault (R76, R438). -/
def State.xlatAt (s : State) (d asid va : Nat) (w : Want) : Sum (Nat × DWord) (BitVec 8 × Nat × DWord) :=
  match s.lookup d asid va with
  | .fault c l e => .inr (c, l, e)
  | .ok e size => if leafOk e size va w then .inl (leafPa e size va, e) else .inr (0x21, (size - 12) / 9, e)

/-- Begins a walk for a 64 KiB page, or queues it; walks of one page are shared (R439). -/
def State.startWalk (s : State) (d asid va : Nat) : State :=
  let k := (asid, va / 65536)
  let x := s.die d
  if x.walks.contains k || x.walkQ.contains k then s
  else if x.walks.length < 64 then (s.modDie d fun x => { x with walks := x.walks ++ [k] }).push [.pageWalkEnd d asid (va / 65536)]
  else s.modDie d fun x => { x with walkQ := x.walkQ ++ [k] }

/-- What an access wants of its page (R77, R438). -/
def AccKind.want : AccKind → Want
  | .store | .storeNc | .stcw _ => .store
  | .atomic _ | .red _ => .atomic
  | .evict | .probe | .tokq | .mcpredRd | .mcpredWr | .press _ | .wbinv | .mapctl .. => .any
  | _ => .load

/-! ### Sectors and the store path -/

/-- The bytes of a sector at an address, as a number. -/
def secBytes (d : Sector) (off n : Nat) : Nat := d.toNat / 2 ^ (8 * off) % 2 ^ (8 * n)

/-- A sector with bytes replaced. -/
def secPut (d : Sector) (off n v : Nat) : Sector :=
  (List.range n).foldl (fun d k => setSecByte d (off + k) (BitVec.ofNat 8 (v / 256 ^ k % 256))) d

/-- The newest byte of a core's store path at a virtual address (R78, R79). -/
def spByte (sp : List SpEntry) (asid va : Nat) : Option Byte :=
  (sp.reverse.find? fun e => e.asid == asid && decide (e.va ≤ va ∧ va < e.va + e.esz)).map fun e =>
    BitVec.ofNat 8 (e.data.toNat / 256 ^ (va - e.va) % 256)

/-- Bytes with those of the store path laid over them. -/
def overlay (sp : List SpEntry) (asid va n base : Nat) : Nat :=
  ofBytes ((List.range n).map fun k => (spByte sp asid (va + k)).getD (BitVec.ofNat 8 (base / 256 ^ k % 256)))

/-- All bytes lie in the store path. -/
def spCovers (sp : List SpEntry) (asid va n : Nat) : Bool := (List.range n).all fun k => (spByte sp asid (va + k)).isSome

/-- A sector with the stores to it that lie in a store path laid over it, oldest first (R78, R79). -/
def spLay (sp : List SpEntry) (sec : Nat) (d : Sector) : Sector :=
  sp.foldl (fun d e => if e.pa / 64 == sec then secPut d (e.pa % 64) e.esz e.data.toNat else d) d

/-- Keeps a sector in the L1, which holds 2,048 lines; its copies under other addresses go (R23, R79). -/
def Core.l1Fill (c : Core) (asid va pa : Nat) (d : Sector) : Core :=
  let c := c.l1DropPa pa
  let old := ((c.l1.find? fun x => x.hit asid va).filter fun x => x.pline == pa / 128).getD { asid, vline := va / 128, pline := pa / 128 }
  let l := (c.l1.filter fun x => !x.hit asid va) ++ [old.setSector va (some d)]
  { c with l1 := l.drop (l.length - 2048) }

/-- A store updates every L1 line that holds its sector, and allocates none (R78). -/
def Core.l1Store (c : Core) (pa n v : Nat) : Core :=
  { c with l1 := c.l1.map fun x =>
      if x.pline == pa / 128 then x.setSector pa ((x.sector pa).map fun d => secPut d (pa % 64) n v) else x }

/-- Uncorrectable granules among bytes of package memory (R461). -/
def State.badAt (s : State) (pa n : Nat) : Bool :=
  s.homeHere (pa / 64) && s.badMem.any fun g => decide (memAddr pa / 8 ≤ g ∧ g ≤ (memAddr pa + n - 1) / 8)

/-- The 8-byte granules of a sector among `n` bytes from an offset: those touched, or those covered wholly (R461). -/
def granules (off n : Nat) (whole : Bool) : BitVec 8 :=
  BitVec.ofNat 8 (((List.range 8).filter fun g =>
    if whole then decide (off ≤ 8 * g ∧ 8 * g + 8 ≤ off + n) else decide (off / 8 ≤ g ∧ 8 * g < off + n)).foldl (fun m g => m + 2 ^ g) 0)

/-- Bytes that a die's L2 would deliver can not be corrected, in its own array or in the memory that they come from (R461). -/
def State.dataBad (s : State) (d pa n : Nat) : Bool :=
  let x := s.l2 d (pa / 64)
  (s.badAt pa n && !x.dirty) || (x.bad &&& granules (pa % 64) n false) != 0

/-- A write makes the granules that it covers wholly correct again (R461). -/
def State.healMem (s : State) (pa n : Nat) : State :=
  { s with badMem := s.badMem.filter fun g => !decide (memAddr pa ≤ 8 * g ∧ 8 * g + 8 ≤ memAddr pa + n) }

/-- The home of a sector refuses this device (R448, R456, R486): the code of the fault. -/
def State.refusal (s : State) (sec t : Nat) : Option (BitVec 8) :=
  if !s.homeHere sec then none
  else if (s.home sec).lost then some 0x2D
  else if s.homeRefuses sec s.devNum t then some 0x2C
  else none

/-- Where the accesses of a sector go (R78, R91, R126): tokens, a remote home, or a host port. -/
inductive Where where
  | tokens | remote | hostPort (port : Nat)
  deriving DecidableEq, Repr, Inhabited

/-- The place of a physical address. -/
def State.place (s : State) (pa : Nat) : Where :=
  match paClass pa with
  | some .host => if (s.cxlPort (pa / 64)).isSome then .tokens else .hostPort (pa / 2 ^ 48 - 1)
  | _ => if s.homeHere (pa / 64) then .tokens else .remote

/-- A sector of host memory under CXL.cache whose line the proxy home does not hold (R128): memory here has no copy of
it. -/
def State.unheld (s : State) (pa : Nat) : Bool := (s.cxlPort (pa / 64)).isSome && (s.home (pa / 64)).cxl.isNone

/-- An access that needs tokens of a page on its way to the host is held at the translation unit, and one record
of its block says so (R130, R460). -/
def State.holdOwner (s : State) (a : Access) (p : Part) : State :=
  match s.blk a.who.blk with
  | none => s
  | some b =>
    let first := !(b.accs.any fun x => x.tries == 0x80)
    let s := s.modAcc a.who a.id fun a => { a with tries := 0x80 }
    let s := s.modPart a p.lane fun p => { p with pa := 2 ^ 60, st := .todo, tr := none }
    let s := (s.leavePath a p.lane).push (s.homeOps.map Event.accessCompletion)
    if first then
      s.record b a.who.gang { code := 0x2F, prec := false, pc := a.pc, addr := BitVec.ofNat 64 p.addr } 0 0 0
    else s

/-- Tokens for a part: readable or writable now, or asked for (R108, R111). A translation whose T is not that of the tokens held
faults (R486). -/
def State.tokensFor (s : State) (a : Access) (p : Part) (d pa t : Nat) (write : Bool) : Sum State State :=
  let sec := pa / 64
  let x := s.l2 d sec
  let ok := if write then decide (x.tokn == t) && x.dv else decide (1 ≤ x.tokn) && x.dv
  if x.tokn != 0 && x.t != t then .inr ((s.leavePath a p.lane).failPart a p 0x2C 0xFF 0)
  else if ok then .inl s
  else if s.hostPage sec then .inr (s.holdOwner a p)
  else .inr ((s.modPart a p.lane fun p => { p with pa }).need d sec write t a.asid)

/-- Writes bytes of a sector that the die's L2 holds wholly (R108). -/
def State.l2Write (s : State) (d pa n v : Nat) : State :=
  let sec := pa / 64
  let x := s.l2 d sec
  (s.setL2 d sec { x with data := secPut x.data (pa % 64) n v, dirty := true, bad := x.bad &&& ~~~granules (pa % 64) n true }).healMem pa n

/-! ### Atomics (R308 to R312) -/

/-- The value that an atomic leaves (R308 to R310), by its AOP. -/
def atomicNew (aop : BitVec 5) (esz : Nat) (old opnd cmp : Nat) : Nat :=
  let m := 2 ^ (8 * esz)
  let op := aop.toNat % 8
  let sg := fun (x : Nat) => if 2 * x < m then (x : Int) else (x : Int) - m
  match aop.toNat / 8 with
  | 2 =>
    let f := if esz == 8 then fD else fS
    (match op with
     | 0 => f.add .rn false old opnd
     | 1 => f.minMax false old opnd
     | 2 => f.minMax true old opnd
     | 3 => (packed (fH.add .rn false) (BitVec.ofNat 32 old) (BitVec.ofNat 32 opnd)).toNat
     | _ => (packed (fB.add .rn false) (BitVec.ofNat 32 old) (BitVec.ofNat 32 opnd)).toNat)
  | 3 => if old == cmp then opnd else old
  | g =>
    let lt := if g == 1 then decide (sg old < sg opnd) else decide (old < opnd)
    match op with
    | 0 => (old + opnd) % m
    | 1 => if lt then old else opnd
    | 2 => if lt then opnd else old
    | 3 => Nat.land old opnd
    | 4 => Nat.lor old opnd
    | 5 => Nat.xor old opnd
    | 6 => opnd
    | _ => if opnd ≤ old then 0 else (old + 1) % m

/-- The AOP of an atomic kind. -/
def AccKind.aop : AccKind → BitVec 5
  | .atomic x | .red x | .vatomic x => x
  | _ => 0

/-- A NATIVE host page carries the atomic as an AtomicOp (R151, R312). -/
def nativeAop (aop : BitVec 5) : Bool :=
  let g := aop.toNat / 8
  let o := aop.toNat % 8
  (g ≤ 1 && (o == 0 || o == 6)) || g == 3

/-- The 14-bit tag of a new host request (R149). DESIGN CHOICE (entry 8): the lowest that no request outstanding at either port bears. -/
def State.freeTag (s : State) : Nat := ((List.range 16384).find? fun t => !(s.hostReqs.any fun h => h.tag == t)).getD 0

/-- A host port has room for `n` more non-posted requests: 2,048 may be outstanding (R149). -/
def State.hostRoom (s : State) (port n : Nat) : Bool := decide ((s.hostReqs.filter fun h => h.port == port).length + n ≤ 2048)

/-! ### Releases (R85, R86, R146, R150) -/

/-- The identity below which every access was issued before now. -/
def State.upto (s : State) : Nat := s.nextId

/-- A release at a scope must still wait for the issuer's accesses, markers and zero-length reads (R85,
R314). -/
def State.relWaits (s : State) (w : Issuer) (sc : Scope) (upto : Nat) : Bool :=
  let wide := sc != .blk && sc != .core
  relOpen (s.accs w) wide upto ||
  ((sc == .fab || sc == .sys) && (s.markersOut.any fun m => m.who == w)) ||
  (sc == .sys && (s.hostReqs.any fun h => h.zero && h.who == w))

/-- The markers and zero-length reads of a .fab or .sys release are not sent yet (R85). -/
def State.relUnsent (s : State) (w : Issuer) (sc : Scope) : Bool :=
  let st : List Nat × Bool × List (Nat × Nat) :=
    if w.slice == seqSlice then (match s.blk w.blk with | some b => (b.seq.devs, b.seq.devOvf, b.seq.hostWr) | none => ([], false, []))
    else match s.slice w with | some sl => (sl.devs, sl.devOvf, sl.hostWr) | none => ([], false, [])
  ((sc == .fab || sc == .sys) && (!st.1.isEmpty || st.2.1)) || (sc == .sys && !st.2.2.isEmpty)

/-- Sends a marker to a device: one copy on every path of its route set (R146). -/
def State.sendMarker (s : State) (w : Issuer) (acc dev : Nat) : State :=
  let (id, s) := s.newId
  let paths := (s.paths dev).length
  let s := (List.range paths).foldl (fun s k =>
    s.send (.marker dev { id, src := s.devNum, copies := paths, path := k, slice := w.blk * 4096 + w.gang * 16 + w.slice })) s
  { s with markersOut := s.markersOut ++ [{ id, who := w, acc, dev }] }

/-- Sends what a release needs and empties the tracked sets (R85, R86). -/
def State.relSend (s : State) (w : Issuer) (sc : Scope) : State :=
  let st : List Nat × Bool × List (Nat × Nat) :=
    if w.slice == seqSlice then (match s.blk w.blk with | some b => (b.seq.devs, b.seq.devOvf, b.seq.hostWr) | none => ([], false, []))
    else match s.slice w with | some sl => (sl.devs, sl.devOvf, sl.hostWr) | none => ([], false, [])
  let devs := if st.2.1 then s.members.filter fun d => d != s.devNum else st.1
  let s := devs.foldl (fun s d => s.sendMarker w 0 d) s
  let sys := sc == .sys
  let s := if sys then st.2.2.foldl (fun s x =>
      let tag := s.freeTag
      let s := s.send (.hostRead x.1 tag x.2 0)
      { s with hostReqs := s.hostReqs ++ [{ tag, acc := 0, lane := 0, port := x.1, addr := x.2, atomic := false, zero := true, who := w, time := s.gtime }] }) s
    else s
  if w.slice == seqSlice then s.modSeq w.blk fun q => { q with devs := [], devOvf := false, hostWr := if sys then [] else q.hostWr }
  else s.modSlice w fun sl => { sl with devs := [], devOvf := false, hostWr := if sys then [] else sl.hostWr }

/-- Tries a release for an issuer of its accesses before `upto`: complete, or the state in which it waits (R85). -/
def State.releaseTo (s : State) (w : Issuer) (sc : Scope) (upto : Nat) : Bool × State :=
  if relOpen (s.accs w) (sc != .blk && sc != .core) upto then (false, s)
  else if s.relUnsent w sc then (false, if sc == .sys && !((List.range 2).all fun p => s.hostRoom p 1) then s else s.relSend w sc)
  else if s.relWaits w sc upto then (false, s)
  else (true, s)

/-- Tries a release for an issuer of all it has issued. -/
def State.release (s : State) (w : Issuer) (sc : Scope) : Bool × State := s.releaseTo w sc s.upto

/-! ### Packets to other devices and requests to the host (R142 to R151) -/

/-- Notes that posted writes went to a device (R86). -/
def trackDev (devs : List Nat) (ovf : Bool) (d : Nat) : List Nat × Bool :=
  if devs.contains d then (devs, ovf) else if devs.length < 16 then (devs ++ [d], ovf) else (devs, true)

/-- Notes a target device of an issuer's posted writes (R86). -/
def State.track (s : State) (w : Issuer) (d : Nat) : State :=
  if w.slice == seqSlice then
    s.modSeq w.blk fun q => let r := trackDev q.devs q.devOvf d; { q with devs := r.1, devOvf := r.2 }
  else s.modSlice w fun sl => let r := trackDev sl.devs sl.devOvf d; { sl with devs := r.1, devOvf := r.2 }

/-- Notes the last host address written on a port (R85). -/
def State.trackHost (s : State) (w : Issuer) (port addr : Nat) : State :=
  if w.slice == seqSlice then s.modSeq w.blk fun q => { q with hostWr := mset q.hostWr port addr }
  else s.modSlice w fun sl => { sl with hostWr := mset sl.hostWr port addr }

/-- The parts of a word's accesses that have not begun, in the order of the lanes of its gang (R143, R300). -/
def State.wordTodo (s : State) (a : Access) : List (Access × Part) :=
  let word := match s.blk a.who.blk with
    | some b => sortBy (fun (x y : Access) => x.before y || x.id == y.id) (b.accs.filter fun x => x.grp == a.grp && x.kind == a.kind)
    | none => [a]
  word.flatMap fun x => (x.parts.filter fun q => q.st == .todo).map fun q => (x, q)

/-- The path of the route set of a device or switch that a message takes as it goes out: the one whose source port has the most free
credit (R141). The credit is a free value (entry 6); of equal ones the path that the table lists first is taken. -/
def State.pathTo (s : State) (dev : Nat) : List Nat :=
  (s.paths dev).foldl (fun best p =>
    if best.isEmpty || Config.portCredit s.outs.length (best.headD 0) < Config.portCredit s.outs.length (p.headD 0) then p else best) []

/-- The device or switch to which a message of the fabric goes. -/
def outDev : OutMsg → Option Nat
  | .fabric p => some p.dst
  | .fabResp _ d _ _ | .refused d _ _ | .marker d _ | .markerDone d _ | .token d _ | .request d _ | .press d _ _ _ | .census d _ _ _
  | .kickAck d _ | .peerUi d _ _ _ _ _ | .evacuate d _ => some d
  | _ => none

/-- The path that the message sent as number `i` takes: a marker's copy that which it names, every other the one whose source port had the
most free credit as it was sent (R141, R146). -/
def State.outPath (s : State) (i : Nat) : List Nat :=
  match s.outPast[i]?, s.outs[i]? with
  | some p, _ => p
  | none, some (.fabric p) => p.path
  | none, some (.marker d m) => (s.paths d).getD m.path []
  | none, some m => (match outDev m with | some d => ({ s with outs := s.outs.take i } : State).pathTo d | none => [])
  | none, none => []

/-- Before a route set changes, the paths of what has been sent are noted (R141). -/
def State.keepPaths (s : State) : State := { s with outPast := (List.range s.outs.length).map s.outPath }

/-- The header that a packet leaves with (R144, R145): compressed where its link has a context that a full header has opened for its
DST, SRC and CTX and the page step fits in DELTA; a kick notice is never compressed. DESIGN CHOICE (entry 25): a full header opens the
lowest context not in use, else the one that was used longest ago. -/
def State.compress (s : State) (p : VPkt) : VPkt × State :=
  let mine := s.sendCtx.filter fun x => x.1 / 64 == p.link
  let step : Nat × Stream → Int := fun x => (p.page : Int) - x.2.page
  let fits : Nat × Stream → Bool := fun x => x.2.dst == p.dst && x.2.src == p.src && x.2.ctx == p.ctx && decide (-128 ≤ step x ∧ step x ≤ 127)
  let put : Nat → State := fun scx =>
    let key := 64 * p.link + scx
    { s with sendCtx := (s.sendCtx.filter fun x => x.1 != key) ++ [(key, { dst := p.dst, src := p.src, ctx := p.ctx, page := p.page })] }
  match if p.kind == 0xA then none else mine.find? fits with
  | some x => ({ p with compressed := true, scx := x.1 % 64, delta := BitVec.ofInt 8 (step x) }, put (x.1 % 64))
  | none =>
    let scx := ((List.range 64).find? fun k => !(mine.any fun x => x.1 % 64 == k)).getD ((mine.map (·.1)).headD 0 % 64)
    ({ p with scx }, put scx)

/-- Sends a vector packet or a kick notice on the path that it takes (R141, R144, R145). -/
def State.sendPkt (s : State) (p : VPkt) : State :=
  let path := s.pathTo p.dst
  let r := s.compress { p with path, link := path.headD 0 }
  r.2.send (.fabric r.1)

/-- Sends a vector packet for lanes of a word's accesses, with their physical addresses, under the T of their translation, and waits
for its answer (R142 to R144, R447). A posted store lies in the store path until it is accepted, and updates the L1 (R78, R126);
since its home performs it, and an atomic, elsewhere, this die's L2 keeps no copy of its sector (entry 18). -/
def State.sendVec (s : State) (a : Access) (kind : BitVec 4) (aop : BitVec 5) (t : Nat) (l : List (Access × Part × Nat)) : State :=
  match l with
  | [] => s
  | (_, _, pa) :: _ =>
    let (id, s) := s.newId
    let rid := id % 65536
    let p : VPkt :=
      { kind, esz := a.esz, dst := fabDev pa, src := s.devNum, ctx := a.asid, page := pa % 2 ^ 42 / 65536, rid, aop,
        offs := l.map fun x => BitVec.ofNat 16 (x.2.2 % 65536),
        data := if kind == 1 then [] else l.map fun x => x.2.1.data, cmp := if kind == 3 && aop == 24 then l.map fun x => x.2.1.cmp else [], t }
    let s := s.sendPkt p
    let fr : FabReq := { rid, acc := a.id, lanes := l.map fun x => x.2.1.lane, parts := l.map fun x => (x.1.id, x.2.1.lane), pkt := p, time := s.gtime }
    let s := { s with fabReqs := s.fabReqs ++ [fr] }
    let s := s.timer (s.gtime + 8000) (.fabricRequestTimeout rid)
    l.foldl (fun s x =>
      let y := x.1
      let q := x.2.1
      let core := s.coreOfAcc y
      let d := dieOf core
      let sec := x.2.2 / 64
      let s := if kind == 2 then
          let se : SpEntry := { acc := y.id, lane := q.lane, who := y.who, asid := y.asid, va := q.addr, pa := x.2.2, esz := y.esz,
                                data := q.data, t, posted := true }
          (s.track y.who (fabDev pa)).modCore core fun c => { (c.l1Store x.2.2 y.esz q.data.toNat) with sp := c.sp ++ [se] }
        else s
      let s := if kind != 1 && (s.l2 d sec).tokn != 0 && !s.pendReq d sec true && (s.pact d sec).isNone then s.evict d sec else s
      s.modPart y q.lane fun p => { p with st := .sent rid, pa := x.2.2 }) s

/-- An access without the parts that have not begun. -/
def Access.begunParts (a : Access) : Access := { a with parts := a.parts.filter fun q => q.st != .todo }

/-- A lane of a word may go with the lanes of its word that have not begun either: what stands before it in program order, and the lanes
of its word that are on their way, let it (R300, R311). -/
def State.mayJoin (s : State) (a : Access) (p : Part) : Bool :=
  !blocked (s.order a) ((s.siblings a).map Access.begunParts) a.begunParts p

/-- The lanes of a word that go to the same device and page as `pa`, in ascending order, with their physical addresses: they go in one
packet, so none of them goes before all may go (R143, R300). -/
def State.vecGroup (s : State) (a : Access) (d pa : Nat) : List (Access × Part × Nat) :=
  let l := (s.wordTodo a).filterMap fun x => match (match x.2.tr with | some e => Walk.ok e.entry e.size | none => s.lookup d x.1.asid x.2.addr) with
    | .ok e size =>
      let y := leafPa e size x.2.addr
      if leafOk e size x.2.addr a.kind.want && y / 65536 == pa / 65536 then some (x.1, x.2, y) else none
    | .fault .. => none
  if l.all fun x => s.mayJoin x.1 x.2.1 then l else []

/-- Sends a read or an atomic to a host port, or waits for room at it (R149 to R151). -/
def State.askHost (s : State) (a : Access) (p : Part) (port pa : Nat) (atomic : Bool) : State :=
  if !s.hostRoom port 1 then s.modPart a p.lane fun p => { p with pa }
  else
    let tag := s.freeTag
    let addr := pa % 2 ^ 48
    let m : OutMsg := if atomic then .hostAtomic port tag addr a.kind.aop a.esz p.data p.cmp else .hostRead port tag addr a.esz
    let s := s.send m
    let hr : HostReq := { tag, acc := a.id, lane := p.lane, port, addr, atomic, time := s.gtime }
    let s := { s with hostReqs := s.hostReqs ++ [hr] }
    let s := s.timer (s.gtime + 50000000) (.hostCompletionTimeout tag)
    s.modPart a p.lane fun p => { p with st := .sent tag, pa }

/-- The element size code of R144. -/
def eszCode (esz : Nat) : Nat := match esz with | 1 => 0 | 2 => 1 | 4 => 2 | _ => 3

/-- The lanes of a word that a PROXY page, or the lack of an AtomicOp, sends to the host agent with the part of lane `p` (R151). -/
def State.proxyGroup (s : State) (a : Access) (d : Nat) : List (Access × Part) :=
  (s.wordTodo a).filter fun x =>
    s.mayJoin x.1 x.2 &&
    (match s.lookup d x.1.asid x.2.addr with
     | .ok e size => leafOk e size x.2.addr .atomic && paClass (leafPa e size x.2.addr) == some .host &&
         (e.getLsbD 61 || !nativeAop a.kind.aop)
     | .fault .. => false)

/-- Carries the atomics of one word as one record to the host agent, posted with a release at .sys: it waits until every slice of the
word has made its release (R151, R200, R201). -/
def State.proxyAtomic (s : State) (a : Access) (p : Part) (pa : Nat) (l : List (Access × Part)) : State :=
  let go := l.foldl (fun (r : Bool × State) x =>
    let y := r.2.releaseTo x.1.who .sys x.1.key
    (r.1 && y.1, y.2)) (true, s)
  if !go.1 then go.2.modPart a p.lane fun p => { p with pa }
  else
    let (id, s) := go.2.newId
    let ordc := match a.ord with | .rlx => 0 | .acq => 1 | .rel => 2 | .ar => 3
    let lanes := l.map fun x =>
      (4 * x.1.who.slice + x.2.lane, x.2.dst,
       [BitVec.ofNat 64 x.2.addr, x.2.data, x.2.cmp, BitVec.ofNat 64 (eszCode a.esz + 4 * ordc)])
    let parts := l.map fun x => (4 * x.1.who.slice + x.2.lane, x.1.id, x.2.lane)
    let s := l.foldl (fun s x => s.modPart x.1 x.2.lane fun p => { p with st := .sent id }) s
    s.scAdd { id, asid := a.asid, host := true, who := a.who, lanes, acc := some a.id, parts, num := 0xF00 + a.kind.aop.toNat }

/-! ### The parts of an access -/

/-- A prefetch, which fetches its sector whatever the store path holds (R306). -/
def AccKind.fetches : AccKind → Bool
  | .pref _ => true
  | _ => false

/-- The value at a part's address, if it can be read now (R79, R303): otherwise the state in which its tokens,
walk or host read have been asked for. `n` bytes; `fresh` says that the L1 may not serve it, `keep` that it
may be kept there. DESIGN CHOICE (entry 4): a load that races with a store, whose value R90 leaves unspecified, returns what stands
there at its turn. -/
def State.tryRead (s : State) (a : Access) (p : Part) (n : Nat) (fresh keep : Bool) : Sum (State × Nat) State :=
  let core := s.coreOfAcc a
  let d := dieOf core
  let c := s.core core
  if 2 ^ 48 ≤ p.addr then .inr (s.failPart a p 0x20 0xFF 0)
  else if !a.kind.fetches && spCovers c.sp a.asid p.addr n then .inl (s, overlay c.sp a.asid p.addr n 0)
  else
    match (if fresh then none else c.l1Find a.asid p.addr) with
    | some x => .inl (s, overlay c.sp a.asid p.addr n (secBytes x (p.addr % 64) n))
    | none =>
      match s.trOf a p with
      | none => .inr (s.startWalk d a.asid p.addr)
      | some e =>
        let pa := leafPa e.entry e.size p.addr
        if !leafOk e.entry e.size p.addr .load then .inr (s.failPart a p 0x21 ((e.size - 12) / 9) e.entry)
        else match s.place pa with
          -- host memory over PCIe is never cached: a prefetch has nothing to do (R79)
          | .hostPort port => .inr (match a.kind with | .pref _ => s.donePart a p 0 | _ => s.askHost a p port pa false)
          | _ =>
            match s.refusal (pa / 64) (leafT e.entry) with
            | some code => .inr (s.failPart a p code 0xFF 0)
            | none =>
              match s.tokensFor a p d pa (leafT e.entry) false with
              | .inr s => .inr s
              | .inl s =>
                if s.dataBad d pa n then .inr (s.machineFault a p 0x2D)
                else
                  let x := spLay c.sp (pa / 64) (s.l2 d (pa / 64)).data
                  let s := if keep && !e.entry.getLsbD 60 then s.modCore core fun c => c.l1Fill a.asid p.addr pa x else s
                  .inl (s, secBytes x (pa % 64) n)

/-- The MSI-X message of STCW goes after its store (R322). -/
def State.stcwMsix (s : State) (a : Access) (pa : Nat) : State :=
  match a.kind with
  | .stcw (some v) => s.send (.msix (match paClass pa with | some .host => pa / 2 ^ 48 - 1 | _ => 0) v)
  | _ => s

/-- The entry of a part in its core's store path, with those before it and those after it. -/
def spSplit (sp : List SpEntry) (acc lane : Nat) : List SpEntry × Option SpEntry × List SpEntry :=
  let mine := fun (e : SpEntry) => e.acc == acc && e.lane == lane
  (sp.takeWhile fun e => !mine e, sp.find? mine, (sp.dropWhile fun e => !mine e).drop 1)

/-- The next store of a sector in a store path has its turn (R109). -/
def State.nextInPath (s : State) (l : List SpEntry) (sec : Nat) : State :=
  match l.find? fun e => e.pa / 64 == sec with
  | some e => s.push [e.turn]
  | none => s

/-- Notes that the L2 slice has accepted a store packet; it accepts those of one issuer in the order of their numbers and holds the
others, the next of which then has its turn (R135). -/
def State.spAccept (s : State) (core : Nat) (e : SpEntry) (before : List SpEntry) : Bool × State :=
  let mate : SpEntry → Bool := fun x => !x.posted && !x.taken && x.who == e.who && l2Slice x.pa == l2Slice e.pa
  if e.taken then (true, s)
  else if before.any mate then (false, s)
  else
    let s := s.modCore core fun c =>
      { c with sp := modWhere (fun x => x.acc == e.acc && x.lane == e.lane) (fun x => { x with taken := true }) c.sp }
    (true, match (spSplit (s.core core).sp e.acc e.lane).2.2.find? mate with | some x => s.push [x.turn] | none => s)

/-- All tokens of a sector are at this device's home, and the home may write it (R128, R304): otherwise the home gathers them by a write
request on its own behalf, or asks the host for the line. -/
def State.homeGather (s : State) (sec asid : Nat) : Sum State State :=
  let h := s.home sec
  if !(h.tokn == h.t && h.active.isNone) then .inr (s.homeWant sec asid)
  else if !s.cxlOk sec true then .inr (s.cxlAsk sec true)
  else .inl (s.biSnoop sec)

/-- As `homeGather`, for a part, which waits. -/
def State.homeReady (s : State) (a : Access) (p : Part) (pa : Nat) : Sum State State :=
  (s.modPart a p.lane fun p => { p with pa }).homeGather (pa / 64) a.asid

/-- The home writes bytes of a sector whose tokens it holds; a line held for the host becomes Modified (R128, R304). -/
def State.homeWrite (s : State) (pa n v : Nat) : State :=
  let sec := pa / 64
  let s := (s.setMemSector sec (secPut (s.memSector sec) (pa % 64) n v)).healMem pa n
  if (s.cxlPort sec).isSome then s.modHome sec fun h => { h with cxl := some .modified } else s

/-- Performs a STNC, or a store to host memory under CXL.cache, that lies in the store path: at the sector's home, which keeps the tokens
(R78, R109, R135, R304). -/
def State.performNc (s : State) (a : Access) (p : Part) : State :=
  let core := s.coreOfAcc a
  match spSplit (s.core core).sp a.id p.lane with
  | (before, some e, after) =>
    let r := s.spAccept core e before
    let s := r.2
    if !r.1 || before.any fun x => x.pa / 64 == e.pa / 64 then s
    else if s.hostPage (e.pa / 64) then s.holdOwner a p
    else match s.homeReady a p e.pa with
      | .inr s => s
      | .inl s =>
        let s := (s.homeWrite e.pa a.esz p.data.toNat).leavePath a p.lane
        ((s.stcwMsix a e.pa).donePart a p 0).nextInPath after (e.pa / 64)
  | _ => s

/-- Performs a store that lies in the store path, once its turn in its sector has come (R78, R109, R135). -/
def State.performStore (s : State) (a : Access) (p : Part) : State :=
  let core := s.coreOfAcc a
  let d := dieOf core
  match spSplit (s.core core).sp a.id p.lane with
  | (before, some e, after) =>
    if paClass e.pa == some .host then s.performNc a p
    else
    let r := s.spAccept core e before
    let s := r.2
    if !r.1 || before.any fun x => x.pa / 64 == e.pa / 64 then s
    else match s.tokensFor a p d e.pa e.t true with
      | .inr s => s
      | .inl s =>
        let s := (s.l2Write d e.pa a.esz p.data.toNat).leavePath a p.lane
        ((s.stcwMsix a e.pa).donePart a p 0).nextInPath after (e.pa / 64)
  | _ => s

/-- Performs an engine operation's store that lies in the store path of a core, once its turn in its sector has come (R78, R109,
R337), one to host memory under CXL.cache at the proxy home. One that meets tokens of another T, or a page on its way to the host, is
left to its operation (R130, R486). -/
def State.performEng (s : State) (core : Nat) (e : SpEntry) : State :=
  let d := dieOf core
  match e.eng, spSplit (s.core core).sp e.acc e.lane with
  | some (bid, k, n), (before, some _, after) =>
    let r := s.spAccept core e before
    let s := r.2
    let sec := e.pa / 64
    let x := s.l2 d sec
    let gone : State → State := fun s =>
      let s := s.modCore core fun c => { c with sp := c.sp.filter fun y => !(y.acc == e.acc && y.lane == e.lane) }
      ((s.modOp bid k n fun op => { op with posted := op.posted - 1 }).push [.engineOpCompletion bid k n]).nextInPath after sec
    if e.posted || !r.1 || before.any fun y => y.pa / 64 == sec then s
    else if paClass e.pa == some .host then
      (match s.homeGather sec e.asid with
       | .inr s => s
       | .inl s => gone (s.homeWrite e.pa e.esz e.data.toNat))
    else if x.tokn != 0 && x.t != e.t then s
    else if x.tokn == e.t && x.dv then gone (s.l2Write d e.pa e.esz e.data.toNat)
    else if s.hostPage sec then s
    else s.need d sec true e.t e.asid
  | _, _ => s

/-- A store enters a core's store path and updates the L1 (R78); its packet takes the next number of its issuer's stores to its L2
slice (R135). -/
def State.joinPath (s : State) (core : Nat) (e : SpEntry) : State :=
  let key := ((e.who.blk * 16 + e.who.gang) * 16 + e.who.slice) * 16 + l2Slice e.pa
  s.modCore core fun c =>
    let n := mgetD c.stSeq key 0
    { (c.l1Store e.pa e.esz e.data.toNat) with
      sp := c.sp ++ [{ e with seq := BitVec.ofNat 6 n }], stSeq := if e.posted then c.stSeq else mset c.stSeq key ((n + 1) % 64) }

/-- The store of a part enters its core's store path (R78). -/
def State.enterPath (s : State) (a : Access) (p : Part) (pa t : Nat) : State :=
  (s.joinPath (s.coreOfAcc a) { acc := a.id, lane := p.lane, who := a.who, asid := a.asid, va := p.addr, pa, esz := a.esz, data := p.data, t }).modPart
    a p.lane fun p => { p with st := .inPath, pa }

/-- A store goes out by the host port (R78, R149). That of STCW.msix at .sys carries a zero-length read, which its message waits for; it
waits for room at the port first (R171, R322). -/
def State.hostStore (s : State) (a : Access) (p : Part) (port pa : Nat) : State :=
  let reads := match a.kind with | .stcw (some _) => a.scope == .sys | _ => false
  if reads && !s.hostRoom port 1 then s.modPart a p.lane fun p => { p with pa }
  else
    let s := s.send (.hostWrite port (pa % 2 ^ 48) (leBytes a.esz p.data.toNat))
    if reads then
      let tag := s.freeTag
      let s := s.send (.hostRead port tag (pa % 2 ^ 48) 0)
      let hr : HostReq := { tag, acc := a.id, lane := p.lane, port, addr := pa % 2 ^ 48, atomic := false, time := s.gtime }
      let s := ({ s with hostReqs := s.hostReqs ++ [hr] }).timer (s.gtime + 50000000) (.hostCompletionTimeout tag)
      s.modPart a p.lane fun p => { p with st := .sent tag, pa }
    else ((s.trackHost a.who port (pa % 2 ^ 48)).stcwMsix a pa).donePart a p 0

/-- One lane's part of a store: translated, it enters the store path and updates the L1; then it is performed,
posted to a remote home, or sent by the host port (R78, R126). STNC is performed at the home (R304). -/
def State.stepStore (s : State) (a : Access) (p : Part) (nc : Bool) : State :=
  let d := dieOf (s.coreOfAcc a)
  if 2 ^ 48 ≤ p.addr then s.failPart a p 0x20 0xFF 0
  else match s.trOf a p with
    | none => s.startWalk d a.asid p.addr
    | some e =>
      let pa := leafPa e.entry e.size p.addr
      if !leafOk e.entry e.size p.addr .store then s.failPart a p 0x21 ((e.size - 12) / 9) e.entry
      else match s.place pa with
        | .hostPort port => s.hostStore a p port pa
        | .remote => s.sendVec a 2 0 (leafT e.entry) (s.vecGroup a d pa)
        | .tokens =>
          match s.refusal (pa / 64) (leafT e.entry) with
          | some code => s.failPart a p code 0xFF 0
          | none =>
            let s := s.enterPath a p pa (leafT e.entry)
            if nc then s.performNc a { p with st := .inPath, pa } else s.performStore a { p with st := .inPath, pa }

/-- One lane's part of a global atomic (R91, R151, R311). Of host memory under CXL.cache, the proxy home performs a NATIVE one. -/
def State.stepAtomic (s : State) (a : Access) (p : Part) : State :=
  let core := s.coreOfAcc a
  let d := dieOf core
  if 2 ^ 48 ≤ p.addr then s.failPart a p 0x20 0xFF 0
  else match s.trOf a p with
    | none => s.startWalk d a.asid p.addr
    | some e =>
      let pa := leafPa e.entry e.size p.addr
      if !leafOk e.entry e.size p.addr .atomic then s.failPart a p 0x21 ((e.size - 12) / 9) e.entry
      else
        let s := s.modCore core fun c => c.l1DropPa pa
        let proxy := paClass pa == some .host && (e.entry.getLsbD 61 || !nativeAop a.kind.aop)
        if proxy then
          (if !s.scOk a.asid true then s.failPart a p 0x42 0xFF 0 else s.proxyAtomic a p pa (s.proxyGroup a d))
        else match s.place pa with
        | .hostPort port => s.askHost a p port pa true
        | .remote => s.sendVec a 3 a.kind.aop (leafT e.entry) (s.vecGroup a d pa)
        | .tokens =>
          match s.refusal (pa / 64) (leafT e.entry) with
          | some code => s.failPart a p code 0xFF 0
          | none =>
            if paClass pa == some .host then
              (match s.homeReady a p pa with
               | .inr s => s
               | .inl s =>
                 let old := secBytes (s.memSector (pa / 64)) (pa % 64) a.esz
                 (s.homeWrite pa a.esz (atomicNew a.kind.aop a.esz old p.data.toNat p.cmp.toNat)).donePart a p old)
            else
            match s.tokensFor a p d pa (leafT e.entry) true with
            | .inr s => s
            | .inl s =>
              let x := s.l2 d (pa / 64)
              if s.dataBad d pa a.esz then s.machineFault a p 0x2D
              else
                let old := secBytes x.data (pa % 64) a.esz
                let s := s.l2Write d pa a.esz (atomicNew a.kind.aop a.esz old p.data.toNat p.cmp.toNat)
                s.donePart a p old

/-- Moves PEND of a transaction-barrier slot by bytes, and completes the phase if its condition holds (R97,
R98, R317): the slot's four words after the update. -/
def barUpdate (slot : Nat) (bytes : Int) (arrive : Bool) : Nat :=
  let pend0 : Nat := slot / 2 ^ 96 % 2 ^ 26
  let pend : Int := (if pend0 < 2 ^ 25 then (pend0 : Int) else (pend0 : Int) - 2 ^ 26) + bytes
  let expa := slot / 2 ^ 80 % 2 ^ 16
  let arr := slot / 2 ^ 64 % 2 ^ 16 + arrive.toNat
  let phase := slot / 2 ^ 32 % 2 ^ 32
  let fin := arr == expa && pend == 0
  slot / 2 ^ 122 * 2 ^ 122 + (pend % 2 ^ 26).toNat * 2 ^ 96 + expa * 2 ^ 80 + (if fin then 0 else arr % 2 ^ 16) * 2 ^ 64 +
    (if fin then (phase + 1) % 2 ^ 32 else phase) * 2 ^ 32 + slot % 2 ^ 32

/-- PEND of a slot after a change lies in its range (R441 code 0x26). -/
def barFits (slot : Nat) (bytes : Int) : Bool :=
  let pend0 : Nat := slot / 2 ^ 96 % 2 ^ 26
  let pend : Int := (if pend0 < 2 ^ 25 then (pend0 : Int) else (pend0 : Int) - 2 ^ 26) + bytes
  decide (-(2 ^ 25) ≤ pend ∧ pend < 2 ^ 25)

/-- The MODE of a slot is 0b01 (R97, R441 codes 0x25 and 0x27). -/
def barArmed (slot : Nat) : Bool := slot / 2 ^ 126 == 1

/-- Bytes of a die's vaults touch a slot that BINIT has armed and BRET has not retired (R97, R441 code 0x27). -/
def State.hitsArmed (s : State) (die addr n : Nat) : Bool :=
  let k := s.vkey die addr
  s.armed.any fun g => decide (k < 16 * g + 16 ∧ 16 * g < k + n)

/-- Posts written bytes to a slot (R98): the state after it, or the code of its refusal (R442). -/
def State.post (s : State) (die slot n : Nat) : Sum State (BitVec 8) :=
  let x := s.vlRd die slot 16
  if !barArmed x then .inr 0x25
  else if !barFits x (-(n : Int)) then .inr 0x26
  else .inl (s.vlWr die slot 16 (barUpdate x (-(n : Int)) false))

/-- Uncorrectable granules among vault bytes (R461). -/
def State.badVaultAt (s : State) (die addr n : Nat) : Bool :=
  let k := s.vkey die addr
  s.badVault.any fun g => decide (k / 8 ≤ g ∧ g ≤ (k + n - 1) / 8)

/-- Writes vault bytes; granules that the write covers are correct again (R461). -/
def State.vaultPut (s : State) (die addr n v : Nat) : State :=
  let k := s.vkey die addr
  { s.vlWr die addr n v with badVault := s.badVault.filter fun g => !decide (k ≤ 8 * g ∧ 8 * g + 8 ≤ k + n) }

/-- One lane's part of a vault access (R80, R91, R294). -/
def State.stepVault (s : State) (a : Access) (p : Part) : State :=
  let d := dieOf (s.coreOfAcc a)
  if s.badVaultAt d p.addr a.esz && (match a.kind with | .hist _ => true | k => k.loads) then s.machineFault a p 0x2D
  else
    let old := s.vlRd d p.addr a.esz
    match a.kind with
    | .vstore => (s.vaultPut d p.addr a.esz p.data.toNat).donePart a p 0
    | .vatomic aop => (s.vaultPut d p.addr a.esz (atomicNew aop a.esz old p.data.toNat p.cmp.toNat)).donePart a p old
    | .hist _ => (s.vaultPut d p.addr 4 (min (old + 1) 0xFFFFFFFF)).donePart a p 0
    | .vbar _ => s.donePart a p p.data.toNat
    | _ => s.donePart a p old

/-- The bytes of one lane's piece of CPYA have come: they are written to the vault and posted (R321, R442). -/
def State.cpyaPut (s : State) (a : Access) (p : Part) (size : Nat) (slot : Option Nat) (v : Nat) : State :=
  let d := dieOf (s.coreOfAcc a)
  let s := s.vaultPut d p.dst size v
  match slot with
  | none => s.donePart a p 0
  | some sl =>
    match s.post d sl size with
    | .inl s => (s.modPart a p.lane fun p => { p with cmp := 1 }).donePart a p 0
    | .inr code =>
      -- the postings that its other lanes have made are withdrawn (R442)
      let n := size * (a.parts.filter fun q => q.st == .done && q.cmp == 1).length
      let x := s.vlRd d sl 16
      let s := if n != 0 && barArmed x then s.vlWr d sl 16 (barUpdate x n false) else s
      let s := s.modAcc a.who a.id fun a => { a with parts := a.parts.map fun q => { q with cmp := 0 } }
      s.failPart a { p with addr := sl } code 0xFF 0

/-- One lane's piece of CPYA: read, written to the vault, posted (R321, R442). -/
def State.stepCpya (s : State) (a : Access) (p : Part) (size : Nat) (slot : Option Nat) : State :=
  match s.tryRead a p size false true with
  | .inr s => s
  | .inl (s, v) => s.cpyaPut a p size slot v

/-- One lane's part of LDNC, which takes no token (R304). Stores of its core's store path serve it, as they serve every load, and the
copies that the L1 has of the sector go, so that a later load does not return an older value (R79, R88). -/
def State.stepNc (s : State) (a : Access) (p : Part) : State :=
  let core := s.coreOfAcc a
  let d := dieOf core
  let sp := (s.core core).sp
  if 2 ^ 48 ≤ p.addr then s.failPart a p 0x20 0xFF 0
  else if spCovers sp a.asid p.addr a.esz then s.donePart a p (overlay sp a.asid p.addr a.esz 0)
  else match s.trOf a p with
    | none => s.startWalk d a.asid p.addr
    | some e =>
      let pa := leafPa e.entry e.size p.addr
      let sec := pa / 64
      if !leafOk e.entry e.size p.addr .load then s.failPart a p 0x21 ((e.size - 12) / 9) e.entry
      else
        let s := s.modCore core fun c => c.l1DropPa pa
        match s.place pa with
        | .hostPort port => s.askHost a p port pa false
        | .remote => s.sendVec a 1 0 (leafT e.entry) (s.vecGroup a d pa)
        | .tokens =>
          match s.refusal sec (leafT e.entry) with
          | some code => s.failPart a p code 0xFF 0
          | none =>
            if s.badAt pa a.esz then s.machineFault a p 0x2D
            else if s.unheld pa then (s.modPart a p.lane fun p => { p with pa }).cxlAsk sec false
            else s.donePart a p (overlay sp a.asid p.addr a.esz (secBytes (s.current sec) (pa % 64) a.esz))

/-- The 64 KiB pages of a page of a given size. -/
def pagesOf (pa size : Nat) : List Nat := (List.range (2 ^ (size - 16))).map fun k => pa / 2 ^ size * 2 ^ (size - 16) + k

/-- Drops the translations and L1 sectors of a page, or of a whole context (R364). -/
def State.dropPage (s : State) (asid va size : Nat) (all : Bool) : State :=
  let s := (List.range 8).foldl (fun s d => s.modDie d fun x =>
    { x with tlb := x.tlb.filter fun e => !(e.asid == asid && (all || e.vpage == va / 2 ^ e.size)) }) s
  (s.cores.map (·.1)).foldl (fun s c => s.modCore c fun x =>
    { x with l1 := x.l1.filter fun y => !(y.asid == asid && (all || y.vline * 128 / 2 ^ size == va / 2 ^ size)),
             icache := x.icache.filter fun y => !(y.1 == asid && (all || y.2.1 * 64 / 2 ^ size == va / 2 ^ size)) }) s

/-- Drops every context's translations to a physical page, and the L1 lines filled from it (R130). -/
def State.dropPhys (s : State) (pa size : Nat) : State :=
  let hits : TlbEntry → Bool := fun e =>
    let n := max e.size size
    leafPa e.entry e.size 0 / 2 ^ n == pa / 2 ^ n
  let s := (List.range 8).foldl (fun s d => s.modDie d fun x => { x with tlb := x.tlb.filter fun e => !hits e }) s
  (s.cores.map (·.1)).foldl (fun s c => s.modCore c fun x =>
    { x with l1 := x.l1.filter fun y => y.pline * 128 / 2 ^ size != pa / 2 ^ size, icache := [] }) s

/-- The size of the page that a context maps at an address: the largest of what a unit keeps and what a walk
gives. -/
def State.pageSize (s : State) (asid va : Nat) : Nat :=
  let kept := (List.range 8).filterMap fun d => (s.tlbFind d asid va).map (·.size)
  let now := match s.walk asid va with | .ok _ sz => sz | .fault .. => 16
  kept.foldl max now

/-- The sectors of a page whose tokens are not all at home. -/
def State.strayed (s : State) (pa size : Nat) : List Nat :=
  s.homes.filterMap fun x => if x.1 * 64 / 2 ^ size == pa / 2 ^ size && (x.2.tokn != x.2.t || x.2.active.isSome) then some x.1 else none

/-- Every L1 of the device discards its sectors of a physical page, whatever address they are tagged with (R328). -/
def State.l1DropPage (s : State) (pa size : Nat) : State :=
  (s.cores.map (·.1)).foldl (fun s c => s.modCore c fun x => { x with l1 := x.l1.filter fun y => y.pline * 128 / 2 ^ size != pa / 2 ^ size }) s

/-- The proxy home gives up the lines of a page that it holds of the host: a modified one goes back with its data (R128, R328). DESIGN
CHOICE (entry 25): the host's own memory is the memory to which WBINV writes dirty data. -/
def State.dropLines (s : State) (pa size : Nat) : State :=
  (s.homes.filter fun x => x.1 * 64 / 2 ^ size == pa / 2 ^ size && x.2.cxl.isSome).foldl (fun s x =>
    match s.cxlPort x.1 with
    | some port =>
      let dirty := x.2.cxl == some .modified
      (s.send (.cxl port x.1 (if dirty then 2 else 3) (if dirty then some (s.memSector x.1) else none))).modHome x.1 fun h => { h with cxl := none }
    | none => s) s

/-- The sectors of a page of which a die's L2 holds tokens, with the die. -/
def State.l2Page (s : State) (pa size : Nat) : List (Nat × Nat) :=
  (List.range 8).flatMap fun d => ((s.die d).l2.filter fun x => x.1 * 64 / 2 ^ size == pa / 2 ^ size && x.2.tokn != 0).map fun x => (d, x.1)

/-- WBINV (R328): recalls the page's sectors, discards them from every L1, and is done when all tokens are home. DESIGN CHOICE (entry
25): of a page whose home is another device, this device's L2s send their tokens home, which is what a recall asks of them. -/
def State.stepWbinv (s : State) (a : Access) (p : Part) : State :=
  let d := dieOf (s.coreOfAcc a)
  match s.trOf a p with
  | none => if 2 ^ 48 ≤ p.addr then s.failPart a p 0x20 0xFF 0 else s.startWalk d a.asid p.addr
  | some e =>
    let pa := leafPa e.entry e.size p.addr
    if !leafOk e.entry e.size p.addr .any then s.failPart a p 0x21 ((e.size - 12) / 9) e.entry
    else
      let s := if p.st == .todo then s.l1DropPage pa e.size else s
      match s.place pa with
      | .hostPort _ => s.donePart a p 0
      | .remote =>
        let s := ((s.l2Page pa e.size).filter fun x => !s.pendReq x.1 x.2 true && (s.pact x.1 x.2).isNone).foldl (fun s x => s.evict x.1 x.2) s
        if (s.l2Page pa e.size).isEmpty then s.donePart a p 0 else s.modPart a p.lane fun p => { p with st := .sent 0, pa }
      | .tokens =>
        let l := s.strayed pa e.size
        if l.isEmpty then (s.dropLines pa e.size).donePart a p 0
        else if p.st == .todo then l.foldl (fun s sec => s.recall sec) (s.modPart a p.lane fun p => { p with st := .sent 0, pa })
        else s

/-- The key under which an operation notes that it waits for the walk of a page, and the one under which it notes that the walk has ended
in a fault (R439). -/
def walkKey (va : Nat) : Nat := 2 ^ 66 + va / 65536
def faultKey (va : Nat) : Nat := 2 ^ 67 + va / 65536

/-- The key under which an operation notes that a word of its, or a store, is held for a page on its way to the host (R460). -/
def heldKey (va : Nat) : Nat := 2 ^ 64 + va
def isHeldKey (k : Nat) : Bool := decide (2 ^ 64 ≤ k ∧ k < 2 ^ 66)

/-- A part has begun and has not ended, and is not held (R364, R472). -/
def Part.open' (p : Part) : Bool := match p.st with | .done | .failed _ | .held _ | .behind => false | _ => true

/-- An access has translated through a page, or any of its context: by a lane, or as a KICK whose source has pages there. -/
def Access.onPage (x : Access) (va size : Nat) (all : Bool) : Bool :=
  let here : Nat → Bool := fun y => all || y / 2 ^ size == va / 2 ^ size
  match x.kind with
  | .kick n => !n.sv && x.parts.any fun q => (match q.st with | .sent _ => true | _ => false) &&
      (here n.src || (decide (n.src ≤ va / 2 ^ size * 2 ^ size) && decide (va / 2 ^ size * 2 ^ size < n.src + n.len)))
  | .mapctl .. => false
  | k => !k.vault && x.parts.any fun q => q.open' && (q.tr.isSome || q.pa != 2 ^ 60) && here q.addr

/-- The store of an operation in a store path waits for a page on its way to the host (R460). -/
def State.heldStore (s : State) (e : SpEntry) : Bool :=
  match e.eng with
  | some (b, k, n) => (match (s.blk b).bind fun b => b.opOf k n with | some op => op.asked.contains (heldKey e.va) | none => false)
  | none => false

/-- Accesses of a context that have translated through a page and are not complete, other than held ones: of the lanes and of a
sequencer, a KICK's pull, and what an engine has asked for or has in a store path (R364, R472). An ownership command does not wait for
a pull, which it holds like any access that needs tokens (R130). -/
def State.translated (s : State) (a : Access) (asid va size : Nat) (all pulls : Bool) : Bool :=
  let here : Nat → Bool := fun y => all || y / 2 ^ size == va / 2 ^ size
  (s.allAccs.any fun x => x.before a && x.asid == asid && (pulls || !(match x.kind with | .kick _ => true | _ => false)) && x.onPage va size all) ||
  (s.blocks.any fun b => b.asid == asid && b.ops.any fun op => op.fault.isNone &&
    match op.kind with
    | .pull n => pulls && op.begun && !n.sv && (here n.src || (decide (n.src ≤ va / 2 ^ size * 2 ^ size) && decide (va / 2 ^ size * 2 ^ size < n.src + n.len)))
    | _ => op.asked.any fun y => decide (y < 2 ^ 64) && here y && !(op.inbox.any fun z => z.1 == y)) ||
  (s.cores.any fun c => c.2.sp.any fun e => e.eng.isSome && e.asid == asid && here e.va && !s.heldStore e)

/-- The engine operations and pulls that an ownership change has held go on (R130, R460). -/
def State.replayEng (s : State) : State :=
  s.blocks.foldl (fun s b => b.ops.foldl (fun s op =>
    if op.asked.any isHeldKey then
      (s.modOp b.id op.ctx op.num fun x => { x with asked := x.asked.filter fun y => !isHeldKey y }).push
        [.engineOpCompletion b.id op.ctx op.num]
    else s) s) (s.push ((s.cores.filter fun x => !x.2.kicks.isEmpty).map fun x => .copyEnginePull x.1))

/-- Everything that an ownership change has held goes on, through a fresh walk (R130 step 5, R460). -/
def State.replayHeld (s : State) : State :=
  (s.push ((s.allAccs.filter fun x => x.tries == 0x80).map fun x => .accessCompletion x.id)).replayEng

/-- What waits for tokens of a page looks again: accesses, and the operations of engines (R130, R460). -/
def State.askAgain (s : State) (pa size : Nat) : State :=
  let here : Part → Bool := fun p => p.open' && p.pa / 2 ^ size == pa / 2 ^ size
  s.push (((s.allAccs.filter fun x => x.parts.any here).map fun x => Event.accessCompletion x.id) ++
    s.blocks.flatMap fun b => (b.ops.filter fun op => op.begun && !op.asked.isEmpty).map fun op => Event.engineOpCompletion b.id op.ctx op.num)

/-- Memory accesses of the host over CXL.mem to some pages have come and are not performed (R131). -/
def State.cxlOpen (s : State) (pgs : List Nat) : Bool :=
  (s.homeWait.any fun x => pgs.contains (x.1 / 1024) && (match x.2 with | .cxlMemAccess .. => true | _ => false)) ||
  s.work.any fun e => match e with | .cxlMemAccess pa _ => pgs.contains (pa.addr / 65536) | _ => false

/-- The 64 KiB pages that an ownership command has translated, and their size: at issue, once (R364). -/
def Part.pages (p : Part) : List Nat := match p.st with | .sent n => pagesOf p.pa n | _ => []

/-- MAPCTL (R364, R130, R131). The ownership commands wait, like the others, for the accesses that had translated through the page. -/
def State.stepMapctl (s : State) (a : Access) (p : Part) (op asid : Nat) : State :=
  let size := s.pageSize asid p.addr
  let all := op == 1
  match op with
  | 0 | 1 =>
    let s := if p.st == .todo then (s.dropPage asid p.addr size all).modPart a p.lane fun p => { p with st := .sent size } else s
    let sz := match p.st with | .sent n => n | _ => size
    if s.translated a asid p.addr sz all true then s else s.donePart a p 0
  | 2 =>
    if p.st == .todo then
      match s.walk asid p.addr with
      | .fault c l e => s.failPart a p c l e
      | .ok e sz =>
        let pa := leafPa e sz p.addr
        let s := { s with owningHost := s.owningHost ++ (pagesOf pa sz).map fun k => (k, a.id) }
        let s := s.dropPhys pa sz
        let s := s.modPart a p.lane fun p => { p with st := .sent sz, pa }
        s.askAgain pa sz
    else
      let sz := match p.st with | .sent n => n | _ => size
      if !(s.strayed p.pa sz).isEmpty || s.translated a asid p.addr sz false false then s
      else
        let s := { s with hostOwned := (pagesOf p.pa sz).foldl addNew s.hostOwned,
                          owningHost := s.owningHost.filter fun x => x.2 != a.id }
        (s.donePart a p 0).replayHeld
  | _ =>
    if p.st == .todo then
      match s.walk asid p.addr with
      | .fault c l e => s.failPart a p c l e
      | .ok e sz => (s.modPart a p.lane fun p => { p with st := .sent sz, pa := leafPa e sz p.addr }).push [.accessCompletion a.id]
    -- CXL.mem accesses that the home has taken are completed first (R131)
    else if s.cxlOpen p.pages || s.translated a asid p.addr (match p.st with | .sent n => n | _ => size) false false then s
    else (({ s with hostOwned := s.hostOwned.filter fun x => !p.pages.contains x }).donePart a p 0).replayHeld

/-- PROBE's result (R324). -/
def probeWord (e : DWord) (size va : Nat) : Nat :=
  leafPa e size va / 2 ^ size * 2 ^ size + (size - 12) / 9 * 512 + fld e 62 2 * 128 + fld e 61 1 * 64 + fld e 60 1 * 32 +
    fld e 4 1 * 16 + fld e 3 1 * 8 + fld e 2 1 * 4 + 1

/-- The part of an operation on the caches, tokens and translations (R306, R323 to R327). -/
def State.stepCtl (s : State) (a : Access) (p : Part) : State :=
  let core := s.coreOfAcc a
  let d := dieOf core
  match a.kind with
  | .probe =>
    if 2 ^ 48 ≤ p.addr then s.donePart a p 0
    else match s.trOf a p with
      | none => s.startWalk d a.asid p.addr
      | some e => s.donePart a p (if paClass (leafPa e.entry e.size p.addr) == some (vaClass p.addr) then probeWord e.entry e.size p.addr else 0)
  | k =>
    if 2 ^ 48 ≤ p.addr then s.failPart a p 0x20 0xFF 0
    else match s.trOf a p with
      | none => s.startWalk d a.asid p.addr
      | some e =>
        let pa := leafPa e.entry e.size p.addr
        let sec := pa / 64
        if !leafOk e.entry e.size p.addr .any then s.failPart a p 0x21 ((e.size - 12) / 9) e.entry
        else match k with
          | .evict =>
            if (s.l2 d sec).tokn == 0 || s.pendReq d sec true || (s.pact d sec).isSome then s.donePart a p 0
            else (s.evict d sec).modPart a p.lane fun p => { p with st := .sent 0, pa }
          | .tokq =>
            let g := p.data.toNat
            s.donePart a p (if !s.homeHere sec || s.place pa != .tokens then 0
              else if g == 8 then (s.homeWord sec).toNat else if g < 8 then (s.stateWord g sec).toNat else 0)
          | .mcpredRd => s.donePart a p (s.predEntry d sec).toNat
          | .mcpredWr =>
            let w := p.data.toNat
            (s.setPred d sec (predWord sec (w / 2 ^ 14 % 2 == 1) (w / 2 ^ 13 % 2 == 1) w &&&
              (if w / 2 ^ 31 % 2 == 1 then 0xFFFFFFFF else 0x7FFFFFFF))).donePart a p 0
          | .press w =>
            -- a remote home and host memory over plain PCIe take no press of an instruction; an ownership change holds it (R130, R460, R467)
            if s.place pa != .tokens then s.donePart a p 0
            else if s.hostPage sec then s.holdOwner a p
            else
              -- lanes of one word that name one sector share its press
              let shared := s.allAccs.any fun x => x.grp == a.grp && x.kind == a.kind && x.parts.any fun q => q.st == .sent 0 && q.pa / 64 == sec
              let s := s.modPart a p.lane fun p => { p with st := .sent 0, pa }
              if shared then s
              else
                let r : TokReq := { sec, write := w, t := leafT e.entry, sends := 0, pressed := true, instr := true }
                let mine : TokReq → Bool := fun y => y.sec == sec && y.write == w
                let s := s.modDie d fun x =>
                  { x with reqs := if x.reqs.any mine then modWhere mine (fun y => { y with pressed := true }) x.reqs else x.reqs ++ [r] }
                s.sendPress { sec, src := .l2 (s.agentOf sec d), write := w, t := leafT e.entry, ops := [a.grp] }
          | _ => s.donePart a p 0

/-! ### Transfer notices (R147, R362, R363) -/

/-- The 32 bytes of a notice as it travels to a peer (R144, R362). -/
def noticeData (n : Notice) : List DWord :=
  [BitVec.ofNat 64 n.src, BitVec.ofNat 64 (n.dst + n.len * 2 ^ 32),
   BitVec.ofNat 64 (n.tcore + n.tdev * 2 ^ 16 + (n.sv.toNat * 2 ^ 31 + n.bar.toNat * 2 ^ 30 + n.slot) * 2 ^ 32),
   BitVec.ofNat 64 n.tasid]

/-- Sends a notice to its target's kick register: on this device, or as KIND 0xA to a peer (R147, R447). `sender`
names it until the pull is acknowledged. -/
def State.sendKick (s : State) (n : Notice) (acc : Nat) (lanes : List Nat) (eng : Option (Nat × Ctx × Nat)) : State :=
  if n.tdev == s.devNum then s.push [.kickNoticeArrival n]
  else
    let rid := n.sender % 65536
    let p : VPkt := { kind := 0xA, esz := 8, dst := n.tdev, src := s.devNum, ctx := n.sasid, page := 0, rid, aop := 0,
                      offs := [], data := noticeData n }
    let fr : FabReq := { rid, acc, lanes, pkt := p, time := s.gtime, eng }
    ({ s.sendPkt p with fabReqs := s.fabReqs ++ [fr] }).timer (s.gtime + 8000) (.fabricRequestTimeout rid)

/-- The offset and address at which each further 4 KiB of a source begins. -/
def noticePieces (n : Notice) : List (Nat × Nat) :=
  (List.range ((n.src % 4096 + n.len - 1) / 4096)).map fun k => let off := 4096 * (k + 1) - n.src % 4096; (off, n.src + off)

/-- The physical address of a byte of a global source. -/
def noticePa (n : Notice) (k : Nat) : Nat :=
  match n.ext.reverse.find? fun x => decide (x.1 ≤ k) with
  | some x => x.2 + (k - x.1)
  | none => n.src + k

/-- The T under which the page of a source has been translated, or the one that its sector's home is known to have (R111, R486). -/
def State.noticeT (s : State) (n : Notice) (pa : Nat) : Nat :=
  match n.ts.find? fun x => noticePa n x.1 / 4096 == pa / 4096 with
  | some x => x.2
  | none => s.sectorT (pa / 64)

/-- What a notice's source becomes at issue at a die: the physical address of a global source, or the fault (R363, R469). DESIGN
CHOICE (entry 26): a source that passes the end of its page is translated, and checked, page by page, so that no byte outside the
context's pages is read; a notice to a peer carries SRC alone, and the peer reads on from it. -/
def State.kickSrc (s : State) (d asid : Nat) (n : Notice) : Sum Notice (BitVec 8 × Nat × DWord) :=
  if n.tdev == s.devNum && n.tasid != asid then .inr (0x2C, 0xFF, 0)
  else if n.sv then .inl n
  else if 2 ^ 48 ≤ n.src then .inr (0x20, 0xFF, 0)
  else match s.lookup d asid n.src with
    | .fault c l e => .inr (c, l, e)
    | .ok e size =>
      let pa := leafPa e size n.src
      if !leafOk e size n.src .load then .inr (0x21, (size - 12) / 9, e)
      else match s.refusal (pa / 64) (leafT e) with
      | some c => .inr (c, 0xFF, 0)
      | none =>
        (noticePieces n).foldl (fun (r : Sum Notice (BitVec 8 × Nat × DWord)) x =>
          match r with
          | .inr e => .inr e
          | .inl m => match s.xlatAt d asid x.2 .load with
            | .inr e => .inr e
            | .inl (y, e) =>
              let m := if y == noticePa m x.1 then m else { m with ext := m.ext ++ [(x.1, y)] }
              .inl { m with ts := m.ts ++ [(x.1, leafT e)] }) (.inl { n with src := pa, va := n.src, ts := [(0, leafT e)] })

/-- The first page of a notice's source that no unit of a die keeps a translation of: its walk comes before the source is translated (R27,
R439). -/
def State.kickMiss (s : State) (d asid : Nat) (n : Notice) : Option Nat :=
  if n.sv || decide (2 ^ 48 ≤ n.src) || (n.tdev == s.devNum && n.tasid != asid) then none
  else (n.src :: (noticePieces n).map (·.2)).find? fun va => decide (va < 2 ^ 48) && (s.tlbFind d asid va).isNone

/-- The lane-stream KICK: its notice goes out once its source is translated, or the part is held (R363, R434). -/
def State.stepKick (s : State) (a : Access) (p : Part) (n : Notice) : State :=
  let d := dieOf (s.coreOfAcc a)
  match s.kickMiss d a.asid n with
  | some va => s.startWalk d a.asid va
  | none =>
    match s.kickSrc d a.asid n with
    | .inr (c, l, e) => s.failPart a p c l e
    | .inl n => (s.modPart a p.lane fun p => { p with st := .sent 0 }).sendKick { n with sender := a.id } a.id [p.lane] none

/-- One step of a lane's part: whatever it can do now (entry 3). -/
def State.stepPart (s : State) (a : Access) (p : Part) : State :=
  let acq := (a.ord == .acq || a.ord == .ar) && a.scope != .blk && a.scope != .core
  match a.kind with
  | .load _ | .ldc | .qld =>
    (match s.tryRead a p a.esz acq true with
     | .inr s => s
     | .inl (s, v) => s.donePart a p v)
  | .ldx n =>
    if 2 ≤ n then s.stepVault a p else (match s.tryRead a p a.esz false true with | .inr s => s | .inl (s, v) => s.donePart a p v)
  | .pref l2 =>
    (match s.tryRead a { p with addr := p.addr / 64 * 64 } 64 true (!l2) with | .inr s => s | .inl (s, _) => s.donePart a p 0)
  | .cpya size slot => s.stepCpya a p size slot
  | .store | .stcw _ => s.stepStore a p false
  | .atomic _ | .red _ => s.stepAtomic a p
  | .loadNc _ => s.stepNc a p
  | .storeNc => s.stepStore a p true
  | .vload _ | .vstore | .vatomic _ | .vbar _ | .hist _ | .vqld => s.stepVault a p
  | .wbinv => s.stepWbinv a p
  | .mapctl op asid => s.stepMapctl a p op asid
  | .kick n => s.stepKick a p n
  | .mark | .sendui => s
  | _ => s.stepCtl a p

/-- The part goes on with the translation that its unit keeps, if it has none and it is an access that translates (R364, R368). -/
def State.keepTr (s : State) (a : Access) (p : Part) : State × Part :=
  let global := !a.kind.vault && (match a.kind with | .kick _ | .mark | .sendui | .mapctl .. => false | _ => true)
  match (if global && p.tr.isNone then s.trOf a p else none) with
  | some e => (s.modPart a p.lane fun p => { p with tr := some e }, { p with tr := some e })
  | none => (s, p)

/-- One lane's part of an access, if it is its turn. -/
def State.advancePart (s : State) (id lane : Nat) : State :=
  match s.accOf id with
  | none => s
  | some a =>
    match a.parts.find? fun p => p.lane == lane with
    | none => s
    | some p =>
      match p.st with
      | .todo => if blocked (s.order a) (s.siblings a) a p then s else (let r := s.keepTr a p; r.1.stepPart a r.2)
      | .inPath => if a.kind == .storeNc then s.performNc a p else s.performStore a p
      | .sent _ => (match a.kind with | .wbinv | .mapctl .. => s.stepPart a p | _ => s)
      | _ => s

/-- The acquire that an access makes when it has read (R84, R85, R92). -/
def State.accAcquire (s : State) (a : Access) : State :=
  if (a.ord == .acq || a.ord == .ar) && a.complete then
    match s.blk a.who.blk with
    | some b => s.acquire b.core [b.asid, a.asid] a.scope
    | none => s
  else s

/-- After parts of an access have come on: its acquire if it is complete, the counters, and a turn for the
accesses behind it (R84, R94, R300). -/
def State.settle (s : State) (w : Issuer) (id : Nat) : State :=
  match (s.accs w).find? fun a => a.id == id with
  | none => s
  | some a =>
    let s := s.accAcquire a
    let moved := a.parts.all (fun p => p.st == .done) || a.parts.any fun p => match p.st with | .todo => false | _ => true
    let todo : Access → Bool := fun x => a.before x && x.parts.any fun p => p.st == .todo
    let sib := match s.blk w.blk with
      | some b => b.accs.filter fun x => x.grp == a.grp && x.who != w && todo x
      | none => []
    let next := if moved then (((s.order a).filter todo) ++ sib).map (·.id) else []
    -- an access that is held no longer keeps MAPCTL waiting (R472)
    let stuck := a.parts.any fun p => match p.st with | .failed _ | .held _ => true | _ => false
    let s := if stuck then s.push (s.homeOps.map Event.accessCompletion) else s
    ((s.drain w).push (next.map Event.accessCompletion)).raiseWord w.blk w.gang a.grp

/-- After an answer has completed parts of an access: its parts that waited for them come on as well (R300). -/
def State.settleOn (s : State) (w : Issuer) (id : Nat) : State :=
  let s := s.settle w id
  match (s.accs w).find? fun a => a.id == id with
  | some a => if a.parts.any fun p => p.st == .todo then s.push [.accessCompletion id] else s
  | none => s

/-- A part faults by an answer or a walk, and what waited for it comes on (R300, R434). -/
def State.failOn (s : State) (a : Access) (p : Part) (code : BitVec 8) (lvl : Nat) (info : DWord) : State :=
  (s.failPart a p code lvl info).settleOn a.who a.id

/-- Advances an access: each lane's part in ascending order, and what follows from it (R94, R300). -/
def State.advance (s : State) (id : Nat) : State :=
  match s.accOf id with
  | none => s
  | some a =>
    if a.complete && !a.parts.isEmpty then s
    else (a.parts.foldl (fun s p => s.advancePart id p.lane) s).settle a.who id

/-! ### Packets of other devices (R126, R143, R146, R447) -/

/-- What this home has answered to a request, if it has accepted it within the last millisecond (R447). -/
def State.answerOf (s : State) (src rid : Nat) : Option Answer :=
  s.answers.find? fun x => x.src == src && x.rid == rid && s.gtime < x.time + 1000000

/-- Notes that a request is accepted, or what its response is (R447). -/
def State.noteAnswer (s : State) (src rid : Nat) (resp : Option OutMsg) : State :=
  let old := s.answers.filter fun x => !(x.src == src && x.rid == rid) && s.gtime < x.time + 1000000
  { s with answers := old ++ [{ src, rid, time := s.gtime, resp }] }

/-- Sends the response of an accepted request and keeps it (R447). -/
def State.respond (s : State) (src rid : Nat) (m : OutMsg) : State := (s.noteAnswer src rid (some m)).send m

/-- The die whose L2 performs a packet's element: die 2b, where b is the base die of the home controller (R126). -/
def homeDie (pa : Nat) : Nat := 2 * (homeClass (pa % 2 ^ 42 / 64) % 4)

/-- A marker whose copies have all come is completed once what came before it is performed (R146). -/
def State.markersGo (s : State) : State :=
  let fin : MarkerIn → Bool := fun m => m.got == m.copies && m.jobs.isEmpty
  let s' : State := { s with markersIn := s.markersIn.filter fun m => !fin m }
  (s.markersIn.filter fin).foldl (fun s m => s.send (.markerDone m.src m.id)) s'

/-- One element of a packet: performed if its sector is wholly held, else kept while its tokens are asked for. DESIGN CHOICE (entry 25):
the request has the CX_PRESS_RETRY of ASID 0, since no context of this device makes it. -/
def jobElem (j : VecJob) (acc : State × List (Nat × Nat × DWord × DWord) × List (Nat × DWord)) (e : Nat × Nat × DWord × DWord) :
    State × List (Nat × Nat × DWord × DWord) × List (Nat × DWord) :=
  let s := acc.1
  let pa := e.2.1
  let d := homeDie pa
  let x := s.l2 d (pa / 64)
  let t := s.sectorT (pa / 64)
  if x.tokn == t && x.dv then
    let old := secBytes x.data (pa % 64) j.esz
    let v := if j.kind == 3 then atomicNew j.aop j.esz old e.2.2.1.toNat e.2.2.2.toNat else e.2.2.1.toNat
    (s.l2Write d pa j.esz v, acc.2.1, acc.2.2 ++ [(e.1, BitVec.ofNat 64 old)])
  else (s.need d (pa / 64) true t 0, acc.2.1 ++ [e], acc.2.2)

/-- Performs the elements of a packet whose sectors are wholly held, in ascending order, and asks for the tokens of the
others (R126, R143). -/
def State.runJob (s : State) (id : Nat) : State :=
  match s.vecJobs.find? fun j => j.id == id with
  | none => s
  | some j =>
    let r := j.todo.foldl (jobElem j) (s, [], j.got)
    let s := r.1
    if r.2.1.isEmpty then
      let less : MarkerIn → MarkerIn := fun m => { m with jobs := m.jobs.erase id }
      let s := { s with vecJobs := s.vecJobs.filter fun x => x.id != id, markersIn := s.markersIn.map less }
      let olds := (sortBy (fun (x y : Nat × DWord) => decide (x.1 ≤ y.1)) r.2.2).map (·.2)
      let s := if j.kind == 3 then s.respond j.src j.rid (.fabResp 6 j.src j.rid olds) else s
      s.markersGo
    else
      let set : VecJob → VecJob := fun x => { x with todo := r.2.1, got := r.2.2 }
      { s with vecJobs := modWhere (fun x => x.id == id) set s.vecJobs }

/-- Performs, at a die, every access that waits on a sector, and the packets of other devices that do (R118 steps 3
and 4): stores in the order of their store path (R109). -/
def State.performWaiting (s : State) (d sec : Nat) : State :=
  let path := (s.cores.filter fun x => dieOf x.1 == d).flatMap fun x => (x.2.sp.filter fun e => e.pa / 64 == sec).map fun e => (x.1, e)
  let rest := (s.allAccs.filter fun a => dieOf (s.coreOfAcc a) == d && a.parts.any fun p =>
    p.pa / 64 == sec && (p.st == .todo || p.st == .inPath)).map (·.id)
  let s := path.foldl (fun s x => if x.2.eng.isSome then s.performEng x.1 x.2 else s.advance x.2.acc) s
  let s := rest.foldl State.advance s
  ((s.vecJobs.filter fun j => j.todo.any fun e => e.2.1 / 64 == sec && homeDie e.2.1 == d).map (·.id)).foldl State.runJob s

end Sys2Proof.Machine
end

