-- ==== Sys2Proof/Machine/MemOps.lean ====
section
/-! DEFINITION. Memory, atomic, copy and cache instructions at their issue (R299 to R312, R317, R321 to R328,
R293): addresses, the lane checks of R464, and the accesses they put in flight. -/

namespace Sys2Proof.Machine

/-! ### Addresses and operands -/

/-- The offset of a memory operand in bytes, for elements of `unit` bytes (R228, R299). -/
def offOf (unit : Nat) : MOff → DWord
  | .elems n => BitVec.ofNat 64 (n.toNat * unit)
  | .bytes n => n.signExtend 64

/-- The global address of a lane (R299). -/
def gAddr (b : Nat) (sl : Slice) (j : Nat) (o : MOp) (unit : Nat) : Nat :=
  (sl.v64 b o.a.toNat j + offOf unit o.off).toNat

/-- The vault address of a lane (R299). -/
def vAddr (b : Nat) (sl : Slice) (j : Nat) (o : MOp) (unit : Nat) : Nat :=
  (sl.v b o.a.toNat j + lo32 (offOf unit o.off)).toNat

/-- An atomic in immediate form has no offset (R308). -/
def noOff (o : MOp) : MOp := match o.off with | .bytes _ => { o with off := .elems 0 } | _ => o

/-- A lane's value of a register, or pair for 8 bytes. -/
def regOf (b : Nat) (sl : Slice) (i : BitVec 8) (j esz : Nat) : DWord :=
  if esz == 8 then sl.v64 b i.toNat j else (sl.v b i.toNat j).setWidth 64

/-- The ASID under which a slice's global accesses are made: the context that %xasid names, in a supervisor
context, else its own (R202). -/
def State.accAsid (s : State) (b : Block) (sl : Slice) : Nat :=
  if sl.xasid.getLsbD 12 && s.sup b.asid then (sl.xasid.extractLsb' 0 12).toNat else b.asid

/-- The in-flight path of a vault address (R74, R93). -/
def State.vaultPath (s : State) (b : Block) (addr : Nat) : Nat :=
  if s.vaultCore (dieOf b.core) addr == b.core % 64 then 0 else 1

/-- A system operation, which %xasid does not touch (R202). -/
def AccKind.system : AccKind → Bool
  | .kick _ | .mark | .sendui | .mapctl .. => true
  | _ => false

/-! ### Lane checks (R441, R464) -/

/-- What the lane checks give for a lane: an access part, nothing to do, or a precise code with the address
and the INFO field of its record. -/
inductive LaneChk where
  | go (p : Part)
  | idle
  | bad (code : BitVec 8) (addr info : Nat)
  deriving Repr, Inhabited

/-- The checks of a vault address, for `n` bytes aligned to `al`; `wr` for data that may not touch an armed
slot (R441, R464). -/
def State.vaultChk (s : State) (b : Block) (addr n al : Nat) (wr : Bool) (p : Part) : LaneChk :=
  if addr % al != 0 then .bad 0x23 addr 0
  else if !s.vaultOk b addr n then .bad 0x24 addr addr
  else if wr && s.hitsArmed (dieOf b.core) addr n then .bad 0x27 addr (addr / 16 * 16)
  else .go p

/-- The alignment check of a global address (R464). -/
def globalChk (addr al : Nat) (p : Part) : LaneChk := if addr % al != 0 then .bad 0x23 addr 0 else .go p

/-- The slices of a split in which a word acts, each with its lanes; `once` takes the lowest (R300). -/
def actLanes (c : Ctl) (g : Gang) (sp : Split) (once : Bool) : List (Slice × List Nat) :=
  (memberSlices g sp).filterMap fun sl =>
    if once then (if takes c sl then some (sl, [lowLane c sl]) else none)
    else (let l := effLanes c sl; if l.isEmpty then none else some (sl, l))

/-- The lanes that a fault of a word executed once in a slice covers: those where the word would take effect; a
frozen slice has its first lane stand for it. -/
def faultLanes (c : Ctl) (sl : Slice) : List Nat := if sl.frozen then [0] else effLanes c sl

/-- A word waits until a release of each of its slices is complete (R85): the state in which it waits, if it
must. -/
def relAll (s : State) (b : Block) (g : Gang) (sp : Split) (sls : List Slice) (sc : Scope) : Option State :=
  let r := sls.foldl (fun (acc : Bool × State) sl =>
    let x := acc.2.release ⟨b.id, g.num, sl.num⟩ sc
    (acc.1 && x.1, x.2)) (true, s)
  if r.1 then none else some (waitAt r.2 b g sp (.release sc r.2.upto))

/-- The 63 of a path (R94). -/
def pathFull (sl : Slice) (path : Nat) : Bool := decide (63 ≤ accCount sl.acc path)

/-- A translation fault of a lane that is otherwise good, made precise because another lane's code is
(R464). -/
def State.preciseXlat (s : State) (d : Nat) (k : AccKind) (asid : Nat) (p : Part) : Option (BitVec 8 × Nat × DWord) :=
  match k with
  | .kick n => (match s.kickSrc d asid n with | .inr e => some e | .inl _ => none)
  | .probe => none
  | k =>
    if k.vault then none
    else if 2 ^ 48 ≤ p.addr then some (0x20, 0xFF, 0)
    else match s.xlatAt d asid p.addr k.want with
      | .inr (c, l, e) => some (c, l, e)
      | .inl (pa, e) => (s.refusal (pa / 64) (leafT e)).map fun c => (c, 0xFF, 0)

/-- What one memory word does in a slice: kind of access, path, and the checks of its lanes. -/
structure MemSlice where
  sl : Slice
  kind : AccKind
  esz : Nat
  path : Nat
  chk : List (Nat × LaneChk)
  deriving Inhabited

/-- Issues the accesses of a word in flight, one for each slice, and takes the traps of the lanes that failed a
check (R94, R300, R464). -/
def issueAccs (s : State) (b : Block) (g : Gang) (sp : Split) (c : Ctl) (ord : Order) (sc : Scope)
    (l : List MemSlice) : State :=
  let pc := g.splitPc sp
  if l.any fun m => pathFull m.sl m.path && m.chk.any fun x => match x.2 with | .go _ => true | _ => false then
    waitAt s b g sp (.counter ((l.find? fun m => pathFull m.sl m.path).map (·.path) |>.getD 0))
  else
    let anyBad := l.any fun m => m.chk.any fun x => match x.2 with | .bad .. => true | _ => false
    let grp := s.nextId
    let r := l.foldl (fun (acc : State × List (BitVec 8 × DWord × List Byte × Nat × Nat)) m =>
      let s := acc.1
      let asid := if m.kind.vault || m.kind.system then b.asid else s.accAsid b m.sl
      let res := m.chk.map fun x =>
        match x.2 with
        | .go p =>
          let p := if m.kind.once then { p with also := (faultLanes c m.sl).filter fun j => j != p.lane } else p
          (match (if anyBad then s.preciseXlat (dieOf b.core) m.kind asid p else none) with
           | some (code, lvl, info) =>
             Sum.inr (code, BitVec.ofNat 64 p.addr, memDetail m.kind.faultKind m.path lvl 0 0 info, x.1)
           | none => .inl (some p))
        | .idle => .inl none
        | .bad code addr info =>
          .inr (code, BitVec.ofNat 64 addr, memDetail m.kind.faultKind m.path 0xFF 0 0 (BitVec.ofNat 64 info), x.1)
      let parts := res.filterMap fun x => match x with | .inl (some p) => some p | _ => none
      let bads := res.filterMap fun x => match x with | .inr (code, a, d, j) => some (code, a, d, m.sl.num, j) | _ => none
      if parts.isEmpty && !(bads.isEmpty && (match m.kind with | .hist _ => true | _ => false)) then (s, acc.2 ++ bads)
      else
        let (id, s) := s.newId
        let a : Access := { id, who := ⟨b.id, g.num, m.sl.num⟩, path := m.path, kind := m.kind, esz := m.esz, asid, ord,
                            scope := sc, pc, parts, grp }
        let s := s.modSlice a.who fun sl => { sl with acc := sl.acc ++ [a] }
        (s.push [.accessCompletion id], acc.2 ++ bads)) (s, [])
    if r.2.isEmpty then finish r.1 b g sp c
    else
      let codes := (r.2.map (·.1)).foldl addNew []
      trapMany r.1 b g sp c (fun sl => nextPc sl.pc) (codes.filterMap fun code =>
        match r.2.filter fun x => x.1 == code with
        | [] => none
        | x :: rest =>
          let slices := ((x :: rest).map fun y => y.2.2.2.1).foldl addNew []
          some (code, x.2.1, x.2.2.1, slices.map fun k =>
            (k, (x :: rest).filterMap fun y => if y.2.2.2.1 == k then some y.2.2.2.2 else none)))

/-- A memory word: waits for its release, makes the lane checks, and puts its accesses in flight (R85, R299,
R300, R464). The path is that of the address that `named` gives for the lowest taking lane, or of the lowest lane that goes
ahead. -/
def memWord (c : Ctl) (kind : AccKind) (esz : Nat) (ord : Order) (sc : Scope) (once : Bool)
    (path : State → Block → Nat → Nat) (lane : State → Block → Gang → Slice → Nat → LaneChk) (s : State)
    (named : State → Block → Gang → Slice → Nat → Option Nat := fun _ _ _ _ _ => none) :
    Host.Outcome State Fault Refusal :=
  withSplit s fun b g sp =>
    let act := actLanes c g sp once
    let rel := ord == .rel || ord == .ar
    match (if rel then relAll s b g sp (act.map (·.1)) sc else none) with
    | some s => s
    | none =>
      let l := act.map fun x =>
        let chk := x.2.map fun j => (j, lane s b g x.1 j)
        let chk := match once, chk with
          | true, [(_, .bad code a i)] => (faultLanes c x.1).map fun j => (j, .bad code a i)
          | _, l => l
        let first := chk.findSome? fun y => match y.2 with | .go p => some p.addr | _ => none
        let at' := (named s b g x.1 (x.2.headD 0)).getD (first.getD 0)
        ({ sl := x.1, kind, esz, path := path s b at', chk } : MemSlice)
      issueAccs s b g sp c ord sc l

/-- The path of a global address (R72, R93). -/
def gPath (_ : State) (_ : Block) (addr : Nat) : Nat := (vaClass addr).path

/-- The path of a vault address (R74, R93). -/
def vPath (s : State) (b : Block) (addr : Nat) : Nat := s.vaultPath b addr

/-- Package path for operations on sectors and pages (R306, R323 to R328). -/
def ctlPath (_ : State) (_ : Block) (_ : Nat) : Nat := 2

/-- The mask of active lanes, for a result that every active lane receives (R317, R324). -/
def activeMask (sl : Slice) : DWord := BitVec.ofNat 64 (sl.active.foldl (fun m j => m + 2 ^ j) 0)

/-! ### Loads and stores (R302 to R307) -/

/-- `LD` (R302, R303). -/
def execLd (c : Ctl) (o : MOp) (s : State) : Host.Outcome State Fault Refusal :=
  let e := o.ty.esize
  memWord c (.load (o.y == 1)) e o.ord o.scope false gPath (fun _ _ g sl j =>
    let a := gAddr g.budget sl j o e
    globalChk a e { lane := j, addr := a, dst := sl.phys g.budget o.d.toNat }) s

/-- `ST` (R302). -/
def execSt (c : Ctl) (o : MOp) (s : State) : Host.Outcome State Fault Refusal :=
  let e := o.ty.esize
  memWord c .store e o.ord o.scope false gPath (fun _ _ g sl j =>
    let a := gAddr g.budget sl j o e
    globalChk a e { lane := j, addr := a, data := regOf g.budget sl o.d j e }) s

/-- `LDV` (R302). -/
def execLdv (c : Ctl) (o : MOp) (s : State) : Host.Outcome State Fault Refusal :=
  let e := o.ty.esize
  memWord c (.vload (o.y == 1)) e o.ord o.scope false vPath (fun s b g sl j =>
    let a := vAddr g.budget sl j o e
    s.vaultChk b a e e false { lane := j, addr := a, dst := sl.phys g.budget o.d.toNat }) s

/-- `STV` (R302). -/
def execStv (c : Ctl) (o : MOp) (s : State) : Host.Outcome State Fault Refusal :=
  let e := o.ty.esize
  memWord c .vstore e o.ord o.scope false vPath (fun s b g sl j =>
    let a := vAddr g.budget sl j o e
    s.vaultChk b a e e true { lane := j, addr := a, data := regOf g.budget sl o.d j e }) s

/-- `LDNC` (R304). -/
def execLdnc (c : Ctl) (o : MOp) (s : State) : Host.Outcome State Fault Refusal :=
  let e := o.ty.esize
  memWord c (.loadNc (o.y == 1)) e o.ord o.scope false gPath (fun _ _ g sl j =>
    let a := gAddr g.budget sl j o e
    globalChk a e { lane := j, addr := a, dst := sl.phys g.budget o.d.toNat }) s

/-- `STNC` (R304). -/
def execStnc (c : Ctl) (o : MOp) (s : State) : Host.Outcome State Fault Refusal :=
  let e := o.ty.esize
  memWord c .storeNc e o.ord o.scope false gPath (fun _ _ g sl j =>
    let a := gAddr g.budget sl j o e
    globalChk a e { lane := j, addr := a, data := regOf g.budget sl o.d j e }) s

/-- `LDC` (R305: once per slice, from a scalar pair into scalars). -/
def execLdc (c : Ctl) (o : MOp) (s : State) : Host.Outcome State Fault Refusal :=
  let e := o.ty.esize
  memWord c .ldc e o.ord o.scope true gPath (fun _ _ _ sl j =>
    let a := (sl.s64 o.a.toNat + offOf e o.off).toNat
    globalChk a e { lane := j, addr := a, dst := o.d.toNat }) s

/-- `PREF` (R306: nothing on fabric and host addresses). -/
def execPref (c : Ctl) (o : MOp) (s : State) : Host.Outcome State Fault Refusal :=
  memWord c (.pref (o.y == 1)) 4 .rlx .blk false ctlPath (fun _ _ g sl j =>
    let a := gAddr g.budget sl j o 4
    if vaClass a == .package then .go { lane := j, addr := a } else .idle) s

/-! ### Tensor elements (R307, R333, R334, R443) -/

/-- A tensor descriptor as it lies in vault memory (R333). -/
structure Desc where
  base : Nat
  dim0 : Nat
  dim1 : Nat
  stride : Nat
  sbase : Nat
  mbase : Nat
  sstr : Nat
  mstr : Nat
  etype : Nat
  vault : Bool
  fill : Nat
  sparse : Nat
  fillv : Nat
  deriving DecidableEq, Repr, Inhabited

/-- A descriptor from its 64 bytes (R333): with SPACE = 1, BASE is a vault address in its low 32 bits. -/
def descOf (x : Nat) : Desc :=
  let r := fun (o n : Nat) => x / 256 ^ o % 256 ^ n
  let w := r 0x30 4
  let space := w / 2 ^ 27 % 2 == 1
  { base := if space then r 0 4 else r 0 8, dim0 := r 8 4, dim1 := r 0xC 4, stride := r 0x10 8, sbase := r 0x18 8, mbase := r 0x20 8,
    sstr := r 0x28 4, mstr := r 0x2C 4, etype := w / 2 ^ 28 % 16, vault := space, fill := w / 2 ^ 25 % 4,
    sparse := w / 2 ^ 23 % 4, fillv := r 0x34 4 }

/-- Reads a descriptor (R333). -/
def State.descAt (s : State) (die addr : Nat) : Desc := descOf (s.vlRd die addr 64)

/-- The element size of an element type, 0 for a DB type and for no type (R299, R333). -/
def etypeSize (t : Nat) : Nat :=
  match t with
  | 3 => 8
  | 1 | 2 | 4 => 4
  | 5 | 6 => 2
  | 7 | 8 | 12 => 1
  | _ => 0

/-- A DB element type (R333). -/
def etypeDb (t : Nat) : Bool := t == 9 || t == 10 || t == 11

/-- A descriptor passes the checks of R443; `copy` for an object that may hold no DB type. -/
def Desc.ok (x : Desc) (copy mmas : Bool) : Bool :=
  let e := etypeSize x.etype
  x.dim0 != 0 && x.dim1 != 0 && x.stride % 16 == 0 && (e != 0 || (etypeDb x.etype && !copy)) &&
    (!etypeDb x.etype || x.dim0 % 32 == 0) && x.fill != 3 && (x.sparse == 0 || mmas) && (e == 0 || x.base % e == 0)

/-- A signed 32-bit coordinate. -/
def coord (v : Nat) : Int := let n : Nat := v % 2 ^ 32; if n < 2 ^ 31 then (n : Int) else (n : Int) - 2 ^ 32

/-- Element (x, y) lies in the tensor (R334). -/
def Desc.has (d : Desc) (x y : Int) : Bool := decide (0 ≤ x ∧ x < (d.dim0 : Int) ∧ 0 ≤ y ∧ y < (d.dim1 : Int))

/-- The address of element (x, y) (R334). -/
def Desc.elem (d : Desc) (x y : Int) : Nat :=
  (d.base + y.toNat * d.stride + x.toNat * etypeSize d.etype) % (if d.vault then 2 ^ 32 else 2 ^ 64)

/-- The fill value of a read outside the tensor; none keeps the destination (R333, R337). -/
def Desc.fillVal (d : Desc) (e : Nat) : Option Nat :=
  match d.fill with
  | 0 => some 0
  | 1 => some ((d.fillv + d.fillv * 2 ^ 32 * (e / 8)) % 2 ^ (8 * e))
  | _ => none

/-- The descriptor of an LDX, from its lowest taking lane, or the code of its fault (R307, R441, R443). -/
def State.ldxDesc (s : State) (b : Block) (addr : Nat) (wide : Bool) : Sum Desc (BitVec 8) :=
  if addr % 64 != 0 then .inr 0x23
  else if !s.vaultOk b addr 64 then .inr 0x24
  else
    let d := s.descAt (dieOf b.core) addr
    if !d.ok true false || (etypeSize d.etype == 8 && !wide) then .inr 0x28 else .inl d

/-- An earlier vault access of a slice to the 64 bytes of a descriptor has not been performed: a word that reads the descriptor waits
for it (R80). -/
def descBusy (sl : Slice) (addr : Nat) : Bool :=
  sl.acc.any fun x => x.parts.any fun q => q.st != .done && sameBlock 64 (vaultAddr x.kind q) (some addr)

/-- `LDX` (R307: the element at the lane's coordinates; outside the tensor the fill policy supplies it and no
memory is read). Its descriptor is read after the slice's earlier accesses to it (R80). -/
def execLdx (c : Ctl) (o : MOp) (s : State) : Host.Outcome State Fault Refusal :=
  withSplit s fun b g sp =>
    let wide := o.ty == .w64
    let act := actLanes c g sp false
    if act.any fun x => descBusy x.1 (x.1.v g.budget o.a.toNat (x.2.headD 0)).toNat then waitAt s b g sp (.release .blk s.upto)
    else
    let l : List (MemSlice × List (Nat × Nat × Nat)) := act.map fun x =>
      let da := (x.1.v g.budget o.a.toNat (x.2.headD 0)).toNat
      match s.ldxDesc b da wide with
      | .inr code => (({ sl := x.1, kind := .ldx 0, esz := 4, path := 6, chk := x.2.map fun j => (j, .bad code da da) } : MemSlice), [])
      | .inl d =>
        let e := etypeSize d.etype
        let lanes : List (Nat × LaneChk × Option (Nat × Option Nat)) := x.2.map fun j =>
          let x0 := coord (x.1.v g.budget o.c.toNat j).toNat
          let y0 := coord (x.1.v g.budget (o.c.toNat + 1) j).toNat
          let dst := x.1.phys g.budget o.d.toNat
          if d.has x0 y0 then
            let a := d.elem x0 y0
            let p : Part := { lane := j, addr := a, dst }
            (j, if d.vault then s.vaultChk b p.addr e e false p else globalChk a e p, none)
          else (j, LaneChk.idle, some (dst, d.fillVal e))
        (({ sl := x.1, kind := .ldx ((if wide then 1 else 0) + (if d.vault then 2 else 0)), esz := e, path := 6,
            chk := lanes.map fun y => (y.1, y.2.1) } : MemSlice),
         lanes.filterMap fun y => match y.2.2 with | some (dst, some v) => some (y.1, dst, v) | _ => none)
    let held := l.any fun x => pathFull x.1.sl 6
    let s := if held then s else l.foldl (fun s x => s.modSlice ⟨b.id, g.num, x.1.sl.num⟩ fun sl =>
      x.2.foldl (fun sl y =>
        let v : DWord := BitVec.ofNat 64 y.2.2
        let sl := sl.setPhys y.2.1 y.1 (lo32 v)
        if wide then sl.setPhys (y.2.1 + 1) y.1 (hi32 v) else sl) sl) s
    issueAccs s b g sp c .rlx .blk (l.map (·.1))

/-! ### Atomics (R308 to R312) -/

/-- The operand of an atomic: a register, or the immediate (R308); an FP32 operation takes it as an FP32 value
(R223, R310). -/
def atomOpnd (b : Nat) (sl : Slice) (j : Nat) (o : MOp) (esz : Nat) (fp : Bool) : DWord :=
  match o.off with
  | .elems _ => regOf b sl o.c j esz
  | .bytes n => if fp then (n.setWidth 64) <<< 12 else if esz == 8 then n.signExtend 64 else (n.signExtend 32).setWidth 64

/-- The AOP of an integer atomic (R312). -/
def intAop (o : MOp) : BitVec 5 := o.y.setWidth 5 + (if o.ty == .s32 then 8 else 0)

/-- The AOP of ATOMF (R312). -/
def fpAop (o : MOp) : BitVec 5 := if o.y == 3 then (if o.ty == .bf16 then 20 else 19) else 16 + o.y.setWidth 5

/-- `ATOM` (R308). -/
def execAtom (c : Ctl) (o : MOp) (s : State) : Host.Outcome State Fault Refusal :=
  memWord c (.atomic (intAop o)) 4 o.ord o.scope false gPath (fun _ _ g sl j =>
    let a := gAddr g.budget sl j (noOff o) 4
    globalChk a 4 { lane := j, addr := a, dst := sl.phys g.budget o.d.toNat, data := atomOpnd g.budget sl j o 4 false }) s

/-- `ATOM64` (R308). -/
def execAtom64 (c : Ctl) (o : MOp) (s : State) : Host.Outcome State Fault Refusal :=
  memWord c (.atomic (intAop o)) 8 o.ord o.scope false gPath (fun _ _ g sl j =>
    let a := gAddr g.budget sl j (noOff o) 8
    globalChk a 8 { lane := j, addr := a, dst := sl.phys g.budget o.d.toNat, data := atomOpnd g.budget sl j o 8 false }) s

/-- `RED` (R308: no value returns). -/
def execRed (c : Ctl) (o : MOp) (s : State) : Host.Outcome State Fault Refusal :=
  let e := if o.ty == .w64 then 8 else 4
  memWord c (.red (intAop o)) e o.ord o.scope false gPath (fun _ _ g sl j =>
    let a := gAddr g.budget sl j (noOff o) e
    globalChk a e { lane := j, addr := a, data := atomOpnd g.budget sl j o e false }) s

/-- `ATOMV` (R308: at the vault). -/
def execAtomv (c : Ctl) (o : MOp) (s : State) : Host.Outcome State Fault Refusal :=
  memWord c (.vatomic (intAop o)) 4 o.ord o.scope false vPath (fun s b g sl j =>
    let a := vAddr g.budget sl j (noOff o) 4
    s.vaultChk b a 4 4 true
      { lane := j, addr := a, dst := sl.phys g.budget o.d.toNat, data := atomOpnd g.budget sl j o 4 false }) s

/-- `ATOMCAS` (R309: global, or at the vault with Y[0] = 1). -/
def execAtomcas (c : Ctl) (o : MOp) (s : State) : Host.Outcome State Fault Refusal :=
  let e := if o.ty == .w64 then 8 else 4
  let part : Gang → Slice → Nat → Nat → Part := fun g sl j a =>
    { lane := j, addr := a, dst := sl.phys g.budget o.d.toNat, data := regOf g.budget sl o.d j e, cmp := regOf g.budget sl o.c j e }
  if o.y == 1 then
    memWord c (.vatomic 24) e o.ord o.scope false vPath (fun s b g sl j =>
      let a := vAddr g.budget sl j o e
      s.vaultChk b a e e true (part g sl j a)) s
  else
    memWord c (.atomic 24) e o.ord o.scope false gPath (fun _ _ g sl j =>
      let a := gAddr g.budget sl j o e
      globalChk a e (part g sl j a)) s

/-- `ATOMF` (R310). -/
def execAtomf (c : Ctl) (o : MOp) (s : State) : Host.Outcome State Fault Refusal :=
  let e := if o.ty == .w64 then 8 else 4
  memWord c (.atomic (fpAop o)) e o.ord o.scope false gPath (fun _ _ g sl j =>
    let a := gAddr g.budget sl j (noOff o) e
    globalChk a e { lane := j, addr := a, dst := sl.phys g.budget o.d.toNat, data := atomOpnd g.budget sl j o e true }) s

/-- `QHIST` (R293, R294: one count of a histogram in the vault; zeros and NaNs add nothing; the path is that of the
histogram's address in the lowest taking lane, whatever its value). -/
def execQhist (c : Ctl) (o : MOp) (s : State) : Host.Outcome State Fault Refusal :=
  memWord c (.hist 0) 4 .rlx .blk false vPath (fun s b g sl j =>
    match histBin (sl.v g.budget o.d.toNat j) with
    | none => .idle
    | some i =>
      let a := (vAddr g.budget sl j o 4 + 4 * i) % 2 ^ 32
      s.vaultChk b a 4 4 true { lane := j, addr := a }) s (fun _ _ g sl j => some (vAddr g.budget sl j o 4))

/-! ### Transaction barriers (R97, R98, R317, R318, R441) -/

/-- A transaction-barrier word: once per slice, after the slice's earlier accesses, one update of the slot at its
address. `upd` gives the slot's new bytes and the result, or a fault code with its rejected amount. -/
def barWord (c : Ctl) (o : MOp) (sc : Scope) (upd : State → Nat → Slice → Gang → Nat → Sum (State × Option Nat) (BitVec 8 × Nat))
    (s : State) : Host.Outcome State Fault Refusal :=
  withSplit s fun b g sp =>
    let act := actLanes c g sp true
    match relAll s b g sp (act.map (·.1)) sc with
    | some s => s
    | none =>
      if act.any fun x => pathFull x.1 0 || pathFull x.1 1 then waitAt s b g sp (.counter 0)
      else
        let r := act.foldl (fun (acc : State × List MemSlice) x =>
          let s := acc.1
          let sl := x.1
          let j := x.2.headD 0
          let a := (sl.v g.budget o.a.toNat j).toNat
          let bad : BitVec 8 → Nat → MemSlice := fun code info =>
            { sl, kind := .vbar 0, esz := 4, path := s.vaultPath b a, chk := (faultLanes c sl).map fun j => (j, .bad code a info) }
          if a % 16 != 0 then (s, acc.2 ++ [bad 0x23 0])
          else if !s.vaultOk b a 16 then (s, acc.2 ++ [bad 0x24 a])
          else match upd s a sl g j with
            | .inr (code, amt) => (s, acc.2 ++ [bad code (a + amt * 2 ^ 32)])
            | .inl (s, res) =>
              let p : Part := { lane := j, addr := a, dst := sl.phys g.budget o.d.toNat,
                                data := BitVec.ofNat 64 (res.getD 0), cmp := if res.isSome then activeMask sl else 0 }
              (s, acc.2 ++ [{ sl, kind := .vbar 0, esz := 4, path := s.vaultPath b a, chk := [(j, .go p)] }])) (s, [])
        issueAccs r.1 b g sp c .rlx .blk r.2

/-- Writes a slot. -/
def State.setSlot (s : State) (b : Nat) (a v : Nat) : State :=
  match s.blk b with
  | some b => s.vaultPut (dieOf b.core) a 16 v
  | none => s

/-- The die of the issuing block. -/
def State.curDie (s : State) : Nat :=
  match s.cur with
  | some (.split b _ _) | some (.seq b) => (match s.blk b with | some b => dieOf b.core | none => 0)
  | none => 0

/-- `BINIT` (R97, R317). -/
def execBinit (c : Ctl) (o : MOp) (s : State) : Host.Outcome State Fault Refusal :=
  barWord c o .blk (fun s a sl g j =>
    let d := s.curDie
    let expa := (sl.v g.budget o.d.toNat j).toNat % 65536
    if expa == 0 then .inr (0x26, 0)
    else if barArmed (s.vlRd d a 16) then .inr (0x27, 0)
    else
      let s := s.vaultPut d a 16 (2 ^ 126 + expa * 2 ^ 80)
      .inl ({ s with armed := addNew s.armed (s.vkey d a / 16) }, none)) s

/-- `BEXP` (R98, R317). -/
def execBexp (c : Ctl) (o : MOp) (s : State) : Host.Outcome State Fault Refusal :=
  let arv := o.y == 1
  barWord c o (if arv then .die else .blk) (fun s a sl g j =>
    let d := s.curDie
    let x := s.vlRd d a 16
    let w := sl.v g.budget o.d.toNat j
    if !barArmed (s.vlRd d a 16) then .inr (0x25, 0)
    else if !barFits x w.toInt then .inr (0x26, w.toNat)
    else .inl (s.vaultPut d a 16 (barUpdate x w.toInt arv), none)) s

/-- `BARV` (R98, R317). -/
def execBarv (c : Ctl) (o : MOp) (s : State) : Host.Outcome State Fault Refusal :=
  barWord c o .die (fun s a _ _ _ =>
    let d := s.curDie
    if !barArmed (s.vlRd d a 16) then .inr (0x25, 0) else .inl (s.vaultPut d a 16 (barUpdate (s.vlRd d a 16) 0 true), none)) s

/-- `BRET` (R97, R317: the slot is ordinary vault memory again). -/
def execBret (c : Ctl) (o : MOp) (s : State) : Host.Outcome State Fault Refusal :=
  barWord c o .blk (fun s a _ _ _ =>
    let d := s.curDie
    if !barArmed (s.vlRd d a 16) then .inr (0x25, 0)
    else
      let s := s.vaultPut d a 16 (s.vlRd d a 16 % 2 ^ 126)
      .inl ({ s with armed := s.armed.filter fun k => k != s.vkey d a / 16 }, none)) s

/-- The phases of a slot that a count is behind (R317). -/
def barPassed (slot : Nat) (vn : Word) : Bool :=
  let n := ((BitVec.ofNat 32 (slot / 2 ^ 32)) - vn).toNat
  decide (1 ≤ n ∧ n ≤ 2 ^ 31)

/-- `BTEST` (R98, R317: with .wait it waits until the phase has passed; a 1 is an acquire at .die). -/
def execBtest (c : Ctl) (o : MOp) (s : State) : Host.Outcome State Fault Refusal :=
  withSplit s fun b g sp =>
    let d := dieOf b.core
    let open' := (actLanes c g sp true).find? fun x =>
      let j := x.2.headD 0
      let a := (x.1.v g.budget o.a.toNat j).toNat
      o.y == 1 && a % 16 == 0 && s.vaultOk b a 16 && barArmed (s.vlRd d a 16) && !barPassed (s.vlRd d a 16) (x.1.v g.budget o.c.toNat j)
    match open' with
    | some x =>
      let j := x.2.headD 0
      waitAt s b g sp (.btest (x.1.v g.budget o.a.toNat j).toNat (x.1.v g.budget o.c.toNat j))
    | none =>
      match barWord c o .blk (fun s a sl g j =>
        if !barArmed (s.vlRd d a 16) then .inr (0x25, 0)
        else
          let ok := barPassed (s.vlRd d a 16) (sl.v g.budget o.c.toNat j)
          .inl (if ok then s.acquire b.core [b.asid] .die else s, some ok.toNat)) s with
      | .next s => s
      | _ => s

/-! ### Small copies and completion words (R321, R322) -/

/-- The size of a CPYA piece (R321). -/
def cpyaSize (o : MOp) : Nat := 4 * 2 ^ (o.y.toNat % 4)

/-- `CPYA` (R321, R441): the lanes' postings are checked one after another, and the rejected amount is that of the lanes that do
not fit. -/
def execCpya (c : Ctl) (o : MOp) (s : State) : Host.Outcome State Fault Refusal :=
  withSplit s fun b g sp =>
    let n := cpyaSize o
    let d := dieOf b.core
    let act := actLanes c g sp false
    let l := act.map fun x =>
      let sl := x.1
      let slot := if o.y.getLsbD 2 then some (sl.v g.budget o.c.toNat (x.2.headD 0)).toNat else none
      let fits : Nat → Nat → Bool := fun k i => barFits (s.vlRd d k 16) (-((i + 1) * n : Int))
      let excess : Nat → Nat := fun k => n * ((List.range x.2.length).filter fun i => !fits k i).length
      let lane := fun (j : Nat) =>
        let a := gAddr g.budget sl j o n
        let v := (sl.v g.budget o.d.toNat j).toNat
        let p : Part := { lane := j, addr := a, dst := v }
        if a % n != 0 then LaneChk.bad 0x23 a 0
        else if (match slot with | some k => k % 16 != 0 | none => false) then .bad 0x23 (slot.getD 0) 0
        else match slot with
          | some k =>
            (match s.vaultChk b v n n true p with
             | .bad 0x27 x y => if s.vaultOk b k 16 && barArmed (s.vlRd d k 16) then .bad 0x27 x y else .bad (if s.vaultOk b k 16 then 0x25 else 0x24) k k
             | .go p =>
               if !s.vaultOk b k 16 then .bad 0x24 k k
               else if !barArmed (s.vlRd d k 16) then .bad 0x25 k k
               else if !fits k (x.2.idxOf j) then .bad 0x26 k (k + excess k * 2 ^ 32)
               else .go p
             | r => r)
          | none => s.vaultChk b v n n true p
      ({ sl, kind := .cpya n slot, esz := n, path := 5, chk := x.2.map fun j => (j, lane j) } : MemSlice)
    issueAccs s b g sp c .rlx .blk l

/-- The MSI-X vector of a STCW (R322). -/
def stcwVec (o : MOp) (x : DWord) : Option Nat := if o.y == 1 then some (x.toNat % 2048) else none

/-- `STCW` in the uniform stream (R322): after the block's earlier engine operations and the release, the store of
q(D) at q(A) and the offset. -/
def stcwSeq (c : Ctl) (o : MOp) (b : Block) (s : State) : State :=
  let q := b.seq
  let who : Issuer := ⟨b.id, 16, seqSlice⟩
  if b.ops.any fun x => !x.done then waitSeq s b .engines
  else
    let r := s.release who o.scope
    if !r.1 then waitSeq r.2 b (.release o.scope r.2.upto)
    else
      let a := (q.q o.a.toNat + offOf 8 o.off).toNat
      let path := (vaClass a).path
      if 63 ≤ accCount q.acc path then waitSeq s b (.counter path)
      else if a % 8 != 0 then
        s.trapSeq b.id { code := 0x23, pc := q.pc, addr := BitVec.ofNat 64 a, agent := 1, detail := memDetail 1 path 0xFF 0 0 0 }
      else
        let (id, s) := s.newId
        let p : Part := { lane := 0, addr := a, data := q.q o.d.toNat }
        let acc : Access := { id, who, path, kind := .stcw (stcwVec o (q.q o.c.toNat)), esz := 8, asid := b.asid,
                              ord := .rel, scope := o.scope, pc := q.pc, parts := [p], grp := id }
        finishSeq ((s.modSeq b.id fun q => { q with acc := q.acc ++ [acc] }).push [.accessCompletion id]) b c

/-- `STCW` (R322). -/
def execStcw (c : Ctl) (o : MOp) (s : State) : Host.Outcome State Fault Refusal :=
  match s.cur with
  | some (.seq _) => withSeq s fun b => stcwSeq c o b s
  | _ =>
    withSplit s fun b g sp =>
      let act := actLanes c g sp true
      match relAll s b g sp (act.map (·.1)) o.scope with
      | some s => s
      | none =>
        issueAccs s b g sp c .rel o.scope (act.map fun x =>
          let j := x.2.headD 0
          let a := gAddr g.budget x.1 j o 8
          let v := (x.1.v g.budget o.c.toNat j).setWidth 64
          ({ sl := x.1, kind := .stcw (stcwVec o v), esz := 8, path := (vaClass a).path,
             chk := match globalChk a 8 { lane := j, addr := a, data := x.1.v64 g.budget o.d.toNat j } with
               | .bad code p q => (faultLanes c x.1).map fun j => (j, .bad code p q)
               | r => [(j, r)] } : MemSlice))

/-! ### Caches, tokens and translations (R323 to R328) -/

/-- `CCTL.inv` (R323: complete at issue). -/
def execCctlInv (c : Ctl) (_o : MOp) (s : State) : Host.Outcome State Fault Refusal :=
  withSplit s fun b g sp =>
    let s := if (actLanes c g sp true).isEmpty then s else s.acquire b.core [b.asid] .die
    finish s b g sp c

/-- `CCTL.invl` (R323). -/
def execCctlInvl (c : Ctl) (o : MOp) (s : State) : Host.Outcome State Fault Refusal :=
  withSplit s fun b g sp =>
    let s := (actLanes c g sp true).foldl (fun s x =>
      s.modCore b.core fun k => k.l1Drop (s.accAsid b x.1) (gAddr g.budget x.1 (x.2.headD 0) o 4)) s
    finish s b g sp c

/-- A word on the sector or page of the lowest taking lane's address, once per slice. -/
def ctlWord (c : Ctl) (k : AccKind) (o : MOp) (part : Nat → Slice → Nat → Part → Part) (s : State) :
    Host.Outcome State Fault Refusal :=
  memWord c k 4 .rlx .blk true ctlPath (fun _ _ g sl j =>
    .go (part g.budget sl j { lane := j, addr := gAddr g.budget sl j o 4, dst := sl.phys g.budget o.d.toNat })) s

/-- `CCTL.evict` (R122, R323). -/
def execCctlEvict (c : Ctl) (o : MOp) (s : State) : Host.Outcome State Fault Refusal :=
  ctlWord c .evict o (fun _ _ _ p => p) s

/-- `PROBE` (R324: the result goes to every active lane, as a pair). -/
def execProbe (c : Ctl) (o : MOp) (s : State) : Host.Outcome State Fault Refusal :=
  memWord c .probe 8 .rlx .blk true ctlPath (fun _ _ g sl j =>
    .go { lane := j, addr := gAddr g.budget sl j o 4, dst := sl.phys g.budget o.d.toNat, cmp := activeMask sl }) s

/-- `TOKQ` (R325: the agent is read in the lowest taking lane). -/
def execTokq (c : Ctl) (o : MOp) (s : State) : Host.Outcome State Fault Refusal :=
  ctlWord c .tokq o (fun b sl j p => { p with data := BitVec.ofNat 64 ((sl.v b o.c.toNat j).toNat % 16), cmp := activeMask sl }) s

/-- `MCPRED.rd` (R326). -/
def execMcpredRd (c : Ctl) (o : MOp) (s : State) : Host.Outcome State Fault Refusal :=
  ctlWord c .mcpredRd o (fun _ sl _ p => { p with cmp := activeMask sl }) s

/-- `MCPRED.wr` (R326). -/
def execMcpredWr (c : Ctl) (o : MOp) (s : State) : Host.Outcome State Fault Refusal :=
  ctlWord c .mcpredWr o (fun b sl j p => { p with data := (sl.v b o.d.toNat j).setWidth 64 }) s

/-- `PRESS` (R327: lanes that name one sector share a request). -/
def execPress (c : Ctl) (o : MOp) (s : State) : Host.Outcome State Fault Refusal :=
  memWord c (.press (o.y == 1)) 4 .rlx .blk false ctlPath (fun _ _ g sl j =>
    .go { lane := j, addr := gAddr g.budget sl j o 4 }) s

/-- `WBINV` (R328). -/
def execWbinv (c : Ctl) (o : MOp) (s : State) : Host.Outcome State Fault Refusal :=
  ctlWord c .wbinv o (fun _ _ _ p => p) s

end Sys2Proof.Machine
end

