-- ==== Sys2Proof/Machine/Group.lean ====
section
/-! DEFINITION. Joining and waiting inside a block: block barriers (R63, R64, R316), REGANG and REGROUP (R55 to
R57, R274, R275), SYNCM (R315), and the retirement of lanes, slices and gangs (R69, R430). -/

namespace Sys2Proof.Machine

/-! ### Block barriers (R63, R64) -/

/-- The mask of a gang's slices that have not retired. -/
def Gang.liveMask (g : Gang) : BitVec 8 :=
  BitVec.ofNat 8 (g.liveSlices.foldl (fun m sl => m + 2 ^ sl.num) 0)

/-- Marks slices of a gang in a list of masks. -/
def orMask (l : List (Nat × BitVec 8)) (g : Nat) (m : BitVec 8) : List (Nat × BitVec 8) :=
  mset l g (mgetD l g 0 ||| m)

/-- A gang arrives once every slice that has not exited has executed BAR (R64). -/
def Barrier.gangIn (x : Barrier) (g : Nat × BitVec 8) : Barrier :=
  if g.2 != 0 && !x.arrived.contains g.1 && (mgetD x.marks g.1 0 &&& g.2) == g.2 then { x with arrived := x.arrived ++ [g.1] }
  else x

/-- Gangs arrive, and the phase completes when the arrivals reach the expected count (R64): what has been executed
toward the next phase then counts in it. -/
def Barrier.turn (x : Barrier) (gangs : List (Nat × BitVec 8)) : Barrier :=
  let x := gangs.foldl Barrier.gangIn x
  if x.expected != 0 && x.arrived.length + min 1 x.seqArrived == x.expected then
    { x with phase := x.phase + 1, arrived := [], seqArrived := x.seqArrived - 1, marks := x.next, next := [] }
  else x

/-- Lets every barrier of a block come on. -/
def Block.barSettle (b : Block) : Block :=
  let gangs := b.gangs.filterMap fun g => if g.retired then none else some (g.num, g.liveMask)
  { b with bars := b.bars.map fun x => ((x.turn gangs).turn gangs).turn gangs }

/-- Changes a barrier. -/
def Block.modBar (b : Block) (n : Nat) (f : Barrier → Barrier) : Block :=
  { b with bars := b.bars.mapIdx fun i x => if i == n then f x else x }

/-- Slices of a gang execute BAR: toward the current phase, or toward the next when the gang has arrived
(R316). -/
def Barrier.mark (x : Barrier) (g : Nat) (m : BitVec 8) : Barrier :=
  if x.arrived.contains g then { x with next := orMask x.next g m } else { x with marks := orMask x.marks g m }

/-- The phase whose completion ends the wait of a gang's slice that executes BAR now. -/
def Barrier.phaseFor (x : Barrier) (g : Nat) : Nat := if x.arrived.contains g then x.phase + 1 else x.phase

/-- The sequencer arrives at a barrier (R64, R338). -/
def Block.seqArrive (b : Block) (n : Nat) : Block :=
  (b.modBar n fun x => { x with seqArrived := x.seqArrived + 1 }).barSettle

/-- The sequencer's uniform accesses have an issuer of their own. -/
def seqWho (b : Block) : Issuer := ⟨b.id, 16, seqSlice⟩

/-- `BAR` in the lane stream (R316): the guard is ignored. -/
def barLane (c : Ctl) (o : BarOp) (b : Block) (g : Gang) (sp : Split) (s : State) : State :=
  let n := o.b.toNat
  let bar := b.bars.getD n {}
  match sp.made, sp.wait with
  | true, .bar _ ph => if decide (ph < bar.phase) then finish s b g sp c else waitAt s b g sp (.bar n ph)
  | _, _ =>
    match relAll s b g sp (memberSlices g sp) .blk with
    | some s => s
    | none =>
      let m : BitVec 8 := BitVec.ofNat 8 (sp.slices.foldl (fun m k => m + 2 ^ k) 0)
      let ph := bar.phaseFor g.num
      let s := s.modBlk b.id fun b => (b.modBar n fun x => x.mark g.num m).barSettle
      if o.arv then finish s b g sp c
      else
        let now := match s.blk b.id with | some b => (b.bars.getD n {}).phase | none => 0
        if ph < now then finish s b g sp c true else waitAt s b g sp (.bar n ph) true

/-- `BAR` in the uniform stream (R316, R338): it waits for earlier TLSIG arrivals at the barrier. -/
def barSeq (c : Ctl) (o : BarOp) (b : Block) (s : State) : State :=
  let n := o.b.toNat
  let bar := b.bars.getD n {}
  match b.seq.made, b.seq.wait with
  | true, .bar _ ph => if decide (ph < bar.phase) then finishSeq s b c else waitSeq s b (.bar n ph)
  | _, _ =>
    if b.sigs.any fun x => x.2.2 == n then waitSeq s b .tlsig
    else
      let r := s.release (seqWho b) .blk
      if !r.1 then waitSeq r.2 b (.release .blk r.2.upto)
      else
        let ph := bar.phase + bar.seqArrived
        let s := s.modBlk b.id fun b => b.seqArrive n
        let now := match s.blk b.id with | some b => (b.bars.getD n {}).phase | none => 0
        if o.arv || decide (ph < now) then finishSeq s b c else waitSeq s b (.bar n ph) true

/-- `BAR` (R64, R316). -/
def execBar (c : Ctl) (o : BarOp) (s : State) : Host.Outcome State Fault Refusal :=
  match s.cur with
  | some (.seq _) => withSeq s fun b => barSeq c o b s
  | _ => withSplit s fun b g sp => barLane c o b g sp s

/-! ### REGANG (R55, R274) -/

/-- The splits that a REGANG at an address waits for have all come to it: the slices that join (R55). -/
def Gang.regangReady (g : Gang) (pc : BitVec 48) (mask : BitVec 8) : Option (List Nat) :=
  let named := (g.liveSlices.map (·.num)).filter fun k => mask.getLsbD k
  if named.all fun k => match g.splitOf k, g.slice k with
    | some sp, some sl => sp.wait == .regang mask && sl.pc == pc
    | _, _ => false
  then some named else none

/-- When the splits of a gang that hold some of the slices may issue again, at `t` at the soonest (R232). -/
def Gang.readyFrom (g : Gang) (named : List Nat) (t : Nat) : Nat :=
  ((g.splits.filter fun sp => sp.slices.any named.contains).map (·.readyAt)).foldl max t

/-- Joins the slices of REGANG into one split that goes on at the next word, once the stalls of its parts have passed (R55,
R232). A delivery waits for its next run end (R194). -/
def Gang.regangJoin (g : Gang) (named : List Nat) (at' : Nat) : Gang :=
  let at' := g.readyFrom named at'
  let rest := (g.splits.map fun sp => { sp with slices := sp.slices.filter fun k => !named.contains k }).filter fun sp => !sp.slices.isEmpty
  { g with
    slices := g.slices.map fun sl => if named.contains sl.num then { sl with pc := nextPc sl.pc, execMask := none } else sl
    splits := rest ++ [{ slices := named, readyAt := at', owed := true }] }

/-- Lets every REGANG of a gang that is complete go on; a halted block joins nothing. -/
def State.tryRegang (s : State) (bid gang : Nat) : State :=
  match s.blk bid with
  | none => s
  | some b =>
    if b.halt.isSome then s
    else s.modGang bid gang fun g =>
      g.splits.foldl (fun g sp =>
        match sp.wait with
        | .regang mask => (match g.regangReady (g.splitPc sp) mask with
          | some (k :: r) => if (g.splitOf k).isSome && sp.slices.any (fun x => (k :: r).contains x) then g.regangJoin (k :: r) (s.now + 1) else g
          | _ => g)
        | _ => g) g

/-- `REGANG` (R55, R274: the guard is ignored). -/
def execRegang (c : Ctl) (o : BitVec 8) (s : State) : Host.Outcome State Fault Refusal :=
  withSplit s fun b g sp =>
    if o == 0 then finish s b g sp c else (waitAt (s.keepStall b g sp c) b g sp (.regang o) true).tryRegang b.id g.num

/-! ### Retirement (R64, R69, R430) -/

/-- A gang leaves every barrier of its block (R64). -/
def Block.leaveBars (b : Block) (g : Nat) : Block :=
  { b with bars := b.bars.map fun x =>
      if x.declared then
        { x with expected := x.expected - 1, arrived := x.arrived.filter fun k => k != g, marks := mdel x.marks g, next := mdel x.next g }
      else x }

/-- Lanes that SYNCM holds pass once every lane of their mask that has not exited supplies the same mask (R315);
a lane that has passed keeps the mask 0 until its slice goes on. -/
def Gang.syncmSettle (g : Gang) : Gang :=
  let arr := g.slices.flatMap fun sl => sl.syncm.map fun x => (4 * sl.num + x.1, x.2)
  let there : Nat → Bool := fun n => match g.slice (n / 4) with | some sl => sl.live.contains (n % 4) | none => false
  let done : Word → Bool := fun m => m != 0 && (List.range 32).all fun n =>
    !m.getLsbD n || !there n || arr.any fun x => x.1 == n && x.2 == m
  { g with slices := g.slices.map fun sl => { sl with syncm := sl.syncm.map fun x => if done x.2 then (x.1, 0) else x } }

/-- What follows when lanes of a gang have exited: slices that are gone leave their splits and every wait on
them, and a gang that is gone retires (R55, R64, R69, R315, R430). -/
def State.afterExit (s : State) (bid gang : Nat) : State :=
  let s := s.modGang bid gang fun g =>
    let gone := (g.slices.filter Slice.gone).map (·.num)
    { g.syncmSettle with
      splits := (g.splits.map fun sp => { sp with slices := sp.slices.filter fun k => !gone.contains k }).filter fun sp => !sp.slices.isEmpty }
  let s := s.tryRegang bid gang
  match s.blk bid with
  | none => s
  | some b =>
    match b.gang gang with
    | none => s
    | some g =>
      if !g.liveSlices.isEmpty || g.retired then s.modBlk bid Block.barSettle
      else
        let s := s.modBlk bid fun b => ((b.modGang gang fun g => { g with retired := true }).leaveBars gang).barSettle
        let u := s.uiOf b.asid
        let s := if u.hnd == some (bid, gang) then
            (s.setUi { u with hnd := none }).setCx b.asid 0x110 (s.cxr b.asid 0x110 &&& 0x7FFFFFFFFFFFFFFF#64)
          else s
        let u := s.uiOf b.asid
        let s := if u.running == some (bid, gang) then s.setUi { u with running := none } else s
        s.push [.blockRetirement bid]

/-- Retires lanes of a slice (R69). -/
def Slice.exitLanes (sl : Slice) (l : List Nat) : Slice := l.foldl (fun sl j => sl.modLane j fun x => { x with exited := true }) sl

/-! ### REGROUP (R56, R57, R275) -/

/-- The live lanes of a gang, in ascending number, each with its slice and place. -/
def Gang.liveLanes (g : Gang) : List (Slice × Nat) := g.slices.flatMap fun sl => sl.live.map fun j => (sl, j)

/-- Loads and atomics that write registers are outstanding (R56 step 3). -/
def Gang.loadsOpen (g : Gang) : Bool := g.slices.any fun sl => sl.acc.any fun a => a.kind.loads && !a.complete

/-- The index of lane position `n` in a level bound to the slice or gang domain; levels of wider domains keep
the survivor's value (R56 step 8). DESIGN CHOICE (entry 27): where the extents of the bound levels give fewer positions than the
result has lanes, a level's index is the position modulo its extent. -/
def regroupIdx (levels : List (Nat × Scope × Nat)) (old : List (BitVec 26)) (n : Nat) : List (BitVec 26) :=
  (levels.foldl (fun (acc : List (BitVec 26) × Nat) x =>
    let v := if x.1 ≤ 1 then BitVec.ofNat 26 (n / acc.2 % max x.2.2 1) else old.getD acc.1.length 0
    (acc.1 ++ [v], acc.2 * max x.2.2 1)) ([], 1)).1

/-- The joined gang (R56 steps 4 to 8): `lanes` in their new order, each with the budget of the gang it comes
from. The named registers move, with what is still to be written to them (R234); all other registers and predicates hold
unspecified values (entry 4). DESIGN CHOICE (entry 27): where the survivor's lanes hold different values of %idx of a level that is
not bound to the slice or gang domain, every lane of the result takes that of its lowest live lane. Where the slices that had exited
posted is kept for the launch's completion (R71). -/
def regroupJoin (b : Block) (surv : Gang) (lanes : List (Nat × Slice × Nat)) (k m serial at' : Nat) : Gang :=
  match surv.liveSlices with
  | [] => surv
  | lead :: _ =>
    let old := (lead.lane (lead.live.headD 0)).idx
    let count := (lanes.length + 3) / 4
    let slices := (List.range count).map fun i =>
      let mine := (lanes.drop (4 * i)).take 4
      let l := mine.zipIdx.map fun x =>
        let from' := x.1.2.1.lane x.1.2.2
        ({ present := true, orig := from'.orig, fcode := from'.fcode, idx := regroupIdx b.levels old (4 * i + x.2),
           preds := BitVec.ofNat 7 ((List.range 7).foldl (fun v p =>
             v + (if Config.freeBool serial (32 * i + 8 * x.2 + p) then 2 ^ p else 0)) 0) } : Lane)
      let regs := mine.zipIdx.flatMap fun x => (List.range m).map fun r =>
        (4 * ((lead.base + k + r) % surv.budget) + x.2, x.1.2.1.v x.1.1 (k + r) x.1.2.2)
      let froms := (mine.map fun x => x.2.1)
      let late := mine.zipIdx.flatMap fun x => (List.range m).flatMap fun r =>
        (x.1.2.1.pend.filter fun p => p.file == .v && p.lane == x.1.2.2 && p.idx == x.1.2.1.phys x.1.1 (k + r)).map fun p =>
          { p with idx := (lead.base + k + r) % surv.budget, lane := x.2 }
      let sl : Slice :=
        { num := i, lanes := l ++ List.replicate (4 - l.length) {}, pc := nextPc lead.pc, sregs := lead.sregs,
          vregs := regs.foldl (fun v x => mset v x.1 x.2) [], serial := serial + 1 + i, base := lead.base, n := lead.n,
          low := lead.base, pend := late ++ lead.pend.filter (fun p => p.file == .s), xasid := lead.xasid, vlive := lead.vlive, slive := lead.slive,
          devs := (froms.flatMap (·.devs)).foldl addNew [], devOvf := froms.any (·.devOvf),
          hostWr := froms.foldl (fun h f => f.hostWr.foldl (fun h x => mset h x.1 x.2) h) [] }
      sl
    let out := surv.slices.filter Slice.gone
    { surv with slices, splits := [{ slices := (List.range count), readyAt := at', owed := true }],
                devs := (out.flatMap (·.devs)).foldl addNew surv.devs, devOvf := surv.devOvf || out.any (·.devOvf),
                hostWr := (out.flatMap (·.hostWr)).foldl (fun m x => mset m x.1 x.2) surv.hostWr }

/-- Where a part of an access goes when lanes move: which access takes it in, under which lane, and for whom. -/
structure PartMove where
  acc : Nat
  lane : Nat
  toAcc : Nat
  toLane : Nat
  who : SliceRef

/-- An access cut by the new slices of its lanes (R57): each new slice takes in the parts of the lanes that come to it, and a lane that
has exited leaves its parts, under their old number, with slice 0. The first piece is the access itself; the others keep its place in
program order, which is that of the slice that issued it: `stamp` tells this REGROUP from others. -/
def cutAccess (lanes : List (Nat × Slice × Nat)) (mine : Nat × Slice) (bid surv stamp : Nat) (acc : List Access × List PartMove × Nat)
    (a : Access) : List Access × List PartMove × Nat :=
  let place : Nat → Option Nat := fun j => lanes.findIdx? fun y => y.1 == mine.1 && y.2.1.num == mine.2.num && y.2.2 == j
  let key : Part → Option Nat := fun p => (place p.lane).map (· / 4)
  let keys := match (a.parts.map key).foldl addNew [] with
    | [] => [(mine.2.live.head?.bind place).map (· / 4)]
    | l => l
  keys.foldl (fun r k =>
    let id := if r.1.any (fun x => x.id == a.id) then r.2.2 else a.id
    let who : SliceRef := ⟨bid, surv, k.getD 0⟩
    let lane : Nat → Nat := fun j => match place j with | some n => n % 4 | none => j
    let its := a.parts.filter fun p => key p == k
    let a' : Access :=
      { a with id, who, lines := addNew a.lines (stamp, a.who), since := if id == a.id then a.since else a.key,
               parts := its.map fun p => { p with lane := lane p.lane, also := (p.also.filter fun j => (place j).map (· / 4) == k).map lane } }
    (r.1 ++ [a'], r.2.1 ++ its.map fun p => { acc := a.id, lane := p.lane, toAcc := id, toLane := lane p.lane, who },
     if id == a.id then r.2.2 else r.2.2 + 1)) acc

/-- The move of a part, if its access has moved. -/
def moveOf (l : List PartMove) (acc lane : Nat) : Option PartMove := l.find? fun m => m.acc == acc && m.lane == lane

/-- An access and lane by their new names. -/
def movedPart (l : List PartMove) (x : Nat × Nat) : Nat × Nat := match moveOf l x.1 x.2 with | some m => (m.toAcc, m.toLane) | none => x

/-- Whoever waits for parts of accesses that have moved knows them by their new names (R57). -/
def State.follow (s : State) (core : Nat) (l : List PartMove) : State :=
  let sp : SpEntry → SpEntry := fun e => match moveOf l e.acc e.lane with
    | some m => { e with acc := m.toAcc, lane := m.toLane, who := m.who }
    | none => e
  let host : HostReq → HostReq := fun h => match moveOf l h.acc h.lane with
    | some m => { h with acc := m.toAcc, lane := m.toLane }
    | none => h
  let fab : FabReq → FabReq := fun r => { r with parts := r.parts.map (movedPart l) }
  let call : ScRec → ScRec := fun r => { r with parts := r.parts.map fun x => (x.1, movedPart l x.2) }
  let mark : MarkerOut → MarkerOut := fun x => match l.find? fun m => m.acc == x.acc with
    | some m => { x with who := m.who }
    | none => x
  { s with hostReqs := s.hostReqs.map host, fabReqs := s.fabReqs.map fab, sc := s.sc.map call,
           markersOut := s.markersOut.map mark }.modCore core fun c => { c with sp := c.sp.map sp }

/-- Joins two gangs of a block, or goes on alone when the partner has retired (R56). -/
def State.regroup (s : State) (b : Block) (g : Gang) (partner : Option Gang) (k m stall : Nat) : State :=
  let s := g.splits.foldl (fun s sp => match sp.slices with | k :: _ => s.endRun b.id g.num k | [] => s) s
  let at' := match partner with
    | some h => h.readyFrom (h.slices.map (·.num)) (s.now + 1 + stall)
    | none => s.now + 1 + stall
  let landed : Gang → Gang := fun g => { g with slices := g.slices.map (Slice.landTo · s.now) }
  let g := landed g
  let partner := partner.map landed
  let surv := match partner with | some h => if h.num < g.num then h else g | none => g
  let other := match partner with | some h => if h.num < g.num then some g else some h | none => none
  let tag : Gang → List (Nat × Slice × Nat) := fun x => x.liveLanes.map fun y => (x.budget, y.1, y.2)
  let lanes := tag surv ++ (match other with | some h => tag h | none => [])
  let joined := regroupJoin b surv lanes k m s.fresh at'
  let s := { s with fresh := s.fresh + 16 }
  -- the accesses that are still in flight go with their lanes (R57)
  let olds := surv.slices.map (fun sl => (0, sl)) ++ (match other with | some h => h.slices.map fun sl => (1, sl) | none => [])
  let lanes' := (surv.liveLanes.map fun y => (0, y.1, y.2)) ++ (match other with | some h => h.liveLanes.map fun y => (1, y.1, y.2) | none => [])
  let cut := olds.foldl (fun r x => x.2.acc.foldl (cutAccess lanes' x b.id surv.num s.nextId) r) (([] : List Access), ([] : List PartMove), s.nextId)
  let give : Slice → Slice := fun sl =>
    { sl with acc := sortBy (fun (x y : Access) => x.before y || x.id == y.id) (cut.1.filter fun a => a.who.slice == sl.num) }
  let joined : Gang := { joined with slices := joined.slices.map give }
  let s := { s with nextId := cut.2.2 }.modGang b.id surv.num fun _ => joined
  let s := (s.follow b.core cut.2.1).push (cut.1.map fun a => .accessCompletion a.id)
  match other with
  | none => s.modBlk b.id Block.barSettle
  | some h =>
    let clear : Slice → Slice := fun sl => { sl.exitLanes (List.range 4) with acc := [] }
    let s := s.modGang b.id h.num fun h => { h with splits := [], slices := h.slices.map clear }
    s.afterExit b.id h.num

/-- The operands of a REGROUP that a gang waits at. -/
def Gang.regroupWait (g : Gang) : Option (Nat × Nat × Nat) :=
  g.splits.findSome? fun sp => match sp.wait with | .regroup p k m => if sp.made then some (p, k, m) else none | _ => none

/-- The lanes of a gang that 0x0F names: all that live (R408). -/
def Gang.allLive (g : Gang) : Faulting := g.liveSlices.map fun sl => (sl.num, sl.live, sl.pc)

/-- Raises 0x0F for a REGROUP of a gang that names the gang `p`: a record for each gang concerned, in ascending %gang, with
the live lanes of the lower-numbered gang and of the other (R56, R402, R408). -/
def State.regroupFault (s : State) (b : Block) (g : Gang) (p : Nat) (other : Option Gang) : State :=
  let x := g.liveLanes.length
  let y := match b.gang p with | some h => h.liveLanes.length | none => 0
  let ab := if g.num ≤ p then x + 256 * y else y + 256 * x
  let gs := match other with
    | none => [g]
    | some h => if g.num ≤ h.num then [g, h] else [h, g]
  s.trapGangs b.id (gs.map fun g =>
    let pc := match g.liveSlices with | sl :: _ => sl.pc | [] => 0
    (g.num, [(g.allLive, { code := 0x0F, pc, detail := execDetail s.curWord ab })]))

/-- `REGROUP` (R56, R275; the guard is ignored). The gang's second arrival, or its partner's end, completes it;
before registers move both gangs' loads complete. -/
def execRegroup (c : Ctl) (o : RegroupOp) (s : State) : Host.Outcome State Fault Refusal :=
  withSplit s fun b g sp =>
    let p := o.g.toNat
    let k := o.k.toNat
    let m := o.m1.toNat + 1
    let ok := g.splits.length == 1 && g.liveSlices.all fun sl => sl.ret.isEmpty && sl.active == sl.live
    match b.gang p with
    | none => s.regroupFault b g p none
    | some h =>
      if !ok then s.regroupFault b g p none
      else if h.retired then
        if g.loadsOpen || b.halt.isSome then waitAt (s.keepStall b g sp c) b g sp (.regroup p k m) true else s.regroup b g none k m c.stall.toNat
      else
        match h.regroupWait with
        | none => waitAt (s.keepStall b g sp c) b g sp (.regroup p k m) true
        | some (p', k', m') =>
          if p' != g.num || k' != k || m' != m || 32 < g.liveLanes.length + h.liveLanes.length then s.regroupFault b g p (some h)
          else if g.loadsOpen || h.loadsOpen || b.halt.isSome then waitAt (s.keepStall b g sp c) b g sp (.regroup p k m) true
          else s.regroup b g (some h) k m c.stall.toNat

/-! ### SYNCM (R315) -/

/-- The arrivals of a split's taking lanes that have none yet: slice, lane, mask. -/
def syncmNew (c : Ctl) (o : MOp) (g : Gang) (sp : Split) : List (Nat × Nat × Word) :=
  (memberSlices g sp).flatMap fun sl => (effLanes c sl).filterMap fun j =>
    if sl.syncm.any fun x => x.1 == j then none else some (sl.num, j, sl.v g.budget o.d.toNat j)

/-- The lanes of a gang that wait at SYNCM, each with its mask. -/
def Gang.syncmWaits (g : Gang) : List (Nat × Word) :=
  g.slices.flatMap fun sl => sl.syncm.filterMap fun x => if x.2 == 0 then none else some (4 * sl.num + x.1, x.2)

/-- The lanes of a word arrive at SYNCM one after another, in ascending order: the gang after them, or the mismatch that the first one
finds whose mask omits its own lane or differs from that of a lane already waiting: both masks, and every lane that it names (R315,
R408, R467). -/
def syncmArrive (g : Gang) (l : List (Nat × Nat × Word)) : Sum Gang (Word × Word × (Nat → Bool)) :=
  l.foldl (fun (r : Sum Gang (Word × Word × (Nat → Bool))) x =>
    match r with
    | .inr e => .inr e
    | .inl g =>
      let n := 4 * x.1 + x.2.1
      let m := x.2.2
      let waits := g.syncmWaits
      let named : Nat → Bool := fun k => k == n || m.getLsbD k || waits.any fun y => y.2.getLsbD k
      match (if m.getLsbD n then (waits.find? fun y => y.2 != m).map (·.2) else some m) with
      | some m1 => .inr (m1, m, named)
      | none => .inl (g.modSlice x.1 fun sl => { sl with syncm := sl.syncm ++ [x.2] }).syncmSettle) (.inl g)

/-- `SYNCM` (R315): each arrival is a release at .blk. -/
def execSyncm (c : Ctl) (o : MOp) (s : State) : Host.Outcome State Fault Refusal :=
  withSplit s fun b g sp =>
    match relAll s b g sp (memberSlices g sp) .blk with
    | some s => s
    | none =>
      match syncmArrive g (syncmNew c o g sp) with
      | .inr (m1, m2, named) =>
        let who : Faulting := (g.liveSlices.map fun sl => (sl.num, sl.live.filter fun j => named (4 * sl.num + j), sl.pc)).filter fun x => !x.2.1.isEmpty
        let s := s.modGang b.id g.num fun g => { g with slices := g.slices.map fun sl =>
          { sl with syncm := sl.syncm.filter fun x => !named (4 * sl.num + x.1) } }
        let s := waitAt s b g sp .syncm
        s.trap b.id g.num [(who, { code := 0x0A, pc := g.splitPc sp, detail := execDetail s.curWord (m1.toNat + 2 ^ 32 * m2.toNat) })]
      | .inl g' =>
        let s := s.modGang b.id g.num fun _ => g'
        let held := match s.blk b.id with
          | some b => (match b.gang g.num with
            | some g => (memberSlices g sp).any fun sl => sl.syncm.any fun x => x.2 != 0
            | none => false)
          | none => false
        if held then waitAt s b g sp .syncm true
        else finish (onMembers s b g sp fun sl => { sl with syncm := [] }) b g sp c true

end Sys2Proof.Machine
end

