-- ==== Sys2Proof/Machine/Whey.lean ====
section
/-! DEFINITION. Whey mode: departures, staging and arrivals of travelling slices (R172 to R188, R431, R432). -/

namespace Sys2Proof.Machine

/-- The slice slots of a whey core (R176). -/
def wheySlots (regs : Nat) : Nat := min 256 (65536 / max regs 1)

/-- The slice slots in use on a core: of resident slices, and of those whose record the staging core has not pulled (R181). -/
def State.slotsUsed (s : State) (core : Nat) : List Nat :=
  (s.blocks.filterMap fun b => if b.core == core then b.whey.map (·.1) else none) ++
    s.cores.flatMap fun c => c.2.staged.filterMap fun x => if x.2.2 == core then x.1.blk.whey.map (·.1) else none

/-- The register budget of a launch. -/
def State.regsOf (s : State) (launch : Nat) : Nat :=
  match s.launches.find? fun l => l.id == launch with
  | some l => l.lrec.regs
  | none => 32

/-- The lowest free slice slot of a core, if there is one (R176). -/
def State.freeSlot (s : State) (core launch : Nat) : Option Nat :=
  (List.range (wheySlots (s.regsOf launch))).find? fun k => !(s.slotsUsed core).contains k

/-- The port of a whey core with the fewest resident slices (R176). -/
def State.wheyPort (s : State) (core : Nat) : Nat :=
  let n : Nat → Nat := fun p => ((s.blocks.filter fun b => b.core == core).flatMap (·.gangs)).foldl (fun k g => if g.port == p then k + 1 else k) 0
  (List.range 4).foldl (fun best p => if n p < n best then p else best) 0

/-- The replica of a segment that a departing slice takes (R184): on its own die if there is one, with the most
free slots as advertised, the lowest REP index on a tie. -/
def State.replicaFor (s : State) (launch seg core : Nat) : Option Nat :=
  match (s.segs launch)[seg]? with
  | none => none
  | some x =>
    let l := x.2.2.filter fun r => (s.core r.2.1).inService
    let near := l.filter fun r => dieOf r.2.1 == dieOf core
    let l := sortBy (fun a b => decide (a.1 ≤ b.1)) (if near.isEmpty then l else near)
    match l with
    | [] => none
    | r :: rest => some (rest.foldl (fun best r => if (s.core best.2.1).advert < (s.core r.2.1).advert then r else best) r).2.1

/-- The cores of a map in the order in which a departing slice asks them for a backing slot (R181). -/
def State.stageOrder (s : State) (launch target core : Nat) : List Nat :=
  let all := sortBy (fun a b => decide (a ≤ b)) ((s.segs launch).flatMap fun x => x.2.2.map fun r => r.2.1)
  ([target, core] ++ all.filter (fun k => dieOf k == dieOf core) ++ all.filter (fun k => dieOf k != dieOf core)).foldl addNew []

/-- The core that grants a backing slot (R181 step 3). -/
def State.stageAt (s : State) (launch target core : Nat) : Option Nat :=
  (s.stageOrder launch target core).find? fun k => (s.core k).inService && decide ((s.core k).backUsed < (s.core k).backing)

/-- The slice as its transfer record carries it (R178, R180): live registers, renumbered, and live scalars; the
rest hold unspecified values (entry 4). -/
def Slice.travel (sl : Slice) (budget serial : Nat) : Slice :=
  let top := min (sl.base + sl.vlive) budget
  let keys := (List.range top).flatMap fun p => (List.range 4).map fun j => 4 * p + j
  let regs := keys.foldl (fun m k => mset m k ((mget sl.vregs k).getD (Config.freeWord sl.serial k))) []
  let sregs := (List.range 64).foldl (fun m i => msetD m i (if i < sl.slive then sl.s i else Config.freeWord serial (4096 + i)) 0) []
  { sl with vregs := regs, sregs, serial, execMask := none }

/-- The departure of a whey slice is possible now: every in-flight counter is zero (R181 step 1). -/
def Slice.settled (sl : Slice) : Bool := sl.acc.isEmpty

/-- Where a slice that goes on at an address would go (R177, R181, R184, R432): it stays; or it departs for a
segment through a target and a staging core; or the code of its fault. -/
def State.wheyGo (s : State) (b : Block) (pc : BitVec 48) : Option (Sum (Nat × Nat × Nat) (BitVec 8)) :=
  match b.whey with
  | none => none
  | some (_, seg) =>
    match s.segOf b.launch pc with
    | none => some (.inr 0x43)
    | some t =>
      if t == seg then none
      else match s.replicaFor b.launch t b.core with
        | none => some (.inr 0x44)
        | some target => (match s.stageAt b.launch target b.core with
          | none => some (.inr 0x44)
          | some stage => some (.inl (t, target, stage)))

/-- A backing slot's size (R176). -/
def backSize (regs : Nat) : Nat := 448 + 16 * regs

/-- The vault region of a whey core (R176, R414). -/
def wheyRegion (r : LRec) (back : Nat) : Region :=
  { off := 0, prog := 1024 * r.vaultk, spill := backSize r.regs, nslices := back, save := 164864 }

/-- The vault address of a backing slot of a core, for a launch (R176). -/
def State.backAddr (s : State) (launch core slot : Nat) : Nat :=
  let r := match s.launches.find? fun l => l.id == launch with | some l => wheyRegion l.lrec 0 | none => {}
  core % 64 * 2 ^ 22 + r.off + r.prog + slot * r.spill

/-- The bytes of a transfer record, whose link to the next of its arrival queue is none yet (R180). -/
def WheyRec.bytes (r : WheyRec) : List Byte :=
  match r.blk.gangs with
  | [] => []
  | g :: _ => match g.slices with
    | [] => []
    | sl :: _ =>
      let nreg := min (sl.base + sl.vlive) g.budget
      let lanes := (List.range 4).map fun j => sl.lane j
      let live := sl.live.foldl (fun m j => m + 2 ^ j) 0
      let nest := lanes.zipIdx.foldl (fun v x => v + x.1.nest.toNat * 2 ^ (8 * x.2)) 0
      let pred := lanes.zipIdx.foldl (fun v x => v + x.1.preds.toNat * 2 ^ (7 * x.2)) 0
      leBytes 8 sl.pc.toNat ++ leBytes 2 r.seg ++ leBytes 1 live ++ leBytes 1 sl.ret.length ++ leBytes 2 nreg ++ leBytes 1 sl.slive ++
        leBytes 1 (sl.vlive / 8) ++ leBytes 2 sl.base ++ leBytes 2 sl.n ++ leBytes 4 nest ++ leBytes 4 pred ++ leBytes 4 r.blk.sid ++
        leBytes 24 0 ++ leBytes 8 (2 ^ 64 - 1) ++ (sl.ret.reverse.flatMap RetEntry.bytes) ++ leBytes (8 * (16 - sl.ret.length)) 0 ++
        ((List.range sl.slive).flatMap fun i => leBytes 4 (sl.s i).toNat) ++
        (List.range nreg).flatMap fun p => (List.range 4).flatMap fun j => leBytes 4 (sl.vphys p j).toNat

/-- A record lies in its backing slot, and joins the target's arrival queue, which is a list in the order of the notices, linked through
LINK (R180, R181 step 5). -/
def State.queueRec (s : State) (r : WheyRec) (target holder : Nat) : State :=
  let at' := fun (x : WheyRec) (h : Nat) => s.backAddr r.blk.launch h x.slot
  let s' := s.vlWrBytes (dieOf holder) (at' r holder) r.bytes
  let front := (s.core target).arrivals.filter fun x => decide (x.1.notice ≤ r.notice)
  let back := (s.core target).arrivals.filter fun x => decide (r.notice < x.1.notice)
  let link := fun (s : State) (x : WheyRec) (h : Nat) (y : WheyRec) (k : Nat) => s.vlWr (dieOf h) (at' x h + 56) 8 (k * 2 ^ 16 + y.slot % 2 ^ 12)
  let s' := match front.getLast? with
    | some (x, h) => link s' x h r holder
    | none => s'
  let s' := match back with
    | (y, k) :: _ => link s' r holder y k
    | [] => s'
  s'.modCore target fun c => { c with arrivals := front ++ [(r, holder)] ++ back }

/-- The lowest backing slot of a core that holds no record, and that none is on its way to (R181). -/
def State.freeBack (s : State) (core : Nat) : Nat :=
  let used := (s.cores.flatMap fun c => c.2.arrivals.filterMap fun x => if x.2 == core then some x.1.slot else none) ++
    (s.core core).staged.map fun x => x.1.slot
  ((List.range 4096).find? fun k => !used.contains k).getD 0

/-- A slice departs (R181): it has reserved a backing slot, and sends a transfer notice to the staging core, whose copy engine pulls the
record into it. The transfer is a release, made by the counters at zero (R188). A slice that runs an interrupt handler remembers where
its frame lies (R195). -/
def State.depart (s : State) (bid seg target stage : Nat) : State :=
  match s.blk bid with
  | none => s
  | some b =>
    let home : Slice → Slice := fun sl =>
      { sl with frameAt := if (b.gangs.any fun g => s.uiRuns bid g.num) && sl.frameAt.isNone then some (dieOf b.core, b.frameAddr sl.num) else sl.frameAt }
    let put : Gang → Gang := fun g =>
      { g with slices := g.slices.map fun sl => home ((sl.landTo (s.now + 16)).travel g.budget s.fresh)
               splits := g.splits.map fun sp => { slices := sp.slices, readyAt := sp.readyAt } }
    let rec' : WheyRec := { blk := { b with gangs := b.gangs.map put }, seg, slot := s.freeBack stage, notice := s.fresh }
    let s := { s with fresh := s.fresh + 1, blocks := s.blocks.filter fun x => x.id != bid }
    let s := s.modCore stage fun c =>
      { c with backUsed := c.backUsed + 1, staged := c.staged ++ [({ rec' with ahead := c.kicks.length }, target, b.core)] }
    s.push [.copyEnginePull stage]

/-- The next pull of a core is that of a transfer record: the notices that came before its notice have been served (R24). -/
def State.recFirst (s : State) (core : Nat) : Bool :=
  match (s.core core).staged with
  | [] => false
  | x :: _ => x.1.ahead == 0 || (s.core core).kicks.isEmpty

/-- A turn of a copy engine on the first transfer record that waits for it: it pulls up to 4 KiB of it into the backing slot; once it has
the whole it acknowledges: the record is queued at the target replica, in the order of the notices, and the slot that the slice leaves is
free (R24, R181 steps 4 and 5). -/
def State.pullRec (s : State) (core : Nat) : State × Bool :=
  match (s.core core).staged with
  | [] => (s, false)
  | (r, target, own) :: rest =>
    let done := (s.core core).stageDone + 4096
    if done < r.bytes.length then (s.modCore core fun c => { c with stageDone := done }, true)
    else
      let s := (s.modCore core fun c => { c with staged := rest, stageDone := 0 }).queueRec r target core
      (s.push ([.wheyArrival target, .wheyArrival own] ++ if r.blk.yreq then [.unitSave r.blk.id] else []), true)

/-- Slices of a launch are in transit (R187). -/
def State.inTransit (s : State) (launch : Nat) : Bool := s.cores.any fun c => c.2.staged.any fun x => x.1.blk.launch == launch

/-- A slice whose word has completed departs for the segment of its program counter, or faults (R177, R432): a
fall-through reports with PREC 0. -/
def State.departNow (s : State) (bid : Nat) : State :=
  match s.blk bid with
  | none => s
  | some b =>
    match b.gangs with
    | [] => s
    | g :: _ =>
      match g.slices with
      | [] => s
      | sl :: _ =>
        match s.wheyGo b sl.pc with
        | none => s.modSplit bid g.num sl.num fun sp => { sp with wait := .none, made := false }
        | some (.inl (t, target, stage)) => s.depart bid t target stage
        | some (.inr code) =>
          s.trap bid g.num [([(sl.num, sl.live, sl.pc)], { code, prec := false, pc := sl.pc, addr := sl.pc.setWidth 64 })]

/-- The contexts whose memory a slice's accesses reach: its own, and the one that %xasid names (R85, R202). -/
def Block.asids (b : Block) : List Nat :=
  b.gangs.foldl (fun l g => g.slices.foldl (fun l sl => if sl.xasid.getLsbD 12 then addNew l (sl.xasid.toNat % 4096) else l) l) [b.asid]

/-- The designated gang of a context has come to a core: CX_UI_HANDLER names its core and sequencer context (R189). -/
def State.handlerAt (s : State) (b : Block) : State :=
  match (s.uiOf b.asid).hnd with
  | some (bid, _) =>
    if bid == b.id then
      s.setCx b.asid 0x110 ((s.cxr b.asid 0x110 &&& 0x800FFFFFFFFFFFFF#64) ||| BitVec.ofNat 64 (b.core * 2 ^ 54 + b.seqx % 4 * 2 ^ 52))
    else s
  | none => s

/-- A whey launch is being saved: its arrival queues stand still (R187). -/
def State.launchSaving (s : State) (launch : Nat) : Bool := s.blocks.any fun x => x.launch == launch && x.saving

/-- `WHEY_ARRIVAL`: a core with a free slice slot takes the record at the head of its arrival queue; the slice
takes an acquire and restores its state (R182, R188). A delivery waits for its first run end (R197). -/
def execWheyArrival (core : Nat) (s : State) : Host.Outcome State Fault Refusal :=
  .next (match (s.core core).arrivals with
  | [] => s
  | (r, holder) :: rest =>
    match (if s.launchSaving r.blk.launch then none else s.freeSlot core r.blk.launch) with
    | none => s
    | some slot =>
      let s := s.modCore core fun c => { c with arrivals := rest }
      let s := s.modCore holder fun c => { c with backUsed := c.backUsed - 1 }
      let s := s.acquire core r.blk.asids .dev
      let port := s.wheyPort core
      let start : Gang → Gang := fun g => { g with port, splits := g.splits.map fun sp => { slices := sp.slices, readyAt := max sp.readyAt (s.now + 1), owed := true } }
      let region := match s.launches.find? fun l => l.id == r.blk.launch with
        | some l => wheyRegion l.lrec (s.core core).backing
        | none => r.blk.region
      let b : Block := { r.blk with core, firstCore := core, region, whey := some (slot, r.seg), gangs := r.blk.gangs.map start }
      let s := State.handlerAt { s with blocks := s.blocks ++ [b] } b
      if rest.isEmpty then s else s.push [.wheyArrival core])

/-- `REPLICA_ADVERTISEMENT`: every whey core tells its free slice slots, each 1 µs (R184). -/
def execReplicaAdvertisement (s : State) : Host.Outcome State Fault Refusal :=
  let cores := s.wheys.flatMap fun w => w.segs.flatMap fun x => x.2.2.map fun r => (w.launch, r.2.1)
  let s := cores.foldl (fun s x =>
    s.modCore x.2 fun c => { c with advert := wheySlots (s.regsOf x.1) - (s.slotsUsed x.2).length }) s
  .next (if cores.isEmpty then s else s.timer (s.gtime + 1000) .replicaAdvertisement)

end Sys2Proof.Machine
end

