-- ==== Sys2Proof/Machine/Cx.lean ====
section
/-! DEFINITION. Special and control registers: RDSR and WRSR (R189, R277, R278, R403, R411, R419), and what a
privileged write of a control register does (R159, R168, R411, R487). -/

namespace Sys2Proof.Machine

/-! ### Yield requests (R168) -/

/-- Sevenths of a nanosecond in a core cycle: 700 MHz at level 3, 350 MHz below it (R388). -/
def State.cycle7 (s : State) : Nat := if s.level == 3 || s.level == 0 then 10 else 20

/-- Core cycles as nanoseconds, rounded up. -/
def State.cyclesNs (s : State) (n : Nat) : Nat := (n * s.cycle7 + 6) / 7

/-- A block is asked to yield, for a cause (R168): %yreq reads 1, and the count of CX_YIELD_BUDGET begins. -/
def Block.askYield (b : Block) (cause : SaveCause) : Block :=
  { b with yreq := true, causes := addNew b.causes cause, yspent := if b.yreq then b.yspent else 0 }

/-- Raises a yield request on blocks, for a cause (R168), and on slices in transit or in arrival queues (R187). -/
def State.raiseYield (s : State) (p : Block → Bool) (cause : SaveCause) : State :=
  let ask : Block → Block := fun b => if p b then b.askYield cause else b
  let ids := ((s.blocks ++ s.recs.map (·.blk)).filter p).map (·.id)
  (State.modRecs { s with blocks := s.blocks.map ask } ask).push (ids.map .unitSave)

/-- A block is asked no longer for a cause. -/
def Block.dropCause (b : Block) (cause : SaveCause) : Block :=
  if b.causes.contains cause then
    let l := b.causes.filter fun x => x != cause
    { b with causes := l, yreq := !l.isEmpty }
  else b

/-- Withdraws a cause of a yield request that has not led to a save (R168). -/
def State.dropCause (s : State) (asid : Nat) (cause : SaveCause) : State :=
  let drop : Block → Block := fun b => if b.asid == asid then b.dropCause cause else b
  State.modRecs { s with
    blocks := s.blocks.map drop
    saved := s.saved.map fun u => if u.asid == asid then { u with causes := u.causes.filter fun x => x != cause } else u } drop

/-! ### Control registers (R189, R403, R411) -/

/-- The indices that name a control register of a context (R277). -/
def cxListed (i : Nat) : Bool := decide (0x100 ≤ i ∧ i ≤ 0x10D) || decide (0x110 ≤ i ∧ i ≤ 0x11F)

/-- The control registers that R189, R403 and R411 mark as privileged; CX_HQ_TAIL is one that a context may also
write for itself (R257, R278). -/
def cxPriv (i : Nat) : Bool := cxListed i && i != 0x102 && i != 0x10C && i != 0x110 && i != 0x111 && i != 0x112

/-- The value of a control register of a context (R189, R354): PEND and MASK lie in its interrupt block. -/
def State.cxRead (s : State) (asid i : Nat) : DWord :=
  if !s.inUse asid then 0
  else match i with
    | 0x111 => BitVec.ofNat 64 (s.uiRd asid 8 8)
    | 0x112 => BitVec.ofNat 64 (s.uiRd asid 0 8)
    | i => s.cxr asid i

/-- The bits of a control register that a write sets; reserved bits stay zero (R6, R189, R411). -/
def cxMask (i : Nat) : DWord :=
  match i with
  | 0x100 | 0x103 | 0x105 | 0x11F => 1
  | 0x101 => 0x000FFFFFFFFFF000
  | 0x104 => 0xFFFFFFFF
  | 0x106 => 7
  | 0x107 | 0x108 | 0x10D => 0x0000FFFFFFFFFFFF
  | 0x109 => 0x0000FFFFFFFFFF80
  | 0x10A => 0x1FFFF
  | 0x10B | 0x10C => 0xFFFF
  | 0x113 => 0x0000FFFFFFFFFC00
  | 0x114 => 0x0000FFFFFFFFFFF0
  | 0x115 => 0x1FF
  | 0x116 => 0x0000FFFFFFFFFFC0
  | 0x118 => 0x0000FFFFFFFFF800
  | 0x119 | 0x11C => 0x1FFF
  | 0x11A => 0x80000FFF0000003F
  | 0x11B => 0x000FFFFFFFFFF800
  | 0x11D => 0x7FF
  | 0x11E => 0x80000FFF00000000
  | _ => 0xFFFFFFFFFFFFFFFF

/-- A fault ring's control register after a write: PUT is read-only, a written 1 clears OVF (R403). -/
def fltCtlWrite (old v keep : DWord) : DWord :=
  (old &&& 0xFFFF000000000010#64 &&& ~~~(v &&& 16)) ||| (v &&& (0x0000FFFF0000000F#64 ||| keep))

/-- The host launch queues bound to a context: die and queue (R157). -/
def State.hostQueues (s : State) (asid : Nat) : List (Nat × Nat) :=
  (List.range 8).flatMap fun d => (s.die d).qbind.filterMap fun x =>
    let v := x.2.toNat
    if v / 2 ^ 31 == 1 && v / 2 ^ 29 % 4 == 0 && v % 4096 == asid then some (d, x.1) else none

/-- A write of CX_HQ_TAIL admits the ring's records (R159). -/
def State.ringBell (s : State) (asid : Nat) (v : DWord) : State :=
  let s := s.setCx asid 0x10C (v &&& cxMask 0x10C)
  s.push ((s.hostQueues asid).map fun x => .hqRecordRead x.1 x.2)

/-- The units of a context that are resident stop and are saved (R411): no fault halts them, so no record is
written. -/
def State.haltUnits (s : State) (asid : Nat) : State :=
  let ids := (s.blocks.filter fun b => b.asid == asid).map (·.id)
  (s.raiseYield (fun b => b.asid == asid) .halt).push (ids.map Event.forcedSave)

/-- A write of CX_YREQ raises or clears a yield request on the context's units (R168, R487). -/
def State.writeYreq (s : State) (asid : Nat) (v : DWord) : State :=
  let s := s.setCx asid 0x105 (v &&& 1)
  if v.getLsbD 0 then s.raiseYield (fun b => b.asid == asid) .cxYreq
  else
    let s := s.dropCause asid .cxYreq
    s.push ((s.saved.filter fun u => u.asid == asid).map fun u => .unitRestore u.launch)

/-- A write of CX_HALT halts the context's units or releases them (R411, R487). -/
def State.writeHalt (s : State) (asid : Nat) (v : DWord) : State :=
  let s := s.setCx asid 0x11F (v &&& 1)
  if v.getLsbD 0 then s.haltUnits asid
  else
    let s := s.dropCause asid .halt
    s.push ((s.saved.filter fun u => u.asid == asid).map fun u => .unitRestore u.launch)

/-- A privileged write of a control register, by a supervisor slice or by management (R189): the context is in
use from then on. A supervisor may clear V of CX_UI_HANDLER. -/
def State.cxWrite (s : State) (asid i : Nat) (v : DWord) : State :=
  let s := { s with bound := addNew s.bound asid }
  match i with
  | 0x105 => s.writeYreq asid v
  | 0x10C => s.ringBell asid v
  | 0x110 =>
    if v.getLsbD 63 then s
    else (s.setUi { s.uiOf asid with hnd := none }).setCx asid 0x110 (s.cxr asid 0x110 &&& 0x7FFFFFFFFFFFFFFF#64)
  | 0x117 => s.setCx asid 0x117 (fltCtlWrite (s.cxr asid 0x117) v 0)
  | 0x11F => s.writeHalt asid v
  | i => s.setCx asid i (v &&& cxMask i)

/-! ### Special registers (R277, R278, R419) -/

/-- The indices that a frozen slice may use besides (R419). -/
def frozenIdx (i : Nat) : Bool := decide (0x40000 ≤ i ∧ i < 0x40404) || decide (0x40404 ≤ i ∧ i ≤ 0x40406)

/-- An index that RDSR may read (R277, R419). -/
def srListed (frozen : Bool) (i : Nat) : Bool := decide (i ≤ 0x17) || cxListed i || (frozen && frozenIdx i)

/-- An index that WRSR may write (R278, R419, R465). -/
def srWritable (frozen : Bool) (i : Nat) : Bool :=
  i == 0x13 || i == 0x17 || cxPriv i || i == 0x10C || i == 0x110 || (frozen && frozenIdx i && i != 0x40405 && i != 0x40406)

/-- A WRSR to this target is privileged (R257). CX_HQ_TAIL of the issuer's own context is not. -/
def srPriv (i : Nat) (x : Bool) : Bool := i == 0x13 || i == 0x17 || cxPriv i || (i == 0x10C && x)

/-- %lanemask (R47). -/
def laneMask (g : Gang) (sp : Split) : Nat := (memberSlices g sp).foldl (fun m sl => m + (maskOf sl.num sl.active)) 0

/-- The value of a special or control register in a lane (R277). DESIGN CHOICE (entry 6): a read of %gtime gives the device's common count
on every core; R35 lets it differ from the true time by up to 20 ns. -/
def State.srRead (s : State) (b : Block) (g : Gang) (sp : Split) (sl : Slice) (j i asid : Nat) : DWord :=
  let n := BitVec.ofNat 64
  let l := sl.lane j
  match i with
  | 0x00 => n (4 * sl.num + j)
  | 0x01 => n sl.num
  | 0x02 => n g.num
  | 0x03 => n b.num
  | 0x04 => n b.core
  | 0x05 => n (dieOf b.core)
  | 0x06 => n s.devNum
  | 0x07 => n b.asid
  | 0x10 => n (laneMask g sp)
  | 0x11 => n b.yreq.toNat
  | 0x12 => l.orig.setWidth 64
  | 0x13 => l.fcode.setWidth 64
  | 0x14 => n s.gtime
  | 0x15 => n (s.now + Config.clockOffset b.core)
  | 0x16 => n (b.vaddr b.region.off)
  | 0x17 => if s.sup b.asid then sl.xasid.setWidth 64 else 0
  | i => if i < 0x10 then (l.idx.getD (i - 8) 0).setWidth 64 else s.cxRead asid i

/-- The value at an index of a frozen slice (R419). -/
def State.frozenRead (s : State) (b : Block) (g : Gang) (sl : Slice) (i : Nat) : DWord :=
  let d := dieOf b.core
  let f := b.frozenAddr sl.num
  if i < 0x40400 then (sl.v g.budget (i % 256) (i / 256 % 4)).setWidth 64
  else if i < 0x40404 then
    let l := sl.lane (i - 0x40400)
    BitVec.ofNat 64 (l.preds.toNat + 256 * l.nest.toNat + 65536 * l.exited.toNat)
  else if i == 0x40404 then BitVec.ofNat 64 (s.vlRd d f 8)
  else if i == 0x40405 then BitVec.ofNat 64 (s.vlRd d (f + 8) 1)
  else BitVec.ofNat 64 (s.vlRd d (f + 16) 8)

/-- Writes at an index of a frozen slice (R419). -/
def State.frozenWrite (s : State) (b : Block) (g : Gang) (sl : Slice) (i : Nat) (v : DWord) : State :=
  let r : SliceRef := ⟨b.id, g.num, sl.num⟩
  if i < 0x40400 then s.modSlice r fun sl => sl.setPhys (sl.phys g.budget (i % 256)) (i / 256 % 4) (lo32 v)
  else if i < 0x40404 then
    s.modSlice r fun sl => sl.modLane (i - 0x40400) fun l => { l with preds := v.setWidth 7, nest := v.extractLsb' 8 8 }
  else s.vlWr (dieOf b.core) (b.frozenAddr sl.num) 8 v.toNat

/-- The context that RDSR and WRSR name (R277, R278): with X, the one in a scalar register. -/
def srAsid (o : SrOp) (b : Block) (sl : Slice) : Nat := if o.x then (sl.s o.t.toNat).toNat % 4096 else b.asid

/-- Writes a special-register value into a lane's register, or pair (R277). -/
def srPut (budget : Nat) (o : SrOp) (sl : Slice) (j : Nat) (v : DWord) : Slice :=
  let p := sl.phys budget o.r.toNat
  let sl := sl.setPhys p j (lo32 v)
  if o.wide then sl.setPhys (p + 1) j (hi32 v) else sl

/-- `RDSR` (R277; in a frozen slice the destination is a scalar, R419). -/
def execRdsr (c : Ctl) (o : SrOp) (s : State) : Host.Outcome State Fault Refusal :=
  withSplit s fun b g sp =>
    let i := o.idx.toNat
    let s' := onMembers s b g sp fun sl =>
      let asid := srAsid o b sl
      if sl.frozen then
        if takes c sl then
          let v := if frozenIdx i then s.frozenRead b g sl i else s.srRead b g sp sl 0 i asid
          if o.wide then sl.setS64 (o.r.toNat % 64) v else sl.setS (o.r.toNat % 64) (lo32 v)
        else sl
      else (effLanes c sl).foldl (fun sl' j => srPut g.budget o sl' j (s.srRead b g sp sl j i asid)) sl
    finish s' b g sp c

/-- `WRSR` (R278; in a frozen slice the value is a scalar, R419). A slice's write of its own context's CX_HQ_TAIL is a release at
.dev (R159). -/
def execWrsr (c : Ctl) (o : SrOp) (s : State) : Host.Outcome State Fault Refusal :=
  withSplit s fun b g sp =>
    let i := o.idx.toNat
    match (if i == 0x10C then relAll s b g sp ((memberSlices g sp).filter fun sl => takes c sl && srAsid o b sl == b.asid) .dev else none) with
    | some s => s
    | none =>
    let s := (memberSlices g sp).foldl (fun s sl =>
      if !takes c sl then s
      else
        let r : SliceRef := ⟨b.id, g.num, sl.num⟩
        let v : DWord :=
          if sl.frozen then (if o.wide then sl.s64 (o.r.toNat % 64) else (sl.s (o.r.toNat % 64)).setWidth 64)
          else if o.wide then sl.v64 g.budget o.r.toNat (lowLane c sl)
          else (sl.v g.budget o.r.toNat (lowLane c sl)).setWidth 64
        if sl.frozen && frozenIdx i then s.frozenWrite b g sl i v
        else match i with
          | 0x13 => s.modSlice r fun sl' => (if sl.frozen then sl.live else effLanes c sl).foldl (fun x j => x.modLane j fun l => { l with fcode := 0 }) sl'
          | 0x17 => s.modSlice r fun sl => { sl with xasid := v.setWidth 13 }
          | i => s.cxWrite (srAsid o b sl) i v) s
    finish s b g sp c

end Sys2Proof.Machine
end

