-- ==== Sys2Proof/Machine/Control.lean ====
section
/-! DEFINITION. Control flow (R50, R59 to R61, R271), divergence (R51 to R53, R273), and retiring, yielding and
hand-over (R69, R276). -/

namespace Sys2Proof.Machine

/-- A branch or call is admitted in a slice (R50): in at least one active lane; a slice with no active lane takes it
only when it is unconditional. -/
def brAdmits (c : Ctl) (sl : Slice) : Bool :=
  if sl.frozen || sl.active.isEmpty then c.pred == 7 && !c.neg else !(effLanes c sl).isEmpty

/-- Where a slice goes: on to the next word, to a target with its window changed, or a fault that keeps it at
the word. -/
inductive Jump where
  | next
  | goto (pc : BitVec 48) (sl : Slice) (refill : Bool)
  | bad (code : BitVec 8) (addr : DWord) (detail : List Byte)
  deriving Repr, Inhabited

/-- A jump's target in a slice. -/
def Jump.target (j : Jump) (sl : Slice) : BitVec 48 := match j with | .goto pc _ _ => pc | _ => nextPc sl.pc

/-- Moves a split by the jumps of its slices: windows, faults, parting, departures (R48, R60, R177, R432). A frame refill ends the run
(R166); a delivery waits for the run end after it (R194). -/
def jumpSplit (s : State) (b : Block) (g : Gang) (sp : Split) (c : Ctl) (f : Slice → Jump) : State :=
  let outs := (memberSlices g sp).map fun sl => (sl, f sl)
  let bads := outs.filterMap fun x => match x.2 with | .bad code a d => some (x.1, code, a, d) | _ => none
  let target : Slice → BitVec 48 := fun sl => match outs.find? (fun x => x.1.num == sl.num) with
    | some (_, j) => j.target sl
    | none => nextPc sl.pc
  let go : State → State := fun s =>
    let put : Slice → Slice := fun sl => match outs.find? (fun x => x.1.num == sl.num) with
      | some (_, .goto _ sl' _) => sl'
      | _ => sl
    let s := s.modGang b.id g.num fun gg => { gg with slices := gg.slices.map put }
    let s := outs.foldl (fun s x => match x.2 with | .goto _ sl' _ => s.writeSpill b g.num x.1 sl' | _ => s) s
    let refill := outs.any fun x => match x.2 with | .goto _ _ r => r | _ => false
    let owe : State → State := fun s => outs.foldl (fun s x => match x.2 with
      | .goto _ _ true => s.modSplit b.id g.num x.1.num fun z => { z with owed := true }
      | _ => s) s
    if bads.isEmpty then (if refill then owe (moveSplit s b g sp c target true) else moveSplit s b g sp c target false)
    else
      let codes := (bads.map fun x => x.2.1).foldl addNew []
      trapMany s b g sp c target (codes.filterMap fun code =>
        match bads.filter (fun x => x.2.1 == code) with
        | [] => none
        | x :: r => some (code, x.2.2.1, x.2.2.2, (x :: r).map fun y =>
            (y.1.num, if y.1.frozen then [0] else if (effLanes c y.1).isEmpty then y.1.live else effLanes c y.1)))
  match outs with
  | [(sl, .goto pc _ _)] =>
    (match s.wheyGo b pc with
     | none => go s
     | some (.inr code) =>
       trapWord s b g sp c code [(sl.num, if (effLanes c sl).isEmpty then sl.live else effLanes c sl)] (pc.setWidth 64)
     | some (.inl _) => if sl.settled then (go s).departNow b.id else waitAt s b g sp .departure)
  | _ => go s

/-- The address of a relative target (R223, R271). -/
def relTarget (sl : Slice) (off : BitVec 20) : BitVec 48 := nextPc sl.pc + (off.signExtend 48) * 8

/-- The taking lanes of a slice for an address it reads (R271): those where the word takes effect. -/
def addrLanes (c : Ctl) (sl : Slice) : List Nat := effLanes c sl

/-- The address that a slice's taking lanes read, if they agree. With no taking lane nothing is read, and the
address is a free value (entry 4). -/
def laneAddr (c : Ctl) (budget : Nat) (a : BitVec 8) (serial : Nat) (sl : Slice) : Option DWord :=
  match (addrLanes c sl).map fun j => sl.v64 budget a.toNat j with
  | [] => some (((pair64 (Config.freeWord serial 0) (Config.freeWord serial 1)) &&& 0x0000FFFFFFFFFFF8#64))
  | v :: r => if r.all fun w => w == v then some v else none

/-- The checks of a branch target read from registers (R271). -/
def targetChk (v : DWord) : Option (BitVec 8 × DWord × List Byte) :=
  if v.toNat % 8 != 0 then some (0x23, v, memDetail 3 2 0xFF 0 0 0)
  else if 2 ^ 48 ≤ v.toNat then some (0x20, v, memDetail 3 2 0xFF 0 0 0)
  else none

/-- A jump to an address read in lanes (R271, R408): `differ` is the code for lanes that disagree. -/
def addrJump (c : Ctl) (budget : Nat) (a : BitVec 8) (serial : Nat) (word : DWord) (differ : BitVec 8)
    (then' : BitVec 48 → Jump) (sl : Slice) : Jump :=
  match laneAddr c budget a serial sl with
  | none => .bad differ 0 (execDetail word 0)
  | some v => match targetChk v with
    | some (code, a, d) => .bad code a d
    | none => then' (v.setWidth 48)

/-- A call's window (R59 to R61): the slice in its new frame, or the fault of a spill that does not fit. -/
def callJump (b : Block) (g : Gang) (o : CallOp) (serial : Nat) (word : DWord) (pc : BitVec 48) (sl : Slice) : Jump :=
  let e : RetEntry := { addr := nextPc sl.pc, adv := 8 * o.adv.toNat, n := sl.n }
  match sl.grow b.spillCap g.budget b.whey.isSome (8 * o.adv.toNat) (8 * o.size.toNat) (some e) (serial + sl.num) with
  | .inl sl' => .goto pc sl' false
  | .inr used => .bad 0x0C 0 (execDetail word (b.spillAddr g.num sl.num used))

/-- The slices of a split do not all go the same way (R408 code 0x06). -/
def mixed (l : List (Slice × Jump)) : Bool :=
  match l with
  | [] => false
  | x :: r => r.any fun y => y.2.target y.1 != x.2.target x.1

/-- `BRA` (R50, R271; 0x06 under .uni when the slices part). -/
def execBra (c : Ctl) (o : BraOp) (s : State) : Host.Outcome State Fault Refusal :=
  withSplit s fun b g sp =>
    let f : Slice → Jump := fun sl => if brAdmits c sl then .goto (relTarget sl o.off) sl false else .next
    let way := (memberSlices g sp).map fun sl => (sl, f sl)
    if o.uni && mixed way then trapWord s b g sp c 0x06 (splitLanes g sp) else jumpSplit s b g sp c f

/-- `BRX` (R271). -/
def execBrx (c : Ctl) (o : BrxOp) (s : State) : Host.Outcome State Fault Refusal :=
  withSplit s fun b g sp =>
    let f : Slice → Jump := fun sl =>
      if brAdmits c sl then addrJump c g.budget o.a (s.fresh + sl.num) s.curWord 0x07 (fun pc => .goto pc sl false) sl else .next
    let way := (memberSlices g sp).map fun sl => (sl, f sl)
    let bad := way.any fun x => match x.2 with | .bad .. => true | _ => false
    let s := { s with fresh := s.fresh + 8 }
    if o.flag && !bad && mixed way then trapWord s b g sp c 0x06 (splitLanes g sp) else jumpSplit s b g sp c f

/-- `CALL` (R59 to R61, R271). -/
def execCall (c : Ctl) (o : CallOp) (s : State) : Host.Outcome State Fault Refusal :=
  withSplit s fun b g sp =>
    let n := s.fresh
    jumpSplit { s with fresh := n + 8 } b g sp c fun sl =>
      if brAdmits c sl then callJump b g o n s.curWord (relTarget sl o.off) sl else .next

/-- `CALLX` (R59 to R61, R271). -/
def execCallx (c : Ctl) (o : CallOp) (s : State) : Host.Outcome State Fault Refusal :=
  withSplit s fun b g sp =>
    let n := s.fresh
    jumpSplit { s with fresh := n + 16 } b g sp c fun sl =>
      if brAdmits c sl then addrJump c g.budget o.b (n + 8 + sl.num) s.curWord 0x07 (fun pc => callJump b g o n s.curWord pc sl) sl
      else .next

/-- `RET` (R59 to R61, R271: a spilled frame is refilled before the next word, which ends the run). -/
def execRet (c : Ctl) (o : BrxOp) (s : State) : Host.Outcome State Fault Refusal :=
  withSplit s fun b g sp =>
    let n := s.fresh
    jumpSplit { s with fresh := n + 8 } b g sp c fun sl =>
      if !brAdmits c sl then .next
      else match sl.popRet with
        | none => .bad 0x08 0 (execDetail s.curWord 0)
        | some (e, sl') =>
          let back := sl'.shrink g.budget (sl'.base - e.adv) e.n
          if o.flag then addrJump c g.budget o.a (n + sl.num) s.curWord 0x09 (fun pc => .goto pc back.1 back.2) sl
          else .goto e.addr back.1 back.2

/-- `SCBRA` (R271). -/
def execScbra (c : Ctl) (o : CBraOp) (s : State) : Host.Outcome State Fault Refusal :=
  withSplit s fun b g sp =>
    jumpSplit s b g sp c fun sl =>
      if brAdmits c sl && isetpV o.cond o.u (sl.s o.a.toNat) 0 then .goto (relTarget sl o.off) sl false else .next

/-! ### Divergence (R51 to R53, R273) -/

/-- The lanes whose counters a divergence word changes: present and not exited, in a slice that is not frozen; at
the first word after a trap, those that returned without .skip (R52, R417, R418). -/
def divLanes (sl : Slice) : List Nat :=
  if sl.frozen then []
  else sl.live.filter fun j => match sl.execMask with | some (l, pc) => pc != sl.pc || l.contains j | none => true

/-- A divergence word: `f` gives a lane's new counter, or none where it would pass 255 (R52, R408 code 0x05). -/
def divWord (c : Ctl) (f : Slice → Nat → Option (BitVec 8)) (s : State) : Host.Outcome State Fault Refusal :=
  withSplit s fun b g sp =>
    let high := (memberSlices g sp).map fun sl => (sl.num, (divLanes sl).filter fun j => (f sl j).isNone)
    let s := onMembers s b g sp fun sl => (divLanes sl).foldl (fun x j => match f sl j with
      | some v => x.modLane j fun l => { l with nest := v }
      | none => x) sl
    if high.all fun x => x.2.isEmpty then finish s b g sp c else trapWord s b g sp c 0x05 high

/-- `IFP` (R52, R273: the guard is ignored). -/
def execIfp (c : Ctl) (o : IfpOp) (s : State) : Host.Outcome State Fault Refusal :=
  divWord c (fun sl j =>
    let l := sl.lane j
    if l.nest != 0 then (if l.nest == 255 then none else some (l.nest + 1))
    else if l.p o.k.toNat != o.neg then some 0 else some 1) s

/-- `ELSEP` (R52, R273). -/
def execElsep (c : Ctl) (s : State) : Host.Outcome State Fault Refusal :=
  divWord c (fun sl j => let n := (sl.lane j).nest; some (if n == 1 then 0 else if n == 0 then 1 else n)) s

/-- `ENDIFP` (R52, R273). -/
def execEndifp (c : Ctl) (s : State) : Host.Outcome State Fault Refusal :=
  divWord c (fun sl j => let n := (sl.lane j).nest; some (if n == 0 then 0 else n - 1)) s

/-- The counter that leaves `k` levels, or none above 255 (R52). -/
def leaveLevels (c : Ctl) (k : Nat) (sl : Slice) (j : Nat) : Option (BitVec 8) :=
  let l := sl.lane j
  if l.nest == 0 && guardOf c l then (if 255 < k then none else some (BitVec.ofNat 8 k)) else some l.nest

/-- `BRK` (R52, R273). -/
def execBrk (c : Ctl) (o : BitVec 8) (s : State) : Host.Outcome State Fault Refusal :=
  divWord c (leaveLevels c (o.toNat + 2)) s

/-- `CONT` (R52, R273). -/
def execCont (c : Ctl) (o : BitVec 8) (s : State) : Host.Outcome State Fault Refusal :=
  divWord c (leaveLevels c (o.toNat + 1)) s

/-! ### Retiring, yielding, hand-over (R69, R276) -/

/-- Handler lanes that exit without TRAPRET mark their origins (R416). -/
def State.markExits (s : State) (b : Block) (lanes : List Nat) : State :=
  if !b.isHandler then s
  else lanes.foldl (fun s n => match b.handlerOf[n]? with | some o => s.markEntry o 8 | none => s) s

/-- `EXIT` (R69, R276): the run ends when the last active lanes of the split exit (R166). -/
def execExit (c : Ctl) (s : State) : Host.Outcome State Fault Refusal :=
  withSplit s fun b g sp =>
    let mem := memberSlices g sp
    let lanes := mem.flatMap fun sl => (effLanes c sl).map fun j => 4 * sl.num + j
    let s := onMembers s b g sp fun sl => sl.exitLanes (effLanes c sl)
    let left := mem.any fun sl => !(sl.exitLanes (effLanes c sl)).active.isEmpty || sl.frozen
    let s := finish s b g sp c (!left && !lanes.isEmpty)
    (s.markExits b lanes).afterExit b.id g.num

/-- `YIELD` (R168, R276): it ends the run; under a yield request the slices stop and count as yielded. -/
def execYield (c : Ctl) (s : State) : Host.Outcome State Fault Refusal :=
  withSplit s fun b g sp =>
    if (memberSlices g sp).any (takes c) then
      let s := if b.yreq then (onMembers s b g sp fun sl => { sl with yielded := true }).push [.unitSave b.id] else s
      finish s b g sp c true
    else finish s b g sp c

/-- `SPINH` (R166, R276). -/
def execSpinh (c : Ctl) (s : State) : Host.Outcome State Fault Refusal :=
  withSplit s fun b g sp => finish s b g sp c ((memberSlices g sp).any (takes c))

end Sys2Proof.Machine
end

