-- ==== Sys2Proof/Machine/Sync.lean ====
section
/-! DEFINITION. Fences, markers and waits on counters (R313, R314, R319, R320). -/

namespace Sys2Proof.Machine

/-- The place of an engine context among the four of a block (R320). -/
def Ctx.idx (c : Ctx) : Nat := c.code.toNat

/-- The timeline of a context (R95). -/
def Block.tlOf (b : Block) (c : Ctx) : Timeline := b.tl.getD (Ctx.idx c) {}

/-- Changes the timeline of a context. -/
def Block.modTl (b : Block) (c : Ctx) (f : Timeline → Timeline) : Block :=
  { b with tl := b.tl.mapIdx fun i x => if i == Ctx.idx c then f x else x }

/-- The scope at which a fence waits for the issuer's earlier accesses: its own, or .blk for an acquire fence, which waits for earlier
loads only; at .sys it waits, whatever its order, until earlier stores are performed, as what follows it must (R84, R87, R313). -/
def fenceScope (o : FenceOp) : Scope := if o.ord == .acq then (if o.scope == .sys then .die else .blk) else o.scope

/-- The fence acquires (R84). -/
def fenceAcq (o : FenceOp) : Bool := o.ord == .acq || o.ord == .ar

/-- `FENCE` (R84, R87, R313). -/
def execFence (c : Ctl) (o : FenceOp) (s : State) : Host.Outcome State Fault Refusal :=
  match s.cur with
  | some (.seq _) => withSeq s fun b =>
    let r := s.release (seqWho b) (fenceScope o)
    if !r.1 then waitSeq r.2 b (.release (fenceScope o) r.2.upto)
    else finishSeq (if fenceAcq o then r.2.acquire b.core [b.asid] o.scope else r.2) b c
  | _ => withSplit s fun b g sp =>
    let act := (memberSlices g sp).filter (takes c)
    match relAll s b g sp act (fenceScope o) with
    | some s => s
    | none =>
      let s := if fenceAcq o then act.foldl (fun s sl => s.acquire b.core [b.asid, s.accAsid b sl] o.scope) s else s
      finish s b g sp c

/-- Sends the markers of one MARK and puts it in flight on the fabric path (R314). -/
def State.markSlice (s : State) (b : Block) (g : Gang) (sl : Slice) (all : Bool) : State :=
  let who : Issuer := ⟨b.id, g.num, sl.num⟩
  let devs := if all || sl.devOvf then s.members.filter fun d => d != s.devNum else sl.devs
  let s := s.modSlice who fun sl => { sl with devs := [], devOvf := false }
  if devs.isEmpty then s
  else
    let (id, s) := s.newId
    let p : Part := { lane := 0, addr := 0, st := .sent 0 }
    let a : Access := { id, who, path := 3, kind := .mark, esz := 4, asid := b.asid, pc := sl.pc, parts := [p], grp := id }
    let s := s.modSlice who fun sl => { sl with acc := sl.acc ++ [a] }
    devs.foldl (fun s d => s.sendMarker who id d) s

/-- An earlier posted store of a slice to another device has not gone out yet: a marker waits for it (R146 step 1). -/
def Slice.unposted (sl : Slice) : Bool := sl.acc.any fun a => a.path == 3 && a.kind.stores && a.parts.any fun p => p.st == .todo

/-- `MARK` (R314): its markers follow the slice's earlier posted writes (R146). -/
def execMark (c : Ctl) (o : Bool) (s : State) : Host.Outcome State Fault Refusal :=
  withSplit s fun b g sp =>
    let act := (memberSlices g sp).filter (takes c)
    if act.any fun sl => pathFull sl 3 then waitAt s b g sp (.counter 3)
    else if act.any Slice.unposted then waitAt s b g sp (.release .blk s.upto)
    else finish (act.foldl (fun s sl => s.markSlice b g sl o) s) b g sp c

/-- The counters of a slice that WAITP names are at most the threshold (R94, R319); path 8 stands for all
eight. -/
def Slice.pathsLow (sl : Slice) (path thr : Nat) : Bool :=
  if path == 8 then (List.range 8).all fun k => decide (accCount sl.acc k ≤ min thr 63) else decide (accCount sl.acc path ≤ min thr 63)

/-- `WAITP` (R94, R319). -/
def execWaitp (c : Ctl) (o : WaitpOp) (s : State) : Host.Outcome State Fault Refusal :=
  withSplit s fun b g sp =>
    let path := if o.all then 8 else o.path.toNat
    match (memberSlices g sp).find? (fun sl => takes c sl && !sl.pathsLow path (sl.s o.a.toNat).toNat) with
    | some sl => waitAt s b g sp (.waitp sl.num path (sl.s o.a.toNat).toNat)
    | none => finish s b g sp c

/-- The completions of a block's operations act as a release at the scope of the TLWAIT that observes them (R96): at .fab and .sys the
markers and zero-length reads for what they have posted are sent, and awaited (R85). Narrower scopes need nothing more: an operation
completes once its stores are performed or accepted (R337). -/
def State.tlRelease (s : State) (b : Block) (sc : Scope) : Bool × State :=
  if sc == .fab || sc == .sys then s.releaseTo (seqWho b) sc 0 else (true, s)

/-- `TLWAIT` (R95, R96, R320). -/
def execTlwait (c : Ctl) (o : TlOp) (s : State) : Host.Outcome State Fault Refusal :=
  match s.cur with
  | some (.seq _) => withSeq s fun b =>
    let n := (b.seq.q o.n.toNat).toNat
    if (b.tlOf o.ctx).counter < n then waitSeq s b (.tlwait o.ctx n)
    else
      let r := s.tlRelease b o.scope
      if !r.1 then waitSeq r.2 b (.tlwait o.ctx n)
      else finishSeq (r.2.acquire b.core [b.asid] o.scope) b c
  | _ => withSplit s fun b g sp =>
    let act := (memberSlices g sp).filter (takes c)
    match act.find? (fun sl => decide ((b.tlOf o.ctx).counter < (sl.s64 o.n.toNat).toNat)) with
    | some sl => waitAt s b g sp (.tlwait o.ctx (sl.s64 o.n.toNat).toNat)
    | none =>
      if act.isEmpty then finish s b g sp c
      else
        let r := s.tlRelease b o.scope
        if !r.1 then waitAt r.2 b g sp (.tlwait o.ctx 0)
        else finish (r.2.acquire b.core [b.asid] o.scope) b g sp c

/-- `TLREAD` (R320: relaxed; the value is there for the next word). -/
def execTlread (c : Ctl) (o : TlOp) (s : State) : Host.Outcome State Fault Refusal :=
  match s.cur with
  | some (.seq _) => withSeq s fun b =>
    finishSeq (s.modSeq b.id fun q => q.setQ o.d.toNat (BitVec.ofNat 64 (b.tlOf o.ctx).counter)) b c
  | _ => withSplit s fun b g sp =>
    let v : DWord := BitVec.ofNat 64 (b.tlOf o.ctx).counter
    finish (onMembers s b g sp fun sl => if takes c sl then sl.setS64 o.d.toNat v else sl) b g sp c

/-- `TLADV` (R320: the answer goes to every active lane; when it is true, an acquire). -/
def execTladv (c : Ctl) (o : TlOp) (s : State) : Host.Outcome State Fault Refusal :=
  withSplit s fun b g sp =>
    let yes : Slice → Bool := fun sl => decide ((sl.s64 o.n.toNat).toNat ≤ (b.tlOf o.ctx).counter)
    let any := (memberSlices g sp).any fun sl => takes c sl && yes sl
    let s := onMembers s b g sp fun sl =>
      if takes c sl then sl.active.foldl (fun x j => x.modLane j fun l => l.setP o.d.toNat (yes sl)) sl else sl
    finish (if any then s.acquire b.core [b.asid] o.scope else s) b g sp c

end Sys2Proof.Machine
end

