-- ==== Sys2Proof/Machine/Uniform.lean ====
section
/-! DEFINITION. The uniform stream's own operations, and the issue of tile copies and collectives to the engine
contexts (R329 to R339, R349, R167). What the engines then do stands with their own steps. -/

namespace Sys2Proof.Machine

/-! ### Sequencer operations (R332) -/

/-- `QADD` (R332). -/
def execQadd (c : Ctl) (o : QaddOp) (s : State) : Host.Outcome State Fault Refusal :=
  seqWord c (fun q =>
    let b : DWord := match o.b with | .inl r => q.q r.toNat | .inr i => i.signExtend 64
    [(o.d.toNat, q.q o.a.toNat + b)]) s

/-- Replaces halfword `h` of a word (R332). -/
def putHalf (w : DWord) (h : BitVec 2) (imm : BitVec 16) : DWord :=
  (w &&& ~~~((0xFFFF : DWord) <<< (16 * h.toNat))) ||| (imm.setWidth 64 <<< (16 * h.toNat))

/-- `QMOVI` (R332). -/
def execQmovi (c : Ctl) (o : QmoviOp) (s : State) : Host.Outcome State Fault Refusal :=
  seqWord c (fun q => [(o.d.toNat, putHalf (if o.z then 0 else q.q o.d.toNat) o.h o.imm)]) s

/-- A precise fault of an address that a uniform word uses (R407, R464). -/
def trapSeqAddr (s : State) (b : Block) (code : BitVec 8) (kind path a info : Nat) : State :=
  s.trapSeq b.id { code, pc := b.seq.pc, addr := BitVec.ofNat 64 a, agent := 1,
                   detail := memDetail kind path 0xFF 0 0 (BitVec.ofNat 64 info) }

/-- `QLD` (R332: the destination is held until the load returns). -/
def execQld (c : Ctl) (o : MOp) (s : State) : Host.Outcome State Fault Refusal :=
  withSeq s fun b =>
    let v := o.y == 1
    let a := if v then (lo32 (b.seq.q o.a.toNat) + lo32 (offOf 8 o.off)).toNat else (b.seq.q o.a.toNat + offOf 8 o.off).toNat
    let path := if v then s.vaultPath b a else (vaClass a).path
    if 63 ≤ accCount b.seq.acc path then waitSeq s b (.counter path)
    else if a % 8 != 0 then trapSeqAddr s b 0x23 0 path a 0
    else if v && !s.vaultOk b a 8 then trapSeqAddr s b 0x24 0 path a a
    else
      let (id, s) := s.newId
      let acc : Access := { id, who := seqWho b, path, kind := if v then .vqld else .qld, esz := 8, asid := b.asid, ord := o.ord,
                            scope := o.scope, pc := b.seq.pc, parts := [{ lane := 0, addr := a, dst := o.d.toNat }], grp := id }
      let s := s.modSeq b.id fun q => { q with acc := q.acc ++ [acc], held := q.held ++ [o.d.toNat] }
      finishSeq (s.push [.accessCompletion id]) b c

/-- The condition of QBRA, against zero (R227, R332). -/
def qbraTaken (o : CBraOp) (x : DWord) : Bool :=
  match o.cond with
  | .eq => x == 0
  | .ne => x != 0
  | .lt => !o.u && x.toInt < 0
  | .le => x == 0 || (!o.u && x.toInt < 0)
  | .gt => if o.u then x != 0 else decide (0 < x.toInt)
  | .ge => o.u || decide (0 ≤ x.toInt)
  | .num => true
  | .nan => false

/-- `QBRA` (R332). -/
def execQbra (c : Ctl) (o : CBraOp) (s : State) : Host.Outcome State Fault Refusal :=
  withSeq s fun b =>
    if qbraTaken o (b.seq.q o.a.toNat) then finishSeqTo s b c (nextPc b.seq.pc + (o.off.signExtend 48) * 8) else finishSeq s b c

/-- `QWAIT.end` (R65: the stream ends; the block may retire). -/
def execQwaitEnd (_c : Ctl) (s : State) : Host.Outcome State Fault Refusal :=
  withSeq s fun b => (s.modSeq b.id fun q => { q with ended := true, wait := .ended, made := true }).push [.blockRetirement b.id]

/-- `QWAIT.until` (R332). -/
def execQwaitUntil (c : Ctl) (o : BitVec 6) (s : State) : Host.Outcome State Fault Refusal :=
  withSeq s fun b =>
    let t := (b.seq.q o.toNat).toNat
    if t ≤ s.gtime then finishSeq s b c
    else
      let s := if b.seq.made then s else s.timer t (.qwaitDeadline b.id)
      waitSeq s b (.until' t) true

/-! ### Leave (R167, R349) -/

/-- The leaves in use on a die (R167). -/
def State.leavesHeld (s : State) (die : Nat) : Nat :=
  (s.blocks.filter fun b => dieOf b.core == die).foldl (fun n b => n + b.leaveHeld.toNat + b.leaves.length) 0

/-- Asks the die's governor for a leave, once, and waits for it (R167). -/
def State.askLeave (s : State) (b : Block) (k : Option Ctx) : State :=
  let d := dieOf b.core
  let s := if (s.die d).gov.queue.contains (b.id, k) then s
    else (s.modDie d fun x => { x with gov := { x.gov with queue := x.gov.queue ++ [(b.id, k)] } }).push [.leaveGrant d]
  waitSeq s b .leave

/-- `MLEAVE.get` (R349: with a leave held it does nothing). -/
def execMleaveGet (c : Ctl) (s : State) : Host.Outcome State Fault Refusal :=
  withSeq s fun b => if b.leaveHeld then finishSeq s b c else s.askLeave b none

/-- `MLEAVE.put` (R349: without a leave it does nothing). -/
def execMleavePut (c : Ctl) (s : State) : Host.Outcome State Fault Refusal :=
  withSeq s fun b =>
    let d := dieOf b.core
    -- a leave that a restore has asked for again is not asked for any more
    let s := s.modDie d fun x => { x with gov := { x.gov with queue := x.gov.queue.filter fun y => y != (b.id, none) } }
    let s := if b.leaveHeld then (s.modBlk b.id fun b => { b with leaveHeld := false }).push [.leaveGrant d] else s
    finishSeq s b c

/-! ### Issue to an engine context (R95, R329) -/

/-- The operations of a context that have been issued and have not completed. -/
def Block.open' (b : Block) (k : Ctx) : List EngOp := b.ops.filter fun x => x.ctx == k && !x.done

/-- Hands an operation to a context: it holds the sequencer while 16 are open (R329) and while a leave that it needs is
not held (R167); then it takes the context's next number (R95). -/
def issueEng (c : Ctl) (k : Ctx) (leave : Bool) (kind : EngKind) (q : List DWord) (b : Block) (s : State) : State :=
  if 16 ≤ (b.open' k).length then waitSeq s b (.full k)
  else if leave && !b.leaveHeld && !b.leaves.contains k then s.askLeave b (some k)
  else
    let n := (b.tlOf k).issued + 1
    let op : EngOp := { ctx := k, num := n, kind, q, pc := b.seq.pc, fmt := b.fmt, after := s.nextId }
    let s := s.modBlk b.id fun b => { (b.modTl k fun t => { t with issued := n }) with ops := b.ops ++ [op] }
    finishSeq (s.push [.engineOpBegin b.id k n]) b c

/-- What the sequencer did before it issued an operation is not complete: the operation does not begin (R96). -/
def Block.issueHeld (b : Block) (op : EngOp) : Bool := b.seq.acc.any fun a => decide (a.key < op.after) && !a.complete

/-- The q operands of a word, in the order D, A, B, M[7:0], B + 1 (R329). -/
def qOperands (b : Block) (d a x m : BitVec 6) : List DWord :=
  [b.seq.q d.toNat, b.seq.q a.toNat, b.seq.q x.toNat, b.seq.q m.toNat, b.seq.q (x.toNat + 1)]

/-! ### Tile copies (R335 to R337) -/

/-- A copy's descriptor address names a descriptor that can be read (R336, R443). -/
def State.descOk (s : State) (b : Block) (addr : Nat) : Bool := addr % 64 == 0 && s.vaultOk b addr 64

/-- A descriptor's tensor has host-class addresses (R336: SPACE and BASE[47:46]). -/
def Desc.hostEnd (d : Desc) : Bool := !d.vault && vaClass d.base == .host

/-- The context of a copy, from its tensor ends (R336). -/
def State.copyCtx (s : State) (b : Block) (addrs : List Nat) : Ctx :=
  if addrs.all (s.descOk b) && addrs.any fun a => (s.descAt (dieOf b.core) a).hostEnd then .host else .copy

/-- The bytes that a copy's box holds (R335). -/
def boxBytes (x : DWord) (e : Nat) : Nat := fld x 0 16 * fld x 16 16 * e

/-- The tensor ends that a copy names: TFILL none, TCOPY two (R336). -/
def copyEnds (code : Nat) (b : Block) (o : CopyOp) : List Nat :=
  let a := fun (i : BitVec 6) => (b.seq.q i.toNat).toNat % 2 ^ 32
  if code == 0x207 then [] else if code == 0x202 then [a o.a, a o.d] else [a o.a]

/-- Issues a copy; one of more than 256 KiB needs a leave (R167, R336). -/
def copyWord (code : Nat) (c : Ctl) (o : CopyOp) (s : State) : Host.Outcome State Fault Refusal :=
  withSeq s fun b =>
    let ends := copyEnds code b o
    let x := b.seq.q o.x.toNat
    let e := match ends with
      | a :: _ => if s.descOk b a then etypeSize (s.descAt (dieOf b.core) a).etype else 0
      | [] => 4
    issueEng c (s.copyCtx b ends) (decide (262144 < boxBytes x e)) (.copy code o) (qOperands b o.d o.a o.b o.x) b s

/-- `TLOAD` (R336). -/
def execTload (c : Ctl) (o : CopyOp) (s : State) : Host.Outcome State Fault Refusal := copyWord 0x200 c o s

/-- `TSTORE` (R336). -/
def execTstore (c : Ctl) (o : CopyOp) (s : State) : Host.Outcome State Fault Refusal := copyWord 0x201 c o s

/-- `TCOPY` (R336). -/
def execTcopy (c : Ctl) (o : CopyOp) (s : State) : Host.Outcome State Fault Refusal := copyWord 0x202 c o s

/-- `TGATH` (R336). -/
def execTgath (c : Ctl) (o : CopyOp) (s : State) : Host.Outcome State Fault Refusal := copyWord 0x203 c o s

/-- `TSCAT` (R336). -/
def execTscat (c : Ctl) (o : CopyOp) (s : State) : Host.Outcome State Fault Refusal := copyWord 0x204 c o s

/-- `TFILL` (R336). -/
def execTfill (c : Ctl) (o : CopyOp) (s : State) : Host.Outcome State Fault Refusal := copyWord 0x207 c o s

/-! ### TLSIG (R338) -/

/-- Makes the queued arrivals whose counters have come so far, in issue order at each barrier (R338). -/
def Block.sigSettle (b : Block) : Block :=
  b.sigs.foldl (fun b x =>
    let kept := b.sigs
    match kept.find? fun y => y.2.2 == x.2.2 with
    | some y =>
      if y == x && decide (x.2.1 ≤ (b.tlOf x.1).counter) then ({ b with sigs := kept.erase x } : Block).seqArrive x.2.2 else b
    | none => b) b

/-- `TLSIG` (R338: a 17th queued arrival holds the sequencer). -/
def execTlsig (c : Ctl) (o : TlsigOp) (s : State) : Host.Outcome State Fault Refusal :=
  withSeq s fun b =>
    if 16 ≤ b.sigs.length then waitSeq s b .tlsig
    else
      let sig : Ctx × Nat × Nat := (o.ctx, (b.seq.q o.a.toNat).toNat, o.b.toNat)
      finishSeq (s.modBlk b.id fun b => ({ b with sigs := b.sigs ++ [sig] } : Block).sigSettle) b c

/-! ### Collectives (R339) -/

/-- The level bound to the block domain, BLKLEV (R42, R155). -/
def Block.blkLev (b : Block) : Nat := (b.levels.findIdx? fun x => x.1 == 2).getD 0

/-- Issues a collective on a level that is declared and not below BLKLEV (R339, R468). -/
def collWord (code : Nat) (c : Ctl) (o : CollOp) (s : State) : Host.Outcome State Fault Refusal :=
  withSeq s fun b =>
    let k := o.lv.toNat
    if k < b.blkLev || b.levels.length ≤ k then trapSeqWord s b 0x01
    else
      let j := mgetD b.collJ k 0
      let s' := issueEng c .coll false (.coll code o j) (qOperands b 0 o.a o.b 0) b s
      if 16 ≤ (b.open' .coll).length then s' else s'.modBlk b.id fun b => { b with collJ := mset b.collJ k (j + 1) }

/-- `CREDUCE` (R339). -/
def execCreduce (c : Ctl) (o : CollOp) (s : State) : Host.Outcome State Fault Refusal := collWord 0x205 c o s

/-- `CBCAST` (R339). -/
def execCbcast (c : Ctl) (o : CollOp) (s : State) : Host.Outcome State Fault Refusal := collWord 0x206 c o s

end Sys2Proof.Machine
end

