-- ==== Sys2Proof/Machine/Matrix.lean ====
section
/-! DEFINITION. The issue of matrix and tile operations to the matrix context (R340 to R348, R167, R484). What the
matrix engine then does stands with its own steps. -/

namespace Sys2Proof.Machine

/-! ### The format word (R340, R341) -/

/-- The types of A and B and the accumulator that a format word names (R340). -/
def fmtA (f : BitVec 20) : Nat := f.toNat / 2 ^ 12 % 16
def fmtB (f : BitVec 20) : Nat := f.toNat / 2 ^ 8 % 16
def fmtAcc (f : BitVec 20) : Nat := f.toNat / 2 ^ 6 % 4

/-- The group along K of a valid format word; none for a word outside R341. -/
def fmtGroup (f : BitVec 20) : Option Nat :=
  let a := fmtA f
  let b := fmtB f
  let narrow := fun x => 7 ≤ x && x ≤ 11
  let half := fun x => x == 5 || x == 6
  match fmtAcc f with
  | 0 => if narrow a && narrow b then some 32 else if half a && half b then some 8 else if a == 4 && b == 4 then some 1 else none
  | 1 => if a == 3 && b == 3 then some 1 else none
  | 2 => if a == 12 && b == 12 then some 32 else none
  | _ => none

/-- A word that service level 1 does not offer (R389, R484). -/
def State.fmtLow (s : State) (f : BitVec 20) : Bool :=
  s.level == 1 && !((4 ≤ fmtA f && fmtA f ≤ 6) && (4 ≤ fmtB f && fmtB f ≤ 6))

/-- `MFMT` (R340: accepted whatever it names, R484). -/
def execMfmt (c : Ctl) (o : BitVec 20) (s : State) : Host.Outcome State Fault Refusal :=
  withSeq s fun b => finishSeq (s.modBlk b.id fun b => { b with fmt := o }) b c

/-! ### Products (R342 to R344) -/

/-- Issues a product; under a format word that is not offered it is not issued (R408 code 0x0B). -/
def mmaWord (c : Ctl) (o : MmaOp) (sparse gs : Bool) (s : State) : Host.Outcome State Fault Refusal :=
  withSeq s fun b =>
    if (fmtGroup b.fmt).isNone then trapSeqWord s b 0x0B 0 b.fmt.toNat
    else if s.fmtLow b.fmt then trapSeqWord s b 0x0B 0 (b.fmt.toNat + s.level.toNat * 2 ^ 32)
    else issueEng c .matrix true (.mat (.mma o sparse gs)) (qOperands b 0 o.a o.b o.l) b s

/-- `MMA` (R343). -/
def execMma (c : Ctl) (o : MmaOp) (s : State) : Host.Outcome State Fault Refusal := mmaWord c o false false s

/-- `MMAS` (R343: a sparse A operand). -/
def execMmas (c : Ctl) (o : MmaOp) (s : State) : Host.Outcome State Fault Refusal := mmaWord c o true false s

/-- `MMAG` (R343: gather and scatter). -/
def execMmag (c : Ctl) (o : MmaOp) (s : State) : Host.Outcome State Fault Refusal := mmaWord c o false true s

/-! ### Cooperation (R347) -/

/-- The fields of a group word: GID, NR, NC, MR, MC. -/
def coopFields (w : DWord) : Nat × Nat × Nat × Nat × Nat := (fld w 56 8, fld w 54 2, fld w 51 3, fld w 49 2, fld w 46 3)

/-- A group word that MCOOP accepts (R347, R468). -/
def coopOk (w : DWord) : Bool :=
  let (_, nr, nc, mr, mc) := coopFields w
  w == 0 || (fld w 0 46 == 0 && 1 ≤ nr && 1 ≤ nc && nc ≤ 6 && mr < nr && mc < nc)

/-- `MCOOP` (R347). -/
def execMcoop (c : Ctl) (o : BitVec 6) (s : State) : Host.Outcome State Fault Refusal :=
  withSeq s fun b =>
    let w := b.seq.q o.toNat
    if !coopOk w then trapSeqWord s b 0x01 else issueEng c .matrix true (.mat (.coop w)) [w] b s

/-! ### Tile operations (R348) -/

/-- Issues a tile operation with its q operands; MSYNC takes the numbers that the contexts it names have issued. -/
def tileWord (code : Nat) (c : Ctl) (o : TileOp) (s : State) : Host.Outcome State Fault Refusal :=
  withSeq s fun b =>
    let q := if code == 0x248 then [Ctx.copy, .coll, .host].map fun k => BitVec.ofNat 64 (b.tlOf k).issued
      else qOperands b o.d o.a o.b o.c
    issueEng c .matrix true (.mat (.tile code o)) q b s

/-- `MZERO` (R348). -/
def execMzero (c : Ctl) (o : TileOp) (s : State) : Host.Outcome State Fault Refusal := tileWord 0x243 c o s

/-- `MLOADT` (R348). -/
def execMloadt (c : Ctl) (o : TileOp) (s : State) : Host.Outcome State Fault Refusal := tileWord 0x244 c o s

/-- `MSTORET` (R348). -/
def execMstoret (c : Ctl) (o : TileOp) (s : State) : Host.Outcome State Fault Refusal := tileWord 0x245 c o s

/-- `MCVT` (R348). -/
def execMcvt (c : Ctl) (o : TileOp) (s : State) : Host.Outcome State Fault Refusal := tileWord 0x246 c o s

/-- `MSYNC` (R348). -/
def execMsync (c : Ctl) (o : TileOp) (s : State) : Host.Outcome State Fault Refusal := tileWord 0x248 c o s

/-- `MTRANS` (R348). -/
def execMtrans (c : Ctl) (o : TileOp) (s : State) : Host.Outcome State Fault Refusal := tileWord 0x249 c o s

/-- `MADDT` (R348). -/
def execMaddt (c : Ctl) (o : TileOp) (s : State) : Host.Outcome State Fault Refusal := tileWord 0x24A c o s

/-- `MSCALE` (R348). -/
def execMscale (c : Ctl) (o : TileOp) (s : State) : Host.Outcome State Fault Refusal := tileWord 0x24B c o s

/-- `MHIST` (R348). -/
def execMhist (c : Ctl) (o : TileOp) (s : State) : Host.Outcome State Fault Refusal := tileWord 0x24C c o s

/-- `MQUANT` (R348). -/
def execMquant (c : Ctl) (o : TileOp) (s : State) : Host.Outcome State Fault Refusal := tileWord 0x24D c o s

/-- `MACT` (R348). -/
def execMact (c : Ctl) (o : TileOp) (s : State) : Host.Outcome State Fault Refusal := tileWord 0x24E c o s

/-- `MROWRED` (R348). -/
def execMrowred (c : Ctl) (o : TileOp) (s : State) : Host.Outcome State Fault Refusal := tileWord 0x24F c o s

end Sys2Proof.Machine
end

