-- ==== Sys2Proof/Machine/Engine.lean ====
section
/-! DEFINITION. The engine contexts of a block at work: how operations begin, read and write memory, fault and
complete (R95, R99, R330, R442 to R444), and tile copies (R333 to R337). -/

namespace Sys2Proof.Machine

/-! ### Operations of a block -/

/-- The AGENT of an engine context in a fault record (R401). -/
def Ctx.agent (k : Ctx) : Nat := 2 + Ctx.idx k

/-- An operation faults (R444): it keeps its number, its record is written and its block halts. `kind` and `prog` are
the KIND and PROG of R437. -/
def State.engFault (s : State) (b : Block) (op : EngOp) (code : BitVec 8) (addr lvl : Nat) (info : DWord) (kind prog : Nat) :
    State :=
  let path := if vaClass addr == .package && addr < 2 ^ 32 then 0 else (vaClass addr).path
  let s := s.modOp b.id op.ctx op.num fun x => { x with fault := some code, asked := x.asked.filter fun y => decide (y < 2 ^ 66) }
  s.trapSeq b.id { code, prec := false, pc := op.pc, addr := BitVec.ofNat 64 addr, agent := Ctx.agent op.ctx,
                   detail := memDetail kind path lvl 0 prog info, op := some (op.ctx, op.num) }

/-- Lets the timeline of a context advance over completed numbers (R95). -/
def Timeline.finish (t : Timeline) (n : Nat) : Timeline :=
  let rec go (k : Nat) (t : Timeline) : Timeline :=
    match k with
    | 0 => t
    | k + 1 => if t.extra.contains (t.counter + 1) then
        go k { t with counter := t.counter + 1, extra := t.extra.filter fun x => x != t.counter + 1 }
      else t
  go (t.extra.length + 1) { t with extra := addNew t.extra n }

/-- An operation completes (R95, R338): its number counts, barrier arrivals that waited for it are made, and the
operations behind it may begin. -/
def State.engDone (s : State) (bid : Nat) (k : Ctx) (n : Nat) : State :=
  let s := s.modBlk bid fun b =>
    ({ (b.modTl k fun t => t.finish n) with ops := b.ops.filter fun x => !(x.ctx == k && x.num == n) } : Block).sigSettle
  match s.blk bid with
  | none => s
  | some b =>
    let next := (b.ops.filter fun x => !x.begun && x.fault.isNone && (x.ctx == .matrix || x.ctx == .coll)).map fun x =>
      Event.engineOpBegin bid x.ctx x.num
    let s := if (b.open' k).isEmpty && b.leaves.contains k then s.timer (s.gtime + 1000) (.leaveExpiry bid k) else s
    s.push (next ++ if b.seq.ended then [.blockRetirement bid] else [])

/-! ### Engine reads (R337, R346) -/

/-- The spaces that an engine's addresses lie in: global memory, the vaults, and the block's tiles, where tile t begins
at 16,384 t. -/
inductive ESpace where
  | glob | vlt | tile
  deriving DecidableEq, Repr, Inhabited

/-- Whether an engine can read bytes now: it can, it must ask another party for a word or wait for a page walk, or it faults. -/
inductive EngRd where
  | ok
  | walk (va : Nat)
  | ask (va pa : Nat) (e : DWord)
  | bad (code : BitVec 8) (addr lvl : Nat) (info : DWord)
  deriving Repr, Inhabited

/-- The words of a tile (R331): 64 rows of 64; one that nothing has written holds unspecified values (entry 4). -/
def Block.tile (b : Block) (t : Nat) : List Word :=
  (mget b.tiles t).getD ((List.range 4096).map fun i => Config.freeWord b.tileSerial (4096 * t + i))

/-- Sets a tile. -/
def Block.setTile (b : Block) (t : Nat) (l : List Word) : Block := { b with tiles := mset b.tiles t l }

/-- Bytes of the tiles, as a number. -/
def Block.tileRd (b : Block) (a n : Nat) : Nat :=
  let l := b.tile (a / 16384)
  ofBytes ((List.range n).map fun k =>
    let i := a % 16384 + k
    (l.getD (i / 4) 0).extractLsb' (8 * (i % 4)) 8)

/-- Replaces a byte of a word. -/
def putByte (w : Word) (k : Nat) (v : Byte) : Word := (w &&& ~~~((255 : Word) <<< (8 * k))) ||| (v.setWidth 32 <<< (8 * k))

/-- Writes bytes of a tile. -/
def Block.tileWr (b : Block) (a n v : Nat) : Block :=
  let l := (List.range n).foldl (fun l k =>
    let i := a % 16384 + k
    l.modify (i / 4) fun w => putByte w (i % 4) (BitVec.ofNat 8 (v / 256 ^ k % 256))) (b.tile (a / 16384))
  b.setTile (a / 16384) l

/-- A word of eight bytes that lies in the inbox of an operation. -/
def EngOp.has (op : EngOp) (va : Nat) : Bool := op.inbox.any fun x => x.1 == va

/-- An operation must wait for the walk of a page: no unit keeps its translation, and no walk of it has ended in a fault (R27, R439). -/
def State.engMiss (s : State) (b : Block) (op : EngOp) (va : Nat) : Bool :=
  decide (va < 2 ^ 48) && (s.tlbFind (dieOf b.core) b.asid va).isNone && !op.asked.contains (faultKey va)

/-- The walk that an operation waits for. -/
def State.engWalk (s : State) (b : Block) (op : EngOp) (va : Nat) : State :=
  (s.modOp b.id op.ctx op.num fun x => { x with asked := addNew x.asked (walkKey va) }).startWalk (dieOf b.core) b.asid va

/-- The check of one aligned word of global memory for an engine read: a relaxed load, which the store path serves, or the L2 with a
token (R79, R108, R337, R346). -/
def State.engChkWord (s : State) (b : Block) (op : EngOp) (va : Nat) : EngRd :=
  let d := dieOf b.core
  if op.has va || spCovers (s.core b.core).sp b.asid va 8 then .ok
  else if 2 ^ 48 ≤ va then .bad 0x20 va 0xFF 0
  else if s.engMiss b op va then .walk va
  else match s.xlatAt d b.asid va .load with
    | .inr (c, l, e) => .bad c va l e
    | .inl (pa, e) =>
      match s.place pa with
      | .hostPort _ => .ask va pa e
      | _ =>
        match s.refusal (pa / 64) (leafT e) with
        | some c => .bad c va 0xFF 0
        | none =>
          let x := s.l2 d (pa / 64)
          if x.tokn != 0 && x.t != leafT e then .bad 0x2C va 0xFF 0
          else if s.dataBad d pa 8 then .bad 0x2D va 0xFF 0
          else if 1 ≤ x.tokn && x.dv then .ok
          else .ask va pa e

/-- The checks of bytes that an engine reads. -/
def State.engChk (s : State) (b : Block) (op : EngOp) (x : ESpace × Nat × Nat) : List EngRd :=
  match x.1 with
  | .tile => []
  | .vlt =>
    if !s.vaultOk b x.2.1 x.2.2 then [.bad 0x24 x.2.1 0xFF (BitVec.ofNat 64 x.2.1)]
    else if s.badVaultAt (dieOf b.core) x.2.1 x.2.2 then [.bad 0x2D x.2.1 0xFF 0] else []
  | .glob => (List.range ((x.2.1 % 8 + x.2.2 + 7) / 8)).map fun k => s.engChkWord b op (x.2.1 / 8 * 8 + 8 * k)

/-- A byte that an engine reads, once its checks have passed. -/
def State.engByte (s : State) (b : Block) (op : EngOp) (va : Nat) : Byte :=
  let sp := (s.core b.core).sp
  match spByte sp b.asid va, op.inbox.find? fun x => x.1 == va with
  | some v, _ => v
  | none, some x => x.2
  | none, none =>
    match s.xlatAt (dieOf b.core) b.asid va .load with
    | .inl (pa, _) => secByte (spLay sp (pa / 64) (s.l2 (dieOf b.core) (pa / 64)).data) (pa % 64)
    | .inr _ => 0

/-- Bytes that an engine reads, as a number. -/
def State.engVal (s : State) (b : Block) (op : EngOp) (sp : ESpace) (a n : Nat) : Nat :=
  match sp with
  | .tile => b.tileRd a n
  | .vlt => s.vlRd (dieOf b.core) a n
  | .glob => ofBytes ((List.range n).map fun k => s.engByte b op (a + k))

/-- A word or a store of an operation is held for a page on its way to the host, and one record of its block says so (R130, R460). -/
def State.engHold (s : State) (b : Block) (op : EngOp) (va : Nat) : State :=
  if op.asked.contains (heldKey va) then s
  else
    let first := !(b.accs.any fun x => x.tries == 0x80) && !(b.ops.any fun x => x.asked.any isHeldKey)
    let s := (s.modOp b.id op.ctx op.num fun x => { x with asked := addNew x.asked (heldKey va) }).push (s.homeOps.map Event.accessCompletion)
    if first then s.record b 0 { code := 0x2F, prec := false, pc := op.pc, addr := BitVec.ofNat 64 va, agent := Ctx.agent op.ctx } 0 0 0
    else s

/-- A read of eight bytes goes out on a host port, with the number under which what it brings is kept; with too many requests
outstanding at the port it waits (R149). -/
def State.hostRead8 (s : State) (port addr key : Nat) (eng : Option (Nat × Ctx × Nat)) (pull : Option Nat) : State :=
  let tag := s.freeTag
  let s := s.send (.hostRead port tag addr 8)
  let hr : HostReq := { tag, acc := 0, lane := key, port, addr, atomic := false, time := s.gtime, eng, pull }
  ({ s with hostReqs := s.hostReqs ++ [hr] }).timer (s.gtime + 50000000) (.hostCompletionTimeout tag)

/-- Asks for a word: a read on a host port, or a token (R108, R127, R149). -/
def State.engAsk (s : State) (b : Block) (op : EngOp) (va pa : Nat) (e : DWord) : State :=
  if op.asked.contains va then
    if s.hostPage (pa / 64) then (s.modOp b.id op.ctx op.num fun x => { x with asked := x.asked.erase va }).engHold b op va else s
  else
    let mark := s.modOp b.id op.ctx op.num fun x => { x with asked := addNew x.asked va }
    match s.place pa with
    | .hostPort port =>
      if s.hostRoom port 1 then mark.hostRead8 port (pa % 2 ^ 48) va (some (b.id, op.ctx, op.num)) none else s
    | _ =>
      if s.hostPage (pa / 64) then s.engHold b op va
      else mark.need (dieOf b.core) (pa / 64) false (leafT e) b.asid

/-- Everything an operation must read: none when all of it can be read now, else the state in which the words that
are missing have been asked for, or in which the operation has faulted. -/
def State.engGather (s : State) (b : Block) (op : EngOp) (prog : Nat) (l : List (ESpace × Nat × Nat)) : Option State :=
  let chk := l.flatMap (s.engChk b op)
  match chk.find? fun x => match x with | .bad .. => true | _ => false with
  | some (.bad c a lvl i) => some (s.engFault b op c a lvl i 4 prog)
  | _ =>
    let asks := chk.filterMap fun x => match x with | .ask va pa e => some (va, pa, e) | _ => none
    let walks := chk.filterMap fun x => match x with | .walk va => some va | _ => none
    if asks.isEmpty && walks.isEmpty then none
    else some (asks.foldl (fun s x => s.engAsk b op x.1 x.2.1 x.2.2) (walks.foldl (fun s va => s.engWalk b op va) s))

/-! ### Engine writes -/

/-- Posts a write of an operation to another device; it lies in the store path until it is accepted (R78, R126, R337). -/
def State.engPost (s : State) (b : Block) (op : EngOp) (va pa n v t : Nat) : State :=
  let (id, s) := s.newId
  let rid := id % 65536
  let p : VPkt := { kind := 2, esz := n, dst := fabDev pa, src := s.devNum, ctx := b.asid, page := pa % 2 ^ 42 / 65536, rid,
                    aop := 0, offs := [BitVec.ofNat 16 (pa % 65536)], data := [BitVec.ofNat 64 v], t }
  let fr : FabReq := { rid, acc := id, lanes := [], pkt := p, time := s.gtime, eng := some (b.id, op.ctx, op.num) }
  let s := { s.sendPkt p with fabReqs := s.fabReqs ++ [fr] }
  let s := (s.timer (s.gtime + 8000) (.fabricRequestTimeout rid)).track (seqWho b) (fabDev pa)
  let s := s.joinPath b.core { acc := id, lane := 0, who := seqWho b, asid := b.asid, va, pa, esz := n, data := BitVec.ofNat 64 v, t, posted := true,
                               eng := some (b.id, op.ctx, op.num) }
  s.modOp b.id op.ctx op.num fun x => { x with posted := x.posted + 1 }

/-- Writes up to eight bytes of an operation (R337): the state after it, or the code, level and INFO of its
fault. A global store enters the core's store path and is performed once the L2 holds all tokens (R78, R108); data enters no vault but
the core's own (R147). -/
def State.engWrite (s : State) (b : Block) (op : EngOp) (sp : ESpace) (a n v : Nat) : Sum State (BitVec 8 × Nat × DWord) :=
  match sp with
  | .tile => .inl (s.modBlk b.id fun b => b.tileWr a n v)
  | .vlt =>
    if !s.vaultOk b a n || a / 2 ^ 22 != b.firstCore % 64 then .inr (0x24, 0xFF, BitVec.ofNat 64 a)
    else if s.hitsArmed (dieOf b.core) a n then .inr (0x27, 0xFF, BitVec.ofNat 64 (a / 16 * 16))
    else .inl (s.vaultPut (dieOf b.core) a n v)
  | .glob =>
    if 2 ^ 48 ≤ a then .inr (0x20, 0xFF, 0)
    else match s.xlatAt (dieOf b.core) b.asid a .store with
      | .inr x => .inr x
      | .inl (pa, e) =>
        match s.place pa with
        | .hostPort port => .inl ((s.send (.hostWrite port (pa % 2 ^ 48) (leBytes n v))).trackHost (seqWho b) port (pa % 2 ^ 48))
        | .remote => .inl (s.engPost b op a pa n v (leafT e))
        | .tokens => match s.refusal (pa / 64) (leafT e) with
          | some c => .inr (c, 0xFF, 0)
          | none =>
            let (id, s) := s.newId
            let se : SpEntry := { acc := id, lane := 0, who := seqWho b, asid := b.asid, va := a, pa, esz := n, data := BitVec.ofNat 64 v,
                                  t := leafT e, eng := some (b.id, op.ctx, op.num) }
            let s := (s.joinPath b.core se).modOp b.id op.ctx op.num fun x => { x with posted := x.posted + 1 }
            .inl (s.performEng b.core se)

/-- A store of an operation leaves the store path. -/
def State.engLeave (s : State) (core : Nat) (e : SpEntry) : State :=
  let s := s.modCore core fun c => { c with sp := c.sp.filter fun y => y.acc != e.acc }
  match e.eng with
  | some (bid, k, n) => s.modOp bid k n fun x => { x with posted := x.posted - 1 }
  | none => s

/-- A store of an operation that waits in the store path has its turn: it is performed; it faults where the tokens held are of
another T (R486); or, of a page on its way to the host, it is made again through a fresh walk, or held (R130, R460). -/
def State.engRetry (s : State) (b : Block) (op : EngOp) (e : SpEntry) : State :=
  let sec := e.pa / 64
  let x := s.l2 (dieOf b.core) sec
  if e.posted then s
  else if x.tokn != 0 && x.t != e.t then (s.engLeave b.core e).engFault b op 0x2C e.va 0xFF 0 5 0
  else if !s.hostPage sec || (x.tokn == e.t && x.dv) then s.performEng b.core e
  else match s.xlatAt (dieOf b.core) e.asid e.va .store with
    | .inr (c, l, i) => (s.engLeave b.core e).engFault b op c e.va l i 5 0
    | .inl (pa, _) =>
      if pa == e.pa then s.engHold b op e.va
      else match (s.engLeave b.core e).engWrite b op .glob e.va e.esz e.data.toNat with
        | .inl s => s
        | .inr (c, l, i) => (s.engLeave b.core e).engFault b op c e.va l i 5 0

/-- The stores of an operation that lie in store paths have their turn; those of one that is no longer there are performed too, or,
where the tokens or the page have changed, given up. -/
def State.engPath (s : State) (bid : Nat) (k : Ctx) (n : Nat) : State :=
  let l := s.cores.flatMap fun x => (x.2.sp.filter fun e => e.eng == some (bid, k, n)).map fun e => (x.1, e)
  l.foldl (fun s x =>
    match (s.blk bid).bind fun b => ((b.opOf k n).filter fun op => op.fault.isNone && b.core == x.1).map fun op => (b, op) with
    | some (b, op) => s.engRetry b op x.2
    | none =>
      let y := s.l2 (dieOf x.1) (x.2.pa / 64)
      if !x.2.posted && (s.hostPage (x.2.pa / 64) || (y.tokn != 0 && y.t != x.2.t)) then s.engLeave x.1 x.2 else s.performEng x.1 x.2) s

/-- The stores of an operation that is stopped leave the store path, and the L1 what they have put there (R425). -/
def State.engDrop (s : State) (bid : Nat) (k : Ctx) (n : Nat) : State :=
  { s with cores := s.cores.map fun x =>
      let l := x.2.sp.filter fun e => e.eng == some (bid, k, n)
      (x.1, { l.foldl (fun (c : Core) e => c.l1DropPa e.pa) x.2 with sp := x.2.sp.filter fun e => e.eng != some (bid, k, n) }) }

/-- A write of an operation: space, address, bytes, value. -/
abbrev EWrite := ESpace × Nat × Nat × Nat

/-- Cuts a write into pieces of at most eight bytes. -/
def cutWrite (x : EWrite) : List EWrite :=
  (List.range ((x.2.2.1 + 7) / 8)).map fun k =>
    (x.1, x.2.1 + 8 * k, min 8 (x.2.2.1 - 8 * k), x.2.2.2 / 2 ^ (64 * k) % 2 ^ (8 * min 8 (x.2.2.1 - 8 * k)))

/-- Makes writes in order until one faults: the state, the bytes written, and the fault with its address. -/
def State.engWrites (s : State) (b : Block) (op : EngOp) (l : List EWrite) :
    State × Nat × Option (BitVec 8 × Nat × Nat × DWord) :=
  l.foldl (fun acc x =>
    match acc.2.2 with
    | some _ => acc
    | none =>
      match acc.1.engWrite b op x.1 x.2.1 x.2.2.1 x.2.2.2 with
      | .inl s => (s, acc.2.1 + x.2.2.1, none)
      | .inr (c, l, i) => (acc.1, acc.2.1, some (c, x.2.1, l, i))) (s, 0, none)

/-- The walks that an operation's writes to global memory wait for: the state in which they have begun, if there are any (R27). -/
def State.engWalks (s : State) (b : Block) (op : EngOp) (l : List EWrite) : Option State :=
  match l.filter fun x => x.1 == .glob && s.engMiss b op x.2.1 with
  | [] => none
  | x :: r => some ((x :: r).foldl (fun s y => s.engWalk b op y.2.1) s)

/-- The end of an operation's writes: it faults, waits for acceptances, or completes. -/
def State.engFinish (b : Block) (op : EngOp) (r : State × Nat × Option (BitVec 8 × Nat × Nat × DWord)) : State :=
  match r.2.2 with
  | some (c, a, l, i) => r.1.engFault b op c a l i 5 r.2.1
  | none =>
    let s := r.1.modOp b.id op.ctx op.num fun x => { x with step := 1 }
    s.push [.engineOpCompletion b.id op.ctx op.num]

/-! ### Tile copies (R335 to R337, R442, R443) -/

/-- The box word of a copy (R335). -/
structure Box where
  b0 : Nat
  b1 : Nat
  pitch : Nat
  slot : Nat
  deriving DecidableEq, Repr, Inhabited

/-- Reads a box word (R335); a pitch of 0 packs the rows. -/
def boxOf (x : DWord) (e : Nat) : Box :=
  let b0 := fld x 0 16
  { b0, b1 := fld x 16 16, pitch := if fld x 32 8 == 0 then b0 * e else 16 * fld x 32 8, slot := fld x 40 24 * 16 }

/-- One element of a copy: where it comes from, or the value that fills it, and where it goes; none for a position
that is skipped. `out` says that the position lies outside the tensor. -/
structure Move where
  src : Sum (ESpace × Nat) Nat
  dst : ESpace × Nat
  deriving Repr

/-- A copy as it begins: element size, box, the moves, and how many positions lie outside the tensor. -/
structure CopyPlan where
  e : Nat
  box : Box
  moves : List Move
  outside : Nat
  deriving Repr

/-- Every position of a box, row by row. -/
def boxCells (x : Box) : List (Nat × Nat) := (List.range x.b1).flatMap fun y => (List.range x.b0).map fun k => (k, y)

/-- The place of an element of a tensor (R333, R334). -/
def Desc.loc (d : Desc) (x y : Int) : ESpace × Nat := if d.vault then (.vlt, d.elem x y % 2 ^ 32) else (.glob, d.elem x y)

/-- The place of a box element at a tile or vault end (R335). -/
def boxLoc (o : CopyOp) (q : List DWord) (x : Box) (e k y : Nat) : ESpace × Nat :=
  if o.dt then (.tile, o.d.toNat * 16384 + y * 256 + k * e)
  else (.vlt, (fld (q.getD 0 0) 0 32 + y * x.pitch + k * e) % 2 ^ 32)

/-- The tile or vault end of a copy passes the checks of R443. -/
def boxEndOk (o : CopyOp) (q : List DWord) (x : Box) (e : Nat) (pitched : Bool) : Bool :=
  let a := fld (q.getD 0 0) 0 32
  if o.dt then decide (x.b1 ≤ 64 ∧ x.b0 * e ≤ 256) else a % e == 0 && (!pitched || a % 16 == 0)

/-- A 32-bit coordinate of a q register. -/
def qCoord (x : DWord) (hi : Bool) : Int := coord (if hi then fld x 32 32 else fld x 0 32)

/-- The row that an entry of a gather or scatter list names; 0xFFFF_FFFF names one outside (R336). -/
def State.listRow (s : State) (die list y : Nat) : Int :=
  let n := s.vlRd die (list + 4 * y) 4
  if n == 0xFFFFFFFF then -1 else (n : Int)

/-- What a copy does, from its operands and descriptors as they are now (R329, R336, R337), or the code and address
of the fault that it begins with. -/
def State.copyPlan (s : State) (b : Block) (code : Nat) (o : CopyOp) (q : List DWord) : Sum CopyPlan (BitVec 8 × Nat) :=
  let die := dieOf b.core
  let q1 := q.getD 1 0
  let q2 := q.getD 2 0
  let da := fld q1 0 32
  let pitched := fld (q.getD 3 0) 32 8 != 0
  if code == 0x207 then
    let x := boxOf (q.getD 3 0) 4
    if x.b0 == 0 || x.b1 == 0 || !boxEndOk o q x 4 pitched then .inr (0x28, 0)
    else .inl { e := 4, box := x, outside := 0,
                moves := (boxCells x).map fun p => { src := .inr (fld q1 0 32), dst := boxLoc o q x 4 p.1 p.2 } }
  else if !s.descOk b da then .inr (0x28, da)
  else
    let d := s.descAt die da
    let e := etypeSize d.etype
    let x := boxOf (q.getD 3 0) e
    if !d.ok true false || x.b0 == 0 || x.b1 == 0 then .inr (0x28, da)
    else if code == 0x202 then
      let ta := fld (q.getD 0 0) 0 32
      if !s.descOk b ta then .inr (0x28, ta)
      else
        let t := s.descAt die ta
        if !t.ok true false || etypeSize t.etype != e then .inr (0x28, ta)
        else
          let q3 := q.getD 4 0
          let f := fun (p : Nat × Nat) =>
            let sx := qCoord q2 false + p.1
            let sy := qCoord q2 true + p.2
            let tx := qCoord q3 false + p.1
            let ty := qCoord q3 true + p.2
            if !t.has tx ty then none
            else if d.has sx sy then some ({ src := .inl (d.loc sx sy), dst := t.loc tx ty } : Move)
            else (d.fillVal e).map fun v => { src := .inr v, dst := t.loc tx ty }
          let out := (boxCells x).filter fun p =>
            !(t.has (qCoord q3 false + p.1) (qCoord q3 true + p.2)) || !(d.has (qCoord q2 false + p.1) (qCoord q2 true + p.2))
          .inl { e, box := x, moves := (boxCells x).filterMap f, outside := out.length }
    else if !boxEndOk o q x e pitched then .inr (0x28, fld (q.getD 0 0) 0 32)
    else
      let listed := code == 0x203 || code == 0x204
      let list := fld q2 32 32
      if listed && list % 4 != 0 then .inr (0x23, list)
      else if listed && !s.vaultOk b list (4 * x.b1) then .inr (0x24, list)
      else
        let cx := fun (p : Nat × Nat) => qCoord q2 false + p.1
        let cy := fun (p : Nat × Nat) => if listed then s.listRow die list p.2 else qCoord q2 true + p.2
        let f := fun (p : Nat × Nat) =>
          let at' := boxLoc o q x e p.1 p.2
          let inn := d.has (cx p) (cy p)
          if code == 0x200 || code == 0x203 then
            if inn then some ({ src := .inl (d.loc (cx p) (cy p)), dst := at' } : Move)
            else (d.fillVal e).map fun v => { src := .inr v, dst := at' }
          else if inn then some { src := .inl at', dst := d.loc (cx p) (cy p) } else none
        .inl { e, box := x, moves := (boxCells x).filterMap f, outside := ((boxCells x).filter fun p => !(d.has (cx p) (cy p))).length }

/-- Posts bytes of a copy to its slot (R98, R442): the state after it, or the code of the refusal. -/
def State.engPosting (s : State) (b : Block) (op : EngOp) (slot n : Nat) : Sum State (BitVec 8) :=
  if n == 0 then .inl s
  else if !s.vaultOk b slot 16 then .inr 0x24
  else match s.post (dieOf b.core) slot n with
    | .inl s => .inl (s.modOp b.id op.ctx op.num fun x => { x with written := x.written + n })
    | .inr c => .inr c

/-- Withdraws what an operation has posted to its slot (R425, R442). -/
def State.engWithdraw (s : State) (b : Block) (op : EngOp) : State :=
  match op.kind, (s.blk b.id).bind fun b => b.opOf op.ctx op.num with
  | .copy _ _, some op =>
    let die := dieOf b.core
    let slot := fld (op.q.getD 3 0) 40 24 * 16
    let x := s.vlRd die slot 16
    let s := if op.written == 0 then s else s.vlWr die slot 16 (barUpdate x op.written false)
    s.modOp b.id op.ctx op.num fun x => { x with written := 0 }
  | _, _ => s

/-- A copy begins: its checks, and the posting of the part of its box that lies outside the tensor (R337,
R443). -/
def State.copyBegin (s : State) (b : Block) (op : EngOp) (code : Nat) (o : CopyOp) : State :=
  match s.copyPlan b code o op.q with
  | .inr (c, a) => s.engFault b op c a 0xFF (if c == 0x24 then BitVec.ofNat 64 a else 0) 4 0
  | .inl p =>
    match (if o.bar then s.engPosting b op p.box.slot (p.outside * p.e) else .inl s) with
    | .inr c => s.engFault b op c p.box.slot 0xFF (BitVec.ofNat 64 (p.box.slot + p.outside * p.e * 2 ^ 32)) 5 0
    | .inl s => (s.modOp b.id op.ctx op.num fun x => { x with begun := true }).push [.copyEnginePull b.core]

/-- The piece that a copy has written is posted once its stores are performed, since the posting is a release at .die; then the copy
completes, or moves on (R98, R337, R442). -/
def State.copyPost (s : State) (b : Block) (op : EngOp) (p : CopyPlan) : State :=
  if op.posted != 0 then s
  else match s.engPosting b op p.box.slot op.due with
    | .inr c => (s.engWithdraw b op).engFault b op c p.box.slot 0xFF (BitVec.ofNat 64 (p.box.slot + op.due * 2 ^ 32)) 5 (op.moved * p.e)
    | .inl s =>
      let s := s.modOp b.id op.ctx op.num fun x => { x with due := 0 }
      if op.moved < p.moves.length then s else State.engFinish b op (s, op.moved * p.e, none)

/-- A turn of a copy: it moves up to 4 KiB and posts the piece once it is written (R24, R98, R337, R442). -/
def State.copyMove (s : State) (b : Block) (op : EngOp) (code : Nat) (o : CopyOp) : State :=
  match s.copyPlan b code o op.q with
  | .inr (c, a) => s.engFault b op c a 0xFF 0 4 0
  | .inl p =>
    if op.due != 0 then s.copyPost b op p
    else
    let turn := (p.moves.drop op.moved).take (4096 / p.e)
    let done := op.moved * p.e
    match s.engGather b op done (turn.filterMap fun m => match m.src with | .inl x => some (x.1, x.2, p.e) | .inr _ => none) with
    | some s => s
    | none =>
      let ws : List EWrite := turn.map fun m =>
        (m.dst.1, m.dst.2, p.e, match m.src with | .inl x => s.engVal b op x.1 x.2 p.e | .inr v => v)
      match s.engWalks b op ws with
      | some s => s
      | none =>
      let r := s.engWrites b op ws
      match r.2.2 with
      | some f => State.engFinish b op (r.1.engWithdraw b op, done + r.2.1, some f)
      | none =>
        let n := if code == 0x207 then r.2.1 else p.e * (turn.filter fun m => match m.src with | .inl _ => true | .inr _ => false).length
        let s := r.1.modOp b.id op.ctx op.num fun x => { x with moved := x.moved + turn.length, due := if o.bar then n else 0 }
        match (s.blk b.id).bind fun b => (b.opOf op.ctx op.num).map fun op => (b, op) with
        | some (b, op) =>
          if op.due != 0 then s.copyPost b op p
          else if op.moved < p.moves.length then s else State.engFinish b op (s, done + r.2.1, none)
        | none => s

end Sys2Proof.Machine
end

