-- ==== Sys2Proof/Machine/Kick.lean ====
section
/-! DEFINITION. KICK, transfer notices, kick registers and pulls by the copy engines (R24, R147, R362, R363,
R426, R442, R469). -/

namespace Sys2Proof.Machine

/-! ### Notices -/

/-- Reads a notice from the issuer's vault (R362); the sender's identity is set as it is sent. -/
def State.noticeAt (s : State) (b : Block) (a : Nat) : Notice :=
  let die := dieOf b.core
  let r := fun (o n : Nat) => s.vlRd die (a + o) n
  let w := r 20 4
  let sv := w / 2 ^ 31 == 1
  { src := if sv then r 0 4 else r 0 8, sv, dst := r 8 4, len := r 12 4, tcore := r 16 2 % 512, tdev := r 18 2 % 512,
    tasid := r 24 2 % 4096, bar := w / 2 ^ 30 % 2 == 1, slot := w / 16 % 2 ^ 24 * 16, sasid := b.asid, sdie := die,
    sdev := s.devNum, sender := 0, score := b.core }

/-- The length of a notice is allowed (R469). -/
def noticeLenOk (n : Notice) : Bool := n.len != 0 && n.len % 16 == 0 && decide (n.len ≤ 2 ^ 24)

/-- A block on the notice's core whose region holds a vault range (R75, R363); after a restore the core on which the
region was first placed still names it (R426). -/
def Block.holdsDst (x : Block) (n : Notice) (addr len : Nat) : Bool :=
  let off := addr % 2 ^ 22
  x.asid == n.tasid && dieOf x.core == n.tcore / 64 && (x.core == n.tcore || x.firstCore == n.tcore) &&
    x.firstCore % 64 == addr / 2 ^ 22 && decide (x.region.off ≤ off ∧ off + len ≤ x.region.off + x.region.prog)

/-- The resident block that a notice's destination lies in. -/
def State.dstBlock (s : State) (n : Notice) : Option Block := s.blocks.find? fun x => x.holdsDst n n.dst n.len

/-- A saved block holds the destination (R426). -/
def State.dstSaved (s : State) (n : Notice) : Bool := s.saved.any fun u => u.blocks.any fun x => x.holdsDst n n.dst n.len

/-- The release that a KICK makes (R363). -/
def State.kickScope (s : State) (b : Block) (n : Notice) : Scope :=
  if n.tdev != s.devNum then .fab else if n.tcore / 64 == dieOf b.core then .die else .dev

/-- The precise checks of a KICK (R441, R464, R469): code, address and INFO. DESIGN CHOICE (entry 26): a notice that names a switch,
to which the device sends none (R154), is refused with 0x2C. -/
def State.kickChk (s : State) (b : Block) (a : Nat) : Option (BitVec 8 × Nat × Nat) :=
  if a % 32 != 0 then some (0x23, a, 0)
  else if !s.vaultOk b a 32 then some (0x24, a, a)
  else
    let n := s.noticeAt b a
    if n.sv && !s.vaultOk b n.src n.len then some (0x24, n.src, n.src)
    else if n.tdev == s.devNum && (s.dstBlock n).isNone && !s.dstSaved n then some (0x24, n.dst, n.dst)
    else if !(noticeLenOk n) then some (0x28, a, 0)
    else if n.tdev != s.devNum && Config.isSwitch n.tdev then some (0x2C, a, 0)
    else none

/-- The scope of the release that a KICK of the notice at an address waits for. -/
def State.kickRel (s : State) (b : Block) (a : Nat) : Scope :=
  if (s.kickChk b a).isSome then .blk else s.kickScope b (s.noticeAt b a)

/-- A release of each slice at a scope of its own: the state in which the word waits, if it must. -/
def relEach (s : State) (b : Block) (g : Gang) (sp : Split) (l : List (Slice × Scope)) : Option State :=
  let r := l.foldl (fun (acc : Option Scope × State) x =>
    let y := acc.2.release ⟨b.id, g.num, x.1.num⟩ x.2
    (if y.1 then acc.1 else some x.2, y.2)) (none, s)
  r.1.map fun sc => waitAt r.2 b g sp (.release sc r.2.upto)

/-- The uniform-stream KICK's operation begins as it is issued, once its source is translated (R95, R363, R444). -/
def State.pullBegin (s : State) (b : Block) (op : EngOp) (n : Notice) : State :=
  match (s.kickMiss (dieOf b.core) b.asid n).filter (s.engMiss b op) with
  | some va => s.engWalk b op va
  | none =>
  match s.kickSrc (dieOf b.core) b.asid n with
  | .inr (c, l, e) => s.engFault b op c n.src l e 4 0
  | .inl n =>
    let (id, s) := s.newId
    let s := s.modOp b.id op.ctx op.num fun x => { x with begun := true }
    let s := { s with kickWait := s.kickWait ++ [(id, b.id, op.num)] }
    s.sendKick { n with sender := id } 0 [] (some (b.id, op.ctx, op.num))

/-- `KICK` in the uniform stream: numbered in the copy context (R95, R363). -/
def kickSeq (c : Ctl) (o : ZOp) (b : Block) (s : State) : State :=
  let a := (b.seq.q o.a.toNat).toNat % 2 ^ 32
  if 16 ≤ (b.open' .copy).length then waitSeq s b (.full .copy)
  else
    let sc := s.kickRel b a
    let r := s.release (seqWho b) sc
    if !r.1 then waitSeq r.2 b (.release sc r.2.upto)
    else match s.kickChk b a with
      | some (code, x, info) => trapSeqAddr s b code 0 7 x info
      | none =>
        let n := s.noticeAt b a
        let num := (b.tlOf .copy).issued + 1
        let s := issueEng c .copy false (.pull n) [] b s
        match (s.blk b.id).bind fun b => b.opOf .copy num with
        | some op => s.pullBegin b op n
        | none => s

/-- `KICK` (R147, R362, R363, R469). -/
def execKick (c : Ctl) (o : ZOp) (s : State) : Host.Outcome State Fault Refusal :=
  match s.cur with
  | some (.seq _) => withSeq s fun b => kickSeq c o b s
  | _ =>
    withSplit s fun b g sp =>
      let act := (actLanes c g sp true).map fun x => (x.1, x.2.headD 0, (x.1.v g.budget o.a.toNat (x.2.headD 0)).toNat)
      match relEach s b g sp (act.map fun x => (x.1, s.kickRel b x.2.2)) with
      | some s => s
      | none =>
        let l := act.map fun x =>
          let n := s.noticeAt b x.2.2
          let p : Part := { lane := x.2.1, addr := if n.sv then x.2.2 else n.src }
          ({ sl := x.1, kind := .kick n, esz := 8, path := 7,
             chk := match s.kickChk b x.2.2 with
               | some (code, a, i) => (faultLanes c x.1).map fun j => (j, .bad code a i)
               | none => [(x.2.1, .go p)] } : MemSlice)
        let s' := issueAccs s b g sp c .rlx .blk l
        -- the notice goes out as the word issues
        let new := s'.allAccs.filter fun a => decide (s.nextId ≤ a.id) && (match a.kind with | .kick _ => true | _ => false)
        new.foldl (fun s a => s.advance a.id) s'

/-! ### The kick register (R147) -/

/-- A pull of a notice is acknowledged to its sender (R147, R363). -/
def State.kickDone (s : State) (n : Notice) : State :=
  if n.sdev != s.devNum then s.respond n.sdev n.sender (.kickAck n.sdev n.sender)
  else match s.kickWait.find? (fun x => x.1 == n.sender) with
    | some (_, blk, num) => { s with kickWait := s.kickWait.filter fun x => x.1 != n.sender }.push [.engineOpCompletion blk .copy num]
        |>.modOp blk .copy num fun x => { x with step := 1 }
    | none => match s.accOf n.sender with
      | some a => (a.parts.foldl (fun s p => s.donePart a p 0) s).settle a.who a.id
      | none => s

/-- A pull fails with a code at a slot or vault address; the fault is the sender's (R442, R469). -/
def State.kickFail (s : State) (n : Notice) (code : BitVec 8) (addr info done : Nat) : State :=
  if n.sdev != s.devNum then s.respond n.sdev n.sender (.refused n.sdev n.sender code)
  else match s.kickWait.find? (fun x => x.1 == n.sender) with
    | some (_, blk, num) =>
      let s := { s with kickWait := s.kickWait.filter fun x => x.1 != n.sender }
      (match s.blk blk with
       | some b => (match b.opOf .copy num with
         | some op => s.engFault b op code addr 0xFF (BitVec.ofNat 64 info) 5 done
         | none => s)
       | none => s)
    | none => match s.accOf n.sender with
      | some a => (match a.parts with
        | p :: _ =>
          let s := s.modPart a p.lane fun p => { p with addr }
          s.failOn a { p with addr } code 0xFF (BitVec.ofNat 64 info)
        | [] => s)
      | none => s

/-- A notice is refused and will be sent again 1 µs later: by this device, or by the peer that sent it (R147). -/
def State.kickAgain (s : State) (n : Notice) : State :=
  if n.sdev == s.devNum then s.timer (s.gtime + 1000) (.kickRetry n) else s.send (.refused n.sdev n.sender 1)

/-- A peer's notice passes the permission table: an entry of KIND 2, whatever its VMASK (R363). -/
def State.kickAllowed (s : State) (n : Notice) : Bool :=
  n.sdev == s.devNum || (s.uiEntry n.tasid (.peer n.sdev n.sasid)).isSome

/-- A notice that passes its checks enters the register of the core that now holds its region (R147, R426). -/
def State.kickEnter (s : State) (n : Notice) : State :=
  if !s.kickAllowed n then s.kickFail n 0x2C n.src 0 0
  else if !(noticeLenOk n) then s.kickFail n 0x28 n.src 0 0
  else match s.dstBlock n with
    | none => if s.dstSaved n then s.kickAgain n else s.kickFail n 0x24 n.dst n.dst 0
    | some x =>
      if 32 ≤ (s.core x.core).kicks.length then s.kickAgain n
      else
        let s := if n.sdev == s.devNum then s else s.noteAnswer n.sdev n.sender none
        (s.modCore x.core fun c => { c with kicks := c.kicks ++ [n] }).push [.copyEnginePull x.core]

/-- The full header of a peer's notice opens its stream context (R144, R145). -/
def State.unpackKick (s : State) (n : Notice) : State :=
  if n.sdev == s.devNum then s
  else { s with streams := mset s.streams (64 * n.link + n.scx) { dst := n.tdev, src := n.sdev, ctx := n.sasid, page := n.page } }

/-- `KICK_NOTICE_ARRIVAL`: a notice enters the register of the core that now holds its region, or is refused; a notice that
a peer sends again is answered as before (R147, R363, R426, R447, R469). -/
def execKickNoticeArrival (n : Notice) (s : State) : Host.Outcome State Fault Refusal :=
  let s := s.unpackKick n
  .next (
    if n.tdev != s.devNum then s
    else match (if n.sdev == s.devNum then none else s.answerOf n.sdev n.sender) with
      | some x => (match x.resp with | some m => s.send m | none => s)
      | none => s.kickEnter n)

/-- `KICK_RETRY`: the sender's copy engine sends a refused notice again (R147). -/
def execKickRetry (n : Notice) (s : State) : Host.Outcome State Fault Refusal :=
  .next (if n.tdev == s.devNum then s.push [.kickNoticeArrival n]
    else match s.fabReqs.find? (fun r => r.rid == n.sender % 65536) with
      | some r => (s.sendPkt r.pkt).timer (s.gtime + 8000) (.fabricRequestTimeout r.rid)
      | none => s)

/-! ### Pulls (R24, R363) -/

/-- Takes the head of a core's kick queue away. -/
def Core.dropKick (c : Core) : Core :=
  { c with kicks := c.kicks.drop 1, pullDone := 0, pullIn := c.pullIn.filter fun x => decide (2 ^ 64 ≤ x.1),
           pullAsked := c.pullAsked.filter fun x => decide (2 ^ 64 ≤ x),
           staged := c.staged.map fun x => ({ x.1 with ahead := x.1.ahead - 1 }, x.2) }

/-- The postings that the pull at the head of a core's kick queue has made are withdrawn (R425, R442). -/
def State.pullWithdraw (s : State) (core : Nat) (n : Notice) : State :=
  let die := dieOf core
  let x := s.vlRd die n.slot 16
  let k := (s.core core).pullDone
  if n.bar && k != 0 && barArmed x then s.vlWr die n.slot 16 (barUpdate x k false) else s

/-- What a pull must ask another party for before it can read an aligned word of its source (R108, R363). -/
def State.pullNeeds (s : State) (core : Nat) (n : Notice) (a : Nat) : Bool :=
  if (s.core core).pullIn.any fun x => x.1 == a then false
  else if n.sdev != s.devNum then true
  else if n.sv then false
  else match s.place a with
    | .hostPort _ => true
    | _ => let x := s.l2 (dieOf core) (a / 64); !(1 ≤ x.tokn && x.dv)

/-- The pull at the head of a core's queue reads a page that is on its way to the host, or is the host's: it goes on through a fresh walk
of its source, which may name another page; until it does, it is held (R130 step 5, R460). -/
def State.pullHeld (s : State) (core : Nat) (n : Notice) : State :=
  match s.kickSrc n.sdie n.sasid { n with src := n.va, ext := [], ts := [] } with
  | .inl m =>
    if n.va == 0 || m == n then s
    else (s.modCore core fun c => { c with kicks := modWhere (fun x => x == n) (fun _ => m) c.kicks }).push [.copyEnginePull core]
  | .inr (c, _, _) => ((s.pullWithdraw core n).modCore core Core.dropKick).kickFail n c n.va 0 (s.core core).pullDone

/-- Asks for an aligned word of a pull's source: of a peer, of a host port, or a token (R127, R147, R149). DESIGN CHOICE (entry 26):
a read of a peer's vault source travels as a vector read marked as such. On a page on its way to the host, it waits (R130). Its T is that of
the translation made at issue (R111, R486). -/
def State.pullAsk (s : State) (core : Nat) (n : Notice) (a : Nat) : State :=
  if (s.core core).pullAsked.contains a then s
  else
    let mark := s.modCore core fun c => { c with pullAsked := addNew c.pullAsked a }
    if n.sdev != s.devNum then
      let (id, s) := mark.newId
      let rid := id % 65536
      let p : VPkt := { kind := 1, esz := 8, dst := n.sdev, src := s.devNum, ctx := n.tasid, page := a % 2 ^ 42 / 65536, rid, aop := 0,
                        offs := [BitVec.ofNat 16 (a % 65536)], data := [], vault := n.sv, t := s.noticeT n a }
      let fr : FabReq := { rid, acc := a, lanes := [], pkt := p, time := s.gtime, pull := some core }
      ({ s.sendPkt p with fabReqs := s.fabReqs ++ [fr] }).timer (s.gtime + 8000) (.fabricRequestTimeout rid)
    else match s.place a with
      | .hostPort port => if s.hostRoom port 1 then mark.hostRead8 port (a % 2 ^ 48) a none (some core) else s
      | _ => if s.hostPage (a / 64) then s.pullHeld core n else mark.need (dieOf core) (a / 64) false (s.noticeT n a) n.sasid

/-- A byte of a pull's source (R363: read as a relaxed load). -/
def State.pullByte (s : State) (core : Nat) (n : Notice) (a : Nat) : Byte :=
  match (s.core core).pullIn.find? fun x => x.1 == a with
  | some x => x.2
  | none =>
    if n.sv then BitVec.ofNat 8 (s.vlRd n.sdie a 1)
    else secByte (s.l2 (dieOf core) (a / 64)).data (a % 64)

/-- The fault that a pull's bytes meet at the target (R441, R442, R461): code, address, INFO. -/
def State.pullChk (s : State) (core : Nat) (b : Block) (n : Notice) : Option (BitVec 8 × Nat × Nat) :=
  let die := dieOf core
  if n.sdev == s.devNum && (if n.sv then s.badVaultAt n.sdie n.src n.len else s.place n.src == .tokens && (List.range (n.len / 8)).any fun k => s.dataBad die (n.src + 8 * k) 8) then
    some (0x2D, n.src, 0)
  else if s.hitsArmed die n.dst n.len then some (0x27, n.dst, n.dst / 16 * 16)
  else if n.bar && !s.vaultOk b n.slot 16 then some (0x24, n.slot, n.slot)
  else none

/-- The key under which a core notes that a fetch has failed, with its code. -/
def fetchFail (asid va : Nat) : Nat := 2 ^ 112 + asid * 2 ^ 48 + va

/-- The key under which a core notes that a fetch waits for the walk of a page, or that the walk has ended in a fault (R439). -/
def fetchWalk (asid va : Nat) : Nat := 2 ^ 113 + asid * 2 ^ 48 + va / 65536

/-- A pull into a block's region that has not completed as the block leaves its core is stopped, its postings withdrawn; it begins
again whole (R425, R426). -/
def State.pullStop (s : State) (b : Block) : State :=
  match (s.core b.core).kicks with
  | n :: _ => if b.holdsDst n n.dst n.len then (s.pullWithdraw b.core n).modCore b.core fun c => { c with pullDone := 0 } else s
  | [] => s

/-- The aligned words that hold bytes `from'` to `from' + n` of a notice's source, by the physical or vault address of the first. -/
def pullWords (m : Notice) (from' n : Nat) : List Nat :=
  ((List.range n).map fun k => let a := if m.sv then m.src + from' + k else noticePa m (from' + k); a / 8 * 8).foldl addNew []

/-- The notice at the head of a core's kick queue, if its source holds a word that has been asked of a device (R8, R147). -/
def State.pullHead (s : State) (core dev a : Nat) : Option Notice :=
  ((s.core core).kicks.head?).filter fun n => n.sdev == dev && (pullWords n 0 n.len).contains a

/-- A turn of the pull at the head of a core's kick queue: it moves up to 4 KiB and posts the piece as it is written, waits for words
that it has asked for, or fails (R24, R98, R363, R442); whether it has come on. -/
def State.pullGo (s : State) (core : Nat) : State × Bool :=
  match (s.core core).kicks with
  | [] => (s, false)
  | n :: _ =>
    match s.dstBlock n with
    | none =>
      let s := (s.pullWithdraw core n).modCore core Core.dropKick
      (if s.dstSaved n then s.kickAgain n else s.kickFail n 0x24 n.dst n.dst 0, true)
    | some b =>
      let done := (s.core core).pullDone
      let piece := min 4096 (n.len - done)
      let asks := (pullWords n done piece).filter (s.pullNeeds core n)
      if !asks.isEmpty then (asks.foldl (fun s a => s.pullAsk core n a) s, false)
      else match s.pullChk core b n with
        | some (c, a, i) => (((s.pullWithdraw core n).modCore core Core.dropKick).kickFail n c a i done, true)
        | none =>
          let bytes := (List.range piece).map fun k => s.pullByte core n (if n.sv then n.src + done + k else noticePa n (done + k))
          let s := s.vaultPut (dieOf core) (n.dst + done) piece (ofBytes bytes)
          match (if n.bar then s.post (dieOf core) n.slot piece else .inl s) with
          | .inl s =>
            if done + piece < n.len then (s.modCore core fun c => { c with pullDone := done + piece }, true)
            else ((s.modCore core Core.dropKick).kickDone n, true)
          | .inr c => (((s.pullWithdraw core n).modCore core Core.dropKick).kickFail n c n.slot (n.slot + piece * 2 ^ 32) (done + piece), true)

/-- The tile copies of a core's blocks that have begun and can move now, in issue order. -/
def State.copiesReady (s : State) (core : Nat) : List (Block × EngOp) :=
  (s.blocks.filter fun b => b.core == core).flatMap fun b => b.ops.filterMap fun op =>
    match op.kind with
    | .copy _ _ => if op.begun && op.step == 0 && op.fault.isNone then some (b, op) else none
    | _ => none

/-- A turn of the next tile copy that need not wait; whether one came on (R24). -/
def State.copyGo (s : State) (core : Nat) : State × Bool :=
  (s.copiesReady core).foldl (fun (acc : State × Bool) x =>
    if acc.2 then acc
    else match x.2.kind with
      | .copy code o =>
        let s := acc.1.copyMove x.1 x.2 code o
        let left := match (s.blk x.1.id).bind fun b => b.opOf x.2.ctx x.2.num with
          | some op => op.step == 0 && op.fault.isNone && op.moved == x.2.moved && op.due == x.2.due
          | none => false
        (s, !left)
      | _ => acc) (s, false)

/-- `COPY_ENGINE_PULL`: the copy engine of a core serves a transfer of up to 4 KiB from one of its queues, taking them in turn
(R24). -/
def execCopyEnginePull (core : Nat) (s : State) : Host.Outcome State Fault Refusal :=
  .next (
    let turn := (s.core core).pullTurn
    let more : Bool → State → State := fun next s =>
      let s := s.modCore core fun c => { c with pullTurn := next }
      if !(s.core core).kicks.isEmpty || !(s.core core).staged.isEmpty || !(s.copiesReady core).isEmpty then s.push [.copyEnginePull core] else s
    let pull : State → State × Bool := fun s => if s.recFirst core then s.pullRec core else s.pullGo core
    let a := if turn then pull s else s.copyGo core
    if a.2 then more (!turn) a.1
    else
      let b := if turn then a.1.copyGo core else pull a.1
      if b.2 then more turn b.1 else b.1)

end Sys2Proof.Machine
end

