-- ==== Sys2Proof/Machine/MatrixEngine.lean ====
section
/-! DEFINITION. The matrix engine: products in the order of R218 and R344, pinned and cooperative operands (R345 to
R347, R445, R446), and tile operations (R348). -/

namespace Sys2Proof.Machine

/-! ### Operands (R213, R217, R342) -/

/-- An operand of a product: its tensor, or its tile seen as one, the space it lies in, and where it is used from. -/
structure Opnd where
  d : Desc
  sp : ESpace
  row : Nat
  k0 : Nat
  deriving DecidableEq, Repr, Inhabited

/-- A tile seen as a tensor of 64 rows (R342): what lies past row 63 or byte 255 is outside it. -/
def tileDesc (t et : Nat) : Desc :=
  { base := 16384 * t, dim0 := 256 / max (etypeSize et) 1, dim1 := 64, stride := 256, sbase := 0, mbase := 0, sstr := 0,
    mstr := 0, etype := et, vault := true, fill := 0, sparse := 0, fillv := 0 }

/-- An operand that a reference names (R342), or the code and address of the fault that it raises (R443). `band` is
what cooperation adds to ROW (R347); `dst` are the tiles that the product writes. -/
def State.opnd (s : State) (b : Block) (ref : DWord) (et band : Nat) (mmas : Bool) (dst : List Nat) : Sum Opnd (BitVec 8 × Nat) :=
  let row := fld ref 20 21 + band
  let k0 := fld ref 0 20
  if ref.getLsbD 63 then
    let t := fld ref 41 4
    if etypeDb et || dst.contains t || b.tcnt ≤ t || k0 % 32 != 0 || mmas then .inr (0x28, t)
    else .inl { d := tileDesc t et, sp := .tile, row, k0 }
  else
    let a := fld ref 41 22 * 64
    if !s.vaultOk b a 64 then .inr (0x24, a)
    else
      let d := s.descAt (dieOf b.core) a
      if !d.ok false mmas || d.etype != et || k0 % 32 != 0 || (mmas && (d.sparse == 0 || !etypeDb et)) then .inr (0x28, a)
      else .inl { d, sp := if d.vault then .vlt else .glob, row, k0 }

/-- The block format of an element type (R226). -/
def dbTy (et : Nat) : Ty := if et == 9 then .db8 else if et == 10 then .db6 else .db4

/-- The kept elements of a sparse block (R217, R333). -/
def Desc.kept (d : Desc) : Nat := if d.sparse == 0 then 32 else 2 * 2 ^ d.sparse

/-- The bytes of a block's element string. -/
def Desc.strBytes (d : Desc) : Nat := d.kept * dbW (dbTy d.etype) / 8

/-- Where a DB block's elements, scales and metadata lie (R213, R217, R334). -/
def Desc.dbPlaces (d : Desc) (y blk : Nat) : List (Nat × Nat) :=
  [(d.base + y * d.stride + d.strBytes * blk, d.strBytes), (d.sbase + y * d.sstr + 2 * blk, 2)] ++
    if d.sparse == 0 then [] else [(d.mbase + y * d.mstr + 4 * blk, 4)]

/-- The bytes that a group of `gs` elements of an operand row takes, from position `k` along K. -/
def Opnd.places (o : Opnd) (r k gs : Nat) : List (Nat × Nat) :=
  let y := o.row + r
  let x := o.k0 + k
  if o.d.dim1 ≤ y then []
  else if etypeDb o.d.etype then (if x < o.d.dim0 then o.d.dbPlaces y (x / 32) else [])
  else (List.range gs).filterMap fun i => if x + i < o.d.dim0 then some (o.d.elem (x + i) y, etypeSize o.d.etype) else none

/-- The zero that stands for what lies outside an operand. -/
def zeroFV : FV := .fin false 0 0

/-- The exact value of an element (R206, R342). -/
def elemVal (et x : Nat) : FV :=
  match et with
  | 3 => fD.decode x
  | 4 => fS.decode x
  | 5 => fH.decode x
  | 6 => fB.decode x
  | 7 => fE4.decode x
  | 8 => fE5.decode x
  | _ => ofIntFV ((BitVec.ofNat 8 x).toInt)

/-- The set bits of a metadata word below a position. -/
def bitsBelow (m j : Nat) : Nat := ((List.range j).filter fun i => m.testBit i).length

/-- The 32 values of a DB block (R214, R217, R468): `els`, `sc` and `meta` are its strings. -/
def dbVals (d : Desc) (els sc meta' : Nat) : List FV :=
  let ty := dbTy d.etype
  let w := dbW ty
  let el := fun i => dbDecode ty (sc % 256) (sc / 256 % 256) (els / 2 ^ (w * i) % 2 ^ w)
  (List.range 32).map fun j =>
    if d.sparse == 0 then el j
    else if meta'.testBit j && bitsBelow meta' j < d.kept then el (bitsBelow meta' j) else zeroFV

/-- The values of a group of an operand row, read by `rd`. -/
def Opnd.vals (o : Opnd) (r k gs : Nat) (rd : Nat → Nat → Nat) : List FV :=
  let y := o.row + r
  let x := o.k0 + k
  if o.d.dim1 ≤ y then List.replicate gs zeroFV
  else if etypeDb o.d.etype then
    if x < o.d.dim0 then
      let l := (o.d.dbPlaces y (x / 32)).map fun p => rd p.1 p.2
      dbVals o.d (l.getD 0 0) (l.getD 1 0) (l.getD 2 0)
    else List.replicate gs zeroFV
  else (List.range gs).map fun i =>
    if x + i < o.d.dim0 then elemVal o.d.etype (rd (o.d.elem (x + i) y) (etypeSize o.d.etype)) else zeroFV

/-! ### Accumulators (R218, R331, R344) -/

/-- A product as it runs: operands, its destination, and the lists of lanes. `gl` and `sl` give each lane's operand
row and destination row, none for a row of zeros or a dropped row. -/
structure Prod where
  a : Opnd
  b : Opnd
  d : Nat
  acc : Nat
  gs : Nat
  k : Nat
  gl : List (Option Nat)
  sl : List (Option Nat)
  pinned : Option (List (Nat × Nat))
  deriving DecidableEq, Repr, Inhabited

/-- The accumulator cells of a destination, row-major, as encodings (R331). -/
def Block.accCells (b : Block) (d acc : Nat) : List Nat :=
  if acc == 1 then List.zipWith (fun l h => (pair64 l h).toNat) (b.tile d) (b.tile (d + 1)) else (b.tile d).map (·.toNat)

/-- Writes accumulator cells back. -/
def Block.putCells (b : Block) (d acc : Nat) (l : List Nat) : Block :=
  if acc == 1 then
    (b.setTile d (l.map fun x => BitVec.ofNat 32 x)).setTile (d + 1) (l.map fun x => BitVec.ofNat 32 (x / 2 ^ 32))
  else b.setTile d (l.map fun x => BitVec.ofNat 32 x)

/-- The integer that an INT8 element is. -/
def intOf : FV → Int
  | .fin neg m _ => if neg then -(m : Int) else m
  | _ => 0

/-- One step of a cell: the exact sum of the group's products, added with one rounding (R218); integers wrap. -/
def accStep (acc old : Nat) (a b : List FV) : Nat :=
  if acc == 2 then
    let s := (List.zipWith (fun x y => intOf x * intOf y) a b).foldl (· + ·) 0
    (((old : Int) + s) % 2 ^ 32).toNat
  else
    let f := if acc == 1 then fD else fS
    f.round .rn false (sumFV .rn [f.decode old, groupSum (List.zipWith mulFV a b)])

/-- A group of a product: each lane, in ascending order, adds to its destination row (R344). -/
def accGroup (acc : Nat) (sl : List (Option Nat)) (rows cols : List (List FV)) (cells : List Nat) : List Nat :=
  cells.mapIdx fun i old =>
    (sl.zip rows).foldl (fun v x => if x.1 == some (i / 64) then accStep acc v x.2 (cols.getD (i % 64) []) else v) old

/-- The read of B: pinned bytes, or the operand's own. -/
def Prod.rdB (p : Prod) (s : State) (blk : Block) (op : EngOp) (a n : Nat) : Nat :=
  match p.pinned with
  | some m => ofBytes ((List.range n).map fun k => BitVec.ofNat 8 (mgetD m (a + k) 0))
  | none => s.engVal blk op p.b.sp a n

/-- What group `g` of a product reads (R344, R445); pinned bytes are not read again (R345). -/
def Prod.needs (p : Prod) (g : Nat) : List (ESpace × Nat × Nat) :=
  let k := g * p.gs
  let live := (p.gl.zip p.sl).filterMap fun x => if x.2.isSome then x.1 else none
  (live.flatMap fun r => (p.a.places r k p.gs).map fun x => (p.a.sp, x.1, x.2)) ++
    if p.pinned.isSome then []
    else (List.range 64).flatMap fun j => (p.b.places j k p.gs).map fun x => (p.b.sp, x.1, x.2)

/-- Group `g` of a product. -/
def Prod.group (p : Prod) (s : State) (blk : Block) (op : EngOp) (g : Nat) (cells : List Nat) : List Nat :=
  let k := g * p.gs
  let rows := p.gl.map fun r => match r with
    | some r => p.a.vals r k p.gs (s.engVal blk op p.a.sp)
    | none => List.replicate p.gs zeroFV
  let cols := (List.range 64).map fun j => p.b.vals j k p.gs (p.rdB s blk op)
  accGroup p.acc p.sl rows cols cells

/-- The groups of a product. -/
def Prod.total (p : Prod) : Nat := p.k / max p.gs 1

/-- The first group, from `g` on, whose operands cannot all be read now; `n` bounds the search. -/
def Prod.reach (p : Prod) (s : State) (blk : Block) (op : EngOp) : Nat → Nat → Nat
  | 0, g => g
  | n + 1, g => if ((p.needs g).flatMap (s.engChk blk op)).all fun x => match x with | .ok => true | _ => false
      then Prod.reach p s blk op n (g + 1) else g

/-- Runs `n` groups from `g` on. -/
def Prod.run (p : Prod) (s : State) (blk : Block) (op : EngOp) : Nat → Nat → List Nat → List Nat
  | 0, _, cells => cells
  | n + 1, g, cells => Prod.run p s blk op n (g + 1) (p.group s blk op g cells)

/-- The bytes of the B operand that a pin keeps (R345). -/
def Prod.pinBytes (p : Prod) (s : State) (blk : Block) (op : EngOp) : List (Nat × Nat) :=
  let l := (List.range p.total).flatMap fun g => (List.range 64).flatMap fun j => p.b.places j (g * p.gs) p.gs
  l.foldl (fun m x => (List.range x.2).foldl (fun m k => mset m (x.1 + k) (s.engVal blk op p.b.sp (x.1 + k) 1)) m) []

/-- The entries of a gather or scatter list (R343, R344). -/
def State.laneList (s : State) (die addr : Nat) : List Nat := (List.range 64).map fun i => s.vlRd die (addr + 4 * i) 4

/-- The destination tiles of a product: a pair under the FP64 accumulator (R331). -/
def prodTiles (d acc : Nat) : List Nat := if acc == 1 then [d, d + 1] else [d]

/-- The pin of a block, in the buffer of its core's tile fetch unit (R345). -/
def State.pinOf (s : State) (b : Block) : Option Pin := mget (s.core b.core).pins b.id

/-- Sets or ends the pin of a block (R345). -/
def State.setPin (s : State) (b : Block) (p : Option Pin) : State :=
  s.modCore b.core fun c => { c with pins := (c.pins.filter fun x => x.1 != b.id) ++ match p with | some p => [(b.id, p)] | none => [] }

/-- The buffer of a core's tile fetch unit has room for the bytes of a pin beside those of its other blocks (R14, R345). DESIGN CHOICE
(entry 15): bytes that do not fit in the 64 KiB are not pinned, and a later operation reads memory. -/
def State.pinFits (s : State) (b : Block) (n : Nat) : Bool :=
  decide ((((s.core b.core).pins.filter fun x => x.1 != b.id).map fun x => x.2.bytes.length).sum + n ≤ 65536)

/-- The operand that a pin stands for, as it was when it was pinned (R345). -/
def Pin.opnd (p : Pin) (et : Nat) : Opnd :=
  let k0 := fld p.ref 0 20
  if p.ref.getLsbD 63 then { d := tileDesc (fld p.ref 41 4) et, sp := .tile, row := p.row, k0 }
  else let d := descOf p.desc; { d, sp := if d.vault then .vlt else .glob, row := p.row, k0 }

/-- The pin that a product leaves, with the bytes of its B operand (R345): none where they do not fit. -/
def State.pinned (s : State) (b : Block) (op : EngOp) (p : Prod) : Option Pin :=
  match p.pinned with
  | some _ => s.pinOf b
  | none =>
    let ref := op.q.getD 2 0
    let bytes := p.pinBytes s b op
    if s.pinFits b bytes.length then
      some { ref, k := p.k, fmt := op.fmt, desc := s.vlRd (dieOf b.core) (fld ref 41 22 * 64) 64, row := p.b.row, bytes }
    else none

/-- The product of an operation, checked as it begins (R343, R344, R443, R468), or the code and address of its
fault. -/
def State.prodOf (s : State) (b : Block) (op : EngOp) (o : MmaOp) (sparse gs : Bool) : Sum Prod (BitVec 8 × Nat) :=
  let lw := op.q.getD 3 0
  let k := fld lw 0 24
  let die := dieOf b.core
  let acc := fmtAcc op.fmt
  let (_, _, _, mr, mc) := coopFields (if o.coop then b.coop else 0)
  let dst := prodTiles o.d.toNat acc
  let gl := fld lw 44 20 * 256
  let sl := fld lw 24 20 * 256
  -- an operation that reuses pinned bytes reads nothing for B (R345)
  let pin := (s.pinOf b).filter fun p => o.pin && p.ref == op.q.getD 2 0 && p.k == k && p.fmt == op.fmt
  let opB : Sum Opnd (BitVec 8 × Nat) := match pin with
    | some p => .inl (p.opnd (fmtB op.fmt))
    | none => s.opnd b (op.q.getD 2 0) (fmtB op.fmt) (64 * mc) false dst
  if k == 0 || k % 32 != 0 then .inr (0x28, 0)
  else match s.opnd b (op.q.getD 1 0) (fmtA op.fmt) (64 * mr) sparse dst, opB with
    | .inr e, _ => .inr e
    | _, .inr e => .inr e
    | .inl a, .inl x =>
      if gs && o.ge && !s.vaultOk b gl 256 then .inr (0x24, gl)
      else if gs && o.se && !s.vaultOk b sl 256 then .inr (0x24, sl)
      else
        let g := if gs && o.ge then s.laneList die gl else List.range 64
        let c := if gs && o.se then s.laneList die sl else List.range 64
        if c.any fun v => 64 ≤ v && v != 0xFFFFFFFF then .inr (0x28, sl)
        else
          .inl { a, b := x, d := o.d.toNat, acc, gs := (fmtGroup op.fmt).getD 1, k,
                 gl := g.map fun v => if v == 0xFFFFFFFF then none else some v,
                 sl := c.map fun v => if v == 0xFFFFFFFF then none else some v,
                 pinned := pin.map fun p => p.bytes }

/-- A member of a step: its block, operation and product. -/
abbrev Member := Block × EngOp × Prod

/-- Advances the products of a step together as far as every operand can be read (R344, R445, R446). A member that
cannot read group g asks for its words or faults; a fault stops every member before that group. -/
def State.runProds (s : State) (l : List Member) : State :=
  let reach := l.map fun m => m.2.2.reach s m.1 m.2.1 (m.2.2.total - m.2.1.groups) m.2.1.groups
  let upTo := reach.foldl min (match reach with | x :: _ => x | [] => 0)
  let s' := l.foldl (fun s' m =>
    let cells := m.2.2.run s m.1 m.2.1 (upTo - m.2.1.groups) m.2.1.groups (m.1.accCells m.2.2.d m.2.2.acc)
    let s' := s'.modBlk m.1.id fun b => b.putCells m.2.2.d m.2.2.acc cells
    s'.modOp m.1.id m.2.1.ctx m.2.1.num fun x => { x with groups := upTo }) s
  match l with
  | [] => s
  | (_, _, p) :: _ =>
    if upTo == p.total then
      l.foldl (fun s' m =>
        let pin : Option Pin := match m.2.1.kind with
          | .mat (.mma o _ _) => if o.pin then s.pinned m.1 m.2.1 m.2.2 else none
          | _ => none
        let s' := s'.setPin m.1 pin
        (s'.modOp m.1.id m.2.1.ctx m.2.1.num fun x => { x with step := 1 }).push [.engineOpCompletion m.1.id m.2.1.ctx m.2.1.num]) s'
    else
      let chk := l.flatMap fun m => ((m.2.2.needs upTo).flatMap (s.engChk m.1 m.2.1)).filterMap fun x => match x with
        | .bad c a lvl i => some (m, c, a, lvl, i)
        | _ => none
      match chk with
      | (_, c, a, lvl, i) :: _ =>
        let s' := l.foldl (fun s' m => s'.setPin m.1 none) s'
        l.foldl (fun s' m =>
          let own := chk.find? fun x => x.1.1.id == m.1.id
          match own with
          | some (_, c, a, lvl, i) => s'.engFault m.1 m.2.1 c a lvl i 4 upTo
          | none => s'.engFault m.1 m.2.1 c a lvl i 4 upTo) s'
      | [] => l.foldl (fun s' m => (s'.engGather m.1 m.2.1 upTo (m.2.2.needs upTo)).getD s') s'

/-! ### Cooperation (R347, R446, R468) -/

/-- The matrix operation of a block that is at work, or would begin next: none while the one before it has not completed (R330). -/
def Block.matHead (b : Block) : Option EngOp := (b.ops.find? fun x => x.ctx == .matrix && !x.done).filter fun x => x.step == 0

/-- The blocks that form a cooperative group with a block: those of its unit on its die with the same GID, NR and
NC. -/
def State.coopGroup (s : State) (b : Block) (w : DWord) (f : Block → DWord) : List Block :=
  let key := fun w => let x := coopFields w; (x.1, x.2.1, x.2.2.1)
  s.blocks.filter fun x => x.launch == b.launch && dieOf x.core == dieOf b.core && f x != 0 && key (f x) == key w

/-- The group word that a block's next matrix operation, MCOOP, names; 0 for any other. -/
def Block.joining (b : Block) : DWord :=
  match b.matHead with
  | some op => (match op.kind with | .mat (.coop w) => if op.fault.isNone then w else 0 | _ => 0)
  | none => 0

/-- The operation of a member's next cooperative step, if it has been issued. -/
def Block.coopHead (b : Block) : Option EngOp :=
  match b.matHead with
  | some op => (match op.kind with | .mat (.mma o _ _) => if o.coop && op.fault.isNone then some op else none | _ => none)
  | none => none

/-- The engine of a member's core has taken its part of a step or of MCOOP (R20). -/
def Block.taken (b : Block) : Bool := match b.matHead with | some op => op.begun | none => false

/-- The engines of members that have not taken their part have their turn (R20, R347). -/
def State.callMembers (s : State) (l : List Block) : State :=
  s.push (l.filterMap fun x => match x.matHead with
    | some op => if op.begun then none else some (.engineOpBegin x.id op.ctx op.num)
    | none => none)

/-- MCOOP completes when every member has issued it, and each has been taken by its core's engine (R20, R347). -/
def State.coopJoin (s : State) (b : Block) (op : EngOp) (w : DWord) : State :=
  if w == 0 then (s.modBlk b.id fun b => { b with coop := 0 }).modOp b.id op.ctx op.num (fun x => { x with step := 1 }) |>.push
      [.engineOpCompletion b.id op.ctx op.num]
  else
    let s := s.modOp b.id op.ctx op.num fun x => { x with begun := true }
    let l := s.coopGroup b w Block.joining
    let (_, nr, nc, _, _) := coopFields w
    if l.length < nr * nc then s
    else if !(l.all Block.taken) then s.callMembers l
    else l.foldl (fun s x =>
      let s := s.modBlk x.id fun b => { b with coop := x.joining }
      match x.matHead with
      | some op => (s.modOp x.id op.ctx op.num fun y => { y with begun := true, step := 1 }).push [.engineOpCompletion x.id op.ctx op.num]
      | none => s) s

/-! ### Tile operations (R348) -/

/-- The cells of a tile, or of a pair as 64-bit values. -/
def Block.cells (b : Block) (t : Nat) (w : Bool) : List Nat := b.accCells t (if w then 1 else 0)

/-- Sets the cells of a tile or pair. -/
def Block.setCells (b : Block) (t : Nat) (w : Bool) (l : List Nat) : Block := b.putCells t (if w then 1 else 0) l

/-- Packs 64 values of a row as elements of `e` bytes and zeros behind them: the 64 words of the row. -/
def packRow (e : Nat) (l : List Nat) : List Word :=
  let n := l.foldr (fun x acc => x + 2 ^ (8 * e) * acc) 0
  (List.range 64).map fun i => BitVec.ofNat 32 (n / 2 ^ (32 * i))

/-- The rows of a list of cells. -/
def rowsOf (l : List α) : List (List α) := (List.range 64).map fun i => (l.drop (64 * i)).take 64

/-- MCVT (R348): the words of the destination. -/
def mcvtWords (o : TileOp) (src : List Nat) : List Word :=
  let wide := o.mode.getLsbD 0
  let sat := o.mode.getLsbD 1
  let val := fun x => if wide then fD.decode x else fS.decode x
  let narrow := fun (f : Fmt) (e : Nat) => (rowsOf src).flatMap fun r => packRow e (r.map fun x => f.round .rn sat (val x))
  match o.ty with
  | .bf16 => narrow fB 2
  | .f16 => narrow fH 2
  | .e4 => narrow fE4 1
  | .e5 => narrow fE5 1
  | .f32 => src.map fun x =>
      if wide then BitVec.ofNat 32 (fS.round .rn sat (fD.decode x)) else BitVec.ofNat 32 (fS.round .rn sat (ofIntFV (BitVec.ofNat 32 x).toInt))
  | _ => src.map fun x => BitVec.ofInt 32 (toIntSat (-(2 ^ 31)) (2 ^ 31 - 1) .rn (fS.decode x))

/-- MADDT on two cells (R348); integers wrap, or clamp under .sat (R205). -/
def maddtCell (o : TileOp) (x y : Nat) : Nat :=
  match o.ty with
  | .s32 => (if o.mode.getLsbD 1 then satS32 ((BitVec.ofNat 32 x).toInt + (BitVec.ofNat 32 y).toInt) else BitVec.ofNat 32 (x + y)).toNat
  | .w64 => fD.add .rn (o.mode.getLsbD 1) x y
  | _ => fS.add .rn (o.mode.getLsbD 1) x y

/-- MSCALE on a cell (R348): the exact product, rounded once; an absent factor is 1. -/
def mscaleCell (o : TileOp) (x r c : Nat) : Nat :=
  let f := fun (on : Bool) (v : Nat) => if on then fS.decode v else FV.fin false 1 0
  fS.round .rn (o.mode.getLsbD 1) (mulFV (mulFV (fS.decode x) (f (o.mode.getLsbD 0) r)) (f (o.mode.getLsbD 2) c))

/-- MACT on a cell (R348). -/
def mactCell (mode x : Nat) : Nat :=
  match mode with
  | 0 => fS.minMax true x 0
  | 1 => (ftanhV (BitVec.ofNat 32 x)).toNat
  | _ => (fexp2V (BitVec.ofNat 32 x)).toNat

/-- MROWRED on a row (R220, R348). -/
def rowRed (mode : Nat) (l : List Nat) : Nat :=
  let f := fun x y => match mode with | 0 => fS.add .rn false x y | 1 => fS.minMax true x y | _ => fS.minMax false x y
  (reduxTree f 6 (l.map some)).getD 0

/-- MHIST on the cells of a tile: the bins after it (R294, R348). -/
def histCells (bins : List Nat) (cells : List Nat) : List Nat :=
  cells.foldl (fun h x => match histBin (BitVec.ofNat 32 x) with
    | some i => h.modify i fun n => min (n + 1) 0xFFFFFFFF
    | none => h) bins

/-- The writes of MQUANT (R216, R348): element strings and scales of the blocks that lie in the tensor. -/
def quantWrites (o : TileOp) (d : Desc) (row k0 : Nat) (qc : DWord) (cells : List Nat) : List EWrite :=
  let ty := o.ty
  let g := if qc.getLsbD 15 then fld qc 8 4 else dbGap ty
  let sp : ESpace := if d.vault then .vlt else .glob
  (rowsOf cells).zipIdx.flatMap fun r => (List.range 2).flatMap fun h =>
    let y := row + r.2
    let blk := k0 / 32 + h
    if d.dim1 ≤ y || d.dim0 ≤ 32 * blk then []
    else
      let (e0, e1, els) := dbPack ty (((r.1.drop (32 * h)).take 32).map fun x => BitVec.ofNat 32 x) (fld qc 0 8) g
      [(sp, d.base + y * d.stride + 4 * dbW ty * blk, 4 * dbW ty, dbString ty els), (sp, d.sbase + y * d.sstr + 2 * blk, 2, e0 + 256 * e1)]

/-- The code of an ETYPE for a block format (R226, R333). -/
def dbCode (ty : Ty) : Nat := ty.code.toNat

/-- The vault ranges that a tile operation uses, by address and length (R348). -/
def tileVault (code : Nat) (o : TileOp) (q : List DWord) : List (Nat × Nat) :=
  let qd := fld (q.getD 0 0) 0 32
  let qa := fld (q.getD 1 0) 0 32
  let qb := q.getD 2 0
  let w := if o.ty == .w64 then 32768 else 16384
  match code with
  | 0x244 => [(qa, w)]
  | 0x245 => [(qd, w)]
  | 0x24B => (if o.mode.getLsbD 0 then [(fld qb 0 32, 256)] else []) ++ (if o.mode.getLsbD 2 then [(fld qb 32 32, 256)] else [])
  | 0x24C => [(qd, 1024)]
  | 0x24F => [(qd, 256)]
  | _ => []

/-- The fault that a tile operation begins with, if it does (R441, R443). -/
def State.tileChk (s : State) (b : Block) (code : Nat) (o : TileOp) (q : List DWord) : Option (BitVec 8 × Nat) :=
  let l := tileVault code o q
  match l.find? fun x => x.1 % 4 != 0, l.find? fun x => !s.vaultOk b x.1 x.2 with
  | some x, _ => some (0x28, x.1)
  | none, some x => some (0x24, x.1)
  | none, none =>
    if code == 0x24D then
      let r := q.getD 0 0
      let a := fld r 41 22 * 64
      if r.getLsbD 63 || fld r 0 20 % 32 != 0 then some (0x28, a)
      else if !s.vaultOk b a 64 then some (0x24, a)
      else
        let d := s.descAt (dieOf b.core) a
        if !d.ok false false || d.etype != dbCode o.ty then some (0x28, a) else none
    else none

/-- A tile operation at work (R348): the block's tiles after it and what it writes to memory. -/
def State.tileRun (s : State) (b : Block) (code : Nat) (o : TileOp) (q : List DWord) : Block × List EWrite :=
  let die := dieOf b.core
  let d := o.d.toNat
  let a := o.a.toNat
  let w := o.ty == .w64
  let e := if w then 8 else 4
  let qd := fld (q.getD 0 0) 0 32
  let qa := fld (q.getD 1 0) 0 32
  let qb := q.getD 2 0
  match code with
  | 0x243 => (b.setCells d w (List.replicate 4096 0), [])
  | 0x244 => (b.setCells d w ((List.range 4096).map fun i => s.vlRd die (qa + e * i) e), [])
  | 0x245 => (b, (b.cells a w).zipIdx.map fun x => (ESpace.vlt, qd + e * x.2, e, x.1))
  | 0x246 => (b.setTile d (mcvtWords o (b.cells a (o.mode.getLsbD 0))), [])
  | 0x249 => let l := b.cells a w
    (b.setCells d w ((List.range 4096).map fun i => l.getD (i % 64 * 64 + i / 64) 0), [])
  | 0x24A => (b.setCells d w (List.zipWith (maddtCell o) (b.cells a w) (b.cells o.b.toNat w)), [])
  | 0x24B => (b.setCells d false ((b.cells a false).mapIdx fun i x =>
      mscaleCell o x (s.vlRd die (fld qb 0 32 + 4 * (i / 64)) 4) (s.vlRd die (fld qb 32 32 + 4 * (i % 64)) 4)), [])
  | 0x24C =>
    let bins := histCells ((List.range 256).map fun i => s.vlRd die (qd + 4 * i) 4) (b.cells a false)
    (b, bins.zipIdx.map fun x => (ESpace.vlt, qd + 4 * x.2, 4, x.1))
  | 0x24D =>
    let r := q.getD 0 0
    (b, (quantWrites o (s.descAt die (fld r 41 22 * 64)) (fld r 20 21) (fld r 0 20) (q.getD 3 0) (b.cells a false)).flatMap cutWrite)
  | 0x24E => (b.setCells d false ((b.cells a false).map (mactCell o.mode.toNat)), [])
  | 0x24F => (b, (rowsOf (b.cells a false)).zipIdx.map fun x => (ESpace.vlt, qd + 4 * x.2, 4, rowRed o.mode.toNat x.1))
  | _ => (b, [])

/-- The bytes that a tile operation reads from the vault are correct (R461): the address of the first that are not. -/
def State.tileBad (s : State) (b : Block) (code : Nat) (o : TileOp) (q : List DWord) : Option Nat :=
  if code == 0x244 || code == 0x24B || code == 0x24C then
    ((tileVault code o q).find? fun x => s.badVaultAt (dieOf b.core) x.1 x.2).map (·.1)
  else none

/-- Runs a tile operation to its end. Only the products have a PIN field, and MSYNC ends a pin by a rule of its own: the other
tile operations leave a pin (R345, R348; entry 15). -/
def State.tileOp (s : State) (b : Block) (op : EngOp) (code : Nat) (o : TileOp) : State :=
  match s.tileBad b code o op.q with
  | some a => s.engFault b op 0x2D a 0xFF 0 4 0
  | none =>
    let r := s.tileRun b code o op.q
    match s.engWalks b op r.2 with
    | some s => s
    | none =>
    let s := s.modBlk b.id fun x => { x with tiles := r.1.tiles }
    State.engFinish b op (s.engWrites b op r.2)

/-- MSYNC begins only when the earlier operations of the contexts it names have completed (R348). -/
def Block.syncOk (b : Block) (o : TileOp) (q : List DWord) : Bool :=
  ([Ctx.copy, .coll, .host].zipIdx).all fun x => !o.mode.getLsbD x.2 || decide ((q.getD x.2 0).toNat ≤ (b.tlOf x.1).counter)

/-! ### Beginning and running a matrix operation (R330, R445) -/

/-- The members of a cooperative step that have issued it, the block among them. -/
def State.stepMembers (s : State) (b : Block) : List (Block × EngOp) :=
  (s.coopGroup b b.coop (·.coop)).filterMap fun x => x.coopHead.map fun op => (x, op)

/-- Members of a step name equal references, K and format words (R347, R468). -/
def sameStep (l : List (Block × EngOp)) : Bool :=
  match l with
  | [] => true
  | (_, x) :: r => r.all fun y => (y.2.q.drop 1).take 2 == (x.q.drop 1).take 2 && fld (y.2.q.getD 3 0) 0 24 == fld (x.q.getD 3 0) 0 24 &&
      y.2.fmt == x.fmt

/-- The products of operations, or the members whose checks fail. -/
def State.prodsOf (s : State) (l : List (Block × EngOp)) : List (Member × Option (BitVec 8 × Nat)) :=
  l.map fun m => match m.2.kind with
    | .mat (.mma o sp gs) => (match s.prodOf m.1 m.2 o sp gs with
      | .inl p => ((m.1, m.2, p), none)
      | .inr e => ((m.1, m.2, default), some e))
    | _ => ((m.1, m.2, default), none)

/-- Runs the products of a step, or raises the faults with which they begin (R443, R446). -/
def State.matProducts (s : State) (l : List (Block × EngOp)) : State :=
  if !sameStep l then l.foldl (fun s m => s.engFault m.1 m.2 0x28 0 0xFF 0 4 0) s
  else
    let ps := s.prodsOf l
    match ps.findSome? (·.2) with
    | some e => l.foldl (fun s m =>
        let own := (ps.find? fun p => p.1.1.id == m.1.id).bind (·.2)
        s.engFault m.1 m.2 (own.getD e).1 (own.getD e).2 0xFF (if (own.getD e).1 == 0x24 then BitVec.ofNat 64 (own.getD e).2 else 0) 4 0) s
    | none =>
      let s := l.foldl (fun s m => s.modOp m.1.id m.2.ctx m.2.num fun x => { x with begun := true }) s
      s.runProds (ps.map (·.1))

/-- A matrix operation begins, or goes on (R330, R344, R347, R348). The members of a cooperative step run it together, once each has been
taken by its core's engine (R20, R446). -/
def State.matGo (s : State) (b : Block) (op : EngOp) (m : MatOp) : State :=
  match m with
  | .mma o _ _ =>
    if o.coop && b.coop != 0 then
      let s := s.modOp b.id op.ctx op.num fun x => { x with begun := true }
      let l := s.stepMembers b
      let (_, nr, nc, _, _) := coopFields b.coop
      if l.length < nr * nc then s
      else if !(l.all fun m => m.2.begun) then s.callMembers (l.map (·.1))
      else s.matProducts l
    else s.matProducts [(b, op)]
  | .coop w => s.coopJoin b op w
  | .tile code o =>
    if code == 0x248 then
      if b.syncOk o op.q then State.engFinish b op (s.setPin b none, 0, none) else s
    else match s.tileChk b code o op.q with
      | some (c, a) =>
        let writes := c == 0x24 && (code == 0x245 || code == 0x24C || code == 0x24F)
        s.engFault b op c a 0xFF (if c == 0x24 then BitVec.ofNat 64 a else 0) (if writes then 5 else 4) 0
      | none => (s.modOp b.id op.ctx op.num fun x => { x with begun := true }).tileOp b op code o

end Sys2Proof.Machine
end

