-- ==== Sys2Proof/Machine/Collective.lean ====
section
/-! DEFINITION. Collectives (R148, R339, R468), the steps by which engine operations begin and complete (R330), and
the leaves of the die power governor (R167). -/

namespace Sys2Proof.Machine

/-! ### Members of a collective (R44, R339) -/

/-- The blocks in one unit of level `k` (R42, R339). -/
def Block.unitSize (b : Block) (k : Nat) : Nat :=
  ((b.levels.drop (b.blkLev + 1)).take (k - b.blkLev)).foldl (fun n x => n * max x.2.2 1) 1

/-- The members of a collective on level `k`, in ascending member index, if all are resident. -/
def State.collMembers (s : State) (b : Block) (k : Nat) : Option (List Block) :=
  let n := b.unitSize k
  let first := b.num / n * n
  let l := (List.range n).filterMap fun m => s.blocks.find? fun x => x.launch == b.launch && x.num == first + m
  if l.length == n then some l else none

/-- The first collective of a block that has not completed. -/
def Block.collHead (b : Block) : Option EngOp := b.ops.find? fun x => x.ctx == .coll && !x.done && x.step == 0

/-- The collective that each member stands at, if all stand at one of level `k` and index `j`. -/
def collOps (l : List Block) (k j : Nat) : Option (List (Block × EngOp)) :=
  let r := l.filterMap fun b => match b.collHead with
    | some op => (match op.kind with
      | .coll _ o j' => if o.lv.toNat == k && j' == j && op.fault.isNone then some (b, op) else none
      | _ => none)
    | none => none
  if r.length == l.length then some r else none

/-- What matched collectives must agree in: code, operation, type, count and, for CBCAST, the root. -/
def collKey (op : EngOp) : Nat × BitVec 3 × Ty × Nat × Nat :=
  match op.kind with
  | .coll code o _ =>
    (code, o.op, o.ty, fld (op.q.getD 2 0) 0 24, if code == 0x206 then fld (op.q.getD 2 0) 32 16 else 0)
  | _ => (0, 0, .dflt, 0, 0)

/-- The element size of a CREDUCE type (R339). -/
def redSize (ty : Ty) : Nat := match ty with | .bf16 => 2 | .w64 => 8 | _ => 4

/-- The combination of two contributions (R205, R280, R339). -/
def redNode (o : CollOp) (x y : Nat) : Nat :=
  let sg := fun (v : Nat) => (BitVec.ofNat 32 v).toInt
  let fl := fun (f : Fmt) => match o.op.toNat with
    | 0 => f.add .rn false x y
    | 1 => f.minMax false x y
    | _ => f.minMax true x y
  match o.ty with
  | .bf16 => fl fB
  | .w64 => fl fD
  | .s32 => (match o.op.toNat with | 0 => (x + y) % 2 ^ 32 | 1 => if sg y < sg x then y else x | _ => if sg x < sg y then y else x)
  | .u32 => (match o.op.toNat with | 0 => (x + y) % 2 ^ 32 | 1 => min x y | _ => max x y)
  | _ => fl fS

/-- The levels of a tree over `n` leaves. -/
def treeDepth (n : Nat) : Nat := if n ≤ 1 then 0 else (n - 1).log2 + 1

/-- The vault address of a member's buffer (R339). -/
def collBuf (op : EngOp) : Nat := fld (op.q.getD 1 0) 0 32

/-- The bytes of a member's buffer. -/
def collBytes (op : EngOp) : Nat :=
  match op.kind with
  | .coll code o _ => if code == 0x206 then fld (op.q.getD 2 0) 0 24 else fld (op.q.getD 2 0) 0 24 * redSize o.ty
  | _ => 0

/-- Matched collectives are refused (R468). -/
def collBad (l : List (Block × EngOp)) : Bool :=
  match l with
  | [] => false
  | (_, x) :: r => (r.any fun y => collKey y.2 != collKey x) ||
      (match x.kind with
       | .coll code _ _ => code == 0x206 && (fld (x.q.getD 2 0) 0 24 % 4 != 0 || l.length ≤ fld (x.q.getD 2 0) 32 16)
       | _ => false)

/-- The fault of a member's buffer (R441, R461, R464). -/
def State.collChk (s : State) (b : Block) (op : EngOp) : Option (BitVec 8 × Nat) :=
  let a := collBuf op
  let e := match op.kind with | .coll code o _ => if code == 0x206 then 4 else redSize o.ty | _ => 1
  let n := collBytes op
  if a % e != 0 then some (0x23, a)
  else if n != 0 && !s.vaultOk b a n then some (0x24, a)
  else if n != 0 && s.badVaultAt (dieOf b.core) a n then some (0x2D, a)
  else none

/-- The result of a collective in every buffer (R148, R220, R339), as a list of bytes. -/
def State.collResult (s : State) (l : List (Block × EngOp)) : List Byte :=
  match l with
  | [] => []
  | (_, x) :: _ =>
    match x.kind with
    | .coll code o _ =>
      if code == 0x206 then
        (match l[fld (x.q.getD 2 0) 32 16]? with
         | some (b, op) => leBytes (collBytes op) (s.vlRd (dieOf b.core) (collBuf op) (collBytes op))
         | none => [])
      else
        let e := redSize o.ty
        (List.range (fld (x.q.getD 2 0) 0 24)).flatMap fun i =>
          let leaves := l.map fun m => some (s.vlRd (dieOf m.1.core) (collBuf m.2 + e * i) e)
          let pad := List.replicate (2 ^ treeDepth l.length - l.length) none
          leBytes e ((reduxTree (redNode o) (treeDepth l.length) (leaves ++ pad)).getD 0)
    | _ => []

/-- A member pulls the next chunk of what it combines or receives, up to 4 KiB; once every member has pulled the whole, none of them needs
a contribution any more, and each may write its buffer (R24, R147, R148). -/
def State.collPull (s : State) (b : Block) (op : EngOp) (l : List (Block × EngOp)) : State :=
  let n := min 4096 (collBytes op - op.moved)
  let bytes := ((((s.collResult l).drop op.moved).take n).zipIdx).map fun x => (op.moved + x.2, x.1)
  let s := s.modOp b.id .coll op.num fun x => { x with inbox := x.inbox ++ bytes, moved := x.moved + n }
  if op.moved + n < collBytes op then s.push [.collectiveChunk b.id op.num]
  else if l.all fun m => m.1.id == b.id || m.2.moved == collBytes m.2 then
    l.foldl (fun s m => (s.modOp m.1.id .coll m.2.num fun x => { x with written := 1 }).push [.collectiveChunk m.1.id m.2.num]) s
  else s

/-- A member's buffer receives the result that it has pulled, and its operation is complete (R148, R339). -/
def State.collWrite (s : State) (b : Block) (op : EngOp) : State :=
  let s := s.vlWrBytes (dieOf b.core) (collBuf op) (op.inbox.map (·.2))
  (s.modOp b.id .coll op.num fun x => { x with step := 1, inbox := [] }).push [.engineOpCompletion b.id .coll op.num]

/-- `COLLECTIVE_CHUNK`: once every member has issued the matching collective, each pulls the chunks that it combines or receives, and
when all have been pulled each writes its own buffer (R147, R148, R339); members that do not match fault before any byte moves (R468). -/
def execCollectiveChunk (bid n : Nat) (s : State) : Host.Outcome State Fault Refusal :=
  .next (match s.blk bid with
  | none => s
  | some b =>
    match b.opOf .coll n with
    | none => s
    | some op =>
      match op.kind with
      | .coll _ o j =>
        if op.written == 1 then (if op.step == 0 && op.fault.isNone then s.collWrite b op else s)
        else
        (match (s.collMembers b o.lv.toNat).bind fun l => collOps l o.lv.toNat j with
         | none => s
         | some l =>
           if l.any fun m => !m.2.begun then s
           else if collBad l then l.foldl (fun s m => s.engFault m.1 m.2 0x28 0 0xFF 0 4 0) s
           else s.collPull b op l)
      | _ => s)

/-! ### Beginning and completing (R329, R330, R409, R410) -/

/-- An earlier operation of a context that runs its operations in order has not completed. -/
def Block.orderHeld (b : Block) (k : Ctx) (n : Nat) : Bool :=
  (k == .matrix || k == .coll) && b.ops.any fun x => x.ctx == k && x.num < n && !x.done

/-- A product whose format word the present level does not perform (R389). DESIGN CHOICE (entry 17): one that was issued at a higher level
waits, unbegun, until the level offers its formats. -/
def State.opLow (s : State) (op : EngOp) : Bool :=
  match op.kind with
  | .mat (.mma _ _ _) => s.fmtLow op.fmt
  | _ => false

/-- A matrix operation can be taken by the engine: nothing of its block holds it, and the other members of a cooperative step have
issued theirs (R330, R347, R410). -/
def State.matReady (s : State) (b : Block) : Option EngOp :=
  if b.halt.isSome || b.saving then none
  else (b.ops.find? fun op => op.ctx == .matrix && !op.done && op.step == 0).bind fun op =>
    if op.begun || op.fault.isSome || b.orderHeld .matrix op.num || b.issueHeld op || s.opLow op then none
    else match op.kind with
      | .mat (.mma o _ _) =>
        let (_, nr, nc, _, _) := coopFields b.coop
        if o.coop && b.coop != 0 && (s.stepMembers b).length < nr * nc then none else some op
      | _ => some op

/-- A member's collective begins; the members look whether all have (R339). -/
def State.collBegin (s : State) (b : Block) (op : EngOp) (o : CollOp) : State :=
  let s := s.modOp b.id .coll op.num fun x => { x with begun := true }
  s.push ((((s.collMembers b o.lv.toNat).getD []).filterMap fun x => x.collHead.map fun y => Event.collectiveChunk x.id y.num))

/-- What a core's matrix engine takes next: of its contexts, in strict rotation, the first that has an instruction ready (R20). -/
def State.matTake (s : State) (core : Nat) : Option (Block × EngOp) :=
  (List.range 4).findSome? fun k =>
    (s.blocks.find? fun b => b.core == core && b.seqx == ((s.core core).matTurn + k) % 4).bind fun b => (s.matReady b).map fun op => (b, op)

/-- The matrix engine of a core takes an instruction, if a context has one ready (R20, R344). -/
def State.matTurn (s : State) (core : Nat) : State :=
  match s.matTake core with
  | some (b, op) =>
    let s := s.modCore core fun c => { c with matTurn := (b.seqx + 1) % 4 }
    (match op.kind with | .mat m => s.matGo b op m | _ => s)
  | none => s

/-- `ENGINE_OP_BEGIN`: an operation begins, unless one before it has not completed or its block is halted or being
saved (R169, R330, R410), and reads its descriptors. A matrix operation that began goes on; else the core's matrix engine takes the
instruction whose context has the turn (R20). -/
def execEngineOpBegin (bid : Nat) (k : Ctx) (n : Nat) (s : State) : Host.Outcome State Fault Refusal :=
  .next (match s.blk bid with
  | none => s
  | some b =>
    match b.opOf k n with
    | none => s
    | some op =>
      if op.fault.isSome || op.step != 0 || b.orderHeld k n || ((b.halt.isSome || b.saving || b.issueHeld op) && !op.begun) then s
      else match op.kind with
        | .copy code o => if op.begun then s else s.copyBegin b op code o
        | .coll _ o _ =>
          (match s.collChk b op with
           | some (c, a) => s.engFault b op c a 0xFF (if c == 0x24 then BitVec.ofNat 64 a else 0) 4 0
           | none => s.collBegin b op o)
        | .mat m =>
          if op.begun then s.matGo b op m
          else match (if s.upsets.isEmpty then (false, s) else s.meet .ts b.core) with
          -- uncorrectable data in the tile store (R461)
          | (true, s) => s.engFault b op 0x60 0 0xFF 0 4 0
          | (false, s) =>
            let other := match s.matTake b.core with | some (x, _) => x.id != bid | none => false
            let s := s.matTurn b.core
            if other then s.push [.engineOpBegin bid k n] else s
        | .pull n => if op.begun then s else s.pullBegin b op n)

/-- The scope bound to a level of a block's launch (R46). -/
def Block.levelScope (b : Block) (k : Nat) : Scope := ((b.levels[k]?).map fun x => x.2.1).getD .blk

/-- The release that the completion of an operation makes: a collective's at the scope bound to its level (R339); whether it is
complete. -/
def State.engRelease (s : State) (b : Block) (op : EngOp) : Bool × State :=
  match op.kind with
  | .coll _ o _ => s.tlRelease b (b.levelScope o.lv.toNat)
  | _ => (true, s)

/-- `ENGINE_OP_COMPLETION`: an operation whose bytes are all written and accepted completes, and its counter may
advance (R95, R337). One that still waits for words or for its stores tries again. -/
def execEngineOpCompletion (bid : Nat) (k : Ctx) (n : Nat) (s : State) : Host.Outcome State Fault Refusal :=
  let s := s.engPath bid k n
  .next (match s.blk bid with
  | none => s
  | some b =>
    match b.opOf k n with
    | none => s
    | some op =>
      if op.fault.isSome then s
      else if op.step == 1 then
        (if op.posted == 0 then (let r := s.engRelease b op; if r.1 then r.2.engDone bid k n else r.2) else s)
      else match op.kind with
        | .copy _ _ => if op.begun then s.push [.copyEnginePull b.core] else s
        | .mat m => if op.begun then s.matGo b op m else s
        | .coll _ _ _ => if op.begun then s.push [.collectiveChunk bid n] else s
        | .pull n => if op.begun || b.halt.isSome || b.saving || b.issueHeld op then s else s.pullBegin b op n)

/-! ### Leaves (R167) -/

/-- `LEAVE_GRANT`: the governor grants waiting requests in order, at most 8 in any 100 ns and at most the limit at
once (R167). -/
def execLeaveGrant (die : Nat) (s : State) : Host.Outcome State Fault Refusal :=
  .next (
    let g := (s.die die).gov
    match g.queue with
    | [] => s
    | (bid, k) :: rest =>
      let recent := g.grants.filter fun t => s.gtime < t + 100
      match s.blk bid with
      | none =>
        let s := s.modDie die fun x => { x with gov := { x.gov with queue := rest } }
        if rest.isEmpty then s else s.push [.leaveGrant die]
      | some _ =>
        if g.limit ≤ s.leavesHeld die then s
        else if 8 ≤ recent.length then s.timer (recent.headD s.gtime + 100) (.leaveGrant die)
        else
          let s := s.modDie die fun x => { x with gov := { x.gov with queue := rest, grants := recent ++ [s.gtime] } }
          let s := s.modBlk bid fun b => match k with
            | none => { b with leaveHeld := true }
            | some k => { b with leaves := addNew b.leaves k }
          if rest.isEmpty then s else s.push [.leaveGrant die])

/-- `LEAVE_EXPIRY`: an implicit leave ends after its engine has been idle for 1 µs (R167). -/
def execLeaveExpiry (bid : Nat) (k : Ctx) (s : State) : Host.Outcome State Fault Refusal :=
  .next (match s.blk bid with
  | none => s
  | some b =>
    if !(b.open' k).isEmpty || !b.leaves.contains k || s.timers.any (fun x => x.2 == .leaveExpiry bid k) then s
    else (s.modBlk bid fun b => { b with leaves := b.leaves.filter fun x => x != k }).push [.leaveGrant (dieOf b.core)])

end Sys2Proof.Machine
end

