-- ==== Sys2Proof/Machine/Queue.lean ====
section
/-! DEFINITION. The queues of the die schedulers and their buffer pools (R157, R158), nodes (R163), and the
enqueues that a slice or sequencer waits for (R360, R361). -/

namespace Sys2Proof.Machine

/-- A queue's binding (R157): the kind and the context, if it is in use. -/
def State.qbindOf (s : State) (d q : Nat) : Option (Nat × Nat) :=
  let v := (mgetD (s.die d).qbind q 0).toNat
  if v / 2 ^ 31 == 1 then some (v / 2 ^ 29 % 4, v % 4096) else none

/-- CAP, MIN and ORD of a queue (R157). -/
def State.qCap (s : State) (d q : Nat) : Nat := (mgetD (s.die d).qctl q 0).toNat / 2 ^ 20
def State.qMin (s : State) (d q : Nat) : Nat := (mgetD (s.die d).qctl q 0).toNat / 2 ^ 8 % 2 ^ 12
def State.qOrd (s : State) (d q : Nat) : Bool := (mgetD (s.die d).qctl q 0).getLsbD 7

/-- What a queue holds, oldest first (R157). -/
def State.queue (s : State) (d q : Nat) : List QItem := mgetD (s.die d).queues q []

/-- The entries of a die's pool that are free (R157). -/
def State.freeEntries (s : State) (d : Nat) : Nat := 4096 - ((s.die d).queues.map fun x => x.2.length).sum

/-- The entries that the pool keeps for the other queues (R158). -/
def State.spare (s : State) (d q : Nat) : Nat :=
  (((s.die d).qbind.filter fun x => x.1 != q && x.2.getLsbD 31).map fun x => s.qMin d x.1 - (s.queue d x.1).length).sum

/-- An entry is granted to a queue (R158); during an evacuation enqueues are held (R394). -/
def State.grants (s : State) (d q : Nat) : Bool :=
  let n := (s.queue d q).length
  s.evacPhase == 0 && (decide (n < s.qMin d q) || (decide (n < s.qCap d q) && decide (s.spare d q + 1 ≤ s.freeEntries d)))

/-- Puts an item into a queue and lets the scheduler look (R157, R164). -/
def State.enqueue (s : State) (d q : Nat) (x : QItem) : State :=
  (s.modDie d fun y => { y with queues := mset y.queues q (s.queue d q ++ [x]) }).push [.launchPlacement d]

/-- A context's node descriptor: its launch record, queue, coalesce count and flush time (R163). -/
def State.nodeOf (s : State) (asid n : Nat) : Option (Nat × Nat × Nat × Nat) :=
  let a := fld (s.cxr asid 0x10D) 0 48 + 32 * n
  match s.vrd asid a 8, s.vrd asid (a + 8) 8 with
  | some r, some w => some (r, w % 2 ^ 16, w / 2 ^ 16 % 512, w / 2 ^ 32)
  | _, _ => none

/-- 128 bytes of a launch record at a virtual address, which lies in package memory, or the fault of reading them (R155, R360; bytes
outside count as zero, entry 9). -/
def State.readRecord (s : State) (asid a : Nat) : Sum (List Byte) (BitVec 8 × Nat × DWord) :=
  (List.range 16).foldl (fun acc k =>
    match acc with
    | .inr x => .inr x
    | .inl l => match s.xlat asid ((a + 8 * k) % 2 ^ 64) .load with
      | .inr x => .inr x
      | .inl (pa, e) => match s.refusal (pa / 64) (leafT e) with
        | some c => .inr (c, 0xFF, 0)
        | none => .inl (l ++ if vaClass (a + 8 * k) == .package then s.rdBytes pa 8 else List.replicate 8 0)) (.inl [])

/-- A device launch queue of a context on a die (R360, R469). -/
def State.launchQueue (s : State) (d q asid : Nat) : Bool := s.qbindOf d q == some (1, asid)

/-- The count of entries of a node's queue reaches its cap: nothing can be appended (R469). A queue that is not a node
queue of the context holds no entry. -/
def State.emitFull (s : State) (d q asid : Nat) : Bool :=
  s.qbindOf d q != some (2, asid) || decide (s.qCap d q ≤ (s.queue d q).length)

/-- Appends one record to a node's queue, and starts its flush time if it has one (R163). -/
def State.emitPut (s : State) (d q asid node tmo : Nat) (data : List Byte) : State :=
  let s := s.enqueue d q (.emit asid node data s.gtime)
  if tmo == 0 then s else s.timer (s.gtime + tmo) (.nodeFlushTimeout asid node)

end Sys2Proof.Machine
end

