-- ==== Sys2Proof/Machine/System.lean ====
section
/-! DEFINITION. System operations (R351 to R369, R429, R469): user-level interrupts, system calls, returns from
traps, whey-mode control, launches and records, privileged control, breakpoints and SLEEPW. KICK stands with the
copy engines. -/

namespace Sys2Proof.Machine

/-- The lanes of member slices in which a word takes effect, for a fault of the word; a frozen slice has its first
lane stand for it. -/
def actorLanes (c : Ctl) (g : Gang) (sp : Split) : Lanes :=
  ((memberSlices g sp).filter (takes c)).map fun sl => (sl.num, faultLanes c sl)

/-! ### User-level interrupts (R190 to R198, R353, R354) -/

/-- The number that CX_UI_HANDLER shows for a handler gang (R189). -/
def handlerWord (b : Block) (gang : Nat) (entry : BitVec 48) : DWord :=
  BitVec.ofNat 64 (2 ^ 63 + b.core % 512 * 2 ^ 54 + b.seqx % 4 * 2 ^ 52 + gang % 16 * 2 ^ 48 + entry.toNat)

/-- Raises refused sends (R418, R429): imprecise, with the slice's next word as the resume address. -/
def State.refuseSends (s : State) (bid gang : Nat) (pc : BitVec 48) (skid : Nat) (l : List (BitVec 8 × Nat × List Nat)) :
    State :=
  if l.isEmpty then s
  else
    let codes := sortBy (fun x y => decide (x.toNat ≤ y.toNat)) ((l.map (·.1)).foldl addNew [])
    s.trap bid gang (codes.map fun code =>
      ((l.filter fun x => x.1 == code).map fun x =>
        (x.2.1, x.2.2, match s.slice ⟨bid, gang, x.2.1⟩ with | some sl => sl.pc | none => pc),
       { code, prec := false, pc, skid }))

/-- A SENDUI to a peer: it travels to the peer's interrupt unit and is counted on the fabric path until that unit has
recorded or refused it (R353). -/
def State.sendPeer (s : State) (b : Block) (g : Gang) (sl : Slice) (c : Ctl) (dev asid v : Nat) (p : DWord) : State :=
  let (id, s) := s.newId
  let who : Issuer := ⟨b.id, g.num, sl.num⟩
  let part : Part := { lane := lowLane c sl, addr := 0, st := .sent id }
  let a : Access := { id, who, path := 3, kind := .sendui, esz := 8, asid := b.asid, pc := sl.pc, parts := [part], grp := id }
  let pkt : VPkt := { kind := 0, esz := 8, dst := dev, src := s.devNum, ctx := b.asid, page := 0, rid := id % 65536, aop := 0,
                      offs := [], data := [p] }
  let fr : FabReq := { rid := id % 65536, acc := id, lanes := faultLanes c sl, pkt, time := s.gtime }
  let s := s.modSlice who fun sl => { sl with acc := sl.acc ++ [a] }
  ({ s with fabReqs := s.fabReqs ++ [fr] }).send (.peerUi dev asid v p b.asid (id % 65536))

/-- `SENDUI` (R100, R192, R353, R429): each slice sends once, from its lowest taking lane. -/
def execSendui (c : Ctl) (o : SendOp) (s : State) : Host.Outcome State Fault Refusal :=
  withSplit s fun b g sp =>
    let act := (memberSlices g sp).filter (takes c)
    match relAll s b g sp act (if o.peer then .fab else .dev) with
    | some s => s
    | none =>
      if o.peer && act.any (fun sl => pathFull sl 3) then waitAt s b g sp (.counter 3)
      else
        let r := act.foldl (fun (acc : State × List (BitVec 8 × Nat × List Nat)) sl =>
          let s := acc.1
          let tgt := (sl.s o.a.toNat).toNat
          let p := sl.v64 g.budget o.d.toNat (lowLane c sl)
          let dev := tgt / 2 ^ 12 % 512
          let bad : BitVec 8 → State × List (BitVec 8 × Nat × List Nat) := fun code => (s, acc.2 ++ [(code, sl.num, faultLanes c sl)])
          if o.peer && dev != s.devNum then
            (if s.members.contains dev then (s.sendPeer b g sl c dev (tgt % 4096) o.v.toNat p, acc.2) else bad 0x41)
          else match s.uiSend (tgt % 4096) o.v.toNat p (.loc b.asid) with
            | .inl s => (s, acc.2)
            | .inr code => bad code) (s, [])
        (finish r.1 b g sp c).refuseSends b.id g.num (g.splitPc sp) 0 r.2

/-- Every slice of a handler gang that has not exited waits at UIRET at one address (R196). -/
def Gang.atUiret (g : Gang) : Bool :=
  match g.liveSlices with
  | [] => false
  | k :: r => (k :: r).all fun sl => sl.pc == k.pc && (match g.splitOf sl.num with | some sp => sp.wait == .uiret | none => false)

/-- The handler ends, or enters again if a further delivery is due to the same gang (R196, R198). -/
def State.uiretGo (s : State) (bid gang : Nat) : State :=
  match s.blk bid with
  | none => s
  | some b =>
    match b.gang gang with
    | none => s
    | some g =>
      if !g.atUiret || b.halt.isSome then s
      else
        let u := s.uiOf b.asid
        match (if (s.cxr b.asid 0x110).getLsbD 63 && u.hnd == some (bid, gang) then s.uiVector b.asid else none) with
        | some v => s.uiEnter b.asid v bid gang true
        | none => s.uiLeave b.asid bid gang

/-- `UIRET` (R196, R429: legal in the running handler gang only). Slices that do not execute it go on. -/
def execUiret (c : Ctl) (s : State) : Host.Outcome State Fault Refusal :=
  withSplit s fun b g sp =>
    let act := (memberSlices g sp).filter (takes c)
    if act.isEmpty then finish s b g sp c
    else if (s.uiOf b.asid).running != some (b.id, g.num) then trapWord s b g sp c 0x41 (actorLanes c g sp)
    else
      let stay := act.map (·.num)
      let s :=
        if stay.length == sp.slices.length then (waitAt s b g sp .uiret).keepStall b g sp c
        else
          let s := moveSplit s b g sp c (fun sl => nextPc sl.pc) true stay
          s.modSplit b.id g.num (stay.headD 0) fun x => { x with wait := .uiret }
      s.uiretGo b.id g.num

/-- A UIMASK or UIPEND word: 0x41 where the context has no interrupt block (R354, R429), else `f` in each slice, and
deliveries that become due. -/
def uiWord (c : Ctl) (f : State → Block → Gang → Slice → State) (s : State) : Host.Outcome State Fault Refusal :=
  withSplit s fun b g sp =>
    let act := (memberSlices g sp).filter (takes c)
    if act.isEmpty then finish s b g sp c
    else if s.uiBase b.asid == 0 then trapWord s b g sp c 0x41 (actorLanes c g sp)
    else (finish ((act.foldl (fun s sl => f s b g sl) s).uiMark (s.uiDue b.asid) b.asid) b g sp c).uiPoke b.asid

/-- Sets the mask of the issuer's context through its interrupt unit (R354). -/
def maskWord (c : Ctl) (o : ZOp) (f : DWord → DWord → DWord) (s : State) : Host.Outcome State Fault Refusal :=
  uiWord c (fun s b _ sl =>
    s.uiWr b.asid 8 8 (f (BitVec.ofNat 64 (s.uiRd b.asid 8 8)) (sl.s64 o.a.toNat)).toNat) s

/-- `UIMASK.wr` (R354). -/
def execUimaskWr (c : Ctl) (o : ZOp) (s : State) : Host.Outcome State Fault Refusal := maskWord c o (fun _ x => x) s

/-- `UIMASK.set` (R354). -/
def execUimaskSet (c : Ctl) (o : ZOp) (s : State) : Host.Outcome State Fault Refusal := maskWord c o (fun m x => m ||| x) s

/-- `UIMASK.clr` (R354). -/
def execUimaskClr (c : Ctl) (o : ZOp) (s : State) : Host.Outcome State Fault Refusal := maskWord c o (fun m x => m &&& ~~~x) s

/-- `UIMASK.hnd` (R193, R354): the issuing gang becomes the handler gang. -/
def execUimaskHnd (c : Ctl) (o : BitVec 20) (s : State) : Host.Outcome State Fault Refusal :=
  uiWord c (fun s b g sl =>
    let s := s.setUi { s.uiOf b.asid with hnd := some (b.id, g.num) }
    s.setCx b.asid 0x110 (handlerWord b g.num (relTarget sl o))) s

/-- `UIPEND` (R354: the result is there for the next word). -/
def execUipend (c : Ctl) (o : ZOp) (s : State) : Host.Outcome State Fault Refusal :=
  uiWord c (fun s b g sl =>
    s.modSlice ⟨b.id, g.num, sl.num⟩ fun sl => sl.setS64 o.d.toNat (BitVec.ofNat 64 (s.uiRd b.asid 0 8))) s

/-! ### System calls (R199 to R201, R355, R356) -/

/-- An AOP that R312 lists. -/
def aopListed (n : Nat) : Bool := decide (n ≤ 14) || decide (16 ≤ n ∧ n ≤ 20) || n == 24

/-- A call number may be posted (R199, R312, R429). -/
def State.callOk (s : State) (asid n : Nat) : Bool :=
  if n < 0x800 then s.scOk asid false
  else s.scOk asid true && (n < 0xF00 || 0xF20 ≤ n || aopListed (n - 0xF00))

/-- The calls of an execution, a lane each: number, lane of the gang, first destination register, arguments (R355). -/
def callLanes (c : Ctl) (o : SyscallOp) (g : Gang) (sp : Split) : List (Nat × Nat × Nat × List DWord) :=
  (memberSlices g sp).flatMap fun sl => (effLanes c sl).map fun j =>
    let n := match o.n with | .inl r => (sl.v g.budget r.toNat j).toNat % 4096 | .inr i => i.toNat
    (n, 4 * sl.num + j, sl.phys g.budget o.d.toNat, (List.range 6).map fun k => sl.v64 g.budget (o.a.toNat + 2 * k) j)

/-- `SYSCALL` (R199 to R201, R355, R429): one record for each number, in ascending number; the split waits until all
have ended. -/
def execSyscall (c : Ctl) (o : SyscallOp) (s : State) : Host.Outcome State Fault Refusal :=
  withSplit s fun b g sp =>
    match sp.made, sp.wait with
    | true, .syscall recs =>
      if s.sc.any fun r => recs.contains r.id then waitAt s b g sp (.syscall recs) else finish s b g sp c true
    | _, _ =>
      let calls := callLanes c o g sp
      let nums := sortBy (fun x y => decide (x ≤ y)) ((calls.map (·.1)).foldl addNew [])
      if nums.isEmpty then finish s b g sp c
      else if nums.any fun n => !s.callOk b.asid n then trapWord s b g sp c 0x42 (takingLanes g sp c)
      else
        match relAll s b g sp (memberSlices g sp) (if nums.any fun n => 0x800 ≤ n then .sys else .dev) with
        | some s => s
        | none =>
          let r := nums.foldl (fun (acc : State × List Nat) n =>
            let (id, s) := acc.1.newId
            let rec' : ScRec := { id, asid := b.asid, host := decide (0x800 ≤ n), who := ⟨b.id, g.num, sp.slices.headD 0⟩,
                                  lanes := (calls.filter fun x => x.1 == n).map (·.2), num := n }
            (s.scAdd rec', acc.2 ++ [id])) (s, [])
          waitAt r.1 b g sp (.syscall r.2) true

/-- A record ends (R201): the lanes receive their results, the slot is free, the slice wakes with the matching
acquire, and the records that waited for the slot are posted. -/
def State.scFinish (s : State) (r : ScRec) (rets : List (Nat × DWord)) : State :=
  let s := { s with sc := s.sc.filter fun x => x.id != r.id }
  let ring := s.scRing r.asid r.host
  let s := if r.host then s else s.vwr r.asid (ring.1 + 2048 * r.slot + 2) [0]
  let s := match s.blk r.who.blk with
    | some b => s.acquire b.core [r.asid] (if r.host then .sys else .dev)
    | none => s
  let s : State := match r.acc with
    | some _ =>
      let s := r.parts.foldl (fun (s : State) x =>
        match (s.accOf x.2.1).bind fun a => (a.parts.find? fun p => p.lane == x.2.2).map fun p => (a, p) with
        | some (a, p) => s.donePart a p (mgetD rets x.1 0).toNat
        | none => s) s
      ((r.parts.map fun x => x.2.1).foldl addNew []).foldl (fun (s : State) id => match s.accOf id with
        | some a => s.settleOn a.who id
        | none => s) s
    | none => r.lanes.foldl (fun (s : State) x =>
        let put : Slice → Slice := fun sl =>
          let v := mgetD rets x.1 0
          ((sl.landTo s.now).setPhys x.2.1 (x.1 % 4) (lo32 v)).setPhys (x.2.1 + 1) (x.1 % 4) (hi32 v)
        s.modSliceAny { r.who with slice := x.1 / 4 } put) s
  s.scPosts r.asid

/-- The results that a servant has left in a slot of the device ring (R200). -/
def State.scRets (s : State) (r : ScRec) : List (Nat × DWord) :=
  let ring := s.scRing r.asid false
  r.lanes.foldl (fun l x => mset l x.1 (BitVec.ofNat 64 ((s.vrd r.asid (ring.1 + 2048 * r.slot + 1792 + 8 * x.1) 8).getD 0))) []

/-- `SYSRET` (R356, R469). -/
def execSysret (c : Ctl) (o : ZOp) (s : State) : Host.Outcome State Fault Refusal :=
  withSplit s fun b g sp =>
    let act := (memberSlices g sp).filter (takes c)
    match relAll s b g sp act .dev with
    | some s => s
    | none =>
      let r := act.foldl (fun (acc : State × Lanes) sl =>
        let s := acc.1
        let asid := (sl.s o.d.toNat).toNat % 4096
        let i := (sl.s o.a.toNat).toNat
        let ring := s.scRing asid false
        let at' := ring.1 + 2048 * i + 2
        if !s.inUse asid || ring.1 == 0 || ring.2.1 ≤ i || (s.vrd asid at' 1).getD 0 != 1 then (s, acc.2 ++ [(sl.num, faultLanes c sl)])
        else
          let s := s.vwr asid at' [2]
          (match s.sc.find? (fun x => x.asid == asid && !x.host && x.posted && x.slot == i) with
           | some r => (s.scFinish r (s.scRets r), acc.2)
           | none => ((s.vwr asid at' [0]).scPosts asid, acc.2))) (s, [])
      if r.2.isEmpty then finish r.1 b g sp c else trapWord r.1 b g sp c 0x42 r.2

/-! ### Returns from traps (R357, R416, R420, R436) -/

/-- The origin that a handler lane's %orig names (R357, R413). -/
def Block.originOf (b : Block) (lane : Nat) : Option Origin := if b.isHandler then b.handlerOf[lane]? else none

/-- `TRAPRET` (R357, R416, R469): the handler lane returns its registers, marks its origin and retires. -/
def execTrapret (c : Ctl) (o : TrapretOp) (s : State) : Host.Outcome State Fault Refusal :=
  withSplit s fun b g sp =>
    let none' := o.m1 == 255
    let m := if none' then 0 else o.m1.toNat + 1
    let bad : Slice → Nat → Bool := fun sl j =>
      (!none' && decide (32 < o.k.toNat + m)) ||
      (match b.originOf (4 * sl.num + j) with | some org => org.seq && !none' | none => true)
    let mem := memberSlices g sp
    let wrong : Lanes := mem.map fun sl => (sl.num, if sl.frozen then (if takes c sl then [0] else []) else (effLanes c sl).filter (bad sl))
    let good : Slice → List Nat := fun sl => (effLanes c sl).filter fun j => !bad sl j
    let s := mem.foldl (fun s sl => (good sl).foldl (fun s j => match b.originOf (4 * sl.num + j) with
      | some org => s.trapReturn org o.k.toNat ((List.range m).map fun i => sl.v g.budget (o.k.toNat + i) j) o.skip
      | none => s) s) s
    let s := onMembers s b g sp fun sl => sl.exitLanes (good sl)
    let left := mem.any fun sl => !(sl.exitLanes (good sl)).active.isEmpty || sl.frozen
    let s := if wrong.all fun x => x.2.isEmpty then finish s b g sp c (!left) else trapWord s b g sp c 0x01 wrong
    s.afterExit b.id g.num

/-- Lets held accesses of a slice go again, or drops the held parts and lets what is behind them go (R436). -/
def State.reissue (s : State) (w : Issuer) (drop : Part → Bool) : State :=
  let f : Part → Part := fun p => match p.st with
    | .held _ => if drop p then { p with st := .done } else { p with st := .todo, pa := 2 ^ 60, tr := none }
    | .behind => { p with st := .todo, tr := none }
    | _ => p
  let s := s.modAccs w fun l => l.map fun a => { a with parts := a.parts.map f }
  let s := s.drain w
  s.push ((s.accs w).map fun a => Event.accessCompletion a.id)

/-- A slice holds an access (R434). -/
def Slice.holds (sl : Slice) : Bool := sl.acc.any fun a => a.parts.any fun p => match p.st with | .held _ => true | _ => false

/-- `TRAPRET.frz` (R420, R436): a frozen slice goes on at its RPC, or with .skip at the next word; a held access is
issued again, or dropped without moving the RPC. -/
def execTrapretFrz (c : Ctl) (o : Bool) (s : State) : Host.Outcome State Fault Refusal :=
  withSplit s fun b g sp =>
    let mem := memberSlices g sp
    let frz := mem.filter fun sl => sl.frozen && takes c sl
    let wrong : Lanes := (mem.filter fun sl => !sl.frozen && takes c sl).map fun sl => (sl.num, effLanes c sl)
    let s := frz.foldl (fun s sl => (s.unfreeze ⟨b.id, g.num, sl.num⟩ (o && !sl.holds)).reissue ⟨b.id, g.num, sl.num⟩ fun _ => o) s
    let back := frz.map fun sl => (sl.num, match s.slice ⟨b.id, g.num, sl.num⟩ with | some x => x.pc | none => sl.pc)
    let target : Slice → BitVec 48 := fun sl => ((back.find? fun x => x.1 == sl.num).map (·.2)).getD (nextPc sl.pc)
    if wrong.isEmpty then moveSplit s b g sp c target false
    else trapMany s b g sp c target [(0x01, 0, execDetail s.curWord 0, wrong)]

/-! ### Whey-mode control (R178, R358, R359) -/

/-- The replica that MIGR names, by its core (R184, R358): none where it has no effect. -/
def State.migrTarget (s : State) (b : Block) (seg : Nat) (o : MigrOp) : Option Nat :=
  if o.named then
    (match (s.segs b.launch)[seg]? with
     | some x => (match x.2.2.find? (fun r => r.1 == o.rep.toNat) with
       | some r => if r.2.1 != b.core && (s.core r.2.1).inService then some r.2.1 else none
       | none => none)
     | none => none)
  else
    let others : WheyMap → WheyMap := fun w =>
      if w.launch == b.launch then { w with segs := w.segs.map fun x => (x.1, x.2.1, x.2.2.filter fun r => r.2.1 != b.core) } else w
    ({ s with wheys := s.wheys.map others } : State).replicaFor b.launch seg b.core

/-- `MIGR` (R181, R188, R358, R432). -/
def execMigr (c : Ctl) (o : MigrOp) (s : State) : Host.Outcome State Fault Refusal :=
  withSplit s fun b g sp =>
    match b.whey, memberSlices g sp with
    | some (_, seg), [sl] =>
      if !takes c sl then finish s b g sp c
      else match s.migrTarget b seg o with
        | none => finish s b g sp c
        | some target =>
          match s.stageAt b.launch target b.core with
          | none => trapWord s b g sp c 0x44 [(sl.num, faultLanes c sl)] ((nextPc sl.pc).setWidth 64)
          | some stage =>
            if !sl.settled then waitAt s b g sp .departure
            else (finish s b g sp c true).depart b.id seg target stage
    | _, _ => finish s b g sp c

/-- `WLIVE` (R178, R359). -/
def execWlive (c : Ctl) (o : WliveOp) (s : State) : Host.Outcome State Fault Refusal :=
  withSplit s fun b g sp =>
    let s := if b.whey.isNone then s else onMembers s b g sp fun sl =>
      if takes c sl then { sl with vlive := 8 * o.nv.toNat, slive := 8 * o.ns.toNat } else sl
    finish s b g sp c

/-! ### Launches and records (R360, R361) -/

/-- What became of one enqueue of a word. -/
inductive EnqRes where
  | done (s : State)
  | wait (q : Nat)
  | bad (code : BitVec 8) (addr : DWord) (detail : List Byte)

/-- Puts the record at an address into a device launch queue, if an entry is granted now (R360). -/
def State.launchOne (s : State) (b : Block) (q a : Nat) : EnqRes :=
  let d := dieOf b.core
  if !s.launchQueue d q b.asid then .bad 0x45 (BitVec.ofNat 64 a) []
  else if !s.grants d q then .wait q
  else match s.readRecord b.asid a with
    | .inr (c, l, e) => .bad c (BitVec.ofNat 64 a) (memDetail 0 (vaClass a).path l 0 0 e)
    | .inl r => .done (s.enqueue d q (.launch r a b.asid 0 none none []))

/-- Appends the record at a vault address to a node's queue, if an entry is granted now (R361, R464, R469). -/
def State.emitOne (s : State) (b : Block) (node a : Nat) : EnqRes :=
  let d := dieOf b.core
  let bad : BitVec 8 → Nat → EnqRes := fun c i => .bad c (BitVec.ofNat 64 a) (memDetail 0 (s.vaultPath b a) 0xFF 0 0 (BitVec.ofNat 64 i))
  if a % 64 != 0 then bad 0x23 0
  else if !s.vaultOk b a 64 then bad 0x24 a
  else match s.nodeOf b.asid node with
    | none => .bad 0x46 (BitVec.ofNat 64 a) []
    | some (_, q, _, tmo) =>
      if s.emitFull d q b.asid then .bad 0x46 (BitVec.ofNat 64 a) []
      else if !s.grants d q then .wait q
      else .done (s.emitPut d q b.asid node tmo (leBytes 64 (s.vlRd d a 64)))

/-- What lanes or slices of a word have enqueued so far: the state, those that faulted, and the queue for which the
next one waits. After a lane has met the cap, no later lane of the word appends (R469). -/
structure EnqAcc where
  s : State
  bads : List (Nat × Nat × BitVec 8 × DWord × List Byte) := []
  wait : Option Nat := none
  full : Bool := false

/-- Enqueues for each place of a word in order, but those that have done so before the word waited. -/
def enqAll (b : Block) (g : Gang) (f : State → Nat → EnqRes) (l : List (Slice × Nat × Nat)) (s : State) : EnqAcc :=
  l.foldl (fun acc x =>
    let sl := x.1
    let j := x.2.1
    if acc.wait.isSome || sl.sent.contains j then acc
    else match f acc.s x.2.2 with
      | .done s =>
        if acc.full then { acc with bads := acc.bads ++ [(sl.num, j, 0x46, BitVec.ofNat 64 x.2.2, [])] }
        else { acc with s := s.modSlice ⟨b.id, g.num, sl.num⟩ fun y => { y with sent := y.sent ++ [j] } }
      | .wait q => if acc.full then { acc with bads := acc.bads ++ [(sl.num, j, 0x46, BitVec.ofNat 64 x.2.2, [])] } else { acc with wait := some q }
      | .bad code a d => { acc with bads := acc.bads ++ [(sl.num, j, code, a, d)], full := acc.full || code == 0x46 }) { s }

/-- Ends a word that enqueues: it waits, traps, or goes on. `all` widens a slice's fault to its taking lanes. -/
def enqEnd (c : Ctl) (b : Block) (g : Gang) (sp : Split) (w : Nat → Wait) (all : Bool) (r : EnqAcc) : State :=
  match r.wait with
  | some q => waitAt r.s b g sp (w q)
  | none =>
    let s := onMembers r.s b g sp fun sl => { sl with sent := [] }
    if r.bads.isEmpty then finish s b g sp c
    else
      let codes := (r.bads.map fun x => x.2.2.1).foldl addNew []
      trapMany s b g sp c (fun sl => nextPc sl.pc) (codes.filterMap fun code =>
        match r.bads.filter fun x => x.2.2.1 == code with
        | [] => none
        | x :: rest =>
          let slices := ((x :: rest).map (·.1)).foldl addNew []
          some (code, x.2.2.2.1, x.2.2.2.2, slices.map fun k =>
            (k, if all then (match g.slice k with | some sl => faultLanes c sl | none => [])
                else (x :: rest).filterMap fun y => if y.1 == k then some y.2.1 else none)))

/-- A uniform word that enqueues once (R360, R361). -/
def enqSeq (c : Ctl) (b : Block) (w : Nat → SeqWait) (r : State → EnqRes) (s : State) : State :=
  let x := s.release (seqWho b) .dev
  if !x.1 then waitSeq x.2 b (.release .dev x.2.upto)
  else match r x.2 with
    | .done s => finishSeq s b c
    | .wait q => waitSeq x.2 b (w q)
    | .bad code addr detail => x.2.trapSeq b.id { code, pc := b.seq.pc, addr, agent := 1, detail }

/-- `LAUNCH` (R160, R360, R469). -/
def execLaunch (c : Ctl) (o : ZqOp) (s : State) : Host.Outcome State Fault Refusal :=
  match s.cur with
  | some (.seq _) => withSeq s fun b =>
    enqSeq c b .launch (fun s => s.launchOne b o.q.toNat (b.seq.q o.a.toNat).toNat) s
  | _ => withSplit s fun b g sp =>
    let act := actLanes c g sp true
    match relAll s b g sp (act.map (·.1)) .dev with
    | some s => s
    | none =>
      let l := act.map fun x => (x.1, x.2.headD 0, (x.1.v64 g.budget o.a.toNat (x.2.headD 0)).toNat)
      enqEnd c b g sp .launch true (enqAll b g (fun s a => s.launchOne b o.q.toNat a) l s)

/-- `EMIT` (R163, R361, R469). -/
def execEmit (c : Ctl) (o : ZqOp) (s : State) : Host.Outcome State Fault Refusal :=
  match s.cur with
  | some (.seq _) => withSeq s fun b =>
    enqSeq c b .emit (fun s => s.emitOne b o.q.toNat ((b.seq.q o.a.toNat).toNat % 2 ^ 32)) s
  | _ => withSplit s fun b g sp =>
    let act := actLanes c g sp false
    match relAll s b g sp (act.map (·.1)) .dev with
    | some s => s
    | none =>
      let l := act.flatMap fun x => x.2.map fun j => (x.1, j, (x.1.v g.budget o.a.toNat j).toNat)
      enqEnd c b g sp .emit false (enqAll b g (fun s a => s.emitOne b o.q.toNat a) l s)

/-! ### Privileged control (R364, R365, R469) -/

/-- The slices of a word that name an ASID not in use: %fcode takes 0x22 there and nothing else happens (R418, R469). -/
def unboundFcode (c : Ctl) (b : Block) (g : Gang) (l : List Slice) (s : State) : State :=
  l.foldl (fun s sl => s.setFcode ⟨b.id, g.num, sl.num⟩ (if sl.frozen then sl.live else effLanes c sl) 0x22) s

/-- A MAPCTL operation, counted on the global path until it completes (R364). -/
def mapctlWord (op : Nat) (c : Ctl) (o : ZOp) (s : State) : Host.Outcome State Fault Refusal :=
  withSplit s fun b g sp =>
    let act := actLanes c g sp true
    let asid : Slice → Nat := fun sl => (sl.s o.d.toNat).toNat % 4096
    let good := act.filter fun x => s.inUse (asid x.1)
    let s := unboundFcode c b g ((act.filter fun x => !s.inUse (asid x.1)).map (·.1)) s
    issueAccs s b g sp c .rlx .blk (good.map fun x =>
      let j := x.2.headD 0
      ({ sl := x.1, kind := .mapctl op (asid x.1), esz := 8, path := 2,
         chk := [(j, .go { lane := j, addr := (x.1.v64 g.budget o.a.toNat j).toNat })] } : MemSlice))

/-- `MAPCTL.inv` (R364). -/
def execMapctlInv (c : Ctl) (o : ZOp) (s : State) : Host.Outcome State Fault Refusal := mapctlWord 0 c o s

/-- `MAPCTL.invall` (R364). -/
def execMapctlInvall (c : Ctl) (o : ZOp) (s : State) : Host.Outcome State Fault Refusal := mapctlWord 1 c o s

/-- `MAPCTL.host` (R130, R364). -/
def execMapctlHost (c : Ctl) (o : ZOp) (s : State) : Host.Outcome State Fault Refusal := mapctlWord 2 c o s

/-- `MAPCTL.dev` (R131, R364). -/
def execMapctlDev (c : Ctl) (o : ZOp) (s : State) : Host.Outcome State Fault Refusal := mapctlWord 3 c o s

/-- `DECLD` (R239, R241, R365, R469). -/
def execDecld (c : Ctl) (o : ZOp) (s : State) : Host.Outcome State Fault Refusal :=
  withSplit s fun b g sp =>
    let act := (memberSlices g sp).filter (takes c)
    let asid : Slice → Nat := fun sl => (sl.s o.d.toNat).toNat % 4096
    let val : Slice → DWord := fun sl => sl.s64 o.a.toNat
    let wrong := act.filter fun sl => fld (val sl) 0 2 == 0
    let rest := act.filter fun sl => fld (val sl) 0 2 != 0
    let bound := rest.filter fun sl => s.inUse (asid sl)
    let s := unboundFcode c b g (rest.filter fun sl => !s.inUse (asid sl)) s
    let skew : Slice → Bool := fun sl => fld (val sl) 0 2 == 1 && fld (val sl) 2 9 != 0
    let s := bound.foldl (fun s sl =>
      if skew sl then s.setFcode ⟨b.id, g.num, sl.num⟩ (if sl.frozen then sl.live else effLanes c sl) 0x23
      else s.setCx (asid sl) 0x102 (val sl &&& 0x0000FFFFFFFFF803#64)) s
    if wrong.isEmpty then finish s b g sp c else trapWord s b g sp c 0x01 (wrong.map fun sl => (sl.num, faultLanes c sl))

/-! ### BKPT and SLEEPW (R366, R367, R467) -/

/-- `BKPT` (R366). -/
def execBkpt (c : Ctl) (o : BitVec 20) (s : State) : Host.Outcome State Fault Refusal :=
  withSplit s fun b g sp => trapWord s b g sp c 0x0D (actorLanes c g sp) ((o.extractLsb' 0 16).setWidth 64)

/-- The word that a SLEEPW watches differs from the expected value (R367). Where this device cannot watch it, the wait
ends early, as it may at any time. -/
def State.sleepOver (s : State) (b : Block) (vault : Bool) (addr : Nat) (val : Word) : Bool :=
  if vault then BitVec.ofNat 32 (s.vlRd (dieOf b.core) addr 4) != val
  else match s.xlat b.asid addr .load with
    | .inr _ => true
    | .inl (pa, _) => s.place pa != .tokens || BitVec.ofNat 32 (s.rd pa 4) != val

/-- One slice's part of a SLEEPW is over: its deadline has come, or its word has changed (R367). -/
def State.sleepDone (s : State) (b : Block) (x : Nat × Nat × Bool × Word) : Bool :=
  (x.1 != 0 && decide (x.1 ≤ s.gtime)) || s.sleepOver b x.2.2.1 x.2.1 x.2.2.2

/-- `SLEEPW` (R367, R467): each slice watches a word for itself; the split waits while no slice's wait is over. -/
def execSleepw (c : Ctl) (o : SleepwOp) (s : State) : Host.Outcome State Fault Refusal :=
  withSplit s fun b g sp =>
    let act := actLanes c g sp true
    let addr : Slice → Nat → Nat := fun sl j => if o.v then (sl.v g.budget o.a.toNat j).toNat else (sl.v64 g.budget o.a.toNat j).toNat
    let chk : Slice → Nat → Option (BitVec 8 × Nat × List Byte) := fun sl j =>
      let a := addr sl j
      if a % 4 != 0 then some (0x23, a, memDetail 0 2 0xFF 0 0 0)
      else if o.v then (if s.vaultOk b a 4 then none else some (0x24, a, memDetail 0 0 0xFF 0 0 (BitVec.ofNat 64 a)))
      else if 2 ^ 48 ≤ a then some (0x20, a, memDetail 0 2 0xFF 0 0 0)
      else match s.xlat b.asid a .load with
        | .inr (code, l, e) => some (code, a, memDetail 0 2 l 0 0 e)
        | .inl _ => none
    let bads := act.filterMap fun x => (chk x.1 (x.2.headD 0)).map fun y => (x.1, y)
    if !bads.isEmpty then
      let codes := (bads.map fun x => x.2.1).foldl addNew []
      trapMany s b g sp c (fun sl => nextPc sl.pc) (codes.filterMap fun code =>
        match bads.filter fun x => x.2.1 == code with
        | [] => none
        | x :: rest => some (code, BitVec.ofNat 64 x.2.2.1, x.2.2.2, (x :: rest).map fun y => (y.1.num, faultLanes c y.1)))
    else
      let l : List (Nat × Nat × Bool × Word) := act.map fun x =>
        ((x.1.s64 o.d.toNat).toNat, addr x.1 (x.2.headD 0), o.v, x.1.v g.budget o.b.toNat (x.2.headD 0))
      if l.isEmpty || l.any (s.sleepDone b) then finish s b g sp c
      else
        let r : SliceRef := ⟨b.id, g.num, sp.slices.headD 0⟩
        let s := l.foldl (fun (s : State) x => if x.1 == 0 then s else s.timer x.1 (.sleepwWake r)) s
        waitAt (s.keepStall b g sp c) b g sp (.sleepw l)

end Sys2Proof.Machine
end

