-- ==== Sys2Proof/Machine/Place.lean ====
section
/-! DEFINITION. From a launch record to blocks on cores: the record and its checks (R155, R172, R175, R185), the
layout of lanes (R42 to R45), what fits where (R165), and the blocks as they start (R156). -/

namespace Sys2Proof.Machine

/-! ### The launch record (R155) -/

/-- A little-endian field of a record's bytes. -/
def recFld (l : List Byte) (off n : Nat) : Nat := ofBytes ((l.drop off).take n)

/-- Bits of a number. -/
def bits (w lo n : Nat) : Nat := w / 2 ^ lo % 2 ^ n

/-- Reads a launch record (R155). -/
def parseRec (l : List Byte) : LRec :=
  let w0 := recFld l 0 4
  let w1 := recFld l 4 4
  let w2 := recFld l 8 4
  let w3 := recFld l 12 4
  { ver := bits w0 24 8, nlev := bits w0 20 4, blklev := bits w0 17 3, whey := w0.testBit 16, unif := w0.testBit 15,
    pri := bits w0 13 2, msix := w0.testBit 12, msixv := bits w0 0 11, vaultk := bits w1 16 16, regs := bits w1 0 11,
    bard := BitVec.ofNat 16 (bits w2 16 16), bars := BitVec.ofNat 16 (bits w2 0 16), tcnt := bits w3 27 5,
    spill := if bits w3 19 8 == 0 then 4 else bits w3 19 8, cscope := bits w3 0 3,
    levels := (List.range (min (bits w0 20 4) 8)).map fun k =>
      let x := recFld l (16 + 4 * k) 4
      (bits x 29 3, bits x 26 3, bits x 0 26),
    lanepc := recFld l 0x30 8, unifpc := recFld l 0x38 8, param := BitVec.ofNat 64 (recFld l 0x40 8),
    cword := BitVec.ofNat 64 (recFld l 0x48 8), seq := BitVec.ofNat 64 (recFld l 0x50 8), notbefore := recFld l 0x58 8,
    segmap := recFld l 0x60 8 }

/-! ### Levels (R42 to R45) -/

/-- The product of the extents of the levels bound to domains up to `d`. -/
def LRec.prod (r : LRec) (d : Nat) : Nat := (r.levels.filter fun x => x.1 ≤ d).foldl (fun n x => n * x.2.2) 1

/-- A level is bound to a domain. -/
def LRec.has (r : LRec) (d : Nat) : Bool := r.levels.any fun x => x.1 == d

/-- The slices of `n` lanes: a unit of the slice domain each, or four lanes (R44). -/
def LRec.slicesOf (r : LRec) (n : Nat) : Nat := if r.has 0 then n / max (r.prod 0) 1 else (n + 3) / 4

/-- The lanes of a block, its gangs, and the slices of each gang (R44). -/
def LRec.lanes (r : LRec) : Nat := r.prod 2
def LRec.gangs (r : LRec) : Nat := if r.has 1 then r.prod 2 / max (r.prod 1) 1 else (r.slicesOf r.lanes + 7) / 8
def LRec.gangSlices (r : LRec) (g : Nat) : Nat :=
  if r.has 1 then r.slicesOf (r.prod 1) else min 8 (r.slicesOf r.lanes - 8 * g)

/-- The blocks of a launch, of a unit of the core domain, and of one of the die domain (R43, R44). -/
def LRec.blocks (r : LRec) : Nat := r.prod 6 / max r.lanes 1
def LRec.coreBlocks (r : LRec) : Nat := r.prod 3 / max r.lanes 1
def LRec.dieBlocks (r : LRec) : Nat := r.prod 4 / max r.lanes 1

/-- The linear index in its block of the lane at a position of a slice of a gang; none where it is absent (R39, R44). -/
def LRec.laneIdx (r : LRec) (g k j : Nat) : Option Nat :=
  let u := r.prod 0
  if r.has 1 then
    let n := r.prod 1
    if r.has 0 then (if j < u && k * u + j < n then some (g * n + k * u + j) else none)
    else if 4 * k + j < n then some (g * n + 4 * k + j) else none
  else
    let q := 8 * g + k
    if r.has 0 then (if j < u && q * u + j < r.lanes then some (q * u + j) else none)
    else if 4 * q + j < r.lanes then some (4 * q + j) else none

/-- The indices %idx of a lane from its linear index in the launch (R45). -/
def LRec.idx (r : LRec) (n : Nat) : List (BitVec 26) :=
  (r.levels.foldl (fun (acc : List (BitVec 26) × Nat) x => (acc.1 ++ [BitVec.ofNat 26 (acc.2 % max x.2.2 1)], acc.2 / max x.2.2 1)) ([], n)).1

/-- The limit of R43 on one unit of a domain holds for the levels up to `k`. -/
def LRec.unitOk (r : LRec) (k : Nat) : Bool :=
  let r' : LRec := { r with levels := r.levels.take (k + 1) }
  match (r.levels.getD k (0, 0, 0)).1 with
  | 0 => r'.prod 0 ≤ 4
  | 1 => r'.prod 1 ≤ 32 && r'.slicesOf (r'.prod 1) ≤ 8
  | 2 => r'.prod 2 ≤ 512 && r'.gangs ≤ 16
  | 3 => r'.coreBlocks ≤ 4
  | 4 => r'.dieBlocks ≤ 256
  | 5 => r'.prod 5 / max r'.lanes 1 ≤ 2048
  | _ => true

/-- The narrowest scope of a domain (R43). -/
def narrowest (d : Nat) : Nat := if d ≤ 2 then 0 else d - 2

/-! ### The checks of a record (R155, R172) -/

/-- An address field that names a place of the virtual space, aligned to eight bytes. -/
def addrOk (a : Nat) : Bool := a % 8 == 0 && decide (a < 2 ^ 48)

/-- LEVEL[k] is allowed (R42, R43, R155). -/
def LRec.levelOk (r : LRec) (l : List Byte) (k : Nat) : Bool :=
  if r.nlev ≤ k then recFld l (16 + 4 * k) 4 == 0
  else
    let x := r.levels.getD k (0, 0, 0)
    decide (x.1 ≤ 6) && decide (x.2.1 ≤ 5) && decide (narrowest x.1 ≤ x.2.1) && x.2.2 != 0 &&
      (k == 0 || decide ((r.levels.getD (k - 1) (0, 0, 0)).1 ≤ x.1)) && ((x.1 == 2) == (k == r.blklev)) && r.unitOk k

/-- The resources of one block (R75, R165): gangs, registers, tiles, vault bytes. -/
def LRec.slices (r : LRec) : Nat := ((List.range r.gangs).map r.gangSlices).sum
def LRec.vaultSize (r : LRec) : Nat := 1024 * (r.vaultk + r.spill * r.slices) + 82944

/-- The vault bytes that a region of a size takes: regions begin at multiples of 4 KiB (R377). -/
def up4k (n : Nat) : Nat := (n + 4095) / 4096 * 4096

/-- `n` blocks fit together on an empty core (R15, R20, R21, R25). -/
def LRec.coreHolds (r : LRec) (n : Nat) : Bool :=
  decide (n ≤ 4 ∧ n * r.gangs ≤ 32 ∧ n * r.gangs * r.regs ≤ 8192 ∧ n * r.tcnt ≤ 16 ∧ n * up4k r.vaultSize ≤ 2 ^ 22)

/-- The blocks that an empty core takes. -/
def LRec.perCore (r : LRec) : Nat := ((List.range 5).filter r.coreHolds).foldl max 0

/-- The launch's unit fits an empty device, or one die of it (R67): else the offset of the field that says otherwise. -/
def LRec.tooBig (r : LRec) : Option Nat :=
  let top := 16 + 4 * (r.nlev - 1)
  if r.whey then none
  else if !r.coreHolds (if r.has 3 then r.coreBlocks else 1) then some 4
  else
    let per := if r.has 3 then r.coreBlocks else r.perCore
    let cores : Nat → Nat := fun n => (n + per - 1) / max per 1
    if r.has 4 && decide (64 < cores r.dieBlocks) then some top
    else
      let dies := if r.has 4 then r.blocks / max r.dieBlocks 1 else 0
      if 8 < dies || 512 < cores r.blocks then some top else none

/-- The byte offset of the first bad field of a record, in the order of the table of R155 (R429). -/
def recordBad (l : List Byte) (addr : Nat) : Option Nat :=
  let r := parseRec l
  let w0 := recFld l 0 4
  let w1 := recFld l 4 4
  let w3 := recFld l 12 4
  let checks : List (Nat × Bool) :=
    [(0x00, addr % 128 == 0 && r.ver == 1 && decide (2 ≤ r.nlev ∧ r.nlev ≤ 8 ∧ r.blklev < r.nlev) &&
        (r.levels.getD r.blklev (0, 0, 0)).1 == 2 && !w0.testBit 11 && (!r.whey || !r.unif)),
     (0x04, decide (32 ≤ r.regs ∧ r.regs ≤ 1024) && r.regs % 8 == 0 && bits w1 11 5 == 0),
     (0x08, (r.bars &&& ~~~r.bard) == 0 && (!r.whey || r.bard == 0)),
     (0x0C, decide (r.tcnt ≤ 16) && bits w3 3 16 == 0 && decide (r.cscope ≤ 5) && (!r.whey || r.tcnt == 0))] ++
    ((List.range 8).map fun k => (16 + 4 * k, r.levelOk l k)) ++
    [(0x30, addrOk r.lanepc),
     (0x38, if r.unif then addrOk r.unifpc else r.unifpc == 0),
     (0x48, addrOk r.cword.toNat),
     (0x60, if r.whey then r.segmap % 64 == 0 && decide (r.segmap < 2 ^ 48) else r.segmap == 0),
     (0x68, recFld l 0x68 24 == 0)]
  match (checks.find? fun x => !x.2).map (·.1) with
  | some o => some o
  | none => r.tooBig

/-! ### The segment map (R175, R185) -/

/-- A field of a segment map. -/
def State.mapFld (s : State) (asid base off n : Nat) : Nat := (s.vrd asid (base + off) n).getD 0

/-- A segment as the map gives it: base, length, and the valid replicas with core and BACK (R175). -/
def State.mapSeg (s : State) (asid base i : Nat) : Nat × Nat × List (Nat × Nat × Nat) :=
  let e := 64 + 64 * i
  (s.mapFld asid base e 8, s.mapFld asid base (e + 8) 2,
   (List.range 8).filterMap fun k =>
     let w := s.mapFld asid base (e + 16 + 4 * k) 4
     if w.testBit 31 then some (k, bits w 22 9, bits w 0 12) else none)

/-- Two segments share a byte. -/
def segOverlap (x y : Nat × Nat × List (Nat × Nat × Nat)) : Bool :=
  decide (x.1 < y.1 + 8 * y.2.1 ∧ y.1 < x.1 + 8 * x.2.1)

/-- The offset in the map of the first bad field of an entry (R175); `before` are the entries before it. -/
def State.mapSegBad (s : State) (asid base i : Nat) (before : List (Nat × Nat × List (Nat × Nat × Nat))) : Option Nat :=
  let e := 64 + 64 * i
  let x := s.mapSeg asid base i
  let named := before.flatMap fun y => y.2.2.map fun r => r.2.1
  let reps := (List.range 8).map fun k =>
    let w := s.mapFld asid base (e + 16 + 4 * k) 4
    let dup := named.contains (bits w 22 9) || x.2.2.any fun r => decide (r.1 < k) && r.2.1 == bits w 22 9
    (e + 16 + 4 * k, bits w 12 10 == 0 && !(w.testBit 31 && dup) && !(k == 0 && x.2.2.isEmpty))
  let checks : List (Nat × Bool) :=
    [(e, (s.vrd asid (base + e) 8).isSome && addrOk x.1 && !(before.any (segOverlap x))),
     (e + 8, decide (1 ≤ x.2.1 ∧ x.2.1 ≤ 8192)),
     (e + 10, s.mapFld asid base (e + 10) 6 == 0)] ++ reps ++ [(e + 48, s.mapFld asid base (e + 48) 16 == 0)]
  (checks.find? fun x => !x.2).map (·.1)

/-- The segments of a map, or the offset of its first bad field; 0xFFFF_FFFF where only the BACK total falls short of
the launch's slices (R175, R185, R429). -/
def State.readMap (s : State) (asid base slices : Nat) : Sum (List (Nat × Nat × List (Nat × Nat × Nat))) Nat :=
  let n := s.mapFld asid base 0 2
  if (s.vrd asid base 64).isNone || n == 0 || 512 < n then .inr 0
  else if (List.range 62).any fun k => s.mapFld asid base (2 + k) 1 != 0 then .inr 2
  else
    let segs := (List.range n).map (s.mapSeg asid base)
    match (List.range n).findSome? fun i => s.mapSegBad asid base i (segs.take i) with
    | some o => .inr o
    | none =>
      let back := (segs.flatMap fun x => x.2.2.map fun r => r.2.2).sum
      if back < slices then .inr 0xFFFFFFFF else .inl segs

/-- The slices of a whey launch (R172). -/
def LRec.wheyTotal (r : LRec) : Nat := r.blocks * r.slices

/-! ### What is free (R21, R165) -/

/-- The compute dies that run at the present level (R388, R389, R478). -/
def State.dieRuns (s : State) (d : Nat) : Bool :=
  d < 8 && s.level != 0 && (s.level != 1 || decide (d < 2)) && s.powered && !s.platFail.getLsbD d

/-- A core takes blocks: its die runs, no fault took it out of service, and no whey launch holds it (R174, R389). -/
def State.coreRuns (s : State) (c : Nat) : Bool :=
  s.dieRuns (dieOf c) && (s.core c).inService && !(s.wheys.any fun w => w.segs.any fun x => x.2.2.any fun r => r.2.1 == c)

/-- The gangs of a block that hold a place on its core: those that have not retired, or whose loads are open (R69). -/
def Block.heldGangs (b : Block) : List Gang := b.gangs.filter fun g => !g.retired || g.loadsOpen

/-- What a core has in use: blocks, gangs, registers, tiles, vault bytes. -/
structure CoreUse where
  blocks : List Block
  gangs : Nat
  regs : Nat
  tiles : Nat
  vault : Nat

/-- What is in use on a core. -/
def State.coreUse (s : State) (c : Nat) : CoreUse :=
  let bs := s.blocks.filter fun b => b.core == c
  let gs := bs.flatMap Block.heldGangs
  { blocks := bs, gangs := gs.length, regs := (gs.map (·.budget)).sum, tiles := (bs.map (·.tcnt)).sum,
    vault := (bs.map fun b => up4k b.region.size).sum }

/-- Regions whose addresses lie under a core's index: of blocks, and of the whey launches that name the core (R174, R176). -/
def State.rangesAt (s : State) (c : Nat) : List (Nat × Nat) :=
  (s.blocks.filterMap fun b => if b.firstCore == c then some (b.region.off, b.region.off + up4k b.region.size) else none) ++
    s.wheys.flatMap fun w => match s.launches.find? fun l => l.id == w.launch with
      | some l => w.segs.flatMap fun x => x.2.2.filterMap fun r =>
          if r.2.1 == c then some (0, up4k (wheyRegion l.lrec r.2.2).size) else none
      | none => []

/-- A range of addresses under a core's index is free. -/
def State.rangeFree (s : State) (c off size : Nat) : Bool :=
  decide (off + size ≤ 2 ^ 22) && (s.rangesAt c).all fun x => decide (x.2 ≤ off ∨ off + size ≤ x.1)

/-- The lowest free range of addresses of a size under a core's index. -/
def State.gap (s : State) (c size : Nat) : Option Nat :=
  (sortBy (fun x y => decide (x ≤ y)) (0 :: (s.rangesAt c).map (·.2))).find? fun o => s.rangeFree c o size

/-- The lowest sequencer context free on a core (R21). -/
def CoreUse.seqx (u : CoreUse) : Option Nat := (List.range 4).find? fun k => !(u.blocks.any fun b => b.seqx == k)

/-- A block of a record fits on a core now (R165). -/
def State.fits (s : State) (r : LRec) (c : Nat) : Bool :=
  let u := s.coreUse c
  s.coreRuns c && u.seqx.isSome && decide (u.gangs + r.gangs ≤ 32 ∧ u.regs + r.gangs * r.regs ≤ 8192 ∧ u.tiles + r.tcnt ≤ 16 ∧
    u.vault + up4k r.vaultSize ≤ 2 ^ 22) && (s.gap c r.vaultSize).isSome

/-- The cores of a list in the order of R165: fewest resident gangs, then lowest number. -/
def State.byGangs (s : State) (l : List Nat) : List Nat :=
  (sortBy (fun (x y : Nat × Nat) => decide (x.1 < y.1 ∨ (x.1 = y.1 ∧ x.2 ≤ y.2))) (l.map fun c => ((s.coreUse c).gangs, c))).map (·.2)

/-! ### Blocks as they start (R156, R165) -/

/-- The decode table that a context's blocks use from their placement or restore on (R239, R241). -/
def State.tableOf (s : State) (asid : Nat) : DecTable :=
  let m := s.cxr asid 0x102
  match fld m 0 2 with
  | 3 => .map3
  | 2 => .map2
  | 1 =>
    let a := fld m 11 37 * 2048
    let l := (List.range 1024).map fun k => s.vrd asid (a + 2 * k) 2
    if l.any Option.isNone then .dead else .loaded (l.map fun x => BitVec.ofNat 16 (x.getD 0))
  | _ => .dead

/-- A lane at launch (R39, R45, R156): counter 0; its predicates hold unspecified values (entry 4). -/
def newLane (r : LRec) (num serial g k j : Nat) : Lane :=
  match r.laneIdx g k j with
  | none => {}
  | some n =>
    { present := true, idx := r.idx (num * r.lanes + n),
      preds := BitVec.ofNat 7 ((List.range 7).foldl (fun v p => v + (if Config.freeBool serial (32 * k + 8 * j + p) then 2 ^ p else 0)) 0) }

/-- The frame size at launch (R58). -/
def LRec.frame (r : LRec) : Nat := min 256 r.regs

/-- A slice at launch (R58, R156, R178): s0 and s1 hold PARAM, s2 a batch's count; vector registers are unspecified. -/
def newSlice (r : LRec) (num serial count g k : Nat) : Slice :=
  let sl : Slice :=
    { num := k, lanes := (List.range 4).map (newLane r num serial g k), pc := BitVec.ofNat 48 r.lanepc, serial := serial,
      n := r.frame, vlive := r.frame }
  (sl.setS64 0 r.param).setS 2 (BitVec.ofNat 32 count)

/-- The ports of gangs placed one after another: each takes the port with the fewest resident gangs (R165). -/
def pickPorts (have' : List Nat) (n : Nat) : List Nat :=
  (List.range n).foldl (fun (acc : List Nat) _ =>
    let cnt : Nat → Nat := fun p => ((have' ++ acc).filter fun x => x == p).length
    acc ++ [(List.range 4).foldl (fun best p => if cnt p < cnt best then p else best) 0]) []

/-- The bits set among sixteen. -/
def barriersOf (r : LRec) : List Barrier :=
  (List.range 16).map fun k =>
    let d := r.bard.getLsbD k
    let q := r.bars.getLsbD k
    { declared := d, seqMember := q, expected := if d then r.gangs + q.toNat else 0 }

/-- A scope by its code (R228). -/
def scopeOf (n : Nat) : Scope :=
  match n with | 0 => .blk | 1 => .core | 2 => .die | 3 => .dev | 4 => .fab | _ => .sys

/-- Vault bytes are cleared, and no slot among them is armed (R8; entry 1). -/
def State.wipeVault (s : State) (key size : Nat) : State :=
  let out : Nat → Bool := fun k => decide (k < key ∨ key + size ≤ k)
  { s with vault := s.vault.filter fun x => out x.1, armed := s.armed.filter fun g => out (16 * g),
           badVault := s.badVault.filter fun g => out (8 * g) }

/-- Places block `num` of a launch on a core (R156, R165): its region is cleared (entry 1), and its entry into the
launch is an acquire at .dev (R159, R160). -/
def State.putBlock (s : State) (l : Launch) (num c : Nat) : State :=
  let r := l.lrec
  let u := s.coreUse c
  let off := (s.gap c r.vaultSize).getD 0
  let ports := pickPorts (u.blocks.flatMap fun b => b.heldGangs.map (·.port)) r.gangs
  let base := s.fresh
  let gangs : List Gang := (List.range r.gangs).map fun g =>
    let n := r.gangSlices g
    { num := g, port := ports.getD g 0, budget := r.regs,
      slices := (List.range n).map fun k => newSlice r num (base + 8 * g + k) l.recs.length g k,
      splits := [{ slices := List.range n, readyAt := s.now + 1 }] }
  let (id, s) := s.newId
  let seq : Sequencer := { pc := BitVec.ofNat 48 r.unifpc, readyAt := s.now + 1, ended := !r.unif }
  let b : Block :=
    { id, asid := l.asid, launch := l.id, num, core := c, firstCore := c, seqx := u.seqx.getD 0, gangs,
      bars := barriersOf r, seq := seq.setQ 0 r.param, unif := r.unif, tcnt := r.tcnt, tileSerial := base + 200,
      region := { off, prog := 1024 * r.vaultk, spill := 1024 * r.spill, nslices := r.slices },
      table := s.tableOf l.asid, levels := r.levels.map fun x => (x.1, scopeOf x.2.1, x.2.2) }
  let d := dieOf c
  let s := State.wipeVault { s with fresh := base + 256, blocks := s.blocks ++ [b] } (s.vkey d (b.vaddr off)) b.region.size
  let s := l.recs.zipIdx.foldl (fun s x => s.vlWrBytes d (b.vaddr off + 64 * x.2) x.1) s
  s.acquire c [l.asid] .dev

/-- Places blocks one after another, each on the core that R165 picks among `cores`; none where one does not fit. -/
def State.putBlocks (s : State) (l : Launch) (cores : List Nat) : List Nat → Option State
  | [] => some s
  | num :: rest =>
    match (s.byGangs (cores.filter (s.fits l.lrec))) with
    | [] => none
    | c :: _ => State.putBlocks (s.putBlock l num c) l cores rest

/-- Places `n` units of the core domain from unit `k` on, each of `per` blocks on a core of its own (R44). -/
def State.putCoreUnits (s : State) (l : Launch) (per k : Nat) (cores : List Nat) : Nat → Option State
  | 0 => some s
  | n + 1 =>
    let nums := (List.range per).map fun i => k * per + i
    match (s.byGangs cores).findSome? fun c => (s.putBlocks l [c] nums).map fun s' => (c, s') with
    | none => none
    | some (c, s') => State.putCoreUnits s' l per (k + 1) (cores.filter fun x => x != c) n

/-- Places the blocks `first` to `first + n - 1` on cores of a list, by core units where the record has them. -/
def State.putRange (s : State) (l : Launch) (first n : Nat) (cores : List Nat) : Option State :=
  if l.lrec.has 3 then
    let per := l.lrec.coreBlocks
    s.putCoreUnits l per (first / max per 1) cores (n / max per 1)
  else s.putBlocks l cores ((List.range n).map fun i => first + i)

/-- Places `n` units of the die domain from unit `k` on, each on a die of its own: the one whose best core comes first
in the order of R165 (R44). -/
def State.putDieUnits (s : State) (l : Launch) (per k : Nat) (dies : List Nat) : Nat → Option State
  | 0 => some s
  | n + 1 =>
    let order := ((s.byGangs (dies.flatMap fun d => (List.range 64).map fun i => 64 * d + i)).map dieOf).foldl addNew []
    match order.findSome? fun d => (s.putRange l (k * per) per ((List.range 64).map fun i => 64 * d + i)).map fun s' => (d, s') with
    | none => none
    | some (d, s') => State.putDieUnits s' l per (k + 1) (dies.filter fun x => x != d) n

/-! ### Whey placement (R174, R183) -/

/-- A travelling slice of a whey launch as it is placed (R173): slice `k` of gang `g` of block `num`. -/
def State.wheyBlock (s : State) (l : Launch) (num g k id serial seg sid : Nat) : Block :=
  let r := l.lrec
  { id, sid, asid := l.asid, launch := l.id, num, core := 0, firstCore := 0, whey := some (0, seg),
    gangs := [{ num := g, budget := r.regs, slices := [newSlice r num serial l.recs.length g k], splits := [{ slices := [k], readyAt := s.now + 1 }] }],
    bars := List.replicate 16 {}, seq := { ended := true }, table := s.tableOf l.asid,
    levels := r.levels.map fun x => (x.1, scopeOf x.2.1, x.2.2) }

/-- Gives a slice of a whey launch a slot on a replica of the first segment, or a backing slot (R183). -/
def State.putWhey (s : State) (l : Launch) (seg i num g k : Nat) : State :=
  let reps := ((s.segs l.id)[seg]?.map (·.2.2)).getD []
  let n := max reps.length 1
  let order := (List.range reps.length).filterMap fun j => reps[(i + j) % n]?
  let (id, s) := s.newId
  let b := s.wheyBlock l num g k id (s.fresh + k) seg i
  let s := { s with fresh := s.fresh + 8 }
  match order.findSome? fun x => (s.freeSlot x.2.1 l.id).map fun slot => (x.2.1, x.2.2, slot) with
  | some (core, back, slot) =>
    let port := s.wheyPort core
    let gangs : List Gang := b.gangs.map fun g => { g with port }
    let b : Block := { b with core, firstCore := core, whey := some (slot, seg), region := wheyRegion l.lrec back, gangs }
    ({ s with blocks := s.blocks ++ [b] }).acquire core [l.asid] .dev
  | none =>
    match order with
    | [] => s
    | x :: _ =>
      let stage := (s.stageAt l.id x.2.1 x.2.1).getD x.2.1
      let r : WheyRec := { blk := b, seg, slot := s.freeBack stage, notice := s.fresh }
      let s := s.modCore stage fun c => { c with backUsed := c.backUsed + 1 }
      (s.queueRec r x.2.1 stage).push [.wheyArrival x.2.1]

/-- Pins a segment on the cores of its replicas and sets their backing slots (R174, R176). DESIGN CHOICE (entry 15): a word that cannot
be translated or read as its segment is pinned is pinned as zero, of which the spec says nothing. -/
def State.pinSeg (s : State) (asid : Nat) (x : Nat × Nat × List (Nat × Nat × Nat)) : State :=
  let code := (List.range x.2.1).flatMap fun k => leBytes 8 ((s.vrd asid (x.1 + 8 * k) 8).getD 0)
  x.2.2.foldl (fun s r => s.modCore r.2.1 fun c =>
    { c with istore := some (x.1, x.2.1, code), icache := [], backing := r.2.2, backUsed := 0, arrivals := [], staged := [], advert := 0 }) s

/-- The whey launch's cores are free for it (R174): no block is resident on them, and no region overflows its vault. -/
def State.wheyFits (s : State) (segs : List (Nat × Nat × List (Nat × Nat × Nat))) : Bool :=
  (segs.flatMap fun x => x.2.2.map fun r => r.2.1).all fun c => s.coreRuns c && (s.coreUse c).blocks.isEmpty && (s.rangesAt c).isEmpty

/-- Places a whey launch (R174, R183). The records of a batch are written to its own part on each of its cores (R163, R176). -/
def State.putWheyLaunch (s : State) (l : Launch) (segs : List (Nat × Nat × List (Nat × Nat × Nat))) : Option State :=
  if !s.wheyFits segs then none
  else
    let r := l.lrec
    let s : State := { s with wheys := s.wheys ++ [{ launch := l.id, segs }], launches := s.launches ++ [{ l with cores := segs.flatMap fun x => x.2.2.map fun r => r.2.1 }] }
    let s := segs.foldl (fun s x => s.pinSeg l.asid x) s
    let s := (segs.flatMap (·.2.2)).foldl (fun s y =>
      let s := s.wipeVault (s.vkey (dieOf y.2.1) (y.2.1 % 64 * 2 ^ 22)) (wheyRegion r y.2.2).size
      l.recs.zipIdx.foldl (fun s x => s.vlWrBytes (dieOf y.2.1) (y.2.1 % 64 * 2 ^ 22 + 64 * x.2) x.1) s) s
    let seg := (s.segOf l.id (BitVec.ofNat 48 r.lanepc)).getD 0
    let order := (List.range r.blocks).flatMap fun num => (List.range r.gangs).flatMap fun g =>
      (List.range (r.gangSlices g)).map fun k => (num, g, k)
    let s := order.zipIdx.foldl (fun s x => s.putWhey l seg x.2 x.1.1 x.1.2.1 x.1.2.2) s
    some (s.push [.replicaAdvertisement])

/-- Places a launch's unit whole, or does nothing (R67, R165). -/
def State.placeUnit (s : State) (l : Launch) (segs : List (Nat × Nat × List (Nat × Nat × Nat))) : Option State :=
  let r := l.lrec
  if r.whey then s.putWheyLaunch l segs
  else
    let all := (List.range 512).filter s.coreRuns
    let n := l.nblocks
    let put : Option State :=
      if r.has 4 then
        let per := r.dieBlocks
        s.putDieUnits l per 0 ((List.range 8).filter s.dieRuns) (n / max per 1)
      else s.putRange l 0 n all
    put.map fun s' =>
      let cores := ((s'.blocks.filter fun b => b.launch == l.id).map (·.core)).foldl addNew []
      { s' with launches := s'.launches ++ [{ l with cores }] }

end Sys2Proof.Machine
end

