-- ==== Sys2Proof/Machine/Sched.lean ====
section
/-! DEFINITION. What the die schedulers choose from (R159 to R164): host rings, the slot table, nodes, and the
launches at the heads of their queues. -/

namespace Sys2Proof.Machine

/-! ### Entries and rings (R158, R159) -/

/-- `DOORBELL`: a write of CX_HQ_TAIL by the host, or by the supervisor, admits the ring's records (R159). -/
def execDoorbell (_host : Bool) (asid : Nat) (v : DWord) (s : State) : Host.Outcome State Fault Refusal :=
  .next (if s.inUse asid then s.ringBell asid v else s)

/-- 128 bytes of a launch record at a virtual address of a context, which lies in package memory (R155); a byte that cannot be read
there counts as zero, so that the record fails its checks (entry 9). -/
def State.recBytes (s : State) (asid a : Nat) : List Byte :=
  (List.range 16).flatMap fun k => leBytes 8 (if vaClass (a + 8 * k) == .package then (s.vrd asid (a + 8 * k) 8).getD 0 else 0)

/-- `HQ_RECORD_READ`: the scheduler copies the record at HEAD into a pool entry, if one is granted, and advances HEAD
(R158, R159). During an evacuation it stops reading (R394). -/
def execHqRecordRead (die q : Nat) (s : State) : Host.Outcome State Fault Refusal :=
  .next (match s.qbindOf die q with
  | some (0, asid) =>
    let len := fld (s.cxr asid 0x10A) 0 17
    let head := fld (s.cxr asid 0x10B) 0 16
    let tail := fld (s.cxr asid 0x10C) 0 16
    if len == 0 || head % len == tail % len || !s.grants die q then s
    else
      let a := fld (s.cxr asid 0x109) 0 48 + 128 * (head % len)
      let s := s.enqueue die q (.launch (s.recBytes asid a) a asid 0 none none [])
      (s.setCx asid 0x10B (BitVec.ofNat 64 ((head + 1) % len))).push [.hqRecordRead die q]
  | _ => s)

/-- An entry of a die's pool has come free: every queue that may be held looks again. -/
def State.freed (s : State) (die : Nat) : State :=
  s.push ((s.die die).qbind.filterMap fun x => if x.2.getLsbD 31 then some (.entryGrant die x.1) else none)

/-! ### The slot table (R161) -/

/-- An entry of the slot table. -/
def State.slotOf (s : State) (i : Nat) : BitVec 256 := mgetD s.slots i 0

/-- A launch made by a firing is queued or has not completed. -/
def State.slotLive (s : State) (i k : Nat) : Bool :=
  (s.launches.any fun l => l.slot == some (i, k)) ||
  (s.dies.any fun d => d.2.queues.any fun q => q.2.any fun x => match x with
    | .launch _ _ _ a (some j) _ _ => j == i && a == k
    | _ => false)

/-- The previous launch of an entry was not complete at a time: no completion store of it had been made by then (R161). -/
def State.slotBusy (s : State) (i k t : Nat) : Bool :=
  match mget s.slotDone i with
  | some (k', t') => if k' == k then decide (t < t') else s.slotLive i k
  | none => s.slotLive i k

/-- Queues the launch of a firing, if its queue grants an entry. -/
def State.slotQueue (s : State) (i k : Nat) : Option State :=
  let e := s.slotOf i
  let die := i % 8
  let q := (e.extractLsb' 160 16).toNat
  match s.qbindOf die q with
  | some (3, asid) =>
    if !s.grants die q then none
    else
      let a := (e.extractLsb' 0 64).toNat
      let s := s.enqueue die q (.launch (s.recBytes asid a) a asid k (some i) none [])
      some { s with slotPrev := mset s.slotPrev i k, slotDone := mdel s.slotDone i }
  | _ => none

/-- `SLOT_FIRING`: firing K of an entry takes place when %gtime reaches NEXT (R161); a firing whose entry is held counts
as an overrun (R158). During an evacuation the table is frozen (R394). A reserved OVR acts as skip (entry 6). -/
def execSlotFiring (i : Nat) (s : State) : Host.Outcome State Fault Refusal :=
  .next (
    let e := s.slotOf i
    let next := (e.extractLsb' 64 64).toNat
    let k := (e.extractLsb' 192 64).toNat
    let period := (e.extractLsb' 128 32).toNat
    if !e.getLsbD 183 || s.evacPhase != 0 || s.gtime < next then s
    else
      let prev := mget s.slotPrev i
      let busy := match prev with | some p => s.slotBusy i p next | none => false
      let ovr := (e.extractLsb' 181 2).toNat
      let hold : State → State := fun s => if (mget s.slotHeld i).isSome then s else { s with slotHeld := mset s.slotHeld i k }
      let late : State → State := fun s => if ovr == 1 || ovr == 2 then hold s else s
      let s :=
        if !busy && (mget s.slotHeld i).isNone then (match s.slotQueue i k with | some s => s | none => late s)
        else if ovr == 2 then
          let mine : Nat → Bool := fun n => s.launches.any fun l => l.id == n && l.slot == prev.map fun p => (i, p)
          let s := s.raiseYield (fun b => mine b.launch) (.slot i k)
          let s : State := { s with saved := s.saved.map fun u => if mine u.launch then { u with causes := addNew u.causes (.slot i k) } else u }
          (match s.slotQueue i k with | some s => s | none => late s)
        else late s
      let e' := (e &&& ~~~((0xFFFFFFFFFFFFFFFF : BitVec 256) <<< 64) &&& ~~~((0xFFFFFFFFFFFFFFFF : BitVec 256) <<< 192)) |||
        ((BitVec.ofNat 64 (next + period)).setWidth 256 <<< 64) ||| ((BitVec.ofNat 64 (k + 1)).setWidth 256 <<< 192)
      let s := { s with slots := mset s.slots i e' }
      s.timer (max (next + period) s.gtime) (.slotFiring i))

/-- Queues the held firing of an entry when the previous launch has completed (R161). -/
def State.slotRelease (s : State) (i : Nat) : State :=
  match mget s.slotHeld i with
  | none => s
  | some k => match s.slotQueue i k with
    | some s => { s with slotHeld := mdel s.slotHeld i }
    | none => s

/-- `ENTRY_GRANT`: an entry that comes free lets a held ring be read on, and a held firing be queued (R158, R161); a
held LAUNCH or EMIT sees the grant as it looks again. -/
def execEntryGrant (die q : Nat) (s : State) : Host.Outcome State Fault Refusal :=
  .next (match s.qbindOf die q with
  | some (0, _) => s.push [.hqRecordRead die q]
  | some (3, _) => (s.slotHeld.map (·.1)).foldl (fun s i =>
      let busy := match mget s.slotPrev i with | some p => s.slotBusy i p s.gtime | none => false
      let e := s.slotOf i
      if i % 8 == die && (e.extractLsb' 160 16).toNat == q && (!busy || (e.extractLsb' 181 2).toNat == 2) then s.slotRelease i else s) s
  | _ => s)

/-! ### Nodes (R163) -/

/-- `NODE_FLUSH_TIMEOUT`: TMO ns have passed since a record was appended: the schedulers that hold records of the node
look (R163). -/
def execNodeFlushTimeout (asid node : Nat) (s : State) : Host.Outcome State Fault Refusal :=
  .next (s.push ((List.range 8).filterMap fun d =>
    if (s.die d).queues.any fun q => q.2.any fun x => match x with | .emit a n _ _ => a == asid && n == node | _ => false
    then some (.launchPlacement d) else none))

/-- The records of a node in a queue, oldest first, with the times of their appending. -/
def nodeRecs (l : List QItem) (asid node : Nat) : List (List Byte × Nat) :=
  l.filterMap fun x => match x with
    | .emit a n data t => if a == asid && n == node then some (data, t) else none
    | _ => none

/-- The batch that a node makes now, if COAL records are queued or its flush time has passed (R163). -/
def State.batchOf (s : State) (l : List QItem) (asid node : Nat) : Option QItem :=
  match s.nodeOf asid node with
  | none => none
  | some (lrec, _, coal, tmo) =>
    let recs := nodeRecs l asid node
    let n := max coal 1
    let due := tmo != 0 && (match recs with | (_, t) :: _ => decide (t + tmo ≤ s.gtime) | [] => false)
    if n ≤ recs.length || due then
      some (.launch (s.recBytes asid lrec) lrec asid (mgetD s.nodes (256 * asid + node) 0) none (some (asid, node))
        ((recs.take n).map (·.1)))
    else none

/-! ### Choosing (R164) -/

/-- What stands at the head of a queue: its first launch, or the first batch of its nodes that can be made. -/
def State.headOf (s : State) (d q : Nat) : Option QItem :=
  let l := s.queue d q
  match s.qbindOf d q with
  | none => none
  | some (2, _) =>
    let nodes := (l.filterMap fun x => match x with | .emit a n _ _ => some (a, n) | _ => none).foldl addNew []
    nodes.findSome? fun x => s.batchOf l x.1 x.2
  | some _ => l.head?

/-- The priority that a context's launches and units have: one more while a user-level interrupt is pending and the
context is not resident (R164, R197). -/
def State.priOf (s : State) (asid pri : Nat) : Nat :=
  if !(s.blocks.any fun b => b.asid == asid) && s.uiRd asid 0 8 != 0 then min 3 (pri + 1) else pri

/-- The priority of a saved unit: one more also while the interrupt waits for a handler gang that the unit holds, whatever else of the
context is resident (R197). -/
def State.unitPri (s : State) (u : SavedUnit) : Nat :=
  let holds := match (s.uiOf u.asid).hnd with
    | some x => u.blocks.any (fun b => b.id == x.1) || u.queued.any fun y => y.2.1.blk.id == x.1
    | none => false
  if holds && s.uiRd u.asid 0 8 != 0 then min 3 (u.pri + 1) else s.priOf u.asid u.pri

/-- A context's launches and units may be made resident: it is in use, not halted, and not asked to yield (R411, R487). -/
def State.mayRun (s : State) (asid : Nat) : Bool :=
  s.inUse asid && !(s.cxr asid 0x11F).getLsbD 0 && !(s.cxr asid 0x105).getLsbD 0

/-- The ORD condition of a queue is met: the launch before has completed (R157). -/
def State.ordMet (s : State) (d q : Nat) : Bool :=
  !s.qOrd d q || (match mget (s.die d).lastOf q with
    | some l => !(s.launches.any fun x => x.id == l)
    | none => true)

/-- A launch that is eligible: its queue, priority and item (R164). -/
abbrev Cand := Nat × Nat × QItem

/-- The head of a queue as a candidate, if it is eligible (R164). -/
def State.candOf (s : State) (d q : Nat) : Option Cand :=
  match s.headOf d q with
  | some (.launch rec' addr asid add slot node recs) =>
    let r := parseRec rec'
    if r.notbefore ≤ s.gtime && s.ordMet d q && s.mayRun asid then
      some (q, s.priOf asid r.pri, .launch rec' addr asid add slot node recs)
    else none
  | _ => none

/-- The candidates of a die in the rotation of its queues. -/
def State.cands (s : State) (d : Nat) : List Cand :=
  let qs := sortBy (fun x y => decide (x ≤ y)) ((s.die d).qbind.map (·.1))
  let rot := (s.die d).rot
  ((qs.filter fun q => rot < q) ++ (qs.filter fun q => q ≤ rot)).filterMap (s.candOf d)

/-- The launch that a die scheduler chooses: of the highest PRI, one that it has chosen already, else the first in rotation (R164). -/
def State.choose (s : State) (d : Nat) : Option Cand :=
  let l := s.cands d
  let top := (l.map fun x => x.2.1).foldl max 0
  let first := l.find? fun x => x.2.1 == top
  match l.find? fun x => x.2.1 == top && (s.die d).chosen.contains x.1 with
  | some x => some x
  | none => first

/-- A launch whose NOTBEFORE lies ahead is looked at again when it comes. -/
def State.notBefores (s : State) (d : Nat) : State :=
  ((s.die d).qbind.map (·.1)).foldl (fun s q => match s.headOf d q with
    | some (.launch r _ _ _ _ _ _) =>
      let t := (parseRec r).notbefore
      if s.gtime < t && !(s.timers.contains (t, .launchPlacement d)) then s.timer t (.launchPlacement d) else s
    | _ => s) s

/-- Takes a chosen item out of its queue: a launch, or the records of its batch (R158, R163). While a launch of lower PRI that was
chosen before still holds the scheduler, the rotation stays (R164). -/
def State.dequeue (s : State) (d : Nat) (x : Cand) : State :=
  let l := s.queue d x.1
  let l' := match x.2.2 with
    | .launch _ _ _ _ _ (some (asid, node)) recs =>
      (l.foldl (fun (acc : List QItem × Nat) y => match y with
        | .emit a n _ _ => if a == asid && n == node && acc.2 != 0 then (acc.1, acc.2 - 1) else (acc.1 ++ [y], acc.2)
        | y => (acc.1 ++ [y], acc.2)) ([], recs.length)).1
    | _ => l.drop 1
  let s := s.modDie d fun y =>
    let held := y.chosen.filter fun q => q != x.1
    { y with queues := mset y.queues x.1 l', chosen := held, rot := if held.isEmpty then x.1 else y.rot }
  let s : State := match x.2.2 with
    | .launch _ _ _ n _ (some (asid, node)) _ => { s with nodes := mset s.nodes (256 * asid + node) (n + 1) }
    | _ => s
  s.freed d

end Sys2Proof.Machine
end

