-- ==== Sys2Proof/Machine/Save.lean ====
section
/-! DEFINITION. Pre-emption (R168 to R170, R187, R423 to R428, R487): yielding, saving and restoring a unit. A launch
is one unit (R67: its highest level has one unit), so a unit goes by its launch. -/

namespace Sys2Proof.Machine

/-! ### Yielding (R168) -/

/-- A wait in which a slice counts as having yielded (R168). -/
def Wait.yields : Wait → Bool
  | .bar .. | .regang _ | .regroup .. | .syncm | .waitp .. | .tlwait .. | .btest .. | .sleepw _ | .uiret | .syscall _
  | .launch _ | .emit _ => true
  | _ => false

/-- A split has yielded: it waits in such a wait, or its slices have executed YIELD. -/
def Split.yielded (g : Gang) (sp : Split) : Bool :=
  !sp.inRun && (sp.wait.yields || sp.slices.all fun k => match g.slice k with | some sl => sl.yielded | none => true)

/-- Every gang of a block has yielded (R168). -/
def Block.yieldDone (b : Block) : Bool := b.gangs.all fun g => g.retired || g.splits.all (Split.yielded g)

/-- The blocks of a launch. -/
def State.unit (s : State) (l : Nat) : List Block := s.blocks.filter fun b => b.launch == l

/-- The launch of a block, resident or travelling. -/
def State.launchOf (s : State) (bid : Nat) : Option Nat :=
  match s.blk bid with
  | some b => some b.launch
  | none => (s.recs.find? fun r => r.blk.id == bid).map fun r => r.blk.launch

/-- Changes every block of a launch. -/
def State.modUnit (s : State) (l : Nat) (f : Block → Block) : State := { s with blocks := modWhere (fun b => b.launch == l) f s.blocks }

/-- The units of a context are halted (R411, R422). -/
def State.ctxHalted (s : State) (asid : Nat) : Bool := (s.cxr asid 0x11F).getLsbD 0

/-! ### The image (R169, R424, R425) -/

/-- An access that a save waits for: any that is not complete, unless it is held by a fault of a halted context (R424,
R434). -/
def Access.saveWaits (halted : Bool) (a : Access) : Bool :=
  a.parts.any fun p => match p.st with
    | .done => false
    | .held _ | .behind => !halted
    | _ => true

/-- An engine operation that a save waits for: one that has begun and has neither completed nor faulted. -/
def EngOp.saveWaits (x : EngOp) : Bool := x.begun && x.fault.isNone

/-- No split of a block is within a run (R409). -/
def Block.idle (b : Block) : Bool := b.gangs.all fun g => g.splits.all fun sp => !sp.inRun

/-- A block is quiet: nothing of it is in flight (R169, R424). -/
def Block.quiet (halted : Bool) (b : Block) : Bool :=
  !(b.accs.any (Access.saveWaits halted)) && !(b.ops.any EngOp.saveWaits) && b.idle

/-- A split as an image records it: its wait is evaluated again (R409, R423). -/
def Split.image (sp : Split) : Split := { slices := sp.slices, wait := sp.wait, made := sp.made, skid := 0 }

/-- A block as its image holds it (R169, R428): results already issued are written, operations that have not begun stay
with their numbers, implicit leaves end. -/
def Block.image (b : Block) (now : Nat) : Block :=
  let op : EngOp → EngOp := fun x => { x with begun := false, step := 0, fault := none, inbox := [], asked := [], posted := 0, moved := 0, due := 0 }
  let gang : Gang → Gang := fun g => { g with slices := g.slices.map (Slice.landTo · (now + 16)), splits := g.splits.map Split.image }
  { b with gangs := b.gangs.map gang, seq := b.seq.landTo (now + 16), ops := b.ops.map op, leaves := [] }

/-- What an image holds of a slice (R169): program counter, window, scalars, return stack, lanes, in-flight counters and the registers of
its whole budget. -/
def Slice.imageBytes (budget : Nat) (sl : Slice) : List Byte :=
  let lane : Nat → List Byte := fun j =>
    let l := sl.lane j
    [l.preds.setWidth 8, l.nest, l.fcode, BitVec.ofNat 8 (l.present.toNat + 2 * l.exited.toNat + 4 * sl.frozen.toNat)] ++ leBytes 4 l.orig.toNat
  leBytes 1 sl.num ++ leBytes 7 0 ++ leBytes 8 sl.pc.toNat ++ leBytes 4 sl.base ++ leBytes 4 sl.n ++ leBytes 4 sl.low ++ leBytes 4 sl.ret.length ++
    ((List.range 4).flatMap lane) ++ (sl.ret.reverse.flatMap RetEntry.bytes) ++
    ((List.range 8).flatMap fun p => leBytes 1 (sl.acc.filter fun a => a.path == p).length) ++
    ((List.range 64).flatMap fun i => leBytes 4 (sl.s i).toNat) ++
    (List.range budget).flatMap fun p => (List.range 4).flatMap fun j => leBytes 4 (sl.vphys p j).toNat

/-- What an image holds of a barrier (R169, R428): the phase, the expected count, the arrivals with the gangs that have made them, and
the slices of the others that have executed BAR. -/
def Barrier.imageBytes (x : Barrier) : List Byte :=
  leBytes 4 x.phase ++ leBytes 4 x.expected ++ leBytes 4 (x.arrived.foldl (fun m g => m ||| 2 ^ g) 0) ++
    [BitVec.ofNat 8 (x.declared.toNat + 2 * x.seqMember.toNat), BitVec.ofNat 8 x.seqArrived] ++
    (List.range 16).flatMap fun g => [(mget x.marks g).getD 0]

/-- The image of a block without its vault region (R169). -/
def Block.imageBytes (b : Block) : List Byte :=
  let split : Split → List Byte := fun sp => [BitVec.ofNat 8 (sp.slices.foldl (fun m k => m ||| 2 ^ k) 0), BitVec.ofNat 8 sp.made.toNat]
  let gang : Gang → List Byte := fun g =>
    leBytes 1 g.num ++ leBytes 1 g.splits.length ++ (g.splits.flatMap split) ++ g.slices.flatMap (Slice.imageBytes g.budget)
  let op : EngOp → List Byte := fun x => leBytes 4 x.num ++ leBytes 8 x.pc.toNat ++ leBytes 4 x.fmt.toNat ++ x.q.flatMap fun w => leBytes 8 w.toNat
  leBytes 4 b.num ++ leBytes 4 b.gangs.length ++ (b.gangs.flatMap gang) ++ (b.bars.flatMap Barrier.imageBytes) ++
    leBytes 8 b.seq.pc.toNat ++ ((List.range 64).flatMap fun i => leBytes 8 (b.seq.q i).toNat) ++
    (b.tl.flatMap fun t => leBytes 4 t.issued ++ leBytes 4 t.counter) ++ leBytes 4 b.ops.length ++ (b.ops.flatMap op) ++
    (b.tiles.flatMap fun t => leBytes 4 t.1 ++ t.2.flatMap fun w => leBytes 4 w.toNat)

/-- Writes bytes at a virtual address of a context, page by page. -/
def State.vwrPages (s : State) (asid va : Nat) (l : List Byte) : State :=
  let first := 65536 - va % 65536
  (List.range (l.length / 65536 + 2)).foldl (fun s k =>
    let from' := if k == 0 then 0 else first + 65536 * (k - 1)
    let part := (l.drop from').take (if k == 0 then first else 65536)
    if part.isEmpty then s else s.vwr asid (va + from') part) s

/-- Writes a saved unit's image into its context's save area (R169). DESIGN CHOICE (entry 9): the order of the bytes, and that the images
of several units stand one after another, are the model's, since the spec gives no layout; a restore takes the image from State.saved.
A context whose CX_SAVE_BASE is 0 has no save area. -/
def State.putImage (s : State) (u : SavedUnit) : State × SavedUnit :=
  let area := fld (s.cxr u.asid 0x107) 0 48
  let at' := (s.saved.filter fun x => x.asid == u.asid).foldl (fun m x => max m (x.base + x.len)) area
  let recs := u.queued.flatMap fun x => x.2.1.bytes
  let bytes := (u.blocks.flatMap Block.imageBytes) ++ recs ++ u.vault.flatMap fun x => leBytes 8 x.1 ++ [x.2]
  if area == 0 then (s, u) else (s.vwrPages u.asid at' bytes, { u with base := at', len := bytes.length })

/-- Moves the vault bytes of a range of keys out of the vault (R169). -/
def State.takeVault (s : State) (ranges : List (Nat × Nat)) : List Host.Cell × List Nat × State :=
  let inn : Nat → Bool := fun k => ranges.any fun r => decide (r.1 ≤ k ∧ k < r.1 + r.2)
  (s.vault.filter fun x => inn x.1, s.armed.filter fun g => inn (16 * g),
   { s with vault := s.vault.filter fun x => !inn x.1, armed := s.armed.filter fun g => !inn (16 * g) })

/-- The vault ranges of a unit, by key: the regions of its blocks, or the regions of a whey launch's cores (R169, R187). -/
def State.unitRanges (s : State) (l : Launch) (bs : List Block) : List (Nat × Nat) :=
  if l.lrec.whey then
    ((s.segs l.id).flatMap fun x => x.2.2).map fun r =>
      (s.vkey (dieOf r.2.1) (r.2.1 % 64 * 2 ^ 22), (wheyRegion l.lrec r.2.2).size)
  else bs.map fun b => (s.vkey (dieOf b.core) (b.vaddr b.region.off), b.region.size)

/-- Takes a whey launch's hold on its cores away: segments, backing slots, arrival queues. -/
def State.unpin (s : State) (l : Nat) : State :=
  let cores := (s.segs l).flatMap fun x => x.2.2.map fun r => r.2.1
  let s := cores.foldl (fun s c => s.modCore c fun x =>
    { x with istore := none, backing := 0, backUsed := 0, arrivals := [], staged := [], advert := 0 }) s
  { s with wheys := s.wheys.filter fun w => w.launch != l }

/-- Writes the image of a quiet unit and takes it off its cores (R169, R428). Its leaves return to their governors (R167), and the trap
units let go the lanes that they have gathered of it, which its image holds (R406). DESIGN CHOICE (entry 15): a leave taken with MLEAVE
is asked for again at the restore. -/
def State.takeUnit (s : State) (l : Launch) : State :=
  let bs := s.unit l.id
  let s := bs.foldl State.pullStop s
  -- a save ends the pins of its blocks (R345)
  let s := bs.foldl (fun s b => s.setPin b none) s
  let v := s.takeVault (s.unitRanges l bs)
  let s := v.2.2
  let cores := (s.segs l.id).flatMap fun x => x.2.2.map fun r => r.2.1
  let queued := cores.flatMap fun c => (s.core c).arrivals.map fun a => (c, a.1, a.2)
  let causes := ((bs ++ queued.map fun x => x.2.1.blk).flatMap (·.causes)).foldl addNew []
  let causes := if s.ctxHalted l.asid then addNew causes .halt else causes
  let asked : Block → Block := fun b => { b with leaveHeld := b.leaveHeld || (s.die (dieOf b.core)).gov.queue.contains (b.id, none) && b.seq.wait != .leave }
  let u : SavedUnit :=
    { launch := l.id, asid := l.asid, pri := l.lrec.pri, blocks := bs.map fun b => (asked b).image s.now, vault := v.1, armed := v.2.1,
      queued, map := s.segs l.id, causes, dies := ((bs.map fun b => dieOf b.core) ++ cores.map dieOf).foldl addNew [] }
  let (s, u) := s.putImage u
  let s : State := { s with blocks := s.blocks.filter fun b => b.launch != l.id, saved := s.saved ++ [u] }
  let gone : Origin → Bool := fun o => bs.any fun b => b.id == o.blk
  let s := u.dies.foldl (fun s d => s.modDie d fun x =>
    { x with gov := { x.gov with queue := x.gov.queue.filter fun y => !(bs.any fun b => b.id == y.1) }
             gather := (x.gather.map fun g => { g with lanes := g.lanes.filter fun o => !gone o }).filter fun g => !g.lanes.isEmpty }) s
  let s := s.unpin l.id
  s.push (Event.unitRestore l.id :: (List.range 8).map .launchPlacement ++ u.dies.map .leaveGrant)

/-- `UNIT_SAVE`: once every block of the unit has yielded, or has been stopped, and nothing of it is in flight, the
unit is saved (R168, R169, R187, R424). A block that is halted by a trap keeps the unit until it has resumed (R427),
unless its context is halted (R422). -/
def execUnitSave (u : Nat) (s : State) : Host.Outcome State Fault Refusal :=
  .next (match (s.launchOf u).bind fun n => s.launches.find? fun l => l.id == n with
  | none => s
  | some l =>
    let bs := s.unit l.id
    let halted := s.ctxHalted l.asid
    let rs := s.recs.filter fun r => r.blk.launch == l.id
    -- a slice in an arrival queue counts as yielded; one in transit first completes its pull (R187)
    if (bs.isEmpty && rs.isEmpty) || !(halted || (bs.all (·.yreq) && rs.all (·.blk.yreq))) || s.inTransit l.id then s
    else if !halted && bs.any (·.halt.isSome) then s.modUnit l.id fun b => { b with saving := false }
    else if !(bs.any (·.saving) || bs.all fun b => if halted then b.idle else b.yieldDone) then s
    else
      let first := !(bs.any (·.saving))
      let s := s.modUnit l.id fun b => { b with saving := true }
      let s := if first && bs.any fun b => b.ops.any EngOp.saveWaits then s.timer (s.gtime + s.saveDrain.toNat) (.saveDrainTimeout u) else s
      if bs.all (Block.quiet halted) then s.takeUnit l else s)

/-! ### Forced save (R423, R427) -/

/-- Stops the splits of a block that have not yielded, after their current word (R423): the block, and how many gangs
were stopped. -/
def Block.forceStop (b : Block) : Block × Nat :=
  let open' : Gang → Bool := fun g => !g.retired && g.splits.any fun sp => !Split.yielded g sp
  let gang : Gang → Gang := fun g => { g with splits := g.splits.map fun sp => { sp with inRun := false, runLen := 0 } }
  ({ b with gangs := b.gangs.map gang, saving := true }, (b.gangs.filter open').length)

/-- The record of a forced save (R423). -/
def State.record47 (s : State) (b : Block) (gangs : Nat) : State :=
  let f : FInfo := { code := 0x47, prec := false, agent := 7, detail := leBytes 4 (fld (s.cxr b.asid 0x104) 0 32) ++ leBytes 1 gangs }
  s.record b 0 f 0 0 0

/-- `FORCED_SAVE`: CX_YIELD_BUDGET cycles have passed and the unit has not yielded (R168, R423). The count pauses while
a block of the unit is halted (R427). A save that a write of CX_HALT asks for stops its unit likewise, without a
record. -/
def execForcedSave (u : Nat) (s : State) : Host.Outcome State Fault Refusal :=
  .next (match s.blk u with
  | none => s
  | some b =>
    let bs := s.unit b.launch
    let byHalt := s.ctxHalted b.asid
    if !b.yreq || b.saving || (!byHalt && (b.yspent < fld (s.cxr b.asid 0x104) 0 32 || bs.any (·.halt.isSome))) then s
    else if !byHalt && bs.all Block.yieldDone then s.push [.unitSave u]
    else
      let s := bs.foldl (fun s x =>
        let r := x.forceStop
        let s := s.modBlk x.id fun _ => r.1
        let free : Port → Port := fun p => match p.owner with | some (i, _, _) => (if i == x.id then { p with owner := none } else p) | none => p
        let s := s.modCore x.core fun c => { c with ports := c.ports.map free }
        if byHalt then s else s.record47 x r.2) s
      s.push [.unitSave u])

/-- Withdraws the notice of a uniform-stream KICK that has not been served (R425). -/
def State.dropPull (s : State) (bid num : Nat) : State :=
  let ids := s.kickWait.filterMap fun x => if x.2.1 == bid && x.2.2 == num then some x.1 else none
  let mine : Notice → Bool := fun n => n.sdev == s.devNum && ids.contains n.sender
  let keep : Event → Bool := fun e => match e with | .kickNoticeArrival n | .kickRetry n => !mine n | _ => true
  let s : State := { s with kickWait := s.kickWait.filter fun x => !ids.contains x.1, work := s.work.filter keep,
                            timers := s.timers.filter fun x => keep x.2 }
  (s.cores.map (·.1)).foldl (fun s c => match (s.core c).kicks with
    | n :: _ =>
      let s := if mine n then (s.pullWithdraw c n).modCore c Core.dropKick else s
      s.modCore c fun x => { x with kicks := x.kicks.filter fun n => !mine n }
    | [] => s) s

/-- Stops an operation at the end of the drain bound: it counts as not begun (R425). -/
def State.stopOp (s : State) (b : Block) (op : EngOp) : State :=
  let s := match op.kind with
    | .pull _ => s.dropPull b.id op.num
    | _ => s.engWithdraw b op
  let s : State := { s with fabReqs := s.fabReqs.filter fun r => r.eng != some (b.id, op.ctx, op.num) }
  (s.engDrop b.id op.ctx op.num).modOp b.id op.ctx op.num fun x =>
    { x with begun := false, step := 0, posted := 0, moved := 0, due := 0, written := 0, inbox := [], asked := [] }

/-- `SAVE_DRAIN_TIMEOUT`: copies and pulls that have not completed are stopped and will be issued again whole; a stopped
collective halts the context (R424, R425). Matrix operations complete (R169). -/
def execSaveDrainTimeout (u : Nat) (s : State) : Host.Outcome State Fault Refusal :=
  .next (match s.blk u with
  | none => s
  | some b =>
    if !b.saving then s
    else
      let l := (s.unit b.launch).flatMap fun x => (x.ops.filter EngOp.saveWaits).map fun op => (x, op)
      let coll := l.any fun x => x.2.ctx == .coll
      let s := l.foldl (fun s x => if x.2.ctx == .matrix then s else s.stopOp x.1 x.2) s
      let s := if coll then s.haltContext b.asid 0x47 else s
      s.push [.unitSave u])

/-! ### Restore (R170, R187, R485, R487) -/

/-- A launch with PRI at least 2 above a unit's waits on one of its dies (R487). -/
def State.higherWaits (s : State) (u : SavedUnit) : Bool :=
  u.dies.any fun d => (s.cands d).any fun x => decide (u.pri + 2 ≤ x.2.1)

/-- A cause of a save no longer keeps the unit (R487). -/
def State.causeOver (s : State) (u : SavedUnit) : SaveCause → Bool
  | .slot i k => !s.slotLive i k && mget s.slotHeld i != some k
  | .higherPri _ => !s.higherWaits u
  | .cxYreq => !(s.cxr u.asid 0x105).getLsbD 0
  | .handlers asid die code first =>
    !(s.launches.any fun l => l.handler && l.die == die && l.gath == some (code, first) && fld (s.cxr asid 0x11E) 32 12 == l.asid) &&
    !((s.die die).gather.any fun g => g.asid == asid && g.code == code && g.first == first)
  | .evac => false
  | .halt => !s.ctxHalted u.asid

/-- A unit that a placement of higher PRI has saved ranks, in the choice of R164, behind a launch of higher PRI than its own (R487). -/
def State.outranked (s : State) (u : SavedUnit) : Bool :=
  (u.causes.any fun c => match c with | .higherPri _ => true | _ => false) &&
    u.dies.any fun d => (s.cands d).any fun x => decide (s.unitPri u < x.2.1)

/-- A saved unit may be restored as soon as it fits (R411, R485, R487). -/
def State.mayRestore (s : State) (u : SavedUnit) : Bool :=
  !s.outranked u &&
  s.evacPhase == 0 && s.mayRun u.asid && u.dies.all s.dieRuns && u.causes.all (s.causeOver u)

/-- A saved block fits on a core (R165, R170): its region keeps its addresses. -/
def State.refits (s : State) (b : Block) (c : Nat) : Bool :=
  let u := s.coreUse c
  let gs := b.heldGangs
  s.coreRuns c && u.seqx.isSome && decide (u.gangs + gs.length ≤ 32 ∧ u.regs + (gs.map (·.budget)).sum ≤ 8192 ∧
    u.tiles + b.tcnt ≤ 16 ∧ u.vault + up4k b.region.size ≤ 2 ^ 22) && s.rangeFree b.firstCore b.region.off b.region.size

/-- A split as it resumes after a restore: a delivery waits for its first run end (R170, R197). -/
def Split.resume (sp : Split) (now : Nat) : Split :=
  { slices := sp.slices, readyAt := now + 1, wait := sp.wait, made := sp.made, owed := sp.wait == .none }

/-- A block goes on after its restore: new port numbers, no request, no halt; its decode table is read again (R170,
R241). -/
def State.resumeBlock (s : State) (b : Block) (core seqx : Nat) (ports : List Nat) : Block :=
  let part : Part → Part := fun p => match p.st with
    | .held _ => { p with st := .todo, pa := 2 ^ 60, tr := none }
    | .behind => { p with st := .todo, tr := none }
    | _ => p
  let acc : Access → Access := fun a => { a with parts := a.parts.map part }
  let slice : Slice → Slice := fun sl => { sl with yielded := false, acc := sl.acc.map acc }
  let live := b.heldGangs.map (·.num)
  let port : Nat → Nat := fun g => ports.getD ((live.findIdx? fun x => x == g).getD 0) 0
  let gang : Gang → Gang := fun g =>
    { g with port := port g.num, slices := g.slices.map slice, splits := g.splits.map fun sp => sp.resume s.now }
  { b with core, seqx, gangs := b.gangs.map gang, yreq := false, causes := [], saving := false, halt := none, leaveHeld := false,
           seq := { b.seq with readyAt := s.now + 1, stop := false, acc := b.seq.acc.map acc }, table := s.tableOf b.asid }

/-- A block that held a leave asks for it again as it returns (R167). -/
def State.leaveBack (s : State) (b : Block) (d : Nat) : State :=
  if b.leaveHeld then (s.modDie d fun x => { x with gov := { x.gov with queue := x.gov.queue ++ [(b.id, none)] } }).push [.leaveGrant d] else s

/-- Puts a saved block onto a core (R170). -/
def State.putSaved (s : State) (b : Block) (c : Nat) : State :=
  let u := s.coreUse c
  let ports := pickPorts (u.blocks.flatMap fun x => x.heldGangs.map (·.port)) b.heldGangs.length
  let b' := s.resumeBlock b c (u.seqx.getD 0) ports
  let s : State := { s with blocks := s.blocks ++ [b'] }
  ((s.acquire c [b.asid] .dev).handlerAt b').leaveBack b (dieOf c)

/-- Places groups of saved blocks, each group on one core of the die it was saved from, no two groups of a core-level
launch on one core (R44, R67, R170). -/
def State.putGroups (s : State) (apart : Bool) (used : List Nat) : List (List Block) → Option State
  | [] => some s
  | g :: rest =>
    match g with
    | [] => State.putGroups s apart used rest
    | b :: _ =>
      let cores := s.byGangs (((List.range 64).map fun i => 64 * dieOf b.core + i).filter fun c => !used.contains c)
      let put : Nat → Option State := fun c => g.foldl (fun (acc : Option State) x =>
        acc.bind fun s => if s.refits x c then some (s.putSaved x c) else none) (some s)
      match cores.findSome? fun c => (put c).map fun s' => (c, s') with
      | none => none
      | some (c, s') => State.putGroups s' apart (if apart then c :: used else used) rest

/-- The groups in which a unit's blocks return: those of one core unit together, others singly. -/
def unitGroups (core : Bool) (bs : List Block) : List (List Block) :=
  if core then ((bs.map (·.core)).foldl addNew []).map fun c => bs.filter fun b => b.core == c else bs.map fun b => [b]

/-- A whey unit returns to the cores that its map names (R187). -/
def State.putWheySaved (s : State) (l : Launch) (u : SavedUnit) : Option State :=
  if !s.wheyFits u.map then none
  else
    let s : State := { s with wheys := s.wheys ++ [{ launch := l.id, segs := u.map }] }
    let s := u.map.foldl (fun s x => s.pinSeg l.asid x) s
    let s := u.blocks.foldl (fun s b =>
      let b' := s.resumeBlock b b.core b.seqx (b.gangs.map (·.port))
      ({ s with blocks := s.blocks ++ [b'] }).acquire b.core [b.asid] .dev) s
    let s := u.queued.foldl (fun s x =>
      let r : WheyRec := { x.2.1 with blk := { x.2.1.blk with yreq := false, causes := [] } }
      let s := s.modCore x.1 fun c => { c with arrivals := c.arrivals ++ [(r, x.2.2)] }
      s.modCore x.2.2 fun c => { c with backUsed := c.backUsed + 1 }) s
    some (s.push (.replicaAdvertisement :: (u.queued.map fun x => Event.wheyArrival x.1)))

/-- Puts the vault bytes and armed slots of an image back into its ranges, which are cleared of what others have left there (R8, R169). -/
def State.putVault (s : State) (u : SavedUnit) (ranges : List (Nat × Nat)) : State :=
  let s := ranges.foldl (fun s r => s.wipeVault r.1 r.2) s
  { s with vault := u.vault.foldl (fun m x => msetD m x.1 x.2 0) s.vault, armed := u.armed.foldl addNew s.armed }

/-- Restores a saved unit if it may return and fits (R170, R187, R487). -/
def State.restore (s : State) (u : SavedUnit) : Option State :=
  if !s.mayRestore u then none
  else match s.launches.find? fun l => l.id == u.launch with
    | none => none
    | some l =>
      let put := if l.lrec.whey then s.putWheySaved l u
        else s.putGroups (l.lrec.has 3) [] (unitGroups (l.lrec.has 3) u.blocks)
      put.map fun s =>
        let s := s.putVault u (s.unitRanges l (s.unit u.launch))
        let s : State := { s with saved := s.saved.filter fun x => x.launch != u.launch }
        let cores := ((s.unit u.launch).map (·.core)).foldl addNew []
        let s : State := { s with launches := modWhere (fun x => x.id == u.launch) (fun x => { x with cores := if x.lrec.whey then x.cores else cores }) s.launches }
        let go : Block → List Event := fun b =>
          (b.ops.map fun op => Event.engineOpBegin b.id op.ctx op.num) ++ (b.accs.map fun a => Event.accessCompletion a.id) ++
            [.blockRetirement b.id]
        (s.push ((s.unit u.launch).flatMap go)).uiPoke u.asid

/-- `UNIT_RESTORE`: a saved unit returns whole to the dies it was saved from, once no cause keeps it and it fits. -/
def execUnitRestore (u : Nat) (s : State) : Host.Outcome State Fault Refusal :=
  .next (match s.saved.find? fun x => x.launch == u with
  | none => s
  | some x => (s.restore x).getD s)

/-- Saved units, queued launches and gathered lanes are looked at again, since room or an order has changed. -/
def State.wakeSched (s : State) : State :=
  s.push ((s.saved.map fun u => Event.unitRestore u.launch) ++
    ((List.range 8).filterMap fun d => if (s.die d).queues.any fun q => !q.2.isEmpty then some (.launchPlacement d) else none) ++
    ((List.range 8).filterMap fun d => if (s.die d).gather.isEmpty then none else some (.handlerGangClose d)))

end Sys2Proof.Machine
end

