-- ==== Sys2Proof/Machine/Access.lean ====
section
/-! DEFINITION. Steps that end waits and carry accesses on: accesses and page walks (R94, R439), SLEEPW and QWAIT.until
(R332, R367), interrupts from hosts and peers and their delivery (R191 to R194, R353, R429), the end of host system
calls (R201), and a word that names no operation (R258). -/

namespace Sys2Proof.Machine

/-! ### Accesses and walks -/

/-- The array of package memory that holds a physical address (R7, R26): an NX stack, or a part of the second tier. -/
def memArray (pa : Nat) : ChkArray := if 2 ^ 41 ≤ pa % 2 ^ 42 then .st (pa / 4096 % 4) else .nx (pa / 4096 % 2 ^ 28 % 12)

/-- The arrays that a part of an access reads: its vault; or its core's L1, its die's L2 and, where the L2 holds no token of the sector,
the memory behind it (R399). -/
def State.arraysOf (s : State) (a : Access) (p : Part) : List (ChkArray × Nat) :=
  let core := s.coreOfAcc a
  let d := dieOf core
  if a.kind.vault then [(.vlt, 64 * d + s.vaultCore d p.addr)]
  else match s.xlat a.asid p.addr .any with
    | .inl (pa, _) => [(.l1, core), (.l2, d)] ++ if paClass pa == some .package && (s.l2 d (pa / 64)).tokn == 0 then [(memArray pa, 0)] else []
    | .inr _ => []

/-- An access meets the errors of the arrays that it reads: corrected ones are charged (R398); an L1 with one that can not be corrected
discards its lines, and they are fetched again (R461). -/
def State.meetAccess (s : State) (id : Nat) : State :=
  if s.upsets.isEmpty then s
  else match s.accOf id with
    | none => s
    | some a => (a.parts.filter fun p => p.st == .todo).foldl (fun s p => (s.arraysOf a p).foldl (fun s x =>
        match s.meet x.1 x.2 with
        | (true, s) => if x.1 == .l1 then s.modCore x.2 fun c => { c with l1 := [] } else s
        | (false, s) => s) s) s

/-- `ACCESS_COMPLETION`: an access comes on; once it is complete the counter of its path falls, in issue order (R94). -/
def execAccessCompletion (a : Nat) (s : State) : Host.Outcome State Fault Refusal := .next ((s.meetAccess a).advance a)

/-- The access translates through the die's units (R76). -/
def AccKind.walks : AccKind → Bool
  | .probe | .mapctl .. | .kick _ | .mark | .sendui => false
  | k => !k.vault

/-- The address whose translation a part of an access waits for: of a KICK, a page of its notice's source (R76, R363). -/
def State.walkAddr (s : State) (a : Access) (p : Part) : Option Nat :=
  match a.kind with
  | .mapctl .. | .mark | .sendui => none
  | .kick n => s.kickMiss (dieOf (s.coreOfAcc a)) a.asid n
  | k => if k.vault then none else some p.addr

/-- The parts of accesses that wait for a page of a context at a die (R439). -/
def State.walkers (s : State) (die asid page : Nat) : List (Access × Part) :=
  (s.allAccs.filter fun a => a.asid == asid && dieOf (s.coreOfAcc a) == die).flatMap fun a =>
    (a.parts.filter fun p => p.st == .todo && (s.walkAddr a p).map (· / 65536) == some page && !blocked (s.order a) (s.siblings a) a p).map
      fun p => (a, p)

/-- The operations of engines that wait for a page of a context at a die go on, or meet the fault that its walk has ended in (R27, R439). -/
def State.walkOps (s : State) (die asid page : Nat) (bad : Bool) : State :=
  let l := (s.blocks.filter fun b => b.asid == asid && dieOf b.core == die).flatMap fun b =>
    (b.ops.filter fun op => op.asked.contains (walkKey (65536 * page))).map fun op => (b, op)
  l.foldl (fun s x => (s.modOp x.1.id x.2.ctx x.2.num fun op =>
      let l := op.asked.erase (walkKey (65536 * page))
      { op with asked := if bad then l ++ [faultKey (65536 * page)] else l }).push [.engineOpCompletion x.1.id x.2.ctx x.2.num]) s

/-- The fetches that wait for a page of a context at a die go on; of a walk that has ended in a fault the core takes note (R22, R439). -/
def State.walkFetches (s : State) (die asid page : Nat) (bad : Bool) : State :=
  let key := fetchWalk asid (65536 * page)
  let l := s.cores.filter fun x => dieOf x.1 == die && x.2.pullAsked.contains key
  l.foldl (fun s x => s.modCore x.1 fun c =>
    { c with pullAsked := c.pullAsked.erase key, pullIn := if bad then c.pullIn ++ [(key, 0)] else c.pullIn }) s

/-- A part whose walk has ended in a fault: it fails, or, of a PROBE, answers 0 (R324, R440). -/
def State.walkFail (s : State) (a : Access) (p : Part) (c : BitVec 8) (lvl : Nat) (e : DWord) : State :=
  if a.kind == .probe then (s.donePart a p 0).settle a.who a.id else s.failOn a p c lvl e

/-- The next miss of a die takes a walk slot (R439). -/
def State.nextWalk (s : State) (die : Nat) : State :=
  match (s.die die).walkQ with
  | [] => s
  | k :: r => (s.modDie die fun x => { x with walkQ := r, walks := x.walks ++ [k] }).push [.pageWalkEnd die k.1 k.2]

/-- `PAGE_WALK_END`: a walk ends, its slot is free, and every access, engine operation and fetch that waits on it goes on or faults
(R27, R439, R440). -/
def execPageWalkEnd (die asid page : Nat) (s : State) : Host.Outcome State Fault Refusal :=
  .next (
    if !(s.die die).walks.contains (asid, page) then s
    else
      let s := (s.modDie die fun x => { x with walks := x.walks.erase (asid, page) }).nextWalk die
      let va := page * 65536
      let l := s.walkers die asid page
      match s.walk asid va with
      | .ok e size =>
        let t : TlbEntry := { asid, vpage := va / 2 ^ size, size, entry := e, unit := tlbUnit asid va }
        let s := s.modDie die fun x => { x with tlb := tlbAdd x.tlb t }
        let s := (s.walkOps die asid page false).walkFetches die asid page false
        s.push (((l.map fun x => x.1.id).foldl addNew []).map Event.accessCompletion)
      | .fault c lvl e =>
        let s := (s.walkOps die asid page true).walkFetches die asid page true
        l.foldl (fun s x => match (s.accOf x.1.id).bind fun a => (a.parts.find? fun p => p.lane == x.2.lane).map fun p => (a, p) with
          | some (a, p) => if p.st == .todo then s.walkFail a p c lvl e else s
          | none => s) s)

/-! ### SLEEPW and QWAIT.until -/

/-- `SLEEPW_WAKE`: a wait at SLEEPW whose word has changed or whose deadline has come ends (R367). -/
def execSleepwWake (r : SliceRef) (s : State) : Host.Outcome State Fault Refusal :=
  .next (match s.blk r.blk with
  | none => s
  | some b =>
    match b.gang r.gang with
    | none => s
    | some g =>
      match g.splitOf r.slice with
      | none => s
      | some sp => match sp.wait with
        | .sleepw l =>
          if sp.stop || b.saving || !(l.any (s.sleepDone b)) then s
          else moveSplit s b g sp { stall := BitVec.ofNat _ (sp.readyAt - (s.now + 1)) } (fun sl => nextPc sl.pc) true
        | _ => s)

/-- `QWAIT_DEADLINE`: a sequencer at QWAIT.until goes on when %gtime reaches its operand (R332). -/
def execQwaitDeadline (b : Nat) (s : State) : Host.Outcome State Fault Refusal :=
  .next (match s.blk b with
  | none => s
  | some x => match x.seq.wait with
    | .until' t => if t ≤ s.gtime then s.modSeq b fun q => { q with wait := .none, made := false } else s
    | _ => s)

/-! ### Interrupts (R191 to R194, R353, R429) -/

/-- The record of a host write to the interrupt or system-call unit that is refused (R201, R429). -/
def State.refuseHost (s : State) (asid port : Nat) (pasid : BitVec 20) (v : Nat) : State :=
  if !s.inUse asid then s
  else
    let f : FInfo := { code := 0x40, prec := false, agent := 6, addr := BitVec.ofNat 64 (pasid.toNat + 2 ^ 20 * port), detail := [BitVec.ofNat 8 v] }
    s.putRecord asid (recordBytes f asid 0 0 0 0 0 0 s.gtime)

/-- `HOST_UI_SEND`: a 16-byte write to offset 0x1_0000 of BAR 2 sends a user-level interrupt (R192, R429). -/
def execHostUiSend (port : Nat) (pasid : BitVec 20) (data : BitVec 128) (s : State) : Host.Outcome State Fault Refusal :=
  let asid := (data.extractLsb' 64 12).toNat
  let v := (data.extractLsb' 80 6).toNat
  .next (match s.uiSend asid v (data.extractLsb' 0 64) (.host port pasid.toNat) with
    | .inl s => s
    | .inr _ => s.refuseHost asid port pasid v)

/-- `PEER_SEND`: a SENDUI from a peer device is recorded or refused, and the peer is told (R191, R353, R429). -/
def execPeerSend (dev asid target : Nat) (v : BitVec 6) (p : DWord) (s : State) : Host.Outcome State Fault Refusal :=
  .next (match s.uiSend target v.toNat p (.peer dev asid) with
    | .inl s => s.send (.kickAck dev 0)
    | .inr code => s.send (.refused dev 0 code))

/-- The handler gang of a context can take a delivery now (R193, R194). -/
def State.uiTaker (s : State) (asid : Nat) : Option (Nat × Nat × Nat) :=
  match (s.uiOf asid).hnd with
  | none => none
  | some (bid, gn) =>
    match (s.blk bid).bind fun b => if b.halt.isSome || b.saving then none else b.gang gn with
    | none => none
    | some g => if g.uiReady && s.uiDue asid then (s.uiVector asid).map fun v => (v, bid, gn) else none

/-- `UI_DELIVERY`: the lowest due vector enters the handler gang, at its run end or in a wait that it ends (R193, R194). -/
def execUiDelivery (asid : Nat) (s : State) : Host.Outcome State Fault Refusal :=
  .next (match s.uiTaker asid with
    | some (v, bid, gn) => s.uiEnter asid v bid gn false
    | none => s)

/-! ### Host system calls (R201) -/

/-- Asks the host for the results of a record (R200, R201). -/
def State.scAsk (s : State) (r : ScRec) (ring : Nat × Nat × Nat) : State :=
  let s : State := { s with sc := modWhere (fun x => x.id == r.id) (fun x => { x with ended := true }) s.sc }
  r.lanes.foldl (fun s x =>
    let tag := s.freeTag
    let addr := ring.1 + 2048 * r.slot + 1792 + 8 * x.1
    let s := s.send (.hostRead ring.2.2 tag addr 8)
    let hr : HostReq := { tag, acc := 0, lane := x.1, port := ring.2.2, addr, atomic := false, time := s.gtime, sc := some r.id }
    ({ s with hostReqs := s.hostReqs ++ [hr] }).timer (s.gtime + 50000000) (.hostCompletionTimeout tag)) s

/-- `HOST_SYSCALL_END`: a 16-byte write to offset 0x1_0010 of BAR 2 ends a record of a host ring (R201). -/
def execHostSyscallEnd (port : Nat) (pasid : BitVec 20) (data : BitVec 128) (s : State) : Host.Outcome State Fault Refusal :=
  let slot := (data.extractLsb' 0 16).toNat
  let asid := (data.extractLsb' 64 12).toNat
  .next (
    if s.inUse asid && (s.scRing asid true).2.2 == port && (s.uiEntry asid (.host port pasid.toNat)).isSome then
      match s.sc.find? fun x => x.asid == asid && x.host && x.posted && !x.ended && x.slot == slot with
      | some r =>
        -- with too many requests outstanding at the port, the write waits at it (R149)
        if s.hostRoom port r.lanes.length then s.scAsk r (s.scRing asid true)
        else s.push [.hostSyscallEnd port pasid data]
      | none => s
    else s.refuseHost asid port pasid 0)

/-! ### A word that names no operation (R258) -/

/-- The word names an entry with V = 0 of a table, or an operation that its stream may not issue (R242, R258). -/
def namesNothing (t : DecTable) (u : Bool) (w : DWord) : Bool :=
  match decodeWord t w with
  | .empty => true
  | .instr c _ | .illegal c => (match opRow c with | some o => if u then !o.unif else !o.lane | none => true)
  | _ => false

/-- `EMPTY_ENTRY_WORD`: the word of the issuing agent names no operation of its stream: it takes effect in no lane and raises
0x01, or 0x02 for a pair word in the uniform stream (R258, R408, R462). -/
def execEmptyEntryWord (w : DWord) (s : State) : Host.Outcome State Fault Refusal :=
  let s := { s with curWord := w }
  match s.cur with
  | some (.split ..) => withSplit s fun b g sp =>
    if namesNothing b.table false w then trapWord s b g sp {} 0x01 (splitLanes g sp) else s
  | some (.seq _) => withSeq s fun b =>
    if w.getLsbD 63 then trapSeqWord s b 0x02 else if namesNothing b.table true w then trapSeqWord s b 0x01 else s
  | none => .next s

end Sys2Proof.Machine
end

