-- ==== Sys2Proof/Machine/Coherence.lean ====
section
/-! DEFINITION. The steps of token coherence: requests and tokens on their way (R111 to R114, R122, R123), presses (R117 to
R121, R327), lost tokens and their recreation (R453 to R456), and ranges exported to the fabric (R486). -/

namespace Sys2Proof.Machine

/-! ### What waits for a sector -/

/-- The parts of accesses at a die that wait for tokens of a sector. -/
def State.waiting (s : State) (d sec : Nat) : List (Access × Part) :=
  (s.allAccs.filter fun a => dieOf (s.coreOfAcc a) == d).flatMap fun a =>
    (a.parts.filter fun p => p.pa / 64 == sec && (p.st == .todo || p.st == .inPath)).map fun p => (a, p)

/-- The words of engine operations at a die that wait for tokens of a sector (R127). -/
def State.engWaits (s : State) (d sec : Nat) : List (Block × EngOp × Nat) :=
  (s.blocks.filter fun b => dieOf b.core == d).flatMap fun b => b.ops.flatMap fun op =>
    (op.asked.filter fun va => decide (va < 2 ^ 64) && !op.has va && (match s.xlatAt d b.asid va .load with | .inl (pa, _) => pa / 64 == sec | .inr _ => false)).map
      fun va => (b, op, va)

/-- The cores of a die whose pull waits for a word of a sector, with the word's address (R127, R363). -/
def State.pullWaits (s : State) (d sec : Nat) : List (Nat × Nat) :=
  (s.cores.filter fun x => dieOf x.1 == d).flatMap fun x =>
    (x.2.pullAsked.filter fun a => a / 64 == sec && !(x.2.pullIn.any fun y => y.1 == a)).map fun a => (x.1, a)

/-- Blocks of a die that would fetch from a sector whose home is another device, with the address (R22, R127). -/
def State.fetchWaits (s : State) (d sec : Nat) : List (Block × Nat) :=
  (s.blocks.filter fun b => dieOf b.core == d && b.whey.isNone).flatMap fun b =>
    let pcs := (if b.unif then [b.seq.pc.toNat] else []) ++ b.gangs.flatMap fun g => g.splits.map fun sp => (g.splitPc sp).toNat
    (pcs.filter fun va => match s.xlatAt d b.asid va .fetch with
      | .inl (pa, _) => pa / 64 == sec && s.place pa == .remote
      | .inr _ => false).map fun va => (b, va)

/-- Words of a sector that has come reach the engines and pulls that asked for them. -/
def State.feed (s : State) (d sec : Nat) (data : Sector) : State :=
  let bytes : Nat → Nat → List (Nat × Byte) := fun key off => (List.range 8).map fun k => (key + k, secByte data (off + k))
  let s := (s.engWaits d sec).foldl (fun s x =>
    (s.modOp x.1.id x.2.1.ctx x.2.1.num fun op => { op with inbox := op.inbox ++ bytes x.2.2 (x.2.2 % 64) }).push
      [.engineOpCompletion x.1.id x.2.1.ctx x.2.1.num]) s
  (s.pullWaits d sec).foldl (fun s x =>
    (s.modCore x.1 fun c => { c with pullIn := c.pullIn ++ bytes x.2 (x.2 % 64) }).push [.copyEnginePull x.1]) s

/-- A part that waits faults: its store leaves the store path and is held (R434). -/
def State.failHeld (s : State) (a : Access) (p : Part) (code : BitVec 8) (info : DWord) : State :=
  (s.leavePath a p.lane).failOn a p code 0xFF info

/-- The parts of PRESS words at a die whose press of a sector has been raised and has not ended, with the words (R327). -/
def State.pressParts (s : State) (d sec : Nat) : List (Access × Part) :=
  (s.allAccs.filter fun a => dieOf (s.coreOfAcc a) == d).flatMap fun a => match a.kind with
    | .press _ => (a.parts.filter fun p => p.pa / 64 == sec && p.st == .sent 0).map fun p => (a, p)
    | _ => []

/-- The home refuses the requests of a die for a sector: what waits for it faults, and so does a PRESS (R448, R456, R486). -/
def State.failWaiting (s : State) (d sec : Nat) (code : BitVec 8) : State :=
  let ws := s.waiting d sec ++ s.pressParts d sec
  let es := s.engWaits d sec
  let ps := s.pullWaits d sec
  let fs := s.fetchWaits d sec
  let s := s.modDie d fun x => { x with reqs := x.reqs.filter fun r => r.sec != sec }
  let s := ws.foldl (fun s x => s.failHeld x.1 x.2 code 0) s
  let s := es.foldl (fun s x => s.engFault x.1 x.2.1 code x.2.2 0xFF 0 4 0) s
  let s := ps.foldl (fun s x => match s.pullHead x.1 s.devNum x.2 with
    | some n => ((s.pullWithdraw x.1 n).modCore x.1 Core.dropKick).kickFail n code x.2 0 (s.core x.1).pullDone
    | none => s) s
  fs.foldl (fun s x => s.modCore x.1.core fun c => { c with pullIn := c.pullIn ++ [(fetchFail x.1.asid x.2, code)] }) s

/-! ### Requests and tokens (R111 to R114) -/

/-- `TRANSIENT_REQUEST`: an agent or home answers a transient request (R112, R448). -/
def execTransientRequest (m : ReqMsg) (s : State) : Host.Outcome State Fault Refusal :=
  .next (match m.dst with
  | .l2 a => (match s.agentDie m.sec a with | some d => s.answerL2 d m | none => s)
  | .home => if s.homeHere m.sec then s.answerHome m else s)

/-- One request whose send has timed out: it is sent again by broadcast, or a press is raised (R114). -/
def State.requestTimeout (s : State) (d : Nat) (r : TokReq) : State :=
  let lim := s.retryLimit r
  let set : (TokReq → TokReq) → State → State := fun f s =>
    s.modDie d fun x => { x with reqs := modWhere (fun y => y.sec == r.sec && y.write == r.write) f x.reqs }
  if r.sends ≤ lim then
    let r' : TokReq := { r with sends := r.sends + 1, timeout := s.gtime + 2000 }
    (set (fun _ => r') s).sendRound d r' true
  else (set (fun y => { y with pressed := true }) s).sendPress { sec := r.sec, src := .l2 (s.agentOf r.sec d), write := r.write, t := r.t }

/-- A home's own request whose send has timed out: it is sent again, or the home recalls the tokens by a press (R114, R119, R304). -/
def State.homeTimeout (s : State) (sec : Nat) : State :=
  match (s.home sec).req with
  | none => s
  | some r =>
    if s.gtime < r.timeout || r.pressed then s
    else if r.sends ≤ s.retryLimit r then
      let r' : TokReq := { r with sends := r.sends + 1, timeout := s.gtime + 2000 }
      (s.modHome sec fun h => { h with req := some r' }).homeRound r'
    else (s.modHome sec fun h => { h with req := some { r with pressed := true } }).recall sec

/-- `TRANSIENT_TIMEOUT`: a send has had no complete answer for 2 µs; every token received is kept (R114). Die 8 stands for the sector's home. -/
def execTransientTimeout (die sec : Nat) (s : State) : Host.Outcome State Fault Refusal :=
  .next (if die == 8 then s.homeTimeout sec else ((s.die die).reqs.filter fun r => r.sec == sec && !r.pressed && decide (r.timeout ≤ s.gtime)).foldl
    (fun s r => s.requestTimeout die r) s)

/-- The requester tells the home that its press may end (R118 step 4). -/
def State.sendPressEnd (s : State) (d sec : Nat) : State :=
  let me := s.agentOf sec d
  if s.homeHere sec then s.push [.pressDeactivation sec (.l2 me)]
  else s.send (.press (fabDev (sec * 64)) 3 me { sec, src := .l2 me, write := true })

/-- The requests of a die for a sector that its tokens complete, and what follows: the predictor is trained, what waits is
performed, and a press of this agent that is active is ended (R111, R116, R118). -/
def State.requestsDone (s : State) (d sec : Nat) : State :=
  let x := s.l2 d sec
  let full : TokReq → Bool := fun r => r.sec == sec && (if r.write then decide (x.tokn == r.t) && x.dv else decide (1 ≤ x.tokn) && x.dv)
  let done := (s.die d).reqs.filter full
  let s := s.modDie d fun y => { y with reqs := y.reqs.filter fun r => !full r }
  let s := done.foldl (fun s r => s.train d r) s
  let s := s.performWaiting d sec
  if done.any (·.pressed) && !((s.die d).reqs.any fun r => r.sec == sec && r.pressed) && s.pact d sec == some (.l2 (s.agentOf sec d)) then
    s.sendPressEnd d sec else s

/-- The tokens of a message are good at an agent (R106, R454): they bear the serial of those it holds, or, where it holds
none, the serial that a census gave it or that of the home, as far as it can be known here. -/
def State.serialOk (s : State) (d : Nat) (m : TokMsg) : Bool :=
  let x := s.l2 d m.sec
  if x.tokn != 0 then m.ser == x.ser
  else match mget (s.die d).serials m.sec with
    | some v => m.ser == v || (m.src == .home && (!s.homeHere m.sec || m.ser == (s.home m.sec).ser))
    | none => !s.homeHere m.sec || m.ser == (s.home m.sec).ser

/-- Tokens reach a die's L2 (R113, R118 steps 2 and 3, R454); where its slice has no room for the sector they go on to the
home. -/
def State.takeTokens (s : State) (d : Nat) (m : TokMsg) : State :=
  if m.n == 0 then s.failWaiting d m.sec (if m.dirty then 0x2D else 0x2C)
  else if !s.serialOk d m then { s with tokrcStale := satInc s.tokrcStale }
  else
    let s := s.makeRoom d m.sec
    if !s.l2Room d m.sec then s.sendBack { m with src := .l2 (s.agentOf m.sec d) } else
    let x := s.l2 d m.sec
    let s := s.setL2 d m.sec
      { ser := if x.tokn == 0 then m.ser else x.ser, own := x.own || m.own, dv := x.dv || m.data.isSome,
        dirty := x.dirty || (m.own && m.dirty), tokn := x.tokn + m.n, data := if x.dv then x.data else m.data.getD x.data, t := m.t,
        bad := if x.dv then x.bad else m.bad }
    let note : TokReq → TokReq := fun r =>
      if r.sec == m.sec then { r with senders := r.senders ++ [m.src], ownFrom := if m.own then some m.src else r.ownFrom } else r
    let s := s.modDie d fun y => { y with reqs := y.reqs.map note }
    let x := s.l2 d m.sec
    let s := if x.dv then s.feed d m.sec x.data else s
    let s := s.requestsDone d m.sec
    match s.pact d m.sec with
    | some h => if h == .l2 (s.agentOf m.sec d) then s else s.giveAll d m.sec h
    | none => s

/-- The CCTL.evict words whose write-back of a sector a home has accepted complete (R323). -/
def State.evictDone (s : State) (m : TokMsg) : State :=
  let mine : Access × Part → Bool := fun x => x.1.kind == .evict && x.2.pa / 64 == m.sec && x.2.st == .sent 0 &&
    m.src == .l2 (s.agentOf m.sec (dieOf (s.coreOfAcc x.1)))
  ((s.allAccs.flatMap fun a => a.parts.map fun p => (a, p)).filter mine).foldl
    (fun s x => (s.donePart x.1 x.2 0).settle x.1.who x.1.id) s

/-- `WRITE_BACK`: the home adds the tokens of a write-back (R122, R123); the CCTL.evict that sent it has completed (R323). DESIGN CHOICE
(entry 25): for a sector whose home is another device the event is the news that its home has accepted the write-back. -/
def execWriteBack (m : TokMsg) (s : State) : Host.Outcome State Fault Refusal :=
  .next (if !s.homeHere m.sec then s.evictDone m
    else
      let s := (s.homeTake m).evictDone m
      s.homeRise m.sec s.homeTurns)

/-! ### Presses (R117 to R121, R327) -/

/-- The home refuses a press request: its T differs, or the range is not exported to the device (R486). -/
def State.pressRefused (s : State) (m : PressReq) : Option Nat :=
  match m.src with
  | .home => none
  | .l2 a => if !(s.home m.sec).lost && s.homeRefuses m.sec (if isFab m.sec then a / 8 else s.devNum) m.t then some a else none

/-- `PRESS_REQUEST`: the home queues a press request into its rounds, or refuses it (R117, R119, R486). -/
def execPressRequest (m : PressReq) (s : State) : Host.Outcome State Fault Refusal :=
  .next (if !s.homeHere m.sec then s
    else match s.pressRefused m with
      | some a => s.refuseTo m.sec a 0x2C
      | none => s.pressAdd m)

/-- An acknowledgement goes to the home of a sector (R118). -/
def State.pressAck (s : State) (agent sec : Nat) (act : Bool) : State :=
  if s.homeHere sec then s.push [.pressAcknowledgement agent sec act]
  else s.send (.press (fabDev (sec * 64)) (if act then 2 else 5) agent { sec, src := .l2 agent, write := false })

/-- An agent records an activation, performs what it can, forwards its tokens and acknowledges (R118); where its own request is
complete already, the deactivation goes to the home at once (R118 step 4). On a page that is on
its way to the host its own requests end: what waits for them is held (R460). -/
def State.pressRecord (s : State) (d agent : Nat) (m : PressReq) : State :=
  let s := s.modDie d fun x => { x with pact := x.pact ++ [m] }
  let s := s.performWaiting d m.sec
  let s := if (m.src == .home || m.src == .l2 agent) && s.hostPage m.sec then
      s.modDie d fun x => { x with reqs := x.reqs.filter fun r => r.sec != m.sec } else s
  let s := if m.src != .l2 agent then s.giveAll d m.sec m.src
    else if (s.die d).reqs.any fun r => r.sec == m.sec && r.pressed then s.requestsDone d m.sec
    else s.sendPressEnd d m.sec
  s.pressAck agent m.sec true

/-- A die has one of its sixteen fabric press entries free (R121). -/
def State.pactRoom (s : State) (d : Nat) : Bool := decide (((s.die d).pact.filter fun x => isFab x.sec).length < 16)

/-- The fabric activations that a die holds take the entries that are free, in arrival order (R121). -/
def State.takeHeld (s : State) (d : Nat) : State :=
  (s.die d).heldActs.foldl (fun s m =>
    if s.pactRoom d then (s.modDie d fun x => { x with heldActs := x.heldActs.drop 1 }).pressRecord d (s.agentOf m.sec d) m else s) s

/-- `PRESS_ACTIVATION`: an activation reaches an agent; with all sixteen fabric entries in use, or others held before it, it is held
(R118, R121). -/
def execPressActivation (agent : Nat) (m : PressReq) (s : State) : Host.Outcome State Fault Refusal :=
  .next (match s.agentDie m.sec agent with
  | none => s
  | some d =>
    if isFab m.sec && (!s.pactRoom d || !(s.die d).heldActs.isEmpty) then s.modDie d fun x => { x with heldActs := x.heldActs ++ [m] }
    else s.pressRecord d agent m)

/-- The home goes on when acknowledgements are in (R118 steps 5 and 6), or when a home at rest has its turn (R119). The sector whose press
has ended waits behind those of its home that wait for a place (R120, R121). DESIGN CHOICE (entry 25): the sectors take the freed place
in the order in which they came to wait. -/
def State.pressOn (s : State) (sec : Nat) : State :=
  let s := s.pressEnd sec
  let h := s.home sec
  if h.active.isSome then s
  else if !h.deacting then s.pressNext sec
  else if !h.deacks.isEmpty then s
  else
    let s := (s.modHome sec fun h => { h with deacting := false }).pressNext sec
    let s := s.homeRise sec s.homeTurns
    (s.pressLine (homeClass sec)).foldl State.pressNext s

/-- `PRESS_ACKNOWLEDGEMENT`: an agent's acknowledgement reaches the home (R118). -/
def execPressAcknowledgement (agent sec : Nat) (act : Bool) (s : State) : Host.Outcome State Fault Refusal :=
  .next (if !s.homeHere sec then s
    else
      let f : HomeSector → HomeSector := fun h =>
        if act then { h with acksDue := h.acksDue.erase agent } else { h with deacks := h.deacks.erase agent }
      (s.modHome sec f).pressOn sec)

/-- `PRESS_DEACTIVATION`: the requester's deactivation reaches the home (R118 steps 4 and 5). -/
def execPressDeactivation (sec : Nat) (src : Holder) (s : State) : Host.Outcome State Fault Refusal :=
  .next (if !s.homeHere sec then s
    else match (s.home sec).active with
      | some m => if m.src == src then (s.modHome sec fun h => { h with deacting := true }).pressOn sec else s
      | none => s)

/-- The PRESS words that have raised a press are done for its sector (R327). -/
def State.pressOps (s : State) (d : Nat) (m : PressReq) : State :=
  ((s.pressParts d m.sec).filter fun x => m.ops.contains x.1.grp).foldl (fun s x => (s.donePart x.1 x.2 0).settle x.1.who x.1.id) s

/-- The agent of a die clears a press entry; a fabric activation that was held takes its place (R118, R121). The PRESS
words whose press has ended are done (R327). -/
def State.pressDrop (s : State) (d agent sec : Nat) : State :=
  let mine := (s.die d).pact.filter fun m => m.sec == sec && m.src == .l2 agent
  let s := s.modDie d fun x => { x with pact := x.pact.filter fun y => y.sec != sec }
  (mine.foldl (fun s m => s.pressOps d m) s).takeHeld d

/-- `PRESS_CLEAR`: the home's deactivation reaches an agent, which clears its entry and acknowledges (R118 step 5). -/
def execPressClear (agent sec : Nat) (s : State) : Host.Outcome State Fault Refusal :=
  .next (match s.agentDie sec agent with
  | none => s
  | some d => (s.pressDrop d agent sec).pressAck agent sec false)

/-! ### Lost tokens (R453 to R456) -/

/-- `CENSUS`: an agent returns all its tokens with the data and DIRTY of the owner, clears its state and its press entry, and
takes the new serial with the tokens that come to it (R453, R454). -/
def execCensus (agent sec : Nat) (ser : BitVec 8) (s : State) : Host.Outcome State Fault Refusal :=
  .next (match s.agentDie sec agent with
  | none => s
  | some d =>
    let x := s.l2 d sec
    let old := if x.tokn == 0 then ser - 1 else x.ser
    let m : TokMsg := { s.allToks d sec .home true with ser := old }
    let s := s.setL2 d sec {}
    let s := s.modDie d fun y =>
      { y with pact := y.pact.filter fun z => z.sec != sec, heldActs := y.heldActs.filter fun z => z.sec != sec, serials := mset y.serials sec ser }
    (s.sendTok m).takeHeld d)

/-- The contexts with an access waiting on a lost sector are charged with 0x62 (R453, R405). -/
def State.chargeLost (s : State) (sec : Nat) : State :=
  let l := (List.range 8).flatMap fun d => s.waiting d sec
  l.foldl (fun s x => s.failOn x.1 x.2 0x62 x.2.lvl x.2.out) s

/-- Every agent that can be reached has answered the census: the tokens exist again under the new serial, and the activation
goes on (R453). -/
def State.censusEnd (s : State) (sec : Nat) : State :=
  let h := s.home sec
  match h.census with
  | some (s2, []) =>
    let lost := !h.own
    let s := s.modHome sec fun h =>
      { h with tokn := h.t, own := true, ser := s2, lost := h.lost || lost, census := none,
               acksDue := if h.deacting then [] else s.reachable sec, deacks := [], activeAt := s.gtime }
    let s := if lost then s.chargeLost sec else s
    let s := { s with tokrcCnt := satInc s.tokrcCnt }
    (match h.active with
     | some m =>
       let s := s.timer (s.gtime + s.tokrcTimeout.toNat) (.tokenRecreation sec)
       if h.deacting then s.pressOn sec
       else (s.pressAll sec true m).pressServe sec m true
     | none => s.pressOn sec)
  | _ => s

/-- Sends the census to the agents that have not answered it (R453). -/
def State.sendCensus (s : State) (sec : Nat) (s2 : BitVec 8) (l : List Nat) : State :=
  l.foldl (fun s a => match s.agentDie sec a with
    | some _ => s.push [.census a sec s2]
    | none => s.send (.census (a / 8) a sec s2)) s

/-- `TOKEN_RECREATION`: a press activation has not been deactivated within DV_TOKRC_TIMEOUT: the census begins, at least 2 ms
after the sector's last one; an unanswered census is sent again (R453). -/
def execTokenRecreation (sec : Nat) (s : State) : Host.Outcome State Fault Refusal :=
  .next (
    let h := s.home sec
    match h.census with
    | some (s2, l) => (s.sendCensus sec s2 l).timer (s.gtime + 2000) (.tokenRecreation sec)
    | none =>
      if !s.homeHere sec || (h.active.isNone && !h.deacting) || s.gtime < h.activeAt + s.tokrcTimeout.toNat then s
      else
        let at' := match h.lastCensus with | some t => t + 2000000 | none => 0
        if s.gtime < at' then s.timer at' (.tokenRecreation sec)
        else
          let s2 := h.ser + 1
          let l := s.reachable sec
          let s := s.modHome sec fun h => { h with census := some (s2, l), lastCensus := some s.gtime }
          if l.isEmpty then s.censusEnd sec
          else (s.sendCensus sec s2 l).timer (s.gtime + 2000) (.tokenRecreation sec))

/-- A census answer reaches the home: its tokens are collected, and the agent has answered (R453). -/
def State.censusAnswer (s : State) (m : TokMsg) : State :=
  let s := if m.n == 0 then s else s.homeTake m
  match m.src, (s.home m.sec).census with
  | .l2 a, some (s2, l) => (s.modHome m.sec fun h => { h with census := some (s2, l.erase a) }).censusEnd m.sec
  | _, _ => s

/-- `TOKEN_ARRIVAL`: tokens reach an agent or a home; a message without tokens is a refusal, or an empty answer to a census (R113,
R123, R448, R453, R454). -/
def execTokenArrival (m : TokMsg) (s : State) : Host.Outcome State Fault Refusal :=
  .next (match m.dst with
  | .l2 a => (match s.agentDie m.sec a with | some d => s.takeTokens d m | none => s)
  | .home => if s.homeHere m.sec then (let s := if m.grant && (s.home m.sec).census.isSome then s.censusAnswer m else s.homeTake m; s.homeRise m.sec s.homeTurns) else s)

/-- `TOKEN_MESSAGE_EXPIRY`: a switch or port discards a token message that it has held for 100 µs; its tokens are lost until
they are recreated (R453). -/
def execTokenMessageExpiry (m : TokMsg) (s : State) : Host.Outcome State Fault Refusal :=
  .next { s with work := (s.work.erase (.tokenArrival m)).erase (.writeBack m) }

/-- An agent of another device has become unreachable from this home: it counts as having answered with no tokens, and its
presses end (R455). -/
def State.agentGone (s : State) (sec dev : Nat) : State :=
  let gone : Nat → Bool := fun a => a / 8 == dev
  let by' : PressReq → Bool := fun m => match m.src with | .l2 a => gone a | .home => false
  let s := s.modHome sec fun h =>
    { h with
      acksDue := h.acksDue.filter fun a => !gone a
      deacks := h.deacks.filter fun a => !gone a
      round := h.round.filter fun m => !by' m
      pending := h.pending.filter fun m => !by' m
      census := h.census.map fun x => (x.1, x.2.filter fun a => !gone a)
      deacting := h.deacting || (match h.active with | some m => by' m | none => false) }
  (s.censusEnd sec).pressOn sec

/-- `ROUTE_WITHDRAWAL`: the fabric manager withdraws every path to a device: this device drops the tokens it holds for that
home's sectors, and as a home counts that device's agents as answering (R455). -/
def execRouteWithdrawal (dev : Nat) (s : State) : Host.Outcome State Fault Refusal :=
  .next (
    if dev == s.devNum then s
    else
      let s := s.keepPaths
      let s := { s with routes := mset s.routes dev [] }
      let its : Nat → Bool := fun sec => isFab sec && fabDev (sec * 64) == dev
      let s := (List.range 8).foldl (fun s d => (s.modDie d fun x =>
        { x with l2 := x.l2.filter fun y => !its y.1, pact := x.pact.filter fun y => !its y.sec,
                 heldActs := x.heldActs.filter fun y => !its y.sec }).takeHeld d) s
      ((s.homes.map (·.1)).filter fun sec => isFab sec).foldl (fun s sec => s.agentGone sec dev) s)

/-- `DV_LOST_CLR`: LOST of a sector is cleared, and 64 zero bytes are written to its memory (R456, R457). -/
def execDvLostClr (v : DWord) (s : State) : Host.Outcome State Fault Refusal :=
  .next (
    let sec := fld v 6 46
    if !s.homeHere sec then s
    else
      let s := if (mget s.homes sec).isSome then s.modHome sec fun h => { h with lost := false } else s
      (s.setMemSector sec 0).healMem (sec * 64) 64)

/-! ### Ranges exported to the fabric (R486) -/

/-- A sector, in the package or the fabric class, lies in a range of this device's memory. -/
def State.inRange (s : State) (base len sec : Nat) : Bool :=
  let pa := sec * 64
  (!isFab sec || fabDev pa == s.devNum) && decide (pa < 2 ^ 48 ∨ 2 ^ 51 ≤ pa) &&
    decide (base ≤ (if isFab sec then pa % 2 ^ 42 else pa) ∧ (if isFab sec then pa % 2 ^ 42 else pa) < base + len)

/-- What stays of an export when a range is exported anew or withdrawn: the parts of it that lie outside the range. -/
def Export.less (e : Export) (base len : Nat) : List Export :=
  if e.base < base + len && base < e.base + e.len then
    (if e.base < base then [{ e with len := base - e.base }] else []) ++
      (if base + len < e.base + e.len then [{ e with base := base + len, len := e.base + e.len - (base + len) }] else [])
  else [e]

/-- `RANGE_EXPORT`: the fabric manager exports a range with T = 64 or 256 to the devices it lists, or withdraws it with
T = 8, while the home holds all tokens of every sector of it (R102, R486). DESIGN CHOICE (entry 25): what an earlier export has beside the
range stays exported as it was. -/
def execRangeExport (base len t : Nat) (devs : List Nat) (s : State) : Host.Outcome State Fault Refusal :=
  .next (
    let its := (s.homes.map (·.1)).filter (s.inRange base len)
    if !(t == 8 || t == 64 || t == 256) || (t != 8 && t / 8 < devs.length) || !(its.all s.allHome) then s
    else
      let rest := s.exports.flatMap fun e => e.less base len
      let s := { s with exports := if t == 8 then rest else rest ++ [{ base, len, t, devs }] }
      its.foldl (fun s sec => s.modHome sec fun h => { h with tokn := t, t, own := true }) s)

end Sys2Proof.Machine
end

