-- ==== Sys2Proof/Machine/Fabric.lean ====
section
/-! DEFINITION. The fabric: vector packets at their home and their responses (R126, R142 to R145, R447, R448), markers
(R146), the on-die network's turning (R136), and links (R450 to R452). -/

namespace Sys2Proof.Machine

/-! ### Packets at their home -/

/-- A packet with its header as the receiving end of its link restores it: a full header opens its stream context, a compressed
one takes its fields from it; one that names a context not opened is dropped and charged (R145, R452). -/
def State.unpack (s : State) (p : VPkt) : Option VPkt × State :=
  let key := 64 * p.link + p.scx
  if p.compressed then
    match mget s.streams key with
    | some x =>
      let page := ((x.page : Int) + p.delta.toInt).toNat % 2 ^ 26
      (some { p with dst := x.dst, src := x.src, ctx := x.ctx, page }, { s with streams := mset s.streams key { x with page } })
    | none => (none, s.chargeErr (.errLnk p.link))
  else (some p, { s with streams := mset s.streams key { dst := p.dst, src := p.src, ctx := p.ctx, page := p.page } })

/-- The physical addresses of a packet's elements, in the fabric class (R73, R144). -/
def pktAddrs (p : VPkt) : List Nat := p.offs.map fun o => 2 ^ 51 + p.dst * 2 ^ 42 + p.page * 65536 + o.toNat

/-- The home refuses an element of a packet: the code (R448, R456). -/
def State.pktRefused (s : State) (p : VPkt) : Option (BitVec 8) :=
  (pktAddrs p).findSome? fun pa =>
    if (s.home (pa / 64)).lost then some 0x2D else if s.homeRefuses (pa / 64) p.src p.t then some 0x2C else none

/-- Serves a vector packet that has come to its home: refused, answered as before if it has been accepted already, or
accepted by `f` (R447, R448). -/
def State.servePkt (s : State) (p : VPkt) (f : State → VPkt → State) : State :=
  let r := s.unpack p
  match r.1 with
  | none => r.2
  | some p =>
    let s := r.2
    if p.dst != s.devNum then s
    else match s.answerOf p.src p.rid with
      | some x => (match x.resp with | some m => s.send m | none => s)
      | none => match s.pktRefused p with
        | some code => s.send (.refused p.src p.rid code)
        | none => f s p

/-- The die whose vaults a peer's read of a vault source reads: a notice to that peer, not yet acknowledged, must name the bytes
(R363, entry 26). -/
def State.vaultServes (s : State) (p : VPkt) : Option Nat :=
  let l := (s.allAccs.filterMap fun a => match a.kind with | .kick n => some n | _ => none) ++
    s.blocks.flatMap fun b => b.ops.filterMap fun op => match op.kind with | .pull n => some n | _ => none
  let at' : Nat → Nat := fun o => p.page * 65536 + o
  (l.find? fun n => n.sv && n.tdev == p.src && p.offs.all fun o =>
    decide (n.src / 8 * 8 ≤ at' o.toNat ∧ at' o.toNat < n.src + n.len)).map (·.sdie)

/-- Serves a peer's read of a vault source: the sender's core reads it (R363). -/
def State.serveVault (s : State) (p : VPkt) : State :=
  match s.vaultServes p with
  | some die => s.send (.fabResp 4 p.src p.rid (p.offs.map fun o => BitVec.ofNat 64 (s.vlRd die (p.page * 65536 + o.toNat) p.esz)))
  | none => s.send (.refused p.src p.rid 0x2C)

/-- `VECTOR_READ`: the home returns the current value of each element (R142, R304). -/
def execVectorRead (p : VPkt) (s : State) : Host.Outcome State Fault Refusal :=
  .next (if p.vault then (match s.unpack p with
      | (some p, s) => if p.dst == s.devNum then s.serveVault p else s
      | (none, s) => s) else s.servePkt p fun s p =>
    s.respond p.src p.rid (.fabResp 4 p.src p.rid ((pktAddrs p).map fun pa => BitVec.ofNat 64 (s.rd pa p.esz))))

/-- The elements of a packet that carries data. -/
def pktElems (p : VPkt) : List (Nat × Nat × DWord × DWord) :=
  (pktAddrs p).zipIdx.map fun x => (x.2, x.1, p.data.getD x.2 0, p.cmp.getD x.2 0)

/-- Accepts a packet whose elements this device's L2s perform (R126, R143). -/
def State.takeJob (s : State) (p : VPkt) : State :=
  let (id, s) := s.newId
  let j : VecJob := { id, src := p.src, rid := p.rid, kind := p.kind, aop := p.aop, esz := p.esz, todo := pktElems p }
  ({ s with vecJobs := s.vecJobs ++ [j] }).runJob id

/-- `VECTOR_WRITE`: posted stores are accepted at the home and performed by the L2 of the home's base die, which gathers all
tokens (R126, R447). -/
def execVectorWrite (p : VPkt) (s : State) : Host.Outcome State Fault Refusal :=
  .next (s.servePkt p fun s p => (s.respond p.src p.rid (.fabResp 5 p.src p.rid [])).takeJob { p with kind := 2 })

/-- `VECTOR_ATOMIC`: atomics are performed at the home, lane by lane, and their old values returned (R91, R126, R143). -/
def execVectorAtomic (p : VPkt) (s : State) : Host.Outcome State Fault Refusal :=
  .next (s.servePkt p fun s p => (s.noteAnswer p.src p.rid none).takeJob { p with kind := 3 })

/-! ### Responses -/

/-- Takes a request that has been answered off the list. -/
def State.takeReq (s : State) (rid : Nat) : Option FabReq × State :=
  match s.fabReqs.find? fun r => r.rid == rid with
  | some r => (some r, { s with fabReqs := s.fabReqs.erase r })
  | none => (none, s)

/-- Parts of accesses whose packet has been answered are done, each with its value; their accesses come on. -/
def State.partsDone (s : State) (rid : Nat) (l : List ((Nat × Nat) × DWord)) : State :=
  let s := l.foldl (fun s x => match (s.accOf x.1.1).bind fun a => (a.parts.find? fun p => p.lane == x.1.2 && p.st == .sent rid).map fun p => (a, p) with
    | some (a, p) => (s.stcwMsix a p.pa).donePart a p x.2.toNat  -- the MSI-X of STCW follows its store (R322)
    | none => s) s
  ((l.map fun x => x.1.1).foldl addNew []).foldl (fun s id => match s.accOf id with
    | some a => s.settleOn a.who id
    | none => s) s

/-- Parts of accesses whose packet was refused, or not answered, fault (R434, R447, R448). -/
def State.partsFail (s : State) (rid : Nat) (ids : List Nat) (code : BitVec 8) (tries info : Nat) : State :=
  ids.foldl (fun s id => match s.accOf id with
    | none => s
    | some a =>
      let s := s.modAcc a.who id fun a => { a with tries }
      let a := { a with tries }
      (a.parts.filter fun p => p.st == .sent rid).foldl (fun s p =>
        (s.leavePath a p.lane).failOn a p code 0xFF (BitVec.ofNat 64 info)) s) s

/-- A pull of a core fails for want of a word of its source, which was asked of a device; a word that the pull now served does not read
concerns it not (R8). -/
def State.pullFail (s : State) (core dev : Nat) (code : BitVec 8) (addr info : Nat) : State :=
  match s.pullHead core dev addr with
  | some n =>
    let done := (s.core core).pullDone
    ((s.pullWithdraw core n).modCore core Core.dropKick).kickFail n code addr info done
  | none => s

/-- An engine operation's request fails. -/
def State.engFail (s : State) (e : Nat × Ctx × Nat) (code : BitVec 8) (addr : Nat) (info : DWord) (kind : Nat) : State :=
  match (s.blk e.1).bind fun b => (b.opOf e.2.1 e.2.2).map fun op => (b, op) with
  | some (b, op) => if op.fault.isSome then s else s.engFault b op code addr 0xFF info kind 0
  | none => s

/-- A request of this device fails with a code (R447, R448): its access parts, its engine operation or its pull. A SENDUI to a peer
is refused imprecisely (R429). -/
def State.reqFail (s : State) (r : FabReq) (code : BitVec 8) (tries info : Nat) : State :=
  match r.eng, r.pull with
  | some e, _ =>
    let gone : Core → Core := fun c => { c with sp := c.sp.filter fun x => x.acc != r.acc }
    let s := if r.pkt.kind == 2 then { s with cores := s.cores.map fun x => (x.1, gone x.2) } else s
    s.engFail e code ((pktAddrs r.pkt).headD 0) (BitVec.ofNat 64 info) (if r.pkt.kind == 1 then 4 else 5)
  | none, some core => s.pullFail core r.pkt.dst code r.acc info
  | none, none =>
    match s.accOf r.acc with
    | none => s
    | some a => match a.kind with
      | .sendui =>
        let s := a.parts.foldl (fun s p => s.donePart a p 0) s
        (s.settle a.who a.id).refuseSends a.who.blk a.who.gang a.pc a.skid [(code, a.who.slice, r.lanes)]
      | .kick _ => a.parts.foldl (fun s p => s.failOn { a with tries } p code 0xFF (BitVec.ofNat 64 info)) s
      | _ => s.partsFail r.rid ((r.parts.map (·.1)).foldl addNew []) code tries info

/-- `READ_RESPONSE`: the elements of a vector read come back in offset order; none is a refusal (R142, R448). -/
def execReadResponse (rid : Nat) (data : List DWord) (s : State) : Host.Outcome State Fault Refusal :=
  .next (
    match s.takeReq rid with
    | (none, s) => s
    | (some r, s) =>
      if data.isEmpty then s.reqFail r 0x2C 1 0
      else match r.pull with
        | some core =>
          if (s.pullHead core r.pkt.dst r.acc).isNone then s
          else
          let bytes := (data.zipIdx.flatMap fun x => (leBytes 8 x.1.toNat).zipIdx.map fun y => (r.acc + 8 * x.2 + y.2, y.1))
          (s.modCore core fun c => { c with pullIn := c.pullIn ++ bytes }).push [.copyEnginePull core]
        | none => s.partsDone rid (r.parts.zip data))

/-- `WRITE_ACCEPTANCE`: the home has accepted a posted write, or the peer has ended a pull or recorded an interrupt; a code
other than 0 is its refusal, and 1 asks for the notice to be sent again (R93, R142, R147, R353, R448). -/
def execWriteAcceptance (rid : Nat) (code : BitVec 8) (s : State) : Host.Outcome State Fault Refusal :=
  .next (
    match s.takeReq rid with
    | (none, s) => s
    | (some r, s') =>
      if code == 1 && r.pkt.kind == 0xA then
        match (s.accOf r.acc).map (·.kind), s.kickWait.find? fun x => x.1 % 65536 == rid with
        | some (AccKind.kick n), _ => s.timer (s.gtime + 1000) (.kickRetry { n with sender := r.acc })
        | _, some (id, blk, num) =>
          (match (s.blk blk).bind fun b => b.opOf .copy num with
           | some { kind := .pull n, .. } => s.timer (s.gtime + 1000) (.kickRetry { n with sender := id })
           | _ => s')
        | _, _ => s'
      else if code != 0 then s'.reqFail r code 1 0
      else match r.eng with
        | some (bid, k, n) =>
          let f : EngOp → EngOp := fun op => match op.kind with
            | .pull _ => { op with step := 1 }
            | _ => { op with posted := op.posted - 1 }
          let gone : Core → Core := fun c => { c with sp := c.sp.filter fun x => x.acc != r.acc }
          let s := if r.pkt.kind == 2 then { s' with cores := s'.cores.map fun x => (x.1, gone x.2) }
            else { s' with kickWait := s'.kickWait.filter fun x => !(x.2.1 == bid && x.2.2 == n && r.pkt.kind == 0xA) }
          (s.modOp bid k n f).push [.engineOpCompletion bid k n]
        | none =>
          match (s'.accOf r.acc).map (·.kind) with
          | some (AccKind.kick _) | some AccKind.sendui =>
            (match s'.accOf r.acc with
             | some a => (a.parts.foldl (fun s p => s.donePart a p 0) s').settle a.who a.id
             | none => s')
          | _ => s'.partsDone rid (r.parts.map fun j => (j, 0)))

/-- `ATOMIC_RESPONSE`: the old values of a vector atomic come back in offset order; none is a refusal (R142, R448). -/
def execAtomicResponse (rid : Nat) (data : List DWord) (s : State) : Host.Outcome State Fault Refusal :=
  .next (
    match s.takeReq rid with
    | (none, s) => s
    | (some r, s) => if data.isEmpty then s.reqFail r 0x2C 1 0 else s.partsDone rid (r.parts.zip data))

/-- `FABRIC_REQUEST_TIMEOUT`: a request without a response for 8 µs is sent again under its RID, and after three sends faults
with 0x2B; an atomic may have been performed, and INFO[0] says so (R447). -/
def execFabricRequestTimeout (rid : Nat) (s : State) : Host.Outcome State Fault Refusal :=
  .next (
    match s.fabReqs.find? fun r => r.rid == rid with
    | none => s
    | some r =>
      if s.gtime < r.time + 8000 then s
      else if r.sends < 3 then
        let s := s.sendPkt r.pkt
        let s := { s with fabReqs := modWhere (fun x => x.rid == rid) (fun x => { x with sends := x.sends + 1, time := s.gtime }) s.fabReqs }
        s.timer (s.gtime + 8000) (.fabricRequestTimeout rid)
      else ({ s with fabReqs := s.fabReqs.erase r }).reqFail r 0x2B 3 (if r.pkt.kind == 3 then 1 else 0))

/-! ### Markers (R146) -/

/-- `MARKER_COPY`: a copy of a marker arrives; when all have, the marker is completed once every write accepted before it has
been performed (R126, R146). -/
def execMarkerCopy (m : Marker) (s : State) : Host.Outcome State Fault Refusal :=
  .next (
    let same : MarkerIn → Bool := fun x => x.id == m.id && x.src == m.src
    let old := (s.markersIn.find? same).getD { id := m.id, src := m.src, copies := m.copies, got := 0 }
    let got := old.got + 1
    let jobs := if got == m.copies then (s.vecJobs.filter fun j => j.src == m.src && j.kind == 2).map (·.id) else []
    ({ s with markersIn := (s.markersIn.filter fun x => !same x) ++ [{ old with got, jobs }] }).markersGo)

/-- `MARKER_COMPLETION`: a marker is complete at its target; a MARK whose markers are all complete is done, and releases go on
(R85, R146, R314). -/
def execMarkerCompletion (id dev : Nat) (s : State) : Host.Outcome State Fault Refusal :=
  .next (
    match s.markersOut.find? fun m => m.id == id && m.dev == dev with
    | none => s
    | some m =>
      let s := { s with markersOut := s.markersOut.erase m }
      let s := if m.acc == 0 then s.push (s.homeOps.map Event.accessCompletion) else s
      if m.acc == 0 || s.markersOut.any fun x => x.acc == m.acc then s
      else match s.accOf m.acc with
        | some a => (a.parts.foldl (fun s p => s.donePart a p 0) s).settle a.who a.id
        | none => s)

/-! ### The on-die network and links (R136, R137, R450 to R452) -/

/-- The device has the link: it has 48 Kazath ports, of which base die `b` has 12b to 12b + 11 (R13, R32). -/
def linkOk : LinkRef → Bool
  | .kazath p => decide (p < 48)
  | .internal _ => true

/-- `LINK_REPLAY`: a CRC failure: the sender replays, at the cost of latency; the link's counter is charged once (R398, R405,
R450). -/
def execLinkReplay (l : LinkRef) (s : State) : Host.Outcome State Fault Refusal :=
  .next (match l with
  | .kazath p => s.chargeErr (.errLnk p)
  | .internal _ => s.chargeErr .errInt)

/-- The stream contexts of a link are cleared at both ends (R451). -/
def State.clearStreams (s : State) (l : LinkRef) : State :=
  match l with
  | .kazath p => { s with streams := s.streams.filter fun x => x.1 / 64 != p, sendCtx := s.sendCtx.filter fun x => x.1 / 64 != p }
  | .internal _ => s

/-- `LINK_DOWN`: a retrain has failed: code 0x61 goes to the device ring, a Kazath port leaves every route set, and its stream
contexts are cleared (R404, R451). -/
def execLinkDown (l : LinkRef) (s : State) : Host.Outcome State Fault Refusal :=
  .next (
    if !linkOk l then s
    else
      let n := match l with | .kazath p => p | .internal n => n
      let f : FInfo := { code := 0x61, prec := false, agent := 8, detail := leBytes 1 n }
      let s := s.keepPaths.clearStreams l
      { s with linksDown := addNew s.linksDown l }.putDevice (recordBytes f 0 0 0 0 0 0 0 s.gtime))

/-- `LINK_UP`: a link that was down is in service again, with its stream contexts clear (R451). -/
def execLinkUp (l : LinkRef) (s : State) : Host.Outcome State Fault Refusal :=
  .next (
    if !linkOk l then s
    else
      let s := s.keepPaths.clearStreams l
      { s with linksDown := s.linksDown.filter fun x => x != l })

end Sys2Proof.Machine
end

