-- ==== Sys2Proof/Machine/HostPort.lean ====
section
/-! DEFINITION. The host ports: completions of host reads and atomics (R149 to R151, R201, R458), CXL.cache and CXL.mem (R128,
R152, R153), and host accesses to device memory through a BAR (R149). -/

namespace Sys2Proof.Machine

/-! ### Completions (R458) -/

/-- The result of one lane of a host system call has come; with the last of them the record ends (R201). A result that could
not be read is a free value (entry 4). -/
def State.scResult (s : State) (id lane : Nat) (v : Option DWord) : State :=
  let r : DWord × State := match v with
    | some v => (v, s)
    | none => let r := s.draw; (pair64 (Config.freeWord r.1 0) (Config.freeWord r.1 1), r.2)
  let v := r.1
  let s := r.2
  let put : ScRec → ScRec := fun x => if x.id == id then { x with got := mset x.got lane v } else x
  let s := { s with sc := s.sc.map put }
  match s.sc.find? fun x => x.id == id with
  | none => s
  | some x =>
    if x.lanes.all fun l => (mget x.got l.1).isSome then
      let ring := s.scRing x.asid true
      (s.send (.hostWrite ring.2.2 (ring.1 + 2048 * x.slot + 2) [0])).scFinish x x.got
    else s

/-- What a part of an access does with the bytes that a host port has brought (R299, R321). -/
def State.hostData (s : State) (a : Access) (p : Part) (v : Nat) : State :=
  match a.kind with
  | .cpya size slot => s.cpyaPut a p size slot (v % 2 ^ (8 * size))
  -- the zero-length read of a completion store (R171, R322)
  | .stcw _ => ((s.trackHost a.who (p.pa / 2 ^ 48 - 1) (p.pa % 2 ^ 48)).stcwMsix a p.pa).donePart a p 0
  | _ => s.donePart a p (v % 2 ^ (8 * a.esz))

/-- A host request that no access made on its own ends in a fault: the zero-length read of a release, in its issuer. -/
def State.zeroFail (s : State) (w : Issuer) (code : BitVec 8) (info : Nat) : State :=
  let f : FInfo := { code, prec := false, detail := memDetail 0 4 0xFF 1 0 (BitVec.ofNat 64 info) }
  if w.slice == seqSlice then (match s.blk w.blk with | some b => s.trapSeq b.id { f with pc := b.seq.pc, agent := 1 } | none => s)
  else match s.slice w with
    | some sl => s.trap w.blk w.gang [([(w.slice, sl.live, sl.pc)], { f with pc := sl.pc })]
    | none => s

/-- A host request fails with a code and status (R434, R437, R458). -/
def State.hostFail (s : State) (r : HostReq) (code : BitVec 8) (info : Nat) : State :=
  match r.eng, r.pull, r.sc with
  | some e, _, _ => s.engFail e code r.lane (BitVec.ofNat 64 info) 4
  | _, some core, _ =>
    if 2 ^ 64 ≤ r.lane then s.modCore core fun c => { c with pullIn := c.pullIn ++ [(r.lane - 2 ^ 64 + 2 ^ 112, code)] }
    else s.pullFail core s.devNum code r.lane info
  | _, _, some id => s.scResult id r.lane none
  | none, none, none =>
    if r.zero then s.zeroFail r.who code info
    else match s.accOf r.acc with
      | some a =>
        (match a.parts.find? fun p => p.lane == r.lane && p.st == .sent r.tag with
         | some p => s.failOn { a with tries := 1 } p code 0xFF (BitVec.ofNat 64 info)
         | none => s)
      | none => s

/-- A host request is answered with data. -/
def State.hostDone (s : State) (r : HostReq) (data : BitVec 128) : State :=
  let bytes := (leBytes 8 (data.toNat % 2 ^ 64)).zipIdx.map fun x => (r.lane + x.2, x.1)
  match r.eng, r.pull, r.sc with
  | some (bid, k, n), _, _ =>
    (s.modOp bid k n fun op => { op with inbox := op.inbox ++ bytes }).push [.engineOpCompletion bid k n]
  | _, some core, _ =>
    if 2 ^ 64 ≤ r.lane then s.modCore core fun c => { c with pullIn := c.pullIn ++ bytes }
    else if (s.pullHead core s.devNum r.lane).isNone then s
    else (s.modCore core fun c => { c with pullIn := c.pullIn ++ bytes }).push [.copyEnginePull core]
  | _, _, some id => s.scResult id r.lane (some (data.setWidth 64))
  | none, none, none =>
    if r.zero then s.push (s.homeOps.map Event.accessCompletion)
    else match s.accOf r.acc with
    | some a =>
      (match a.parts.find? fun p => p.lane == r.lane && p.st == .sent r.tag with
       | some p => (s.hostData a p data.toNat).settleOn a.who a.id
       | none => s)
    | none => s

/-- What has waited for room at a host port has its turn, once a request of a full port has ended (R149). -/
def State.hostFree (s : State) (r : HostReq) : State :=
  if s.hostRoom r.port 2 then s
  else
    let accs := (s.allAccs.filter fun a => a.parts.any fun p => p.st == .todo && p.pa != 2 ^ 60).map fun a => Event.accessCompletion a.id
    let ops := s.blocks.flatMap fun b => (b.ops.filter fun op => op.begun && op.step == 0).map fun op => Event.engineOpCompletion b.id op.ctx op.num
    s.push (accs ++ ops ++ (s.cores.filter fun x => !x.2.kicks.isEmpty).map fun x => .copyEnginePull x.1)

/-- `HOST_COMPLETION`: a host completion arrives: Unsupported Request on an AtomicOp is 0x29, on a read 0x2A; Completer Abort is
0x2A; a poisoned completion is 0x2D (R458). -/
def execHostCompletion (tag : Nat) (st : HStat) (data : BitVec 128) (s : State) : Host.Outcome State Fault Refusal :=
  .next (match s.hostReqs.find? fun r => r.tag == tag with
  | none => s
  | some r =>
    let s := State.hostFree { s with hostReqs := s.hostReqs.erase r } r
    match st with
    | .ok => s.hostDone r data
    | .ur => s.hostFail r (if r.atomic then 0x29 else 0x2A) 1
    | .ca => s.hostFail r 0x2A 4
    | .poisoned => s.hostFail r 0x2D 0)

/-- `HOST_COMPLETION_TIMEOUT`: a completion that has not come within 50 ms faults with 0x2B (R458). -/
def execHostCompletionTimeout (tag : Nat) (s : State) : Host.Outcome State Fault Refusal :=
  .next (match s.hostReqs.find? fun r => r.tag == tag with
  | none => s
  | some r => if s.gtime < r.time + 50000000 then s else (State.hostFree { s with hostReqs := s.hostReqs.erase r } r).hostFail r 0x2B 0)

/-! ### CXL.cache (R128, R152) -/

/-- `GO_DATA_RESPONSE`: the host grants the proxy home a line: the press that is active gets the tokens, and requests that wait
are answered (R128). DESIGN CHOICE (entry 25): those are all the requests of the dies for the sector that have not completed, also one whose
multicast did not name the home. -/
def execGoDataResponse (port sec : Nat) (st : CxlState) (data : Option Sector) (s : State) : Host.Outcome State Fault Refusal :=
  .next (
    if s.cxlPort sec != some port then s
    else
      let s := match data with | some d => s.setMemSector sec d | none => s
      let s := s.modHome sec fun h => { h with cxl := some st }
      let s := s.push s.homeTurns
      match (s.home sec).active with
      | some m => if (s.home sec).deacting then s else s.pressServe sec m false
      | none =>
        (List.range 8).foldl (fun s d => ((s.die d).reqs.filter fun r => r.sec == sec && !r.pressed).foldl (fun s r =>
          s.answerHome { sec, dst := .home, src := d, write := r.write, t := r.t }) s) s)

/-- `HOST_SNOOP`: the proxy home recalls every token of the sector, writes dirty data back, and answers with the state that the
snoop requires (R128). DESIGN CHOICE (entry 25): after SnpData the line is Shared, and after SnpCur one that was Modified is Exclusive. -/
def execHostSnoop (port sec : Nat) (kind : Snoop) (s : State) : Host.Outcome State Fault Refusal :=
  .next (
    if s.cxlPort sec != some port then s
    else if !(s.allHome sec) then
      { s with homeWait := s.homeWait ++ [(sec, Event.hostSnoop port sec kind)] }.recall sec
    else
      let h := s.home sec
      let s := if h.cxl == some .modified then s.send (.cxl port sec 2 (some (s.memSector sec))) else s
      match kind with
      | .inv => (s.modHome sec fun h => { h with cxl := none }).send (.cxl port sec 5 none)
      | .data => (s.modHome sec fun h => { h with cxl := h.cxl.map fun _ => .shared }).send (.cxl port sec 6 none)
      | .cur =>
        (s.modHome sec fun h => { h with cxl := if h.cxl == some .modified then some .exclusive else h.cxl }).send
          (.cxl port sec 7 (h.cxl.map fun _ => s.memSector sec)))

/-! ### Host accesses to device memory (R149, R153) -/

/-- A little-endian number of a write or an AtomicOp's width. -/
def barWidth (w64 : Bool) : Nat := if w64 then 8 else 4

/-- Performs a host's access to device memory at one instant and answers it (R149, entry 8). -/
def State.barDo (s : State) (port pa : Nat) (req : BarReq) : State :=
  let rmw : Bool → (Nat → Nat) → State := fun w64 f =>
    let n := barWidth w64
    let old := s.rd pa n
    ((s.wrBytes pa (leBytes n (f old % 2 ^ (8 * n)))).healMem pa n).send (.barData port (leBytes n old))
  match req with
  | .read len => s.send (.barData port (s.rdBytes pa len))
  | .write bytes => (s.wrBytes pa bytes).healMem pa bytes.length
  | .fetchAdd w64 v => rmw w64 fun old => old + v.toNat
  | .swap w64 v => rmw w64 fun _ => v.toNat
  | .cas w64 c v => rmw w64 fun old => if old == c.toNat % 2 ^ (8 * barWidth w64) then v.toNat else old

/-- The bytes that an access touches. -/
def BarReq.len (r : BarReq) : Nat :=
  match r with
  | .read n => n
  | .write l => l.length
  | .fetchAdd w _ | .swap w _ | .cas w _ _ => barWidth w

/-- Every one of `n` bytes is of package memory and lies in a range of a host port. -/
def portHolds (l : List (Nat × Nat × Nat)) (port pa n : Nat) : Bool :=
  (List.range n).all fun k => paClass (pa + k) == some .package &&
    l.any fun x => x.1 == port && decide (x.2.1 ≤ pa + k ∧ pa + k < x.2.1 + x.2.2)

/-- The bytes are of package memory that a host port exports through a BAR (R149). -/
def State.barHolds (s : State) (port pa n : Nat) : Bool := portHolds s.bars port pa n

/-- The bytes are of package memory that a host port exports over CXL.mem by one of its 8 HDM decoders (R152). -/
def State.hdmHolds (s : State) (port pa n : Nat) : Bool := portHolds s.hdm port pa n

/-- `BAR_MEMORY_ACCESS`: a PCIe request reaches device memory exported through a BAR (R149). -/
def execBarMemoryAccess (port pa : Nat) (req : BarReq) (s : State) : Host.Outcome State Fault Refusal :=
  .next (if s.barHolds port pa (BarReq.len req) then s.barDo port pa req else s)

/-- `CXL_MEM_ACCESS`: a CXL.mem access of a host port to memory that it exports: the home serves it once all tokens of its sectors are home, recalling them
on a page that the device owns; the host may then hold the sectors (R130, R131, R153). A port that does not run CXL brings none
(R33). -/
def execCxlMemAccess (pa : PortAddr) (req : BarReq) (s : State) : Host.Outcome State Fault Refusal :=
  .next (
    let port := pa.port
    let secs := (List.range ((pa.addr % 64 + BarReq.len req + 63) / 64)).map fun k => pa.addr / 64 + k
    if !s.hdmHolds port pa.addr (BarReq.len req) || !s.cxlPorts.contains port then s
    else match secs.find? fun sec => !(s.allHome sec) with
      | some sec => { s with homeWait := s.homeWait ++ [(sec, Event.cxlMemAccess pa req)] }.recall sec
      | none =>
        let s := s.barDo port pa.addr req
        let s := secs.foldl (fun s sec => s.modHome sec fun h => { h with cxl := some .shared, bisPorts := addNew h.bisPorts port }) s
        -- a MAPCTL.dev of the page, and what else waits at the home, goes on (R131)
        s.push (s.homeOps.map Event.accessCompletion))

end Sys2Proof.Machine
end

