-- ==== Sys2Proof/Machine/Launch.lean ====
section
/-! DEFINITION. Placing launches (R164 to R168, R429), and their end: blocks that retire (R70) and the completion
store (R71, R171, R186). -/

namespace Sys2Proof.Machine

/-! ### Stores by the device -/

/-- A posted write of eight bytes to another device by the device itself (R126, R142). -/
def State.postWord (s : State) (asid pa t : Nat) (v : DWord) : State :=
  let (id, s) := s.newId
  let rid := id % 65536
  let p : VPkt := { kind := 2, esz := 8, dst := fabDev pa, src := s.devNum, ctx := asid, page := pa % 2 ^ 42 / 65536, rid, aop := 0,
                    offs := [BitVec.ofNat 16 (pa % 65536)], data := [v], t }
  let fr : FabReq := { rid, acc := 0, lanes := [], pkt := p, time := s.gtime }
  ({ s.sendPkt p with fabReqs := s.fabReqs ++ [fr] }).timer (s.gtime + 8000) (.fabricRequestTimeout rid)

/-- Stores a word at a virtual address of a context (R171, R429); the port of a host word. A word that cannot be
written receives no store. DESIGN CHOICE (entry 25): a host word goes out as a Memory Write of its port also where the port runs CXL.cache:
the host then snoops what the proxy home holds of it (R128). -/
def State.storeWord (s : State) (asid va : Nat) (v : DWord) : State × Option (Nat × Nat) :=
  match s.xlat asid va .store with
  | .inr _ => (s, none)
  | .inl (pa, e) =>
    if paClass pa == some .host then
      (s.send (.hostWrite (pa / 2 ^ 48 - 1) (pa % 2 ^ 48) (leBytes 8 v.toNat)), some (pa / 2 ^ 48 - 1, pa % 2 ^ 48))
    else if s.place pa == .remote then (s.postWord asid pa (leafT e) v, none)
    else ((s.wrBytes pa (leBytes 8 v.toNat)).healMem pa 8, none)

/-! ### A record that fails (R429) -/

/-- A launch whose record fails at placement: code 0x45, and a valid completion word receives SEQ + 2^63. -/
def State.launchFail (s : State) (asid addr : Nat) (r : LRec) (off mapOff : Nat) : State :=
  let f : FInfo := { code := 0x45, prec := false, agent := 7, addr := BitVec.ofNat 64 addr,
                     detail := [BitVec.ofNat 8 off, 0, 0, 0] ++ leBytes 4 mapOff }
  let s := s.putRecord asid (recordBytes f asid 0 0 0 0 0 0 s.gtime)
  if r.cword == 0 || !addrOk r.cword.toNat then s else (s.storeWord asid r.cword.toNat (r.seq + 0x8000000000000000#64)).1

/-! ### Placement (R164, R165, R168) -/

/-- The units that a placement of a priority may ask to yield, in order: ascending PRI, latest placed first (R168). A
handler gang's placement asks units of other contexts, whatever their PRI (R412). -/
def State.victims (s : State) (ok : Launch → Bool) : List Launch :=
  let l := s.launches.filter fun l => ok l && s.blocks.any fun b => b.launch == l.id
  sortBy (fun x y => decide (x.lrec.pri < y.lrec.pri ∨ (x.lrec.pri = y.lrec.pri ∧ y.id ≤ x.id))) l

/-- The state as if units had left their cores. -/
def State.without (s : State) (ids : List Nat) : State :=
  { s with blocks := s.blocks.filter fun b => !ids.contains b.launch, wheys := s.wheys.filter fun w => !ids.contains w.launch }

/-- Raises yield requests on the shortest leading run of victims that makes room for a launch (R168). -/
def State.askRoom (s : State) (l : Launch) (segs : List (Nat × Nat × List (Nat × Nat × Nat))) (cause : SaveCause)
    (vs : List Launch) : State :=
  match (List.range vs.length).find? fun n => ((s.without ((vs.take (n + 1)).map (·.id))).placeUnit l segs).isSome with
  | none => s
  | some n =>
    let ids := (vs.take (n + 1)).map (·.id)
    s.raiseYield (fun b => ids.contains b.launch) cause

/-- What a candidate's record asks for: its launch and segments, or the offsets of its first bad field (R429). -/
def State.vet (s : State) (d : Nat) (x : Cand) : Sum (Launch × List (Nat × Nat × List (Nat × Nat × Nat))) (Nat × Nat) :=
  match x.2.2 with
  | .emit .. => .inr (0, 0)
  | .launch bytes addr asid add slot node recs =>
    let r := parseRec bytes
    let lrec : LRec := { r with seq := r.seq + BitVec.ofNat 64 add }
    let l : Launch :=
      { id := s.nextId, asid, die := d, queue := x.1, lrec, addr, nblocks := if r.whey then r.wheyTotal else r.blocks,
        slot := slot.map fun i => (i, add), recs }
    match recordBad bytes addr with
    | some o => .inr (o, 0)
    | none =>
      if node.isSome && (r.blocks != 1 || decide (r.vaultk * 1024 < 64 * recs.length)) then .inr (4, 0)
      else if !r.whey then .inl (l, [])
      else match s.readMap asid r.segmap r.wheyTotal with
        | .inr o => .inr (0x60, o)
        | .inl segs =>
          if !(segs.any fun y => decide (y.1 ≤ r.lanepc ∧ r.lanepc < y.1 + 8 * y.2.1)) then .inr (0x30, 0)
          else if segs.any fun y => y.2.2.any fun z => decide (2 ^ 22 < (wheyRegion r z.2.2).size) then .inr (4, 0)
          else .inl (l, segs)

/-- The best saved unit of a die that may return, if it ranks no lower than a priority (R487). -/
def State.backFirst (s : State) (d pri : Nat) : Option SavedUnit :=
  s.saved.find? fun u => u.dies.contains d && s.mayRestore u && decide (pri ≤ s.unitPri u)

/-- `LAUNCH_PLACEMENT`: the die scheduler places the launch that it chooses, whole, or holds it and asks for room (R164,
R165, R168). A saved unit that may return goes ahead of launches of its PRI and below (R487). At level 0, and during an
evacuation, nothing is placed; at level 1 the schedulers of all dies place, on dies 0 and 1 (R389, R394). -/
def execLaunchPlacement (die : Nat) (s : State) : Host.Outcome State Fault Refusal :=
  .next (
    if s.level == 0 || !s.powered || s.evacPhase != 0 then s
    else
      let s := s.notBefores die
      match s.choose die with
      | none => s
      | some x =>
        match s.backFirst die x.2.1 with
        | some u => (match s.restore u with | some s => s.push [.launchPlacement die] | none => s)
        | none =>
          match s.vet die x with
          | .inr (o, m) =>
            (match x.2.2 with
             | .launch bytes addr asid _ _ _ _ => ((s.dequeue die x).launchFail asid addr (parseRec bytes) o m).push [.launchPlacement die]
             | .emit .. => s)
          | .inl (l, segs) =>
            let s1 : State := { s with nextId := s.nextId + 1 }
            match s1.placeUnit l segs with
            | some s' =>
              let s' := s'.dequeue die x
              (s'.modDie die fun y => { y with lastOf := mset y.lastOf x.1 l.id }).push [.launchPlacement die]
            | none =>
              let s := s.modDie die fun y => { y with chosen := addNew y.chosen x.1 }
              s.askRoom l segs (.higherPri x.2.1) (s.victims fun v => decide (v.lrec.pri + 2 ≤ x.2.1)))

/-! ### Retirement (R65, R70, R182) -/

/-- The devices and host ports that a block's issuers have posted to since their last release (R86). -/
def Block.posts (b : Block) : List Nat × Bool × List (Nat × Nat) :=
  let sls := b.gangs.flatMap (·.slices)
  ((b.seq.devs ++ b.gangs.flatMap (·.devs) ++ sls.flatMap (·.devs)).foldl addNew [],
   b.seq.devOvf || b.gangs.any (·.devOvf) || sls.any (·.devOvf),
   (b.seq.hostWr ++ b.gangs.flatMap (·.hostWr) ++ sls.flatMap (·.hostWr)).foldl (fun m x => mset m x.1 x.2) [])

/-- A block has ended: its streams, its gangs, its accesses and its engine operations (R65, R70). -/
def Block.ended (b : Block) : Bool :=
  b.seq.ended && b.halt.isNone && b.accs.isEmpty && b.ops.isEmpty && b.gangs.all (·.retired)

/-- `BLOCK_RETIREMENT`: the block's places return to its core, and its launch counts it (R64, R70). -/
def execBlockRetirement (bid : Nat) (s : State) : Host.Outcome State Fault Refusal :=
  .next (match s.blk bid with
  | none => s
  | some b =>
    if !b.ended then s
    else
      let p := b.posts
      let s : State := { s with
        blocks := s.blocks.filter fun x => x.id != bid
        launches := modWhere (fun l => l.id == b.launch) (fun l =>
          { l with retired := l.retired + 1, devs := p.1.foldl addNew l.devs, devOvf := l.devOvf || p.2.1,
                   hostWr := p.2.2.foldl (fun m x => mset m x.1 x.2) l.hostWr }) s.launches }
      let s := if b.leaveHeld || !b.leaves.isEmpty then s.push [.leaveGrant (dieOf b.core)] else s
      let s := if b.whey.isSome then s.push [.wheyArrival b.core] else s
      let s := if b.yreq then s.push ((s.unit b.launch).map fun x => .unitSave x.id) else s
      (s.push [.launchCompletion b.launch]).wakeSched)

/-! ### Completion (R71, R171, R186) -/

/-- The issuer under whose name a launch's completion release waits. -/
def launchWho (l : Nat) : Issuer := ⟨l, 17, 9⟩

/-- Sends the markers and zero-length reads of a completion's release (R71, R85). -/
def State.complSend (s : State) (l : Launch) : State :=
  let sc := l.lrec.cscope
  let devs := if l.devOvf then s.members.filter fun d => d != s.devNum else l.devs
  let s := if 4 ≤ sc then devs.foldl (fun s d => s.sendMarker (launchWho l.id) 0 d) s else s
  if sc != 5 then s
  else l.hostWr.foldl (fun s x =>
    let tag := s.freeTag
    let s := s.send (.hostRead x.1 tag x.2 0)
    let hr : HostReq := { tag, acc := 0, lane := 0, port := x.1, addr := x.2, atomic := false, zero := true, who := launchWho l.id, time := s.gtime }
    { s with hostReqs := s.hostReqs ++ [hr] }) s

/-- The markers and zero-length reads of a launch are still out. -/
def State.complWaits (s : State) (l : Nat) : Bool :=
  (s.markersOut.any fun m => m.who == launchWho l) || s.hostReqs.any fun h => h.zero && h.who == launchWho l

/-- The host ports have room for the zero-length reads of a launch's completion (R149). -/
def State.complRoom (s : State) (l : Launch) : Bool :=
  l.phase == 2 || l.lrec.cscope != 5 || (List.range 2).all fun p => s.hostRoom p 1

/-- Sets how far a launch's completion has come. -/
def State.complPhase (s : State) (l n : Nat) : State :=
  { s with launches := modWhere (fun x => x.id == l) (fun x => { x with phase := n }) s.launches }

/-- The completion store of a launch is made: the firing of an entry that is held behind it is queued (R161). -/
def State.slotStored (s : State) (l : Launch) : State :=
  match l.slot with
  | some (i, k) => State.slotRelease { s with slotDone := mset s.slotDone i (k, s.gtime) } i
  | none => s

/-- The launch has completed: its cores, the firings and units that waited for it (R161, R186, R487). -/
def State.complEnd (s : State) (l : Launch) : State :=
  let s : State := { s with launches := s.launches.filter fun x => x.id != l.id }
  let s := s.unpin l.id
  s.wakeSched

/-- The MSI-X message that follows a completion store (R171). -/
def State.complMsix (s : State) (l : Launch) (port : Nat) : State := if l.lrec.msix then s.send (.msix port l.lrec.msixv) else s

/-- `LAUNCH_COMPLETION`: when every block has retired, the release of R71 is made, the completion word is stored, and
the MSI-X message follows (R171). -/
def execLaunchCompletion (n : Nat) (s : State) : Host.Outcome State Fault Refusal :=
  .next (match s.launches.find? fun l => l.id == n with
  | none => s
  | some l =>
    if l.retired < l.nblocks || !s.complRoom l then s
    else if l.handler then s.complEnd l
    else
      let s := if l.phase == 0 then (s.complSend l).complPhase n 1 else s
      if s.complWaits n then s
      else if l.phase == 2 then
        (s.complMsix l (match l.hostWr with | x :: _ => x.1 | [] => 0)).complEnd l
      else
        let r := s.storeWord l.asid l.lrec.cword.toNat l.lrec.seq
        let r := (r.1.slotStored l, r.2)
        match r.2 with
        | none => (r.1.complMsix l 0).complEnd l
        | some (port, addr) =>
          if l.lrec.cscope != 5 then (r.1.complMsix l port).complEnd l
          else
            let hw : List (Nat × Nat) := [(port, addr)]
            let s : State := { r.1 with launches := modWhere (fun x => x.id == n) (fun x => { x with phase := 2, hostWr := hw }) r.1.launches }
            let tag := s.freeTag
            let s := s.send (.hostRead port tag addr 0)
            let hr : HostReq := { tag, acc := 0, lane := 0, port, addr, atomic := false, zero := true, who := launchWho n, time := s.gtime }
            { s with hostReqs := s.hostReqs ++ [hr] })

end Sys2Proof.Machine
end

