-- ==== Sys2Proof/Machine/Network.lean ====
section
/-! DEFINITION. The networks between the parts of the device: the on-die Clos and its turning, the cave mesh and the base dies
(R132 to R139), on which the messages of `State.work` travel before their steps are due; and the packets of the Kazath links
(R140, R144). -/

namespace Sys2Proof.Machine

/-! ### The wiring of a plane (R132) -/

/-- S2 switch `j` has a link to S3 switch `t`. -/
def s3Linked (t j : Nat) : Bool := (t + 14 - j) % 7 != 6

/-- The port of S3 switch `t` whose link comes from S2 switch `j`, and the S2 switch of its port `p`: its twelve links in the order
of the S2 switches. -/
def s3Port (t j : Nat) : Nat := ((List.range j).filter (s3Linked t)).length
def s3Peer (t p : Nat) : Nat := ((List.range 14).filter (s3Linked t)).getD p 0

/-- Where the link from an output port of a switch ends: a switch and its input port. Ports 0 to 5 of S1 are its leaves and 6 to 11
its up ports; ports 0 to 5 of S2 are its down ports and 6 to 11 its up ports (R132). -/
def linkEnd : Sw → Nat → Sw × Nat
  | .s1 n, p => (.s2 (2 * (n / 2) + (p - 6) / 3), 3 * (n % 2) + (p - 6) % 3)
  | .s2 j, p =>
    if p < 6 then (.s1 (2 * (j / 2) + p / 3), 6 + 3 * (j % 2) + p % 3)
    else (.s3 ((j + p - 6) % 7), s3Port ((j + p - 6) % 7) j)
  | .s3 t, p => (.s2 (s3Peer t p), 6 + (t + 14 - s3Peer t p) % 7)

/-- The leaf of a port of an S1 switch. -/
def leafAt (n p : Nat) : Nat := 6 * n + p

/-- The directed switch-to-switch links of a plane, each by the switch and the output port at which it begins. -/
def planeLinks : List (Sw × Nat) :=
  ((List.range 14).flatMap fun n => (List.range 6).map fun p => (Sw.s1 n, 6 + p)) ++
  ((List.range 14).flatMap fun n => (List.range 12).map fun p => (Sw.s2 n, p)) ++
  ((List.range 7).flatMap fun n => (List.range 12).map fun p => (Sw.s3 n, p))

/-! ### Routing (R134, R138, R139) -/

/-- The free credit of an input buffer, which holds 9 flits (R134). -/
def State.bufFree (s : State) (die plane : Nat) (b : Sw × Nat) : Nat :=
  9 - ((s.net.filter fun p => p.plane == plane && p.pos == .buf die b.1 b.2).map (·.flits)).sum

/-- The up port with the most free buffer credit, ties going to the lower number (R134). -/
def State.upPort (s : State) (die plane : Nat) (sw : Sw) : Nat :=
  (List.range 5).foldl (fun best k =>
    if s.bufFree die plane (linkEnd sw best) < s.bufFree die plane (linkEnd sw (7 + k)) then 7 + k else best) 6

/-- The output port of a switch toward a leaf: `none` where the switch delivers to the leaf itself (R134). DESIGN CHOICE (entry 3): inside
a pod, where the rule fixes no up port, a packet takes the one with the most free credit, as it does on the way to another pod. -/
def State.outPort (s : State) (die plane : Nat) (sw : Sw) (leaf : Nat) : Option Nat :=
  let m := leaf / 6
  match sw with
  | .s1 n => if n == m then none else some (s.upPort die plane sw)
  | .s2 j => some (if j / 2 == m / 2 then 3 * (m % 2) + leaf % 6 % 3 else s.upPort die plane sw)
  | .s3 t => some (s3Port t (if s3Linked t (2 * (m / 2)) then 2 * (m / 2) else 2 * (m / 2) + 1))

/-- The next vault of a cave mesh: first along the row, then along the column (R138). -/
def meshNext (k d : Nat) : Nat :=
  if k % 8 < d % 8 then k + 1 else if d % 8 < k % 8 then k - 1 else if k / 8 < d / 8 then k + 8 else k - 8

/-- The plane of a packet that goes to a place: one that enters a die from a base die takes the next plane of its bridge leaf's
rotation (R133, R139). -/
def NetPkt.enters (p : NetPkt) (n : NetPos) : Option Nat :=
  match p.pos, p.src, n with
  | .base _, _, .buf d .. | .src, .base _, .buf d .. => some (128 * d + 80 + p.bridge)
  | _, _, _ => none

/-- Where a packet enters the base dies' crossbars' part of its way, or its destination's die: from a crossbar (R139). -/
def NetPkt.fromBase (p : NetPkt) (b : Nat) : NetPos :=
  match p.dst with
  | .base b' => if b' == b then .here else .base b'
  | .leaf d _ => if d / 2 == b then .buf d (.s1 ((80 + p.bridge) / 6)) ((80 + p.bridge) % 6) else .base (d / 2)
  | .vault .. => .here

/-- The leaf of a die that a packet makes for: its destination, or the vertical bridge by which it leaves (R139). -/
def NetPkt.leafOn (p : NetPkt) (die : Nat) : Nat :=
  match p.dst with
  | .leaf d n => if d == die then n else 80 + p.bridge
  | _ => 80 + p.bridge

/-- A store packet has come to its L2 slice before an earlier one of the same slice, and is held there (R135). -/
def State.early (s : State) (k : Nat) : Bool :=
  match s.net[k]? with
  | some p => p.seq.isSome && (s.net.take k).any fun q => q.seq.isSome && q.who == p.who && q.dst == p.dst && q.pos != .here
  | none => false

/-- Where packet `k` goes next (R134, R138, R139). A store packet waits at its L2 slice for its turn (R135). -/
def State.netNext (s : State) (k : Nat) (p : NetPkt) : NetPos :=
  let at1 : NetPos → NetPos := fun x => if x == .here && s.early k then .held else x
  match p.pos with
  | .src =>
    (match p.src with
     | .leaf d n => .buf d (.s1 (n / 6)) (n % 6)
     | .base b => p.fromBase b
     | .vault d v => .mesh d v)
  | .buf d sw _ =>
    (match s.outPort d p.plane sw (p.leafOn d) with
     | some o => let e := linkEnd sw o; .buf d e.1 e.2
     | none => if p.dst == .leaf d (p.leafOn d) then at1 .here else .base (d / 2))
  | .base b => p.fromBase b
  | .mesh d v => (match p.dst with | .vault _ v' => if v == v' then .here else .mesh d (meshNext v v') | _ => .here)
  | .held => at1 .here
  | .here => .here

/-- The network cycle count (R7, R136): a network cycle is 5/7 of a nanosecond. -/
def State.netCycle (s : State) : Nat := s.net7 / 5

/-- No packet starts across a link of a Clos: the cycles before turning, and turning itself (R136). -/
def State.netStopped (s : State) : Bool := decide (65440 ≤ s.netCycle % 65536 ∧ s.netCycle % 65536 < 65520)

/-- The cycles after turning, in which only displaced packets are routed (R136). -/
def State.netReroutes (s : State) : Bool := decide (65520 ≤ s.netCycle % 65536)

/-- A packet may start across a link of a Clos in this cycle: none while turning is due or goes on (R136). -/
def State.mayStart (s : State) (p : NetPkt) : Bool :=
  !s.netStopped && (!s.netReroutes || p.displaced) && !(s.work.any fun e => match e with | .turning _ => true | _ => false)

/-- The plane in which a packet goes to a place (R133). -/
def State.planeAt (s : State) (p : NetPkt) (n : NetPos) : Nat :=
  match p.enters n with
  | some lane => mgetD s.planes lane 0
  | none => p.plane

/-- A packet is at a switch of a die. -/
def NetPos.onDie : NetPos → Bool
  | .buf .. => true
  | _ => false

/-- The switch at which a packet is. -/
def NetPkt.switch (p : NetPkt) : Option (Nat × Sw) :=
  match p.pos with
  | .buf d sw _ => some (d, sw)
  | _ => none

/-- Packet `k` can cross its next link: it is wholly where it is (R134); there is room for it; it overtakes no packet between the same
two ends of a mesh (R138); and no displaced packet wins the same link (R137). -/
def State.canHop (s : State) (k : Nat) : Bool :=
  match s.net[k]? with
  | none => false
  | some p =>
    let n := s.netNext k p
    n != p.pos && p.pos != .here &&
    (!(p.pos.onDie || n.onDie) || s.mayStart p) &&
    (match n with | .buf d sw i => decide (p.flits ≤ s.bufFree d (s.planeAt p n) (sw, i)) | _ => true) &&
    (match p.dst with
     | .vault .. => !((s.net.take k).any fun q => q.src == p.src && q.dst == p.dst && 
         (q.pos == p.pos || (n == .here && (q.pos != .here || s.work.contains q.ev))))
     | _ => true) &&
    (p.displaced || n == .held ||
      !(s.net.zipIdx.any fun q => q.1.displaced && s.netNext q.2 q.1 == n && s.planeAt q.1 n == s.planeAt p n &&
        (n.onDie || (q.1.switch == p.switch && q.1.dst == p.dst))))

/-- The rotation of a leaf goes on (R133). -/
def nextPlane (m : List (Nat × Nat)) (lane : Nat) : List (Nat × Nat) := mset m lane ((mgetD m lane 0 + 1) % 16)

/-- Packet `k` crosses its next link. -/
def State.hop (s : State) (k : Nat) : State :=
  if s.canHop k then
    { s with
      net := s.net.mapIdx fun i p =>
        if i == k then let n := s.netNext k p; { p with pos := n, plane := s.planeAt p n, displaced := p.displaced && n != .here } else p
      planes := match (s.net[k]?).bind fun p => p.enters (s.netNext k p) with
        | some lane => nextPlane s.planes lane
        | none => s.planes }
  else s

/-! ### The messages that travel -/

/-- The base die of a sector's home (R107, R126). -/
def homeBase (sec : Nat) : Nat :=
  match homeClass sec with
  | 4 => 0
  | 5 => 3
  | 6 => homeClass (memAddr (sec * 64) / 64) % 4
  | n => n

/-- The place of a token holder on this device: the L2 slice of a die, or the home's base die. -/
def State.netHolder (s : State) (sec : Nat) : Holder → Option NetEnd
  | .l2 a => (s.agentDie sec a).map fun d => .leaf d (64 + l2Slice (sec * 64))
  | .home => if s.homeHere sec then some (.base (homeBase sec)) else none

/-- The L1 may serve the access (R79). -/
def AccKind.l1 : AccKind → Bool
  | .load _ | .ldc => true
  | _ => false

/-- The way of a packet on the device's networks: its two ends, and its vertical bridge (R139). -/
abbrev NetWay := NetEnd × NetEnd × Nat

/-- The ways of an access as it leaves its core: to each vault of another core that its lanes name, over the cave network (R74, R138),
or to each L2 slice of its own die that they name, where its L1 does not serve them (R79, R107). -/
def State.accWays (s : State) (a : Access) : List NetWay :=
  let core := s.coreOfAcc a
  let d := dieOf core
  let ways := a.parts.filterMap fun p =>
    if a.path == 1 then some (NetEnd.vault d (core % 64), NetEnd.vault d (s.vaultCore d p.addr), 0)
    else if !a.kind.walks || (a.kind.l1 && ((s.core core).l1Find a.asid p.addr).isSome) then none
    else match s.xlatAt d a.asid p.addr a.kind.want with
      | .inl (pa, _) => if s.place pa == .tokens then some (.leaf d (core % 64), .leaf d (64 + l2Slice pa), 0) else none
      | .inr _ => none
  if a.path == 1 || a.parts.all fun p => p.st == .todo then ways.foldl addNew [] else []

/-- The ways of a message that travels on the device's networks, with the vertical bridge PA[9:8] of its destination, or for a kick
notice its destination core modulo 4 (R139). A message from or to another device or the host is at a port of a base die, and its way to
or from it is part of its way outside the device (entry 3). -/
def State.netWays (s : State) (e : Event) : List NetWay :=
  let between : Nat → Holder → Holder → List NetWay := fun sec x y =>
    match s.netHolder sec x, s.netHolder sec y with
    | some a, some b => if a == b then [] else [(a, b, sec / 4 % 4)]
    | _, _ => []
  match e with
  | .tokenArrival m | .writeBack m => between m.sec m.src m.dst
  | .transientRequest m => between m.sec (.l2 m.src) m.dst
  | .pressRequest m => between m.sec m.src .home
  | .pressActivation a m => between m.sec .home (.l2 a)
  | .pressDeactivation sec src => between sec src .home
  | .pressClear a sec | .census a sec _ => between sec .home (.l2 a)
  | .pressAcknowledgement a sec _ => between sec (.l2 a) .home
  | .kickNoticeArrival n =>
    if n.sdev == s.devNum && n.tcore != n.score then
      [(.leaf (dieOf n.score) (n.score % 64), .leaf (dieOf n.tcore) (n.tcore % 64), n.tcore % 4)]
    else []
  | .accessCompletion a => match s.accOf a with | some a => s.accWays a | none => []
  | _ => []

/-- The flits of a message: two with a sector, one without (entry 3). -/
def Event.flits : Event → Nat
  | .tokenArrival m | .writeBack m => if m.data.isSome then 2 else 1
  | _ => 1

/-- The access stores to global memory by a store packet (R135). -/
def AccKind.storePkt : AccKind → Bool
  | .store | .storeNc | .stcw _ => true
  | _ => false

/-- The issuing slice of a store packet (R135). -/
def State.storeOf (s : State) (e : Event) : Option Issuer :=
  match e with
  | .accessCompletion a => (s.accOf a).bind fun x => if x.kind.storePkt then some x.who else none
  | _ => none

/-- The number under which a slice's store packets toward an L2 slice are counted (R135). -/
def seqKey (w : Issuer) (leaf : Nat) : Nat := (w.blk * 4096 + w.gang * 16 + w.slice) * 128 + leaf

/-- A packet sets out on its way: in the next plane of its source leaf's rotation (R133; the model's begins at plane 0, entry 3), and a
store packet with the next sequence number of its slice toward its L2 slice (R135). -/
def State.setOutOn (s : State) (e : Event) (x : NetWay) : State :=
  let lane := match x.1 with | .leaf d n => some (128 * d + n) | _ => none
  let p : NetPkt := { ev := e, plane := match lane with | some k => mgetD s.planes k 0 | none => 0, flits := Event.flits e,
                      src := x.1, dst := x.2.1, bridge := x.2.2 }
  let key : Option (Issuer × Nat) := match s.storeOf e, x.2.1 with | some w, .leaf _ n => some (w, seqKey w n) | _, _ => none
  { s with
    planes := match lane with | some k => nextPlane s.planes k | none => s.planes
    net := s.net ++ [match key with | some (w, k) => { p with who := some w, seq := some (BitVec.ofNat 6 (mgetD s.seqs k 0)) } | none => p]
    seqs := match key with | some (_, k) => mset s.seqs k ((mgetD s.seqs k 0 + 1) % 64) | none => s.seqs }

/-- A due step sets out as a packet, or, where its lanes go to several vaults or L2 slices, as one to each. -/
def State.setOut (s : State) (e : Event) : State := (s.netWays e).foldl (fun s x => s.setOutOn e x) s

/-- A packet stands for a step that is due, or has brought an access to where it is performed. -/
def State.keepsPkt (s : State) (p : NetPkt) : Bool :=
  s.work.contains p.ev || (match p.ev with | .accessCompletion a => p.pos == .here && (s.accOf a).isSome | _ => false)

/-- Every due step that travels has its packet, and no other step has one. -/
def State.syncNet (s : State) : State :=
  let s := if s.net.isEmpty then s else { s with net := s.net.filter s.keepsPkt }
  s.work.foldl (fun s e => if s.net.any fun p => p.ev == e then s else s.setOut e) s

/-- A due step has come to where it is taken. -/
def State.arrived (s : State) (e : Event) : Bool := s.net.all fun p => p.ev != e || p.pos == .here

/-! ### Turning (R136) -/

/-- A number that stands for a switch in `Config.turnWalk`. -/
def swNum : Sw → Nat × Nat
  | .s1 n => (1, n)
  | .s2 n => (2, n)
  | .s3 n => (3, n)

/-- The turning walk of a plane (R136): a free value (entry 6), which is a walk only if it takes every link once and each link begins
where the one before it ends. -/
def turnLinks (plane : Nat) : List (Sw × Nat) :=
  (Config.turnWalk plane).filterMap fun x => planeLinks.find? fun l => swNum l.1 == (x.1, x.2.1) && l.2 == x.2.2

/-- A list of links is a turning walk (R136). -/
def walkOk (l : List (Sw × Nat)) : Bool :=
  l.length == planeLinks.length && planeLinks.all l.contains &&
    (l.zip (l.drop 1 ++ l.take 1)).all fun x => (linkEnd x.1.1 x.1.2).1 == x.2.1

/-- The buffer to which the contents of an input buffer move: that of the link after its own in the walk. The buffers of leaves take
no part (R136, R137). -/
def turnTo (walk : List (Sw × Nat)) (b : Sw × Nat) : Option (Sw × Nat) :=
  ((walk.zip (walk.drop 1 ++ walk.take 1)).find? fun x => linkEnd x.1.1 x.1.2 == b).map fun x => linkEnd x.2.1 x.2.2

/-- A packet after turning: moved along its plane's walk and displaced, to be routed afresh from its new switch (R136, R137). -/
def NetPkt.turn (die : Nat) (p : NetPkt) : NetPkt :=
  match p.pos with
  | .buf d sw i =>
    let w := turnLinks p.plane
    if d == die && walkOk w then
      match turnTo w (sw, i) with
      | some b => { p with pos := .buf d b.1 b.2, displaced := true }
      | none => p
    else p
  | _ => p

/-- `TURNING`: the whole contents of each input buffer of a die move to the buffer of the next link in the walk (R136). -/
def execTurning (die : Nat) (s : State) : Host.Outcome State Fault Refusal :=
  .next ({ s with net := s.net.map (NetPkt.turn die) }.modDie die fun x => { x with turns := x.turns + 1 })

/-- The turnings that fall due as the network's count goes from one time to another (R136). -/
def turnsDue (before after : Nat) : List Event :=
  if before / 5 % 65536 < 65456 && 65456 ≤ after / 5 % 65536 then (List.range 8).map .turning else []

/-! ### Packets of the Kazath links (R140, R144, R145) -/

/-- A full header (R144). -/
def fullHeader (p : VPkt) : BitVec 128 :=
  p.kind ++ 0#1 ++ BitVec.ofNat 2 (eszCode p.esz) ++ BitVec.ofNat 5 (p.offs.length - 1) ++ BitVec.ofNat 6 p.scx ++ BitVec.ofNat 9 p.dst ++
    BitVec.ofNat 9 p.src ++ BitVec.ofNat 12 p.ctx ++ BitVec.ofNat 26 p.page ++ BitVec.ofNat 16 p.rid ++ p.aop ++ 0#33

/-- A compressed header (R144). -/
def shortHeader (p : VPkt) : BitVec 32 :=
  p.kind ++ 1#1 ++ BitVec.ofNat 2 (eszCode p.esz) ++ BitVec.ofNat 6 p.scx ++ BitVec.ofNat 5 (p.offs.length - 1) ++ p.aop ++ 0#1 ++ p.delta

/-- The bytes of a vector packet as it crosses a link, little-endian (R5, R144): its header, with the RID after a compressed one of a
request; the offsets; and the data. Of an atomic with a comparison value, that value follows the operand (entry 26). -/
def pktBytes (p : VPkt) : List Byte :=
  (if p.compressed then leBytes 4 (shortHeader p).toNat ++ (if p.kind == 1 || p.kind == 2 || p.kind == 3 then leBytes 2 p.rid else [])
   else leBytes 16 (fullHeader p).toNat) ++
  p.offs.flatMap (fun x => leBytes 2 x.toNat) ++ p.data.flatMap (fun x => leBytes p.esz x.toNat) ++ p.cmp.flatMap fun x => leBytes p.esz x.toNat

/-- The flits of 256 bytes that packets take, packed one after another at 8-byte granularity (R140). -/
def kazathFlits (l : List Nat) : Nat := ((l.map fun n => (n + 7) / 8 * 8).sum + 255) / 256

/-- The base die of a Kazath port (R13, R32). -/
def kazathBase (p : Nat) : Nat := p / 12

/-- The bytes of a message of the fabric that has no vector header; a notice and a vector packet are as R144 lays them out, and of the
others, whose layout the rules do not give, the model counts 16 bytes and their data (entry 3). -/
def outBytes : OutMsg → Nat
  | .fabric p => (pktBytes p).length
  | .fabResp _ _ _ l => 16 + 8 * l.length
  | .token _ m => 16 + (match m.data with | some _ => 64 | none => 0)
  | _ => 16

/-- The flits that the messages which have gone out by a Kazath port take, packed one after another (R140). -/
def State.portFlits (s : State) (port : Nat) : Nat :=
  kazathFlits (((List.range s.outs.length).filter fun i => (s.outPath i).head? == some port).map fun i => (s.outs[i]?).elim 0 outBytes)

/-- The lateral crossing that a message sent from a base die makes on its way to its Kazath port (R139): the two base dies, if they are
not one. -/
def State.outCross (s : State) (b i : Nat) : Option (Nat × Nat) :=
  ((s.outPath i).head?).bind fun p => if kazathBase p == b then none else some (b, kazathBase p)

end Sys2Proof.Machine
end

