-- ==== Sys2Proof/Machine/Platform.lean ====
section
/-! DEFINITION. Device registers and the platform: time (R162), register writes (R157, R161, R189, R390, R403 to R405, R424,
R457), service levels, boot and firmware (R387 to R391, R478 to R481), identity and management (R386, R392), evacuation (R393 to
R396, R482), and the loss of the main supply (R485). -/

namespace Sys2Proof.Machine

/-! ### Registers of contexts, and time -/

/-- `CX_YREQ`: a yield request on a context is raised or cleared (R168, R487). -/
def execCxYreq (asid : Nat) (v : DWord) (s : State) : Host.Outcome State Fault Refusal := .next (s.cxWrite (asid % 4096) 0x105 v)

/-- `CX_HALT`: a context's units are halted or released (R411, R487). -/
def execCxHalt (asid : Nat) (v : DWord) (s : State) : Host.Outcome State Fault Refusal := .next (s.cxWrite (asid % 4096) 0x11F v)

/-- `DV_GTIME_SET`: a value not below %gtime steps it forward; a lower one is the time of the next pulse (R162).
DESIGN CHOICE (entry 31): a step forward ends a slew that is in progress. -/
def execDvGtimeSet (v : DWord) (s : State) : Host.Outcome State Fault Refusal :=
  .next (if s.gtime ≤ v.toNat then { s with gtime := v.toNat, slew := 0, slewAcc := 0 } else { s with gtimeTod := v })

/-- `PPS_PULSE`: %gtime is compared with the delivered time, and the difference is slewed away (R162). -/
def execPpsPulse (s : State) : Host.Outcome State Fault Refusal :=
  .next { s with slew := (s.gtimeTod.toNat : Int) - s.gtime, slewAcc := 0 }

/-! ### Counters, rings and device registers -/

/-- `OVF_CLEAR`: OVF of a fault ring is cleared (R403, R404). -/
def execOvfClear (r : RingRef) (s : State) : Host.Outcome State Fault Refusal :=
  .next (match r with
  | .cx asid => s.setCx asid 0x117 (s.cxr asid 0x117 &&& ~~~16)
  | .dev => { s with fltCtl := s.fltCtl &&& ~~~16 })

/-- `ERROR_COUNTER_CLEAR`: an error counter is cleared (R405). -/
def execErrorCounterClear (r : DvReg) (s : State) : Host.Outcome State Fault Refusal :=
  .next (match errKey r with
  | some k => { s with errs := mdel s.errs k }
  | none => s)

/-- No unit is resident on a die: it holds no block, and no record of a whey slice lies at its cores (R180, R389, R391). -/
def State.dieIdle (s : State) (d : Nat) : Bool :=
  !(s.blocks.any fun b => dieOf b.core == d) &&
    s.cores.all fun x => dieOf x.1 != d || (x.2.arrivals.isEmpty && x.2.staged.isEmpty)

/-- No unit is resident. -/
def State.noUnits (s : State) : Bool := s.blocks.isEmpty && s.cores.all fun x => x.2.arrivals.isEmpty && x.2.staged.isEmpty

/-- The evacuation begins when GO is written and none is under way (R393, R394): the device holds its rings and its slot table. -/
def State.evacBegin (s : State) (v : DWord) : State :=
  let ndev := fld v 48 9
  if v.getLsbD 63 then
    if s.evacPhase != 0 then s
    else
      let s := { s with evacCtl := BitVec.ofNat 64 (ndev * 2 ^ 48), evacErr := 0, evacPhase := 1, evacStart := s.gtime }
      if !s.members.contains ndev then s.push [.evacFailure 1] else s.push [.evacCopying]
  else if s.evacPhase == 0 then { s with evacCtl := BitVec.ofNat 64 (ndev * 2 ^ 48) }
  else s

/-- `EVAC_GO`: a write of DV_EVAC_CTL (R393, R394). -/
def execEvacGo (v : DWord) (s : State) : Host.Outcome State Fault Refusal := .next (s.evacBegin v)

/-- The value that a slot-table entry takes; reserved bits stay zero (R6, R161). -/
def slotMask (v : BitVec 256) : BitVec 256 := v &&& ~~~((0x1F : BitVec 256) <<< 176) &&& ~~~((0xFF : BitVec 256) <<< 184)

/-- A write of a device register that has no row of its own. -/
def State.dvWrite (s : State) (r : DvReg) (v : BitVec 256) : State :=
  let w : Word := v.setWidth 32
  let d : DWord := v.setWidth 64
  match r with
  | .qbind die q =>
    if die < 8 && q < 512 then
      (s.modDie die fun x => { x with qbind := mset x.qbind q (w &&& 0xE0000FFF) }).push [.entryGrant die q, .launchPlacement die]
    else s
  | .qctl die q =>
    if die < 8 && q < 512 then
      (s.modDie die fun x => { x with qctl := mset x.qctl q (w &&& 0xFFFFFF80) }).push [.entryGrant die q, .launchPlacement die]
    else s
  | .slot i =>
    if i < 256 then
      let e := slotMask v
      let s := { s with slots := msetD s.slots i e 0, slotDone := mdel s.slotDone i }
      if e.getLsbD 183 then s.timer (max (e.extractLsb' 64 64).toNat s.gtime) (.slotFiring i) else s
    else s
  | .gtimeTod => { s with gtimeTod := d }
  | .leaveLimit die => if die < 8 then (s.modDie die fun x => { x with gov := { x.gov with limit := w.toNat } }).push [.leaveGrant die] else s
  | .saveDrain => { s with saveDrain := w }
  | .fltBase => { s with fltBase := d &&& 0x0000FFFFFFFFFFC0 }
  | .fltCtl => { s with fltCtl := fltCtlWrite s.fltCtl d 0xFFE00000 }
  | .tokrcTimeout => { s with tokrcTimeout := if w.toNat < 5000 then 5000 else w }
  | .evacCtl => s.evacBegin d
  | r => match errKey r with
    | some k => if v == 0 then { s with errs := mdel s.errs k } else s
    | none => s

/-- DV_SERVICE_LEVEL (R388). -/
def State.serviceLevel (s : State) : Word := BitVec.ofNat 32 (4 * s.cap.toNat + s.level.toNat)

/-- DV_EVAC_STAT (R393). -/
def State.evacStat (s : State) : Word :=
  BitVec.ofNat 32 ((if s.evacPhase == 0 then 0 else min ((s.gtime - s.evacStart) / 10000000) 0xFFFF) * 65536 + s.evacPhase)

/-- What a read of a device register over a management transport, or by a supervisor, gives (R392, R404, R405). The opcode table has no row
for such a read, and the rules give no index under which RDSR names a device register (entry 19). -/
def State.dvRead (s : State) (r : DvReg) : BitVec 256 :=
  match r with
  | .qbind die q => (mgetD (s.die die).qbind q 0).setWidth 256
  | .qctl die q => (mgetD (s.die die).qctl q 0).setWidth 256
  | .slot i => s.slotOf i
  | .gtimeTod => s.gtimeTod.setWidth 256
  | .leaveLimit die => BitVec.ofNat 256 (s.die die).gov.limit
  | .saveDrain => s.saveDrain.setWidth 256
  | .fltBase => s.fltBase.setWidth 256
  | .fltCtl => s.fltCtl.setWidth 256
  | .tokrcTimeout => s.tokrcTimeout.setWidth 256
  | .evacCtl => s.evacCtl.setWidth 256
  | .evacStat => s.evacStat.setWidth 256
  | .evacErr => s.evacErr.setWidth 256
  | .platFail => s.platFail.setWidth 256
  | .fwStat => BitVec.ofNat 256 (256 * s.fwTries.toNat + s.fwState.toNat)
  | .serviceLevel => s.serviceLevel.setWidth 256
  | .tokrcCnt => s.tokrcCnt.setWidth 256
  | .tokrcStale => s.tokrcStale.setWidth 256
  | r => match errKey r with
    | some k => (mgetD s.errs k 0).setWidth 256
    | none => 0

/-- `REGISTER_WRITE`: management or supervisor software writes a register that has no row of its own (R157, R161, R189, R390,
R404, R405, R424, R457). -/
def execRegisterWrite (r : RegTarget) (v : BitVec 256) (s : State) : Host.Outcome State Fault Refusal :=
  .next (match r with
  | .cx asid idx => if asid < 4096 && (cxPriv idx || idx == 0x10C || idx == 0x110) then s.cxWrite asid idx (v.setWidth 64) else s
  | .dv r => s.dvWrite r v)

/-! ### Service levels, boot and firmware (R387 to R391, R478 to R481) -/

/-- The CAP that firmware sets for the parts that failed (R479). -/
def firmwareCap (fail : BitVec 48) : BitVec 2 :=
  let f := fail.toNat
  if f / 2 ^ 30 != 0 || f / 2 ^ 26 % 16 != 0 || f % 4 != 0 then 0
  else if f % 256 != 0 then 1
  else if f / 2 ^ 16 % 256 != 0 then 2
  else 3

/-- A change of a platform register is reported to management (R478). -/
def State.platEvent (s : State) : State :=
  s.send (.mctp 3 (leBytes 8 s.platFail.toNat ++ leBytes 4 s.evacErr.toNat ++ [s.fwState.setWidth 8, s.fwTries, s.cap.setWidth 8, s.level.setWidth 8]))

/-- The level falls to CAP, and a lower CAP of the firmware takes effect, while no unit is resident (R389, R481). -/
def State.settleLevel (s : State) : State :=
  if !s.noUnits then s
  else
    let s : State := if s.capFw.toNat < s.cap.toNat then { s with cap := s.capFw } else s
    if s.cap.toNat < s.level.toNat then { s with level := s.cap } else s

/-- `CAP_WRITE`: supervisor software sets CAP, no higher than firmware did (R388, R479). -/
def execCapWrite (cap : BitVec 2) (s : State) : Host.Outcome State Fault Refusal :=
  .next ({ s with cap := if s.capFw.toNat < cap.toNat then s.capFw else cap }).settleLevel

/-- `LEVEL_RISE`: the device rises one level toward CAP while no unit is resident; units that wait for it are restored (R388,
R389, R485). -/
def execLevelRise (s : State) : Host.Outcome State Fault Refusal :=
  .next (
    if !s.powered || s.fwState != 1 || !s.noUnits || s.cap.toNat ≤ s.level.toNat then s
    else { s with level := s.level + 1 }.wakeSched)

/-- 1,000 hours of powered time, in nanoseconds (R391). -/
def replanEvery : Nat := 3600000000000000

/-- Firmware plans the supply margins of dies anew: it raises their voltage by steps of 5 mV, and plans again after 1,000 hours (R391).
The steps are a free value (entry 7). -/
def State.raiseSupply (s : State) (serial : Nat) (dies : List Nat) : State :=
  { s with supply := dies.foldl (fun m d => msetD m d (mgetD m d 0 + Config.supplySteps serial d) 0) s.supply }.timer
    (s.gtime + replanEvery) .supplyReplan

/-- Firmware checks an image; an accepted one trains the parts and sets CAP (R387, R391, R478 to R481). -/
def State.tryImage (s : State) (image : List Byte) : State :=
  let s := { s with fwImage := image }
  if Config.imageAccepted image then
    let r := Config.replanResult s.boots
    let fail := (Config.trainingResult s.boots &&& 0xFFFFFFFF00FF#48) ||| ((r.extractLsb' 8 8).setWidth 48 <<< 16) ||| (r.extractLsb' 0 8).setWidth 48
    let cap := firmwareCap fail
    ({ s with fwState := 1, fwFlash := image, platFail := fail, capFw := cap, cap, level := 0 }.raiseSupply s.boots (List.range 8)).platEvent
  else { s with fwState := 2, fwTries := if s.fwTries == 255 then 255 else s.fwTries + 1, level := 0 }.platEvent

/-- What the fabric manager and the hosts have set up as the device comes up: its partition number, the members of its partition and
its route table, for each device or switch number 1 to 8 paths from one of the 48 ports by at most 4 switches (R32, R141); the host ports that run CXL (R33), and the ranges that they export
(R149), by at most 8 HDM decoders each over CXL.mem (R152). The values are the installation's (entry 7). -/
def State.joinFabric (s : State) : State :=
  { s with
    devNum := Config.deviceNumber % 512
    members := Config.partition
    routes := (List.range 512).map fun d => (d, ((Config.routeSet d).filter fun p => decide (p.headD 48 < 48)).take 8 |>.map fun p => p.take 5)
    cxlPorts := (List.range 2).filter Config.portRunsCxl
    bars := (List.range 2).flatMap fun p => (Config.barRanges p).map fun x => (p, x)
    hdm := (List.range 2).flatMap fun p => ((Config.hdmRanges p).take 8).map fun x => (p, x) }

/-- `BOOT`: at power-on the management controller checks the image in flash before any other code runs (R387, R478). DESIGN CHOICE (entry 7):
the event names the image that the flash was delivered with; once an image has been accepted, the flash stores that one. -/
def execBoot (image : List Byte) (s : State) : Host.Outcome State Fault Refusal :=
  .next (if s.level != 0 || s.fwState != 0 then s
    else { s.joinFabric with powered := true, boots := s.boots + 1, platFail := 0, supply := [] }.tryImage
      (if s.fwFlash.isEmpty then image else s.fwFlash))

/-- `FIRMWARE_PUSH`: after a rejected image the host pushes one through host port 0; it is checked in full, and an accepted one is stored in
place of the damaged one (R387, R480). -/
def execFirmwarePush (image : List Byte) (s : State) : Host.Outcome State Fault Refusal :=
  .next (if s.powered && s.fwState == 2 then s.tryImage image else s)

/-- `SUPPLY_REPLAN`: firmware replans the supply margins of the dies on which no unit is resident, and raises their supply; one that has no
margin left sets its AGED or DIE bit (R391, R481). -/
def execSupplyReplan (s : State) : Host.Outcome State Fault Refusal :=
  .next (
    if !s.powered || s.fwState != 1 then s
    else
      let x := s.draw
      let r := Config.replanResult (2 ^ 32 + x.1)
      let idle := (List.range 8).filter s.dieIdle
      let free := idle.foldl (fun (m : BitVec 8) d => m ||| ((1 : BitVec 8) <<< d)) 0
      let fail := s.platFail ||| ((r.extractLsb' 8 8 &&& free).setWidth 48 <<< 16) ||| (r.extractLsb' 0 8 &&& free).setWidth 48
      let cap := firmwareCap fail
      ({ x.2 with platFail := fail, capFw := if cap.toNat < s.capFw.toNat then cap else s.capFw }.raiseSupply (2 ^ 32 + x.1)
        idle).settleLevel.platEvent)

/-! ### Identity and management (R386, R392) -/

/-- "MLR-L9-768" (R386). -/
def partNumber : List Byte := [0x4D, 0x4C, 0x52, 0x2D, 0x4C, 0x39, 0x2D, 0x37, 0x36, 0x38]

/-- A byte of the identity EEPROM (R386). -/
def eepromByte (k : Nat) : Byte :=
  if k < 16 then partNumber.getD k 0
  else if k < 32 then Config.identityByte k &&& 0x7F
  else if k < 38 || (40 ≤ k && k < 104) then Config.identityByte k
  else 0

/-- `IDENTITY_READ`: the EEPROM answers on the I3C bus, powered or not (R386). -/
def execIdentityRead (off len : Nat) (s : State) : Host.Outcome State Fault Refusal :=
  .next (s.send (.mctp 2 ((List.range len).map fun k => eepromByte (off + k))))

/-- The device answers a management request while it has power (R392); `kind` numbers the answers from 16 on. -/
def State.answerMgmt (s : State) (kind : Nat) (body : List Byte) : State :=
  if s.powered then s.send (.mctp (16 + kind) body) else s

/-- `GET_VERSION` (R392). -/
def execGetVersion (s : State) : Host.Outcome State Fault Refusal := .next (s.answerMgmt 0 (Config.mgmtBody 0))

/-- `GET_CAPABILITIES` (R392). -/
def execGetCapabilities (s : State) : Host.Outcome State Fault Refusal := .next (s.answerMgmt 1 (Config.mgmtBody 1))

/-- `NEGOTIATE_ALGORITHMS` (R392). -/
def execNegotiateAlgorithms (s : State) : Host.Outcome State Fault Refusal := .next (s.answerMgmt 2 (Config.mgmtBody 2))

/-- `GET_DIGESTS`: the digest of the certificate (R392). -/
def execGetDigests (s : State) : Host.Outcome State Fault Refusal := .next (s.answerMgmt 3 (Config.digest (Config.mgmtBody 4)))

/-- `GET_CERTIFICATE` (R392). -/
def execGetCertificate (s : State) : Host.Outcome State Fault Refusal := .next (s.answerMgmt 4 (Config.mgmtBody 4))

/-- `CHALLENGE`: signed with the identity key (R392). -/
def execChallenge (nonce : List Byte) (s : State) : Host.Outcome State Fault Refusal :=
  .next (s.answerMgmt 5 (Config.mgmtBody 5 ++ Config.signature (nonce ++ Config.mgmtBody 5)))

/-- `GET_MEASUREMENTS`: the firmware digest, DV_SERVICE_LEVEL and the module revision, signed (R392, R480). -/
def execGetMeasurements (s : State) : Host.Outcome State Fault Refusal :=
  .next (
    let m := Config.digest s.fwImage ++ leBytes 4 s.serviceLevel.toNat ++ [eepromByte 36, eepromByte 37]
    s.answerMgmt 6 (m ++ Config.signature m))

/-! ### Evacuation (R393 to R396, R482) -/

/-- The issuer that stands for the device in the markers of an evacuation. -/
def evacWho : Issuer := ⟨0, 18, 9⟩

/-- `EVAC_COPYING`: the device that holds its rings raises a yield request on every resident unit (phase 2); then, with every unit saved, the
tokens of every page are recalled and the neighbour pulls the contexts; without a path to it the evacuation fails (R394, R482). -/
def execEvacCopying (s : State) : Host.Outcome State Fault Refusal :=
  .next (
    let ndev := fld s.evacCtl 48 9
    if s.evacPhase == 1 then { s with evacPhase := 2 }.raiseYield (fun _ => true) .evac
    else if s.evacPhase != 2 || !s.noUnits then s
    else
      let s := { s with evacPhase := 3 }
      if !s.reaches ndev then s.push [.evacFailure 3]
      else ((s.homes.map (·.1)).foldl (fun s sec => if s.homeHere sec then s.recall sec else s) s).send (.evacuate ndev s.bound))

/-- What the neighbour's copy engines have pulled: the registers of the contexts in use, what memory holds in the package class with the save
images and interrupt blocks in it, the queue pools, and the units that are saved (R394). -/
def State.evacData (s : State) (ndev : Nat) : OutMsg :=
  .evacData ndev (s.cx.filter fun x => s.bound.contains (x.1 / 512)) (s.mem.filter fun c => paClass c.1 == some .package)
    ((List.range 8).flatMap fun d => (s.die d).queues.map fun q => (512 * d + q.1, q.2)) (s.saved.map (·.launch))

/-- `EVAC_DRAINING`: the copies are made and the fabric manager has withdrawn the routes that name the device; a marker goes on
every path of every route set (R394). -/
def execEvacDraining (s : State) : Host.Outcome State Fault Refusal :=
  .next (
    if s.evacPhase != 3 || (s.homes.any fun x => s.homeHere x.1 && !(s.allHome x.1)) then s
    else
      let devs := (s.members ++ s.routes.map (·.1)).foldl addNew [] |>.filter fun d => d != s.devNum
      devs.foldl (fun s d => s.sendMarker evacWho 0 d) ({ s with evacPhase := 4 }.send (s.evacData (fld s.evacCtl 48 9))))

/-- `EVAC_LATCH_FREE`: every marker has completed: the latch indicator is lit, and the contexts are the neighbour's (R394). -/
def execEvacLatchFree (s : State) : Host.Outcome State Fault Refusal :=
  .next (
    if s.evacPhase != 4 || (s.markersOut.any fun m => m.who == evacWho) then s
    else
      let s := (List.range 8).foldl (fun s d => s.modDie d fun x => { x with queues := [], lastOf := [], chosen := [] }) s
      { s with evacPhase := 5, latch := true, saved := [], launches := [], bound := [], slots := [], slotHeld := [], slotPrev := [] }.platEvent)

/-- Firings whose %gtime has passed are taken as skipped: NEXT and K advance past them (R396, R482). -/
def State.skipFirings (s : State) : State :=
  let skip : BitVec 256 → BitVec 256 := fun e =>
    let next := (e.extractLsb' 64 64).toNat
    let period := max (e.extractLsb' 128 32).toNat 1
    let k := (e.extractLsb' 192 64).toNat
    let n := if !e.getLsbD 183 || s.gtime < next then 0 else (s.gtime - next) / period + 1
    (e &&& ~~~((0xFFFFFFFFFFFFFFFF : BitVec 256) <<< 64) &&& ~~~((0xFFFFFFFFFFFFFFFF : BitVec 256) <<< 192)) |||
      ((BitVec.ofNat 64 (next + n * period)).setWidth 256 <<< 64) ||| ((BitVec.ofNat 64 (k + n)).setWidth 256 <<< 192)
  let s : State := { s with slots := s.slots.map fun x => (x.1, skip x.2) }
  s.slots.foldl (fun s x => if x.2.getLsbD 183 then s.timer (x.2.extractLsb' 64 64).toNat (.slotFiring x.1) else s) s

/-- `EVAC_FAILURE`: the evacuation ends without latch release: its phase and cause are recorded, and the device takes its work up
again (R482). -/
def execEvacFailure (cause : BitVec 8) (s : State) : Host.Outcome State Fault Refusal :=
  .next (
    if s.evacPhase == 0 || s.evacPhase == 5 then s
    else
      let s := { s with evacErr := BitVec.ofNat 32 (s.evacPhase * 256 + cause.toNat), evacPhase := 0,
                        markersOut := s.markersOut.filter fun m => m.who != evacWho }
      let asids := ((s.blocks.map (·.asid)) ++ s.saved.map (·.asid)).foldl addNew []
      let s := asids.foldl (fun s a => s.dropCause a .evac) s
      let s := s.skipFirings
      let s := s.push ((List.range 8).flatMap fun d => (s.die d).qbind.map fun x => Event.entryGrant d x.1)
      s.wakeSched.platEvent)

/-! ### The main supply (R485) -/

/-- `MAIN_SUPPLY_LOSS`: nothing inside the package holds its state; the fabric manager's and the schedule's own data stay. -/
def execMainSupplyLoss (s : State) : Host.Outcome State Fault Refusal :=
  .next { State.reset with
          plan := s.plan, outs := s.outs, fresh := s.fresh, nextId := s.nextId, boots := s.boots, devNum := s.devNum,
          members := s.members, cxlPorts := s.cxlPorts, powered := false, outPast := s.outPast, fwFlash := s.fwFlash, upsets := s.upsets }

end Sys2Proof.Machine
end

