-- ==== Sys2Proof/Machine/Traps.lean ====
section
/-! DEFINITION. Handler gangs (R412 to R415), the resumption of a halted block (R416, R417, R427, R436, R444), and the
watchdog (R400). -/

namespace Sys2Proof.Machine

/-! ### Handler gangs (R412 to R415) -/

/-- The order in which the trap unit takes lanes: core index, SEQX, %gang, %lane (R412). -/
def State.originKey (s : State) (o : Origin) : Nat :=
  match s.blk o.blk with
  | none => 0
  | some b =>
    let x := match b.whey with | some (slot, _) => slot | none => b.seqx
    ((b.core % 64 * 256 + x) * 32 + o.gang) * 64 + (if o.seq then 63 else 4 * o.slice + o.lane)

/-- The lanes that a gathering hands over now: 32 of them, or all once 1 µs has passed (R412). -/
def State.gathered (s : State) (g : Gather) : Option (List Origin) :=
  if 32 ≤ g.lanes.length || g.first + 1000 ≤ s.gtime then
    some ((sortBy (fun x y => decide (s.originKey x ≤ s.originKey y)) g.lanes).take 32)
  else none

/-- The launch that stands for a handler gang: one gang of as many lanes, REGS = 64, no uniform stream (R412). -/
def handlerLaunch (id asid die n : Nat) : Launch :=
  { id, asid, die, queue := 0, addr := 0, nblocks := 1, handler := true,
    lrec := { ver := 1, nlev := 2, blklev := 1, whey := false, unif := false, pri := 3, msix := false, msixv := 0, vaultk := 0,
              regs := 64, bard := 0, bars := 0, tcnt := 0, spill := 4, cscope := 0, levels := [(1, 0, n), (2, 0, 1)], lanepc := 0,
              unifpc := 0, param := 0, cword := 0, seq := 0, notbefore := 0, segmap := 0 } }

/-- A handler lane's slice takes what its origins' entries hold (R415): v0 to v31, v32 with the entry's address, %orig,
%fcode. An origin in the uniform sequencer gives no registers. -/
def State.handlerSlice (s : State) (die : Nat) (entry : BitVec 48) (os : List Origin) (sl : Slice) : Slice :=
  let mine := (os.drop (4 * sl.num)).take 4
  let sl : Slice := { sl with pc := entry, n := 64, vlive := 64, lanes := sl.lanes.map fun l => { l with idx := [] } }
  mine.zipIdx.foldl (fun sl x =>
    let o := x.1
    let w := match s.blk o.blk with | some b => origWord b o | none => 0
    let sl := sl.modLane x.2 fun l => { l with orig := w, fcode := o.code }
    if o.seq then sl
    else
      let sl := (List.range 32).foldl (fun (sl : Slice) i => sl.setPhys i x.2 (BitVec.ofNat 32 (s.vlRd die (o.entry + 32 + 4 * i) 4))) sl
      sl.setPhys 32 x.2 (BitVec.ofNat 32 o.entry)) sl

/-- Starts a handler gang for lanes of a context on a core (R412, R415). Its entry synchronises with the fault's record, which the
faulting context's ring holds (R403). -/
def State.startHandler (s : State) (l : Launch) (core : Nat) (g : Gather) (os : List Origin) : State :=
  let entry := (s.cxr g.asid 0x108).extractLsb' 0 48
  let s := (s.putBlock l 0 core).acquire core [g.asid] .dev
  let die := dieOf core
  let gang : Gang → Gang := fun x => { x with slices := x.slices.map (s.handlerSlice die entry os) }
  let s := s.modUnit l.id fun b => { b with isHandler := true, handlerOf := os, levels := [], gangs := b.gangs.map gang }
  { s with launches := s.launches ++ [{ l with cores := [core] }] }

/-- `HANDLER_GANG_CLOSE`: the trap unit of a die closes its gatherings that are full or old enough, and places a handler
gang for each, ahead of every PRI; where none fits it asks units of other contexts to yield (R412). The lanes of a context that has
been halted since get none (R406). -/
def execHandlerGangClose (die : Nat) (s : State) : Host.Outcome State Fault Refusal :=
  .next ((s.die die).gather.foldl (fun (s : State) g =>
    match (if s.ctxHalted g.asid then none else s.gathered g) with
    | none => s
    | some [] => s.modDie die fun x => { x with gather := x.gather.filter fun y => y != g }
    | some os =>
      let sup := fld (s.cxr g.asid 0x11E) 32 12
      let (id, s) := s.newId
      let l : Launch := { handlerLaunch id sup die os.length with gath := some (g.code, g.first) }
      let cores := s.byGangs (((List.range 64).map fun i => 64 * die + i).filter (s.fits l.lrec))
      match cores with
      | c :: _ =>
        let left := g.lanes.filter fun o => !os.contains o
        let s := s.modDie die fun x =>
          { x with gather := x.gather.filterMap fun y => if y == g then (if left.isEmpty then none else some { g with lanes := left }) else some y }
        let s := s.startHandler l c g os
        if left.isEmpty then s else s.push [.handlerGangClose die]
      | [] =>
        let on : Launch → Bool := fun v => v.asid != sup && s.blocks.any fun b => b.launch == v.id && dieOf b.core == die
        let vs := s.victims on
        (match (List.range vs.length).find? fun n =>
            let s' := s.without ((vs.take (n + 1)).map (·.id))
            (List.range 64).any fun i => s'.fits l.lrec (64 * die + i) with
         | none => s
         | some n =>
           let ids := (vs.take (n + 1)).map (·.id)
           s.raiseYield (fun b => ids.contains b.launch) (.handlers g.asid die g.code g.first))) s)

/-! ### Resumption (R416, R417) -/

/-- The marks of an origin: RET 2, SKIP 4, EXIT 8 (R414). -/
def State.marksOf (s : State) (b : Block) (o : Origin) : Nat :=
  if o.seq then o.mark else s.vlRd (dieOf b.core) (o.entry + 9) 1

/-- An origin has been returned, with .skip, or left by EXIT (R416). -/
def markDone (m : Nat) : Bool := m / 2 % 2 == 1 || m / 8 % 2 == 1
def markSkip (m : Nat) : Bool := m / 4 % 2 == 1
def markExit (m : Nat) : Bool := m / 8 % 2 == 1

/-- Everything of a block has stopped. -/
def Block.stopped (b : Block) : Bool :=
  (b.gangs.all fun g => g.splits.all fun sp => sp.stop && !sp.inRun) && (!b.unif || b.seq.ended || b.seq.stop)

/-- A lane reloads its registers, counter and predicates from its entry (R417). -/
def State.reloadLane (s : State) (die budget : Nat) (o : Origin) (sl : Slice) : Slice :=
  let sl := (List.range 32).foldl (fun (sl : Slice) i =>
    sl.setPhys (sl.phys budget i) o.lane (BitVec.ofNat 32 (s.vlRd die (o.entry + 32 + 4 * i) 4))) sl
  sl.modLane o.lane fun l =>
    { l with nest := BitVec.ofNat 8 (s.vlRd die (o.entry + 10) 1), preds := BitVec.ofNat 7 (s.vlRd die (o.entry + 11) 1) }

/-- A slice with origins resumes (R417, R436): `pc` is the word that faulted in it, if one did, and `os` are its origins
in lane order with their marks. -/
def State.resumeSlice (s : State) (die budget : Nat) (pc : Option (BitVec 48)) (os : List (Origin × Nat)) (sl : Slice) : Slice :=
  match os with
  | [] => sl
  | (o, _) :: _ =>
    let rpc : BitVec 48 := BitVec.ofNat 48 (s.vlRd die o.entry 8)
    let sl := os.foldl (fun (sl : Slice) x =>
      if markExit x.2 then sl.exitLanes [x.1.lane] else s.reloadLane die budget x.1 sl) sl
    let back := (os.filter fun x => !markExit x.2)
    let again := (back.filter fun x => !markSkip x.2).map fun x => x.1.lane
    if pc == some rpc then
      if again.isEmpty then { sl with pc := nextPc rpc, execMask := none } else { sl with pc := rpc, execMask := some (again, rpc) }
    else { sl with pc := rpc, execMask := none }

/-- The splits of a gang after its slices have resumed: those that part do so, and a split of which a slice had an origin
waits no longer (R48, R417). -/
def Gang.resumeSplits (g : Gang) (touched : List Nat) (now : Nat) : Gang :=
  let pcOf : Nat → BitVec 48 := fun k => match g.slice k with | some sl => sl.pc | none => 0
  { g with splits := g.splits.flatMap fun sp =>
      (partition (sp.slices.map fun k => (k, pcOf k))).map fun grp =>
        if grp.any touched.contains then { slices := grp, readyAt := now + 1 }
        else { slices := grp, readyAt := now + 1, wait := sp.wait, made := sp.made } }

/-- The slices of a gang resume, each with its own origins (R417). -/
def State.resumeGang (s : State) (b : Block) (h : Halt) (g : Gang) : Gang :=
  let die := dieOf b.core
  let os := h.origins.filter fun o => !o.seq && o.gang == g.num
  let os := sortBy (fun (x y : Origin × Nat) => decide (x.1.lane ≤ y.1.lane)) (os.map fun o => (o, s.marksOf b o))
  let mine : Nat → List (Origin × Nat) := fun k => os.filter fun x => x.1.slice == k
  let pc : Nat → Option (BitVec 48) := fun k => (h.faulted.find? fun x => x.1 == g.num && x.2.1 == k).map fun x => x.2.2
  let touched := (os.map fun x => x.1.slice).foldl addNew []
  let again := touched ++ (h.faulted.filter fun x => x.1 == g.num).map fun x => x.2.1
  ({ g with slices := g.slices.map fun sl => s.resumeSlice die g.budget (pc sl.num) (mine sl.num) sl } : Gang).resumeSplits again s.now

/-- The sequencer and the engine operations that faulted resume (R417, R436, R444). A sequencer origin left by EXIT ends
the uniform stream (entry 6). -/
def State.resumeSeq (s : State) (b : Block) (h : Halt) : State :=
  let os := h.origins.filter (·.seq)
  os.foldl (fun (s : State) o =>
    let m := s.marksOf b o
    match o.op with
    | some (k, n) =>
      if markSkip m || markExit m then s.engDone b.id k n
      else ((s.engDrop b.id k n).modOp b.id k n fun x =>
        { x with fault := none, begun := x.begun && x.ctx == .matrix, step := 0, inbox := [], asked := [], posted := 0, moved := 0 })
    | none =>
      if markExit m then s.modSeq b.id fun q => { q with ended := true, wait := .ended }
      else if b.seq.acc.any fun a => a.parts.any fun p => match p.st with | .held _ => true | _ => false then
        s.reissue (seqWho b) fun _ => markSkip m
      else if markSkip m then s.modSeq b.id fun q => { q with pc := nextPc q.pc, wait := .none, made := false }
      else s.modSeq b.id fun q => { q with wait := .none, made := false }) s

/-- Held accesses of a block's slices are issued again, or dropped in the lanes returned with .skip; a part that stands for
several lanes is dropped where all of them are (R436). -/
def State.reissueAll (s : State) (b : Block) (skips : List (Nat × Nat × Nat)) : State :=
  b.gangs.foldl (fun s g => g.slices.foldl (fun s sl =>
    if sl.holds then s.reissue ⟨b.id, g.num, sl.num⟩ fun p =>
      (partLanes p).all fun j => skips.contains (g.num, sl.num, j) else s) s) s

/-- `BLOCK_RESUME`: a halted block resumes once every entry is marked RET or EXIT (R416, R417). -/
def execBlockResume (bid : Nat) (s : State) : Host.Outcome State Fault Refusal :=
  .next (match s.blk bid with
  | none => s
  | some b =>
    match b.halt with
    | none => s
    | some h =>
      if h.origins.isEmpty || s.ctxHalted b.asid || !b.stopped || !(h.origins.all fun o => markDone (s.marksOf b o)) ||
          (b.gangs.any fun g => g.slices.any fun sl => !(heldNew h sl).isEmpty) then s
      else
        let gangs := b.gangs.map (s.resumeGang b h)
        let skips := h.origins.filterMap fun o =>
          if !o.seq && (markSkip (s.marksOf b o) || markExit (s.marksOf b o)) then some (o.gang, o.slice, o.lane) else none
        let lanes := h.origins.filter fun o => !o.seq
        let s' := s.modBlk bid fun b => { b with gangs, halt := none, seq := { b.seq with stop := false, readyAt := s.now + 1 } }
        let s' := s'.resumeSeq b h
        let s' := lanes.foldl (fun s o => s.vlWr (dieOf b.core) (o.entry + 9) 1 0) s'
        let s' := s'.reissueAll b skips
        let s' := (b.gangs.map (·.num)).foldl (fun s g => s.afterExit bid g) s'
        let ops := match s'.blk bid with | some x => x.ops.map fun op => Event.engineOpBegin bid op.ctx op.num | none => []
        (s'.push (ops ++ [.unitSave bid, .blockRetirement bid])).uiPoke b.asid)

/-! ### The watchdog (R400) -/

/-- The cycles of the watchdog. -/
def watchLimit : Nat := 2 ^ 24

/-- Every context is halted, one without a resident unit as well (R405). -/
def State.haltAll (s : State) (code : BitVec 8) : State :=
  ((s.bound ++ s.blocks.map (·.asid)).foldl addNew []).foldl (fun s a => s.haltContext a code) s

/-- The watchdog's fault (R400): its word, PREC 0, and the cycles counted. -/
def watchInfo (pc : BitVec 48) (agent n : Nat) : FInfo :=
  { code := 0x63, prec := false, pc, agent, detail := leBytes 4 (min n (2 ^ 32 - 1)) }

/-- A sequencer's word is counted: it has issued, and does not wait at BAR, TLWAIT or QWAIT, for a full engine context or TLSIG
queue (R400). -/
def SeqWait.counted : SeqWait → Bool
  | .none | .bar .. | .tlwait .. | .until' _ | .ended | .full _ | .tlsig | .engines => false
  | _ => true

/-- `WATCHDOG`: a run that has not ended within 2^24 cycles of its first word, or a sequencer's word as long, halts its
block, or, under SUP = 1, every context (R400, R405, R422). -/
def execWatchdog (bid : Nat) (gang : Option Nat) (s : State) : Host.Outcome State Fault Refusal :=
  .next (match s.blk bid with
  | none => s
  | some b =>
    match gang with
    | none =>
      let n := s.now + 1 - b.seq.readyAt
      if !b.unif || b.seq.ended || b.seq.stop || !b.seq.wait.counted || n < watchLimit then s
      else if s.sup b.asid then (s.record b 0 (watchInfo b.seq.pc 1 n) 0 0 0).haltAll 0x63
      else s.trapSeq bid (watchInfo b.seq.pc 1 n)
    | some gn =>
      match b.gang gn with
      | none => s
      | some g =>
        match g.splits.find? fun sp => sp.inRun && watchLimit ≤ s.now - sp.runStart with
        | none => s
        | some sp =>
          let n := s.now - sp.runStart
          let mem := memberSlices g sp
          let f := watchInfo sp.lastPc 0 n
          if s.sup b.asid then
            let sm := mem.foldl (fun m sl => m + 2 ^ sl.num) 0
            let lm := mem.foldl (fun m sl => m + maskOf sl.num sl.active) 0
            (s.record b gn f sm lm (s.origOf b g (mem.map fun sl => (sl.num, sl.active)))).haltAll 0x63
          else s.trap bid gn [(mem.map fun sl => (sl.num, if mem.all fun x => x.active.isEmpty then sl.live else sl.active, sl.pc), f)])

end Sys2Proof.Machine
end

