-- ==== Sys2Proof/Machine/Device.lean ====
section
/-! DEFINITION. The dispatch of the device's own steps: an event of the schedule runs the meaning that
`exec` gives its constructor. -/

namespace Sys2Proof.Machine

/-- Runs an event: the same meaning as the constructor of `Instr` of the same name. -/
def runEvent (e : Event) (s : State) : Host.Outcome State Fault Refusal :=
  match e with
  | .wheyArrival core => execWheyArrival core s
  | .replicaAdvertisement => execReplicaAdvertisement s
  | .doorbell host asid v => execDoorbell host asid v s
  | .hqRecordRead die q => execHqRecordRead die q s
  | .entryGrant die q => execEntryGrant die q s
  | .launchPlacement die => execLaunchPlacement die s
  | .unitSave u => execUnitSave u s
  | .forcedSave u => execForcedSave u s
  | .saveDrainTimeout u => execSaveDrainTimeout u s
  | .unitRestore u => execUnitRestore u s
  | .slotFiring n => execSlotFiring n s
  | .nodeFlushTimeout asid node => execNodeFlushTimeout asid node s
  | .blockRetirement b => execBlockRetirement b s
  | .launchCompletion l => execLaunchCompletion l s
  | .accessCompletion a => execAccessCompletion a s
  | .engineOpBegin b ctx n => execEngineOpBegin b ctx n s
  | .engineOpCompletion b ctx n => execEngineOpCompletion b ctx n s
  | .leaveGrant die => execLeaveGrant die s
  | .leaveExpiry b ctx => execLeaveExpiry b ctx s
  | .sleepwWake r => execSleepwWake r s
  | .hostUiSend port pasid data => execHostUiSend port pasid data s
  | .uiDelivery asid => execUiDelivery asid s
  | .hostSyscallEnd port pasid data => execHostSyscallEnd port pasid data s
  | .transientRequest m => execTransientRequest m s
  | .transientTimeout die sec => execTransientTimeout die sec s
  | .tokenArrival m => execTokenArrival m s
  | .writeBack m => execWriteBack m s
  | .pressRequest m => execPressRequest m s
  | .pressActivation agent m => execPressActivation agent m s
  | .pressDeactivation sec src => execPressDeactivation sec src s
  | .pressClear agent sec => execPressClear agent sec s
  | .hostSnoop port sec kind => execHostSnoop port sec kind s
  | .cxlMemAccess pa req => execCxlMemAccess pa req s
  | .kickNoticeArrival n => execKickNoticeArrival n s
  | .kickRetry n => execKickRetry n s
  | .copyEnginePull core => execCopyEnginePull core s
  | .markerCopy m => execMarkerCopy m s
  | .markerCompletion id dev => execMarkerCompletion id dev s
  | .vectorRead p => execVectorRead p s
  | .vectorWrite p => execVectorWrite p s
  | .vectorAtomic p => execVectorAtomic p s
  | .readResponse rid data => execReadResponse rid data s
  | .writeAcceptance rid code => execWriteAcceptance rid code s
  | .atomicResponse rid data => execAtomicResponse rid data s
  | .collectiveChunk b n => execCollectiveChunk b n s
  | .fabricRequestTimeout rid => execFabricRequestTimeout rid s
  | .turning die => execTurning die s
  | .linkReplay l => execLinkReplay l s
  | .linkDown l => execLinkDown l s
  | .tokenRecreation sec => execTokenRecreation sec s
  | .census agent sec ser => execCensus agent sec ser s
  | .routeWithdrawal dev => execRouteWithdrawal dev s
  | .hostCompletion tag st data => execHostCompletion tag st data s
  | .hostCompletionTimeout tag => execHostCompletionTimeout tag s
  | .handlerGangClose die => execHandlerGangClose die s
  | .blockResume b => execBlockResume b s
  | .watchdog b gang => execWatchdog b gang s
  | .cxYreq asid v => execCxYreq asid v s
  | .cxHalt asid v => execCxHalt asid v s
  | .dvGtimeSet v => execDvGtimeSet v s
  | .ppsPulse => execPpsPulse s
  | .dvLostClr v => execDvLostClr v s
  | .ovfClear r => execOvfClear r s
  | .errorCounterClear r => execErrorCounterClear r s
  | .registerWrite r v => execRegisterWrite r v s
  | .capWrite cap => execCapWrite cap s
  | .levelRise => execLevelRise s
  | .boot image => execBoot image s
  | .firmwarePush image => execFirmwarePush image s
  | .supplyReplan => execSupplyReplan s
  | .identityRead off len => execIdentityRead off len s
  | .getVersion => execGetVersion s
  | .getCapabilities => execGetCapabilities s
  | .negotiateAlgorithms => execNegotiateAlgorithms s
  | .getDigests => execGetDigests s
  | .getCertificate => execGetCertificate s
  | .challenge nonce => execChallenge nonce s
  | .getMeasurements => execGetMeasurements s
  | .evacGo v => execEvacGo v s
  | .evacCopying => execEvacCopying s
  | .evacDraining => execEvacDraining s
  | .evacLatchFree => execEvacLatchFree s
  | .evacFailure cause => execEvacFailure cause s
  | .emptyEntryWord w => execEmptyEntryWord w s
  | .mainSupplyLoss => execMainSupplyLoss s
  | .linkUp l => execLinkUp l s
  | .rangeExport base len t devs => execRangeExport base len t devs s
  | .tokenMessageExpiry m => execTokenMessageExpiry m s
  | .qwaitDeadline b => execQwaitDeadline b s
  | .peerSend dev asid target v p => execPeerSend dev asid target v p s
  | .barMemoryAccess port pa req => execBarMemoryAccess port pa req s
  | .goDataResponse port sec st data => execGoDataResponse port sec st data s
  | .pressAcknowledgement agent sec act => execPressAcknowledgement agent sec act s
  | .pageWalkEnd die asid page => execPageWalkEnd die asid page s

end Sys2Proof.Machine
end

