-- ==== Sys2Proof/Machine/Integer.lean ====
section
/-! DEFINITION. Vector integer operations, predicate operations, comparison and selection (R263 to R268). -/

namespace Sys2Proof.Machine

/-- The second source of a predicate operation: a predicate, or imm9[0] (R267). -/
def srcP (l : Lane) : Sum (BitVec 3) Bool → Bool
  | .inl i => l.p i.toNat
  | .inr v => v

/-- The second source of IADD64 (R265): a scalar is one register, extended by the type. -/
def src64x (ty : Ty) (b : Nat) (sl : Slice) (j : Nat) : Src → DWord
  | .reg i => sl.v64 b i.toNat j
  | .sreg i => if tySigned ty then (sl.s i.toNat).signExtend 64 else (sl.s i.toNat).setWidth 64
  | .imm v => v

/-- `IADD` (R263). -/
def execIadd (c : Ctl) (o : VOp) (s : State) : Host.Outcome State Fault Refusal :=
  vecWord c 4 (fun b sl j => rv o.d (iaddV o.ty o.sat (sl.v b o.a.toNat j) (srcV b sl j o.b))) s

/-- `ISUB` (R263). -/
def execIsub (c : Ctl) (o : VOp) (s : State) : Host.Outcome State Fault Refusal :=
  vecWord c 4 (fun b sl j => rv o.d (isubV o.ty o.sat (sl.v b o.a.toNat j) (srcV b sl j o.b))) s

/-- `IMUL` (R263). -/
def execImul (c : Ctl) (o : VOp) (s : State) : Host.Outcome State Fault Refusal :=
  vecWord c 4 (fun b sl j => rv o.d (imulV o.ty o.sat (sl.v b o.a.toNat j) (srcV b sl j o.b))) s

/-- `IMIN.s` (R263). -/
def execIminS (c : Ctl) (o : VOp) (s : State) : Host.Outcome State Fault Refusal :=
  vecWord c 4 (fun b sl j => rv o.d (minV true (sl.v b o.a.toNat j) (srcV b sl j o.b))) s

/-- `IMIN.u` (R263). -/
def execIminU (c : Ctl) (o : VOp) (s : State) : Host.Outcome State Fault Refusal :=
  vecWord c 4 (fun b sl j => rv o.d (minV false (sl.v b o.a.toNat j) (srcV b sl j o.b))) s

/-- `IMAX.s` (R263). -/
def execImaxS (c : Ctl) (o : VOp) (s : State) : Host.Outcome State Fault Refusal :=
  vecWord c 4 (fun b sl j => rv o.d (maxV true (sl.v b o.a.toNat j) (srcV b sl j o.b))) s

/-- `IMAX.u` (R263). -/
def execImaxU (c : Ctl) (o : VOp) (s : State) : Host.Outcome State Fault Refusal :=
  vecWord c 4 (fun b sl j => rv o.d (maxV false (sl.v b o.a.toNat j) (srcV b sl j o.b))) s

/-- `IABS` (R263). -/
def execIabs (c : Ctl) (o : VOp) (s : State) : Host.Outcome State Fault Refusal :=
  vecWord c 4 (fun b sl j => rv o.d (iabsV o.sat (srcV b sl j o.b))) s

/-- `AND` (R263). -/
def execAndB (c : Ctl) (o : VOp) (s : State) : Host.Outcome State Fault Refusal :=
  vecWord c 4 (fun b sl j => rv o.d ((sl.v b o.a.toNat j) &&& (srcV b sl j o.b))) s

/-- `OR` (R263). -/
def execOrB (c : Ctl) (o : VOp) (s : State) : Host.Outcome State Fault Refusal :=
  vecWord c 4 (fun b sl j => rv o.d ((sl.v b o.a.toNat j) ||| (srcV b sl j o.b))) s

/-- `XOR` (R263). -/
def execXorB (c : Ctl) (o : VOp) (s : State) : Host.Outcome State Fault Refusal :=
  vecWord c 4 (fun b sl j => rv o.d ((sl.v b o.a.toNat j) ^^^ (srcV b sl j o.b))) s

/-- `ANDN` (R263). -/
def execAndn (c : Ctl) (o : VOp) (s : State) : Host.Outcome State Fault Refusal :=
  vecWord c 4 (fun b sl j => rv o.d ((sl.v b o.a.toNat j) &&& ~~~(srcV b sl j o.b))) s

/-- `SHL` (R263). -/
def execShl (c : Ctl) (o : VOp) (s : State) : Host.Outcome State Fault Refusal :=
  vecWord c 4 (fun b sl j => rv o.d (shlV (sl.v b o.a.toNat j) (srcV b sl j o.b))) s

/-- `SHR` (R263). -/
def execShr (c : Ctl) (o : VOp) (s : State) : Host.Outcome State Fault Refusal :=
  vecWord c 4 (fun b sl j => rv o.d (shrV (sl.v b o.a.toNat j) (srcV b sl j o.b))) s

/-- `SAR` (R263). -/
def execSar (c : Ctl) (o : VOp) (s : State) : Host.Outcome State Fault Refusal :=
  vecWord c 4 (fun b sl j => rv o.d (sarV (sl.v b o.a.toNat j) (srcV b sl j o.b))) s

/-- `ROTL` (R263). -/
def execRotl (c : Ctl) (o : VOp) (s : State) : Host.Outcome State Fault Refusal :=
  vecWord c 4 (fun b sl j => rv o.d (rotlV (sl.v b o.a.toNat j) (srcV b sl j o.b))) s

/-- `POPC` (R263). -/
def execPopc (c : Ctl) (o : VOp) (s : State) : Host.Outcome State Fault Refusal :=
  vecWord c 4 (fun b sl j => rv o.d (popcV (srcV b sl j o.b))) s

/-- `CLZ` (R263). -/
def execClz (c : Ctl) (o : VOp) (s : State) : Host.Outcome State Fault Refusal :=
  vecWord c 4 (fun b sl j => rv o.d (clzV (srcV b sl j o.b))) s

/-- `BREV` (R263). -/
def execBrev (c : Ctl) (o : VOp) (s : State) : Host.Outcome State Fault Refusal :=
  vecWord c 4 (fun b sl j => rv o.d (brevV (srcV b sl j o.b))) s

/-- `MOV` (R263). -/
def execMov (c : Ctl) (o : VOp) (s : State) : Host.Outcome State Fault Refusal :=
  vecWord c 4 (fun b sl j => rv o.d ((srcV b sl j o.b))) s

/-- `MOVI` (R263). -/
def execMovi (c : Ctl) (o : VOp) (s : State) : Host.Outcome State Fault Refusal :=
  vecWord c 4 (fun b sl j => rv o.d (moviV (sl.v b o.a.toNat j) (srcV b sl j o.b))) s

/-- `SEL` (R268: the select predicate is p(c[2:0]), negated when X = 1). -/
def execSel (c : Ctl) (o : VOp) (s : State) : Host.Outcome State Fault Refusal :=
  vecWord c 4 (fun b sl j =>
    rv o.d (if (sl.lane j).p (o.c.toNat % 8) != o.x then (sl.v b o.a.toNat j) else (srcV b sl j o.b))) s

/-- `ISETP` (R268). -/
def execIsetp (c : Ctl) (o : COp) (s : State) : Host.Outcome State Fault Refusal :=
  vecWord c 4 (fun b sl j => rp o.pd.toNat (isetpV o.cond o.u (sl.v b o.a.toNat j) (srcV b sl j o.b))) s

/-- `IADDC` (R263: the sum, and p6 as the carry out of bit 31, in the lanes where it takes effect). -/
def execIaddc (c : Ctl) (o : VOp) (s : State) : Host.Outcome State Fault Refusal :=
  vecWord c 4 (fun b sl j =>
    let r := iaddcV (sl.v b o.a.toNat j) (srcV b sl j o.b) (!o.x && (sl.lane j).p 6)
    rv o.d r.1 ++ rp 6 r.2) s

/-- `PAND` (R267). -/
def execPand (c : Ctl) (o : POp) (s : State) : Host.Outcome State Fault Refusal :=
  vecWord c 4 (fun _ sl j =>
    let x := (sl.lane j).p o.a.toNat
    let y := srcP (sl.lane j) o.b
    rp o.d.toNat (x && y)) s

/-- `POR` (R267). -/
def execPor (c : Ctl) (o : POp) (s : State) : Host.Outcome State Fault Refusal :=
  vecWord c 4 (fun _ sl j =>
    let x := (sl.lane j).p o.a.toNat
    let y := srcP (sl.lane j) o.b
    rp o.d.toNat (x || y)) s

/-- `PXOR` (R267). -/
def execPxor (c : Ctl) (o : POp) (s : State) : Host.Outcome State Fault Refusal :=
  vecWord c 4 (fun _ sl j =>
    let x := (sl.lane j).p o.a.toNat
    let y := srcP (sl.lane j) o.b
    rp o.d.toNat (x != y)) s

/-- `PNOT` (R267). -/
def execPnot (c : Ctl) (o : POp) (s : State) : Host.Outcome State Fault Refusal :=
  vecWord c 4 (fun _ sl j => rp o.d.toNat (!srcP (sl.lane j) o.b)) s

/-- `PMOV` (R267). -/
def execPmov (c : Ctl) (o : POp) (s : State) : Host.Outcome State Fault Refusal :=
  vecWord c 4 (fun _ sl j => rp o.d.toNat (srcP (sl.lane j) o.b)) s

/-- `SEXT` (R263). -/
def execSext (c : Ctl) (o : VOp) (s : State) : Host.Outcome State Fault Refusal :=
  vecWord c 4 (fun b sl j => rv o.d (sextV (sl.v b o.a.toNat j) (srcV b sl j o.b))) s

/-- `ZEXT` (R263). -/
def execZext (c : Ctl) (o : VOp) (s : State) : Host.Outcome State Fault Refusal :=
  vecWord c 4 (fun b sl j => rv o.d (zextV (sl.v b o.a.toNat j) (srcV b sl j o.b))) s

/-- `BFE` (R264). -/
def execBfe (c : Ctl) (o : VOp) (s : State) : Host.Outcome State Fault Refusal :=
  vecWord c 4 (fun b sl j => rv o.d (bfeV (sl.v b o.a.toNat j) (bfPos (srcV b sl j o.b)) (bfLen (srcV b sl j o.b)) (o.ty == .s32))) s

/-- `BFI` (R264). -/
def execBfi (c : Ctl) (o : VOp) (s : State) : Host.Outcome State Fault Refusal :=
  vecWord c 4 (fun b sl j => rv o.d (bfiV (sl.v b o.c.toNat j) (sl.v b o.a.toNat j) (bfPos (srcV b sl j o.b)) (bfLen (srcV b sl j o.b)))) s

/-- `LMASK` (R266). -/
def execLmask (c : Ctl) (o : VOp) (s : State) : Host.Outcome State Fault Refusal :=
  vecWord c 4 (fun b sl j => rv o.d (lmaskV (4 * sl.num + j) (srcV b sl j o.b))) s

/-- `IMAD` (R265). -/
def execImad (c : Ctl) (o : VOp) (s : State) : Host.Outcome State Fault Refusal :=
  vecWord c 4 (fun b sl j => rv o.d (narrow32 o.ty o.sat (val32 o.ty (sl.v b o.a.toNat j) * val32 o.ty (srcV b sl j o.b) + val32 o.ty (sl.v b o.c.toNat j)))) s

/-- `IMULHI.s` (R265). -/
def execImulhiS (c : Ctl) (o : VOp) (s : State) : Host.Outcome State Fault Refusal :=
  vecWord c 4 (fun b sl j => rv o.d (BitVec.ofInt 32 (((sl.v b o.a.toNat j)).toInt * ((srcV b sl j o.b)).toInt / 2 ^ 32))) s

/-- `IMULHI.u` (R265). -/
def execImulhiU (c : Ctl) (o : VOp) (s : State) : Host.Outcome State Fault Refusal :=
  vecWord c 4 (fun b sl j => rv o.d (BitVec.ofNat 32 (((sl.v b o.a.toNat j)).toNat * ((srcV b sl j o.b)).toNat / 2 ^ 32))) s

/-- `IADD3` (R265). -/
def execIadd3 (c : Ctl) (o : VOp) (s : State) : Host.Outcome State Fault Refusal :=
  vecWord c 4 (fun b sl j => rv o.d (narrow32 o.ty o.sat (val32 o.ty (sl.v b o.a.toNat j) + val32 o.ty (srcV b sl j o.b) + val32 o.ty (sl.v b o.c.toNat j)))) s

/-- `LUT3` (R265: the table is k). -/
def execLut3 (c : Ctl) (o : VOp) (s : State) : Host.Outcome State Fault Refusal :=
  vecWord c 4 (fun b sl j => rv o.d (lut3V o.k (sl.v b o.a.toNat j) (srcV b sl j o.b) (sl.v b o.c.toNat j))) s

/-- `LEA` (R265). -/
def execLea (c : Ctl) (o : VOp) (s : State) : Host.Outcome State Fault Refusal :=
  vecWord c 4 (fun b sl j => rv o.d (BitVec.ofNat 32 (((sl.v b o.a.toNat j)).toNat + ((srcV b sl j o.b)).toNat * 2 ^ o.k.toNat))) s

/-- `IADD64` (R265: a scalar second source is extended by the type). -/
def execIadd64 (c : Ctl) (o : VOp) (s : State) : Host.Outcome State Fault Refusal :=
  vecWord c 8 (fun b sl j => 
    rv64 o.d (narrow64 o.ty o.sat (val64 o.ty (sl.v64 b o.a.toNat j) + val64 o.ty (src64x o.ty b sl j o.b)))) s

/-- `IMAD64` (R265). -/
def execImad64 (c : Ctl) (o : VOp) (s : State) : Host.Outcome State Fault Refusal :=
  vecWord c 8 (fun b sl j => 
    rv64 o.d (narrow64 o.ty o.sat (val32 o.ty (sl.v b o.a.toNat j) * val32 o.ty (srcV b sl j o.b) + val64 o.ty (sl.v64 b o.c.toNat j)))) s

/-- `ISHF` (R265: .l under X). -/
def execIshf (c : Ctl) (o : VOp) (s : State) : Host.Outcome State Fault Refusal :=
  vecWord c 4 (fun b sl j => rv o.d (ishfV o.x (sl.v b o.a.toNat j) (srcV b sl j o.b) (sl.v b o.c.toNat j))) s

/-- `PRMT` (R265). -/
def execPrmt (c : Ctl) (o : VOp) (s : State) : Host.Outcome State Fault Refusal :=
  vecWord c 4 (fun b sl j => rv o.d (prmtV (sl.v b o.a.toNat j) (srcV b sl j o.b) (sl.v b o.c.toNat j))) s

end Sys2Proof.Machine
end

