-- ==== Sys2Proof/Machine/Quant.lean ====
section
/-! DEFINITION. Quantisation of the lane stream (R295 to R297). QHIST stands with the vault accesses. -/

namespace Sys2Proof.Machine

/-- `QSCALE` (R295: the clip exponent over the taking lanes). -/
def execQscale (c : Ctl) (o : VOp) (s : State) : Host.Outcome State Fault Refusal :=
  crossWord c 6 (fun b t _ _ _ =>
    let hist := (List.range 32).flatMap fun n =>
      (List.range 8).map fun i => t.at n (fun sl j => (sl.v b (o.a.toNat + i) j).toNat) 0
    let p := t.low (fun sl j => (srcV b sl j o.b).toNat % 65536) 0
    rv o.d (BitVec.ofNat 32 (clipExp hist p))) s

/-- `QPACK` (R296: word l of the packed block, then E1:E0, then 0). -/
def execQpack (c : Ctl) (o : VOp) (s : State) : Host.Outcome State Fault Refusal :=
  crossWord c 6 (fun b t l _ _ =>
    let xs := (List.range 32).map fun n => t.at n (fun sl j => sl.v b o.a.toNat j) 0
    let x := t.low (fun sl j => (srcV b sl j o.b).toNat) 0
    let g := if x / 32768 % 2 == 1 then x / 256 % 16 else dbGap o.ty
    let r := dbPack o.ty xs (x % 256) g
    let w := dbW o.ty
    rv o.d (BitVec.ofNat 32
      (if l < w then dbString o.ty r.2.2 / 2 ^ (32 * l) else if l == w then r.2.1 * 256 + r.1 else 0))) s

/-- `QUNPK` (R214, R297; element bits at 64 and above read as 0 (R466)). -/
def execQunpk (c : Ctl) (o : VOp) (s : State) : Host.Outcome State Fault Refusal :=
  vecWord c 6 (fun b sl j =>
    let x := (srcV b sl j o.b).toNat
    let el := (sl.v64 b o.a.toNat j).toNat / 2 ^ (x / 65536 % 64) % 2 ^ dbW o.ty
    rv o.d (BitVec.ofNat 32 (fS.round .rn false (dbDecode o.ty (x % 256) (x / 256 % 256) el)))) s

end Sys2Proof.Machine
end

