-- ==== Sys2Proof/Machine/Scalar.lean ====
section
/-! DEFINITION. Scalar operations (R266) and NOP (R276). -/

namespace Sys2Proof.Machine

/-- `SADD` (R266). -/
def execSadd (c : Ctl) (o : VOp) (s : State) : Host.Outcome State Fault Refusal :=
  sliceWord c 2 (fun sl => rs o.d.toNat (iaddV o.ty o.sat (sl.s o.a.toNat) (srcS sl o.b))) s

/-- `SSUB` (R266). -/
def execSsub (c : Ctl) (o : VOp) (s : State) : Host.Outcome State Fault Refusal :=
  sliceWord c 2 (fun sl => rs o.d.toNat (isubV o.ty o.sat (sl.s o.a.toNat) (srcS sl o.b))) s

/-- `SMOV` (R266). -/
def execSmov (c : Ctl) (o : VOp) (s : State) : Host.Outcome State Fault Refusal :=
  sliceWord c 2 (fun sl => rs o.d.toNat ((srcS sl o.b))) s

/-- `SMOVI` (R266). -/
def execSmovi (c : Ctl) (o : VOp) (s : State) : Host.Outcome State Fault Refusal :=
  sliceWord c 2 (fun sl => rs o.d.toNat (moviV (sl.s o.a.toNat) (srcS sl o.b))) s

/-- `SCMP` (R266: the one result goes to pd in every active lane of the slice). -/
def execScmp (c : Ctl) (o : COp) (s : State) : Host.Outcome State Fault Refusal :=
  withSplit s fun b g sp =>
    let s := onMembers s b g sp fun sl =>
      if takes c sl then
        sl.active.foldl (fun sl' j =>
          queueResults g.budget s.now 2 j (rp o.pd.toNat (isetpV o.cond o.u (sl.s o.a.toNat) (srcS sl o.b))) sl') sl
      else sl
    finish s b g sp c

/-- `SMUL` (R266). -/
def execSmul (c : Ctl) (o : VOp) (s : State) : Host.Outcome State Fault Refusal :=
  sliceWord c 2 (fun sl => rs o.d.toNat (imulV o.ty o.sat (sl.s o.a.toNat) (srcS sl o.b))) s

/-- `SSHL` (R266). -/
def execSshl (c : Ctl) (o : VOp) (s : State) : Host.Outcome State Fault Refusal :=
  sliceWord c 2 (fun sl => rs o.d.toNat (shlV (sl.s o.a.toNat) (srcS sl o.b))) s

/-- `SSHR` (R266: SAR under .s32). -/
def execSshr (c : Ctl) (o : VOp) (s : State) : Host.Outcome State Fault Refusal :=
  sliceWord c 2 (fun sl => rs o.d.toNat (if o.ty == .s32 then sarV (sl.s o.a.toNat) (srcS sl o.b) else shrV (sl.s o.a.toNat) (srcS sl o.b))) s

/-- `SAND` (R266). -/
def execSand (c : Ctl) (o : VOp) (s : State) : Host.Outcome State Fault Refusal :=
  sliceWord c 2 (fun sl => rs o.d.toNat ((sl.s o.a.toNat) &&& (srcS sl o.b))) s

/-- `SOR` (R266). -/
def execSor (c : Ctl) (o : VOp) (s : State) : Host.Outcome State Fault Refusal :=
  sliceWord c 2 (fun sl => rs o.d.toNat ((sl.s o.a.toNat) ||| (srcS sl o.b))) s

/-- `SBFE` (R264, R266). -/
def execSbfe (c : Ctl) (o : VOp) (s : State) : Host.Outcome State Fault Refusal :=
  sliceWord c 2 (fun sl => rs o.d.toNat (bfeV (sl.s o.a.toNat) (bfPos (srcS sl o.b)) (bfLen (srcS sl o.b)) (o.ty == .s32))) s

/-- `SMAX` (R266). -/
def execSmax (c : Ctl) (o : VOp) (s : State) : Host.Outcome State Fault Refusal :=
  sliceWord c 2 (fun sl => rs o.d.toNat (maxV (tySigned o.ty) (sl.s o.a.toNat) (srcS sl o.b))) s

/-- `SMIN` (R266). -/
def execSmin (c : Ctl) (o : VOp) (s : State) : Host.Outcome State Fault Refusal :=
  sliceWord c 2 (fun sl => rs o.d.toNat (minV (tySigned o.ty) (sl.s o.a.toNat) (srcS sl o.b))) s

/-- `NOP` (R276: STALL and BRK act). -/
def execNop (c : Ctl) (s : State) : Host.Outcome State Fault Refusal :=
  withSplit s fun b g sp => finish s b g sp c

end Sys2Proof.Machine
end

