-- ==== Sys2Proof/Machine/Dispatch.lean ====
section
/-! DEFINITION. The dispatch: one arm per constructor of `Instr`, each a call of its meaning. -/

namespace Sys2Proof.Machine

/-- The meaning of an instruction, or of a step of the device or of a party around it. -/
def exec (i : Instr) (s : State) : Host.Outcome State Fault Refusal :=
  match i with
  | .iadd c o => Sys2Proof.Machine.execIadd c o s
  | .isub c o => Sys2Proof.Machine.execIsub c o s
  | .imul c o => Sys2Proof.Machine.execImul c o s
  | .iminS c o => Sys2Proof.Machine.execIminS c o s
  | .iminU c o => Sys2Proof.Machine.execIminU c o s
  | .imaxS c o => Sys2Proof.Machine.execImaxS c o s
  | .imaxU c o => Sys2Proof.Machine.execImaxU c o s
  | .iabs c o => Sys2Proof.Machine.execIabs c o s
  | .andB c o => Sys2Proof.Machine.execAndB c o s
  | .orB c o => Sys2Proof.Machine.execOrB c o s
  | .xorB c o => Sys2Proof.Machine.execXorB c o s
  | .andn c o => Sys2Proof.Machine.execAndn c o s
  | .shl c o => Sys2Proof.Machine.execShl c o s
  | .shr c o => Sys2Proof.Machine.execShr c o s
  | .sar c o => Sys2Proof.Machine.execSar c o s
  | .rotl c o => Sys2Proof.Machine.execRotl c o s
  | .popc c o => Sys2Proof.Machine.execPopc c o s
  | .clz c o => Sys2Proof.Machine.execClz c o s
  | .brev c o => Sys2Proof.Machine.execBrev c o s
  | .mov c o => Sys2Proof.Machine.execMov c o s
  | .movi c o => Sys2Proof.Machine.execMovi c o s
  | .sel c o => Sys2Proof.Machine.execSel c o s
  | .isetp c o => Sys2Proof.Machine.execIsetp c o s
  | .iaddc c o => Sys2Proof.Machine.execIaddc c o s
  | .fadd c o => Sys2Proof.Machine.execFadd c o s
  | .fsub c o => Sys2Proof.Machine.execFsub c o s
  | .fmul c o => Sys2Proof.Machine.execFmul c o s
  | .fmin c o => Sys2Proof.Machine.execFmin c o s
  | .fmax c o => Sys2Proof.Machine.execFmax c o s
  | .fsetp c o => Sys2Proof.Machine.execFsetp c o s
  | .fabs c o => Sys2Proof.Machine.execFabs c o s
  | .fneg c o => Sys2Proof.Machine.execFneg c o s
  | .hadd2 c o => Sys2Proof.Machine.execHadd2 c o s
  | .hmul2 c o => Sys2Proof.Machine.execHmul2 c o s
  | .badd2 c o => Sys2Proof.Machine.execBadd2 c o s
  | .bmul2 c o => Sys2Proof.Machine.execBmul2 c o s
  | .hmin2 c o => Sys2Proof.Machine.execHmin2 c o s
  | .hmax2 c o => Sys2Proof.Machine.execHmax2 c o s
  | .pand c o => Sys2Proof.Machine.execPand c o s
  | .por c o => Sys2Proof.Machine.execPor c o s
  | .pxor c o => Sys2Proof.Machine.execPxor c o s
  | .pnot c o => Sys2Proof.Machine.execPnot c o s
  | .pmov c o => Sys2Proof.Machine.execPmov c o s
  | .sadd c o => Sys2Proof.Machine.execSadd c o s
  | .ssub c o => Sys2Proof.Machine.execSsub c o s
  | .smov c o => Sys2Proof.Machine.execSmov c o s
  | .smovi c o => Sys2Proof.Machine.execSmovi c o s
  | .scmp c o => Sys2Proof.Machine.execScmp c o s
  | .shflx c o => Sys2Proof.Machine.execShflx c o s
  | .bcast c o => Sys2Proof.Machine.execBcast c o s
  | .i2f c o => Sys2Proof.Machine.execI2f c o s
  | .f2i c o => Sys2Proof.Machine.execF2i c o s
  | .f2h c o => Sys2Proof.Machine.execF2h c o s
  | .h2f c o => Sys2Proof.Machine.execH2f c o s
  | .f2b c o => Sys2Proof.Machine.execF2b c o s
  | .b2f c o => Sys2Proof.Machine.execB2f c o s
  | .nop c => Sys2Proof.Machine.execNop c s
  | .sext c o => Sys2Proof.Machine.execSext c o s
  | .zext c o => Sys2Proof.Machine.execZext c o s
  | .bfe c o => Sys2Proof.Machine.execBfe c o s
  | .bfi c o => Sys2Proof.Machine.execBfi c o s
  | .fsat c o => Sys2Proof.Machine.execFsat c o s
  | .frnd c o => Sys2Proof.Machine.execFrnd c o s
  | .lmask c o => Sys2Proof.Machine.execLmask c o s
  | .imad c o => Sys2Proof.Machine.execImad c o s
  | .imulhiS c o => Sys2Proof.Machine.execImulhiS c o s
  | .imulhiU c o => Sys2Proof.Machine.execImulhiU c o s
  | .iadd3 c o => Sys2Proof.Machine.execIadd3 c o s
  | .lut3 c o => Sys2Proof.Machine.execLut3 c o s
  | .lea c o => Sys2Proof.Machine.execLea c o s
  | .iadd64 c o => Sys2Proof.Machine.execIadd64 c o s
  | .imad64 c o => Sys2Proof.Machine.execImad64 c o s
  | .ishf c o => Sys2Proof.Machine.execIshf c o s
  | .smul c o => Sys2Proof.Machine.execSmul c o s
  | .sshl c o => Sys2Proof.Machine.execSshl c o s
  | .sshr c o => Sys2Proof.Machine.execSshr c o s
  | .sand c o => Sys2Proof.Machine.execSand c o s
  | .sor c o => Sys2Proof.Machine.execSor c o s
  | .sbfe c o => Sys2Proof.Machine.execSbfe c o s
  | .smax c o => Sys2Proof.Machine.execSmax c o s
  | .bra c o => Sys2Proof.Machine.execBra c o s
  | .brx c o => Sys2Proof.Machine.execBrx c o s
  | .call c o => Sys2Proof.Machine.execCall c o s
  | .callx c o => Sys2Proof.Machine.execCallx c o s
  | .ret c o => Sys2Proof.Machine.execRet c o s
  | .ifp c o => Sys2Proof.Machine.execIfp c o s
  | .elsep c => Sys2Proof.Machine.execElsep c s
  | .endifp c => Sys2Proof.Machine.execEndifp c s
  | .brk c o => Sys2Proof.Machine.execBrk c o s
  | .cont c o => Sys2Proof.Machine.execCont c o s
  | .regang c o => Sys2Proof.Machine.execRegang c o s
  | .regroup c o => Sys2Proof.Machine.execRegroup c o s
  | .vote c o => Sys2Proof.Machine.execVote c o s
  | .shfl c o => Sys2Proof.Machine.execShfl c o s
  | .exit c => Sys2Proof.Machine.execExit c s
  | .yield c => Sys2Proof.Machine.execYield c s
  | .spinh c => Sys2Proof.Machine.execSpinh c s
  | .rdsr c o => Sys2Proof.Machine.execRdsr c o s
  | .wrsr c o => Sys2Proof.Machine.execWrsr c o s
  | .scbra c o => Sys2Proof.Machine.execScbra c o s
  | .prmt c o => Sys2Proof.Machine.execPrmt c o s
  | .redux c o => Sys2Proof.Machine.execRedux c o s
  | .matchL c o => Sys2Proof.Machine.execMatchL c o s
  | .smin c o => Sys2Proof.Machine.execSmin c o s
  | .ffma c o => Sys2Proof.Machine.execFfma c o s
  | .dadd c o => Sys2Proof.Machine.execDadd c o s
  | .dmul c o => Sys2Proof.Machine.execDmul c o s
  | .dfma c o => Sys2Proof.Machine.execDfma c o s
  | .dmin c o => Sys2Proof.Machine.execDmin c o s
  | .dmax c o => Sys2Proof.Machine.execDmax c o s
  | .dsetp c o => Sys2Proof.Machine.execDsetp c o s
  | .frnd64 c o => Sys2Proof.Machine.execFrnd64 c o s
  | .frcp c o => Sys2Proof.Machine.execFrcp c o s
  | .frsq c o => Sys2Proof.Machine.execFrsq c o s
  | .fsqrt c o => Sys2Proof.Machine.execFsqrt c o s
  | .fexp2 c o => Sys2Proof.Machine.execFexp2 c o s
  | .flog2 c o => Sys2Proof.Machine.execFlog2 c o s
  | .fsin c o => Sys2Proof.Machine.execFsin c o s
  | .fcos c o => Sys2Proof.Machine.execFcos c o s
  | .ftanh c o => Sys2Proof.Machine.execFtanh c o s
  | .hfma2 c o => Sys2Proof.Machine.execHfma2 c o s
  | .bfma2 c o => Sys2Proof.Machine.execBfma2 c o s
  | .f2f c o => Sys2Proof.Machine.execF2f c o s
  | .cvtfi c o => Sys2Proof.Machine.execCvtfi c o s
  | .cvtif c o => Sys2Proof.Machine.execCvtif c o s
  | .f2e4 c o => Sys2Proof.Machine.execF2e4 c o s
  | .f2e5 c o => Sys2Proof.Machine.execF2e5 c o s
  | .e42f c o => Sys2Proof.Machine.execE42f c o s
  | .e52f c o => Sys2Proof.Machine.execE52f c o s
  | .qhist c o => Sys2Proof.Machine.execQhist c o s
  | .qscale c o => Sys2Proof.Machine.execQscale c o s
  | .qpack c o => Sys2Proof.Machine.execQpack c o s
  | .qunpk c o => Sys2Proof.Machine.execQunpk c o s
  | .fclass c o => Sys2Proof.Machine.execFclass c o s
  | .fscale c o => Sys2Proof.Machine.execFscale c o s
  | .fdot2 c o => Sys2Proof.Machine.execFdot2 c o s
  | .idp4 c o => Sys2Proof.Machine.execIdp4 c o s
  | .fcopysign c o => Sys2Proof.Machine.execFcopysign c o s
  | .fredux c o => Sys2Proof.Machine.execFredux c o s
  | .dcvt c o => Sys2Proof.Machine.execDcvt c o s
  | .ld c o => Sys2Proof.Machine.execLd c o s
  | .st c o => Sys2Proof.Machine.execSt c o s
  | .ldv c o => Sys2Proof.Machine.execLdv c o s
  | .stv c o => Sys2Proof.Machine.execStv c o s
  | .ldc c o => Sys2Proof.Machine.execLdc c o s
  | .pref c o => Sys2Proof.Machine.execPref c o s
  | .atom c o => Sys2Proof.Machine.execAtom c o s
  | .atomcas c o => Sys2Proof.Machine.execAtomcas c o s
  | .red c o => Sys2Proof.Machine.execRed c o s
  | .atomv c o => Sys2Proof.Machine.execAtomv c o s
  | .fence c o => Sys2Proof.Machine.execFence c o s
  | .mark c o => Sys2Proof.Machine.execMark c o s
  | .bar c o => Sys2Proof.Machine.execBar c o s
  | .binit c o => Sys2Proof.Machine.execBinit c o s
  | .bexp c o => Sys2Proof.Machine.execBexp c o s
  | .barv c o => Sys2Proof.Machine.execBarv c o s
  | .btest c o => Sys2Proof.Machine.execBtest c o s
  | .bret c o => Sys2Proof.Machine.execBret c o s
  | .waitp c o => Sys2Proof.Machine.execWaitp c o s
  | .tlwait c o => Sys2Proof.Machine.execTlwait c o s
  | .tlread c o => Sys2Proof.Machine.execTlread c o s
  | .cctlInv c o => Sys2Proof.Machine.execCctlInv c o s
  | .cctlInvl c o => Sys2Proof.Machine.execCctlInvl c o s
  | .cctlEvict c o => Sys2Proof.Machine.execCctlEvict c o s
  | .syncm c o => Sys2Proof.Machine.execSyncm c o s
  | .ldx c o => Sys2Proof.Machine.execLdx c o s
  | .cpya c o => Sys2Proof.Machine.execCpya c o s
  | .stcw c o => Sys2Proof.Machine.execStcw c o s
  | .tladv c o => Sys2Proof.Machine.execTladv c o s
  | .atom64 c o => Sys2Proof.Machine.execAtom64 c o s
  | .atomf c o => Sys2Proof.Machine.execAtomf c o s
  | .probe c o => Sys2Proof.Machine.execProbe c o s
  | .tokq c o => Sys2Proof.Machine.execTokq c o s
  | .mcpredRd c o => Sys2Proof.Machine.execMcpredRd c o s
  | .mcpredWr c o => Sys2Proof.Machine.execMcpredWr c o s
  | .press c o => Sys2Proof.Machine.execPress c o s
  | .ldnc c o => Sys2Proof.Machine.execLdnc c o s
  | .stnc c o => Sys2Proof.Machine.execStnc c o s
  | .wbinv c o => Sys2Proof.Machine.execWbinv c o s
  | .tload c o => Sys2Proof.Machine.execTload c o s
  | .tstore c o => Sys2Proof.Machine.execTstore c o s
  | .tcopy c o => Sys2Proof.Machine.execTcopy c o s
  | .tgath c o => Sys2Proof.Machine.execTgath c o s
  | .tscat c o => Sys2Proof.Machine.execTscat c o s
  | .creduce c o => Sys2Proof.Machine.execCreduce c o s
  | .cbcast c o => Sys2Proof.Machine.execCbcast c o s
  | .tfill c o => Sys2Proof.Machine.execTfill c o s
  | .tlsig c o => Sys2Proof.Machine.execTlsig c o s
  | .qadd c o => Sys2Proof.Machine.execQadd c o s
  | .qmovi c o => Sys2Proof.Machine.execQmovi c o s
  | .qld c o => Sys2Proof.Machine.execQld c o s
  | .qbra c o => Sys2Proof.Machine.execQbra c o s
  | .qwaitEnd c => Sys2Proof.Machine.execQwaitEnd c s
  | .qwaitUntil c o => Sys2Proof.Machine.execQwaitUntil c o s
  | .mma c o => Sys2Proof.Machine.execMma c o s
  | .mmas c o => Sys2Proof.Machine.execMmas c o s
  | .mmag c o => Sys2Proof.Machine.execMmag c o s
  | .mzero c o => Sys2Proof.Machine.execMzero c o s
  | .mloadt c o => Sys2Proof.Machine.execMloadt c o s
  | .mstoret c o => Sys2Proof.Machine.execMstoret c o s
  | .mcvt c o => Sys2Proof.Machine.execMcvt c o s
  | .mcoop c o => Sys2Proof.Machine.execMcoop c o s
  | .msync c o => Sys2Proof.Machine.execMsync c o s
  | .mtrans c o => Sys2Proof.Machine.execMtrans c o s
  | .maddt c o => Sys2Proof.Machine.execMaddt c o s
  | .mscale c o => Sys2Proof.Machine.execMscale c o s
  | .mhist c o => Sys2Proof.Machine.execMhist c o s
  | .mquant c o => Sys2Proof.Machine.execMquant c o s
  | .mact c o => Sys2Proof.Machine.execMact c o s
  | .mrowred c o => Sys2Proof.Machine.execMrowred c o s
  | .mleaveGet c => Sys2Proof.Machine.execMleaveGet c s
  | .mleavePut c => Sys2Proof.Machine.execMleavePut c s
  | .mfmt c o => Sys2Proof.Machine.execMfmt c o s
  | .sendui c o => Sys2Proof.Machine.execSendui c o s
  | .uiret c => Sys2Proof.Machine.execUiret c s
  | .uimaskWr c o => Sys2Proof.Machine.execUimaskWr c o s
  | .uimaskSet c o => Sys2Proof.Machine.execUimaskSet c o s
  | .uimaskClr c o => Sys2Proof.Machine.execUimaskClr c o s
  | .uimaskHnd c o => Sys2Proof.Machine.execUimaskHnd c o s
  | .uipend c o => Sys2Proof.Machine.execUipend c o s
  | .syscall c o => Sys2Proof.Machine.execSyscall c o s
  | .sysret c o => Sys2Proof.Machine.execSysret c o s
  | .trapret c o => Sys2Proof.Machine.execTrapret c o s
  | .trapretFrz c o => Sys2Proof.Machine.execTrapretFrz c o s
  | .migr c o => Sys2Proof.Machine.execMigr c o s
  | .wlive c o => Sys2Proof.Machine.execWlive c o s
  | .launch c o => Sys2Proof.Machine.execLaunch c o s
  | .emit c o => Sys2Proof.Machine.execEmit c o s
  | .kick c o => Sys2Proof.Machine.execKick c o s
  | .mapctlInv c o => Sys2Proof.Machine.execMapctlInv c o s
  | .mapctlInvall c o => Sys2Proof.Machine.execMapctlInvall c o s
  | .mapctlHost c o => Sys2Proof.Machine.execMapctlHost c o s
  | .mapctlDev c o => Sys2Proof.Machine.execMapctlDev c o s
  | .decld c o => Sys2Proof.Machine.execDecld c o s
  | .bkpt c o => Sys2Proof.Machine.execBkpt c o s
  | .sleepw c o => Sys2Proof.Machine.execSleepw c o s
  | .wheyArrival core => Sys2Proof.Machine.execWheyArrival core s
  | .replicaAdvertisement => Sys2Proof.Machine.execReplicaAdvertisement s
  | .doorbell host asid v => Sys2Proof.Machine.execDoorbell host asid v s
  | .hqRecordRead die q => Sys2Proof.Machine.execHqRecordRead die q s
  | .entryGrant die q => Sys2Proof.Machine.execEntryGrant die q s
  | .launchPlacement die => Sys2Proof.Machine.execLaunchPlacement die s
  | .unitSave u => Sys2Proof.Machine.execUnitSave u s
  | .forcedSave u => Sys2Proof.Machine.execForcedSave u s
  | .saveDrainTimeout u => Sys2Proof.Machine.execSaveDrainTimeout u s
  | .unitRestore u => Sys2Proof.Machine.execUnitRestore u s
  | .slotFiring n => Sys2Proof.Machine.execSlotFiring n s
  | .nodeFlushTimeout asid node => Sys2Proof.Machine.execNodeFlushTimeout asid node s
  | .blockRetirement b => Sys2Proof.Machine.execBlockRetirement b s
  | .launchCompletion l => Sys2Proof.Machine.execLaunchCompletion l s
  | .accessCompletion a => Sys2Proof.Machine.execAccessCompletion a s
  | .engineOpBegin b ctx n => Sys2Proof.Machine.execEngineOpBegin b ctx n s
  | .engineOpCompletion b ctx n => Sys2Proof.Machine.execEngineOpCompletion b ctx n s
  | .leaveGrant die => Sys2Proof.Machine.execLeaveGrant die s
  | .leaveExpiry b ctx => Sys2Proof.Machine.execLeaveExpiry b ctx s
  | .sleepwWake r => Sys2Proof.Machine.execSleepwWake r s
  | .hostUiSend port pasid data => Sys2Proof.Machine.execHostUiSend port pasid data s
  | .uiDelivery asid => Sys2Proof.Machine.execUiDelivery asid s
  | .hostSyscallEnd port pasid data => Sys2Proof.Machine.execHostSyscallEnd port pasid data s
  | .transientRequest m => Sys2Proof.Machine.execTransientRequest m s
  | .transientTimeout die sec => Sys2Proof.Machine.execTransientTimeout die sec s
  | .tokenArrival m => Sys2Proof.Machine.execTokenArrival m s
  | .writeBack m => Sys2Proof.Machine.execWriteBack m s
  | .pressRequest m => Sys2Proof.Machine.execPressRequest m s
  | .pressActivation agent m => Sys2Proof.Machine.execPressActivation agent m s
  | .pressDeactivation sec src => Sys2Proof.Machine.execPressDeactivation sec src s
  | .pressClear agent sec => Sys2Proof.Machine.execPressClear agent sec s
  | .hostSnoop port sec kind => Sys2Proof.Machine.execHostSnoop port sec kind s
  | .cxlMemAccess pa req => Sys2Proof.Machine.execCxlMemAccess pa req s
  | .kickNoticeArrival n => Sys2Proof.Machine.execKickNoticeArrival n s
  | .kickRetry n => Sys2Proof.Machine.execKickRetry n s
  | .copyEnginePull core => Sys2Proof.Machine.execCopyEnginePull core s
  | .markerCopy m => Sys2Proof.Machine.execMarkerCopy m s
  | .markerCompletion id dev => Sys2Proof.Machine.execMarkerCompletion id dev s
  | .vectorRead p => Sys2Proof.Machine.execVectorRead p s
  | .vectorWrite p => Sys2Proof.Machine.execVectorWrite p s
  | .vectorAtomic p => Sys2Proof.Machine.execVectorAtomic p s
  | .readResponse rid data => Sys2Proof.Machine.execReadResponse rid data s
  | .writeAcceptance rid code => Sys2Proof.Machine.execWriteAcceptance rid code s
  | .atomicResponse rid data => Sys2Proof.Machine.execAtomicResponse rid data s
  | .collectiveChunk b n => Sys2Proof.Machine.execCollectiveChunk b n s
  | .fabricRequestTimeout rid => Sys2Proof.Machine.execFabricRequestTimeout rid s
  | .turning die => Sys2Proof.Machine.execTurning die s
  | .linkReplay l => Sys2Proof.Machine.execLinkReplay l s
  | .linkDown l => Sys2Proof.Machine.execLinkDown l s
  | .tokenRecreation sec => Sys2Proof.Machine.execTokenRecreation sec s
  | .census agent sec ser => Sys2Proof.Machine.execCensus agent sec ser s
  | .routeWithdrawal dev => Sys2Proof.Machine.execRouteWithdrawal dev s
  | .hostCompletion tag st data => Sys2Proof.Machine.execHostCompletion tag st data s
  | .hostCompletionTimeout tag => Sys2Proof.Machine.execHostCompletionTimeout tag s
  | .handlerGangClose die => Sys2Proof.Machine.execHandlerGangClose die s
  | .blockResume b => Sys2Proof.Machine.execBlockResume b s
  | .watchdog b gang => Sys2Proof.Machine.execWatchdog b gang s
  | .cxYreq asid v => Sys2Proof.Machine.execCxYreq asid v s
  | .cxHalt asid v => Sys2Proof.Machine.execCxHalt asid v s
  | .dvGtimeSet v => Sys2Proof.Machine.execDvGtimeSet v s
  | .ppsPulse => Sys2Proof.Machine.execPpsPulse s
  | .dvLostClr v => Sys2Proof.Machine.execDvLostClr v s
  | .ovfClear r => Sys2Proof.Machine.execOvfClear r s
  | .errorCounterClear r => Sys2Proof.Machine.execErrorCounterClear r s
  | .registerWrite r v => Sys2Proof.Machine.execRegisterWrite r v s
  | .capWrite cap => Sys2Proof.Machine.execCapWrite cap s
  | .levelRise => Sys2Proof.Machine.execLevelRise s
  | .boot image => Sys2Proof.Machine.execBoot image s
  | .firmwarePush image => Sys2Proof.Machine.execFirmwarePush image s
  | .supplyReplan => Sys2Proof.Machine.execSupplyReplan s
  | .identityRead off len => Sys2Proof.Machine.execIdentityRead off len s
  | .getVersion => Sys2Proof.Machine.execGetVersion s
  | .getCapabilities => Sys2Proof.Machine.execGetCapabilities s
  | .negotiateAlgorithms => Sys2Proof.Machine.execNegotiateAlgorithms s
  | .getDigests => Sys2Proof.Machine.execGetDigests s
  | .getCertificate => Sys2Proof.Machine.execGetCertificate s
  | .challenge nonce => Sys2Proof.Machine.execChallenge nonce s
  | .getMeasurements => Sys2Proof.Machine.execGetMeasurements s
  | .evacGo v => Sys2Proof.Machine.execEvacGo v s
  | .evacCopying => Sys2Proof.Machine.execEvacCopying s
  | .evacDraining => Sys2Proof.Machine.execEvacDraining s
  | .evacLatchFree => Sys2Proof.Machine.execEvacLatchFree s
  | .evacFailure cause => Sys2Proof.Machine.execEvacFailure cause s
  | .emptyEntryWord w => Sys2Proof.Machine.execEmptyEntryWord w s
  | .mainSupplyLoss => Sys2Proof.Machine.execMainSupplyLoss s
  | .linkUp l => Sys2Proof.Machine.execLinkUp l s
  | .rangeExport base len t devs => Sys2Proof.Machine.execRangeExport base len t devs s
  | .tokenMessageExpiry m => Sys2Proof.Machine.execTokenMessageExpiry m s
  | .qwaitDeadline b => Sys2Proof.Machine.execQwaitDeadline b s
  | .peerSend dev asid target v p => Sys2Proof.Machine.execPeerSend dev asid target v p s
  | .barMemoryAccess port pa req => Sys2Proof.Machine.execBarMemoryAccess port pa req s
  | .goDataResponse port sec st data => Sys2Proof.Machine.execGoDataResponse port sec st data s
  | .pressAcknowledgement agent sec act => Sys2Proof.Machine.execPressAcknowledgement agent sec act s
  | .pageWalkEnd die asid page => Sys2Proof.Machine.execPageWalkEnd die asid page s

end Sys2Proof.Machine
end

