-- ==== Sys2Proof/Machine/Issue.lean ====
section
/-! DEFINITION. Issue: the fetch of a word (R22, R177, R434), its checks (R408, R462, R463), pipes and ports (R16, R17,
R166, R232), what agents wait for, and the steps that the device takes by itself. -/

namespace Sys2Proof.Machine

/-! ### Fetch -/

/-- What a fetch gives: a word; a state in which it must be tried again; a fault with its level and entry; or the news
that a whey slice has left its segment (R177). -/
inductive Fetched where
  | word (w : DWord) (s : State)
  | wait (s : State)
  | bad (code : BitVec 8) (lvl : Nat) (e : DWord) (s : State)
  | away

/-- The key under which a core keeps a word of host memory that it has fetched. -/
def fetchKey (asid va : Nat) : Nat := 2 ^ 64 + asid * 2 ^ 48 + va

/-- A word of host memory: it comes by a host read (R149). -/
def State.fetchHost (s : State) (core asid va port addr : Nat) : Fetched :=
  let key := fetchKey asid va
  let c := s.core core
  if c.pullIn.any fun x => x.1 == key then
    let at' : Nat → Byte := fun k => ((c.pullIn.find? fun x => x.1 == key + k).map (·.2)).getD 0
    let gone : Core → Core := fun c =>
      { c with pullIn := c.pullIn.filter fun x => !(key ≤ x.1 && x.1 < key + 8), pullAsked := c.pullAsked.erase key }
    .word (BitVec.ofNat 64 (ofBytes ((List.range 8).map at'))) (s.modCore core gone)
  else if let some x := c.pullIn.find? fun x => x.1 == fetchFail asid va then
    let gone : Core → Core := fun c =>
      { c with pullIn := c.pullIn.filter fun x => x.1 != fetchFail asid va, pullAsked := c.pullAsked.erase key }
    .bad x.2 0xFF 0 (s.modCore core gone)
  else if c.pullAsked.contains key then .wait s
  else
    if !s.hostRoom port 1 then .wait s
    else .wait ((s.modCore core fun c => { c with pullAsked := c.pullAsked ++ [key] }).hostRead8 port addr key none (some core))

/-- Keeps a sector of code in a core's instruction store, which holds 64 KiB (R14, R22). -/
def Core.codeFill (c : Core) (asid va : Nat) (d : Sector) : Core :=
  let l := (c.icache.filter fun x => !(x.1 == asid && x.2.1 == va / 64)) ++ [(asid, va / 64, d)]
  { c with icache := l.drop (l.length - 1024) }

/-- A fetched word of a sector, which the instruction store keeps unless its page is not cached (R22, R77). -/
def State.fetchSec (s : State) (core asid va pa : Nat) (e : DWord) (d : Sector) : Fetched :=
  .word (BitVec.ofNat 64 (if va % 64 ≤ 56 then secBytes d (va % 64) 8 else s.rd pa 8))
    (if e.getLsbD 60 || 56 < va % 64 then s else s.modCore core fun c => c.codeFill asid va d)

/-- A fetch must wait for the walk of its page: no unit keeps the translation, and no walk of it has ended in a fault (R27, R439). -/
def State.fetchMiss (s : State) (core asid va : Nat) : Bool :=
  (s.tlbFind (dieOf core) asid va).isNone && !((s.core core).pullIn.any fun x => x.1 == fetchWalk asid va)

/-- The walk that a fetch waits for. -/
def State.fetchWait (s : State) (core asid va : Nat) : State :=
  (s.modCore core fun c => { c with pullAsked := addNew c.pullAsked (fetchWalk asid va) }).startWalk (dieOf core) asid va

/-- The note that the walk of a fetch's page has ended in a fault is used up. -/
def State.fetchSeen (s : State) (core asid va : Nat) : State :=
  if (s.core core).pullIn.any fun x => x.1 == fetchWalk asid va then
    s.modCore core fun c => { c with pullIn := c.pullIn.filter fun x => x.1 != fetchWalk asid va }
  else s

/-- The word at a virtual address of a context: from the instruction store, the core's first-level instruction cache, or from memory
(R22, R77, R438). DESIGN CHOICE (entry 30): a fetch from package memory returns its current value and takes no token; the store keeps
what it holds until the L1 would drop it by an acquire or a MAPCTL; a PC that is not a multiple of 8 fetches the eight bytes at it,
which the store does not keep where they pass the end of a sector. -/
def State.fetchVa (s : State) (core asid : Nat) (pc : BitVec 48) : Fetched :=
  let va := pc.toNat
  match (s.core core).icache.find? fun x => x.1 == asid && x.2.1 == va / 64 && va % 64 ≤ 56 with
  | some x => .word (BitVec.ofNat 64 (secBytes x.2.2 (va % 64) 8)) s
  | none =>
  if s.fetchMiss core asid va then .wait (s.fetchWait core asid va)
  else
  let s := s.fetchSeen core asid va
  match s.xlatAt (dieOf core) asid va .fetch with
  | .inr (c, l, e) => .bad c l e s
  | .inl (pa, e) =>
    match s.place pa with
    | .hostPort port => s.fetchHost core asid va port (pa % 2 ^ 48)
    | .remote =>
      let x := s.l2 (dieOf core) (pa / 64)
      if 1 ≤ x.tokn && x.dv then s.fetchSec core asid va pa e x.data
      else if let some y := (s.core core).pullIn.find? fun y => y.1 == fetchFail asid va then
        .bad y.2 0xFF 0 (s.modCore core fun c => { c with pullIn := c.pullIn.filter fun z => z.1 != fetchFail asid va })
      else .wait (s.need (dieOf core) (pa / 64) false (leafT e) asid)
    | .tokens => match s.refusal (pa / 64) (leafT e) with
      | some c => .bad c 0xFF 0 s
      | none =>
        let x := s.l2 (dieOf core) (pa / 64)
        if s.badAt pa 8 then .bad 0x2D 0xFF 0 s
        else if s.unheld pa && !(1 ≤ x.tokn && x.dv) then .wait (s.need (dieOf core) (pa / 64) false 8 asid)
        else s.fetchSec core asid va pa e (s.current (pa / 64))

/-- The word at a program counter of a block: in whey mode from the segment pinned on its core (R22, R174). -/
def State.fetch (s : State) (b : Block) (pc : BitVec 48) : Fetched :=
  match b.whey with
  | none => s.fetchVa b.core b.asid pc
  | some _ =>
    match (s.core b.core).istore with
    | some (base, len, code) =>
      if base ≤ pc.toNat && pc.toNat < base + 8 * len then
        .word (BitVec.ofNat 64 (ofBytes ((code.drop (pc.toNat - base)).take 8))) s
      else .away
    | none => .away

/-! ### The checks of a word (R408, R462, R463) -/

/-- The stream may issue an operation (R242, R258). -/
def streamOk (u : Bool) (o : OpInfo) : Bool := if u then o.unif else o.lane

/-- A word that is privileged (R257, R277): its operation, or a WRSR or RDSR by its target and X. -/
def privWord (code : Nat) (w : DWord) : Bool :=
  let f := fieldsOf w
  let idx := (f.m.extractLsb' 0 20).toNat
  let x := f.b.getLsbD 1
  (match opRow code with | some o => o.priv | none => false) ||
    (code == 0x0A2 && (x || srPriv idx x)) || (code == 0x0A1 && x)

/-- Every register that a word names, each pair and range whole, lies in its range: the frame of the slice, the tiles
of the block, the 64 uniform registers (R58, R224, R463). -/
def rangesOk (n tcnt : Nat) (u acc64 frozenSr : Bool) (i : Instr) : Bool :=
  (i.touched u).all fun r =>
    match r.file with
    | .v => frozenSr || decide (r.idx < n)
    | .t => decide (r.idx + (match i.info with | some (_, _, .mma _) => acc64.toNat | _ => 0) < tcnt)
    | .q => decide (r.idx < 64)
    | _ => true

/-- The remaining conditions of R463 and R465 that an issuing slice decides. -/
def State.issueOk (s : State) (b : Block) (u : Bool) (g : Gang) (sp : Split) (i : Instr) : Bool :=
  let mem := memberSlices g sp
  let declared : Nat → Bool := fun k => let x := b.bars.getD k {}; x.declared && (!u || x.seqMember)
  match i.info with
  | none => true
  | some (o, c, body) =>
    (!u || (c.pred == 7 && !c.neg)) &&
    (match body with
     | .bar x => declared x.b.toNat
     | .tlsig x => declared x.b.toNat
     | .call x => decide (8 * x.size.toNat ≤ g.budget)
     | .regroup x => x.g.toNat != g.num
     | .n8 m => o.code != 0x09A || sp.slices.all m.getLsbD
     | .sr x => mem.all fun sl =>
         if o.code == 0x0A1 then srListed sl.frozen x.idx.toNat
         else srWritable sl.frozen x.idx.toNat && (x.idx.toNat != 0x110 || s.sup b.asid)
     | _ => true)

/-- The word of a slice is one that R463 calls statically illegal. -/
def State.illegalFor (s : State) (b : Block) (u : Bool) (g : Gang) (sp : Split) (i : Instr) : Bool :=
  let acc64 := u && fmtAcc b.fmt == 1
  let sr := match i.info with | some (o, _, _) => o.kind == .sr | none => false
  !(s.issueOk b u g sp i) ||
  (if u then !(rangesOk 0 b.tcnt u acc64 false i)
   else (memberSlices g sp).any fun sl => !(rangesOk sl.n b.tcnt u acc64 (sr && sl.frozen) i))

/-- A register that an instruction touches while a result is outstanding (R236, R408): file, index and cycles short. -/
def tooEarly (now budget : Nat) (phys : Nat → Nat) (pend : List Pend) (u : Bool) (i : Instr) : Option Nat :=
  (i.touched u).findSome? fun r =>
    let idx := if r.file == .v then phys r.idx % budget else r.idx
    (pend.find? fun p => p.file == r.file && p.idx == idx && decide (now < p.due)).map fun p =>
      let f := match r.file with | .v => 0 | .s => 1 | .p => 2 | _ => 3
      f + 256 * r.idx + 65536 * min 255 (p.due - now)

/-- A fault that the checks of R462 find: its code, its detail, and whether its lanes are those in which the word would
take effect. -/
abbrev WordFault := BitVec 8 × Nat × Bool

/-- The instructions of a word. -/
def Decoded.parts : Decoded → List Instr
  | .instr _ i => [i]
  | .pair _ _ x y => [x, y]
  | _ => []

/-- The checks of a word in the order of R462, up to the guard. -/
def State.wordFault (s : State) (b : Block) (u : Bool) (g : Gang) (sp : Split) (w : DWord) : Option WordFault :=
  let d := decodeWord b.table w
  let code := match d with | .instr c _ | .illegal c => some c | _ => none
  let wrong := match code.bind opRow with | some o => !streamOk u o | none => false
  let acc64 := u && fmtAcc b.fmt == 1
  let is := Decoded.parts d
  let pend := if u then none else some (memberSlices g sp)
  let early := is.findSome? fun i => match pend with
    | none => tooEarly s.now 1 (fun k => k) b.seq.pend true i
    | some l => l.findSome? fun sl => tooEarly s.now (max g.budget 1) (fun k => sl.base + k) sl.pend false i
  if u && w.getLsbD 63 then some (0x02, 0, false)
  else if d == .empty || wrong then some (0x01, 0, false)
  else match d with
    | .badPair r => some (0x02, r, false)
    | _ =>
      if !s.sup b.asid && (match code with | some c => privWord c w | none => false) then some (0x03, 0, false)
      else if is.isEmpty || is.any (s.illegalFor b u g sp) then some (0x01, 0, false)
      else match is.findSome? fun i => i.oddField u acc64 with
        | some f => some (0x0E, f, true)
        | none => if (s.cxr b.asid 0x103).getLsbD 0 then early.map fun x => (0x04, x, true) else none

/-- Takes the fault of a lane-stream word; a code whose lanes would be none is not raised (R408). -/
def State.takeWordFault (s : State) (b : Block) (g : Gang) (sp : Split) (c : Ctl) (f : WordFault) : Option State :=
  let who := if f.2.2 then (memberSlices g sp).map fun sl => (sl.num, if sl.frozen then (if takes c sl then [0] else []) else effLanes c sl)
    else splitLanes g sp
  if who.all fun x => x.2.isEmpty then none else some (trapWord s b g sp c f.1 who 0 f.2.1)

/-! ### Pipes (R16, R17) -/

/-- Takes one pipe of a port from this cycle on, if it is free. -/
def Port.takeOne (p : Port) (now n : Nat) : Option Port :=
  if p.pipeA ≤ now then some { p with pipeA := now + n }
  else if p.pipeB ≤ now then some { p with pipeB := now + n }
  else none

/-- Takes both pipes. -/
def Port.takeBoth (p : Port) (now n : Nat) : Option Port :=
  if p.pipeA ≤ now && p.pipeB ≤ now then some { p with pipeA := now + n, pipeB := now + n } else none

/-- The pipes of a port after a word issues, if those that it needs are free (R16). -/
def Port.take (p : Port) (now : Nat) (d : Decoded) : Option Port :=
  match d with
  | .instr _ i => (match i.pipe with
    | .none => some p
    | .one => p.takeOne now 1
    | .both1 => p.takeBoth now 1
    | .both2 => p.takeBoth now 2
    | .sfu => p.takeOne now 4)
  | .pair _ _ x y =>
    let a := x.pipe != .none
    let b := y.pipe != .none
    if (a && decide (now < p.pipeA)) || (b && decide (now < p.pipeB)) then none
    else some { p with pipeA := if a then now + 1 else p.pipeA, pipeB := if b then now + 1 else p.pipeB }
  | _ => some p

/-! ### What agents wait for (R166, R168, R409) -/

/-- A wait of a split is over, or must be looked at again by executing its word. -/
def State.waitOver (s : State) (b : Block) (g : Gang) (sp : Split) : Bool :=
  let d := dieOf b.core
  let mem := memberSlices g sp
  match sp.wait with
  | .none => true
  | .waitp k path thr => (match g.slice k with | some sl => sl.pathsLow path thr | none => true)
  | .bar n ph => decide (ph < (b.bars.getD n {}).phase)
  | .regang _ => false
  | .regroup p _ _ =>
    (match b.gang p with
     | none => true
     | some h => !g.loadsOpen && (h.retired || (h.regroupWait.isSome && !h.loadsOpen)))
  | .syncm => !(mem.any fun sl => sl.syncm.any fun x => x.2 != 0)
  | .tlwait k n => decide (n ≤ (b.tlOf k).counter)
  | .btest slot vn => let x := s.vlRd d slot 16; !barArmed x || barPassed x vn
  | .sleepw _ => false
  | .uiret => g.atUiret
  | .syscall recs => !(s.sc.any fun r => recs.contains r.id)
  | .launch q => s.grants d q || !s.launchQueue d q b.asid
  | .emit q => s.grants d q || s.emitFull d q b.asid
  | .release sc n => !(mem.any fun sl => s.relWaits ⟨b.id, g.num, sl.num⟩ sc n)
  | .counter path => !(mem.any fun sl => pathFull sl path)
  | .departure => mem.all Slice.settled

/-- A wait of the sequencer is over, or must be looked at again. -/
def State.seqOver (s : State) (b : Block) : Bool :=
  let d := dieOf b.core
  match b.seq.wait with
  | .none => true
  | .bar n ph => decide (ph < (b.bars.getD n {}).phase)
  | .tlwait k n => decide (n ≤ (b.tlOf k).counter)
  | .until' t => decide (t ≤ s.gtime)
  | .ended => false
  | .full k => decide ((b.open' k).length < 16)
  | .tlsig => decide (b.sigs.length < 16)
  | .leave => !((s.die d).gov.queue.any fun x => x.1 == b.id)
  | .launch q => s.grants d q || !s.launchQueue d q b.asid
  | .emit q => s.grants d q || s.emitFull d q b.asid
  | .release sc n => !s.relWaits (seqWho b) sc n
  | .engines => !(b.ops.any fun x => !x.done)
  | .load q => !b.seq.held.contains q
  | .counter path => decide (accCount b.seq.acc path < 63)

/-- A block's die and context let it issue. -/
def State.blkRuns (s : State) (b : Block) : Bool := s.dieRuns (dieOf b.core) && !b.saving

/-- A split is ready: its next word may issue and it waits for nothing (R166); in a halted block only a run that was
under way goes on (R409), and slices that have yielded to a request stop (R168). -/
def State.ready (s : State) (b : Block) (g : Gang) (sp : Split) : Bool :=
  s.blkRuns b && !sp.stop && !sp.slices.isEmpty && decide (sp.readyAt ≤ s.now) &&
    (sp.inRun || (b.halt.isNone && !s.ctxHalted b.asid)) &&
    !(b.yreq && (memberSlices g sp).any (·.yielded)) && s.waitOver b g sp

/-- The sequencer is ready. Under a yield request it stops at its next word (R168). -/
def State.seqReady (s : State) (b : Block) : Bool :=
  s.blkRuns b && b.unif && !b.seq.ended && !b.seq.stop && b.halt.isNone && !s.ctxHalted b.asid && !b.yreq &&
    decide (b.seq.readyAt ≤ s.now) && s.seqOver b

/-! ### Arbitration (R166) -/

/-- A split at a port, with its place in the port's order: SEQX and %gang, or the slice slot in whey mode. -/
structure PortSplit where
  key : Nat × Nat
  b : Block
  g : Gang
  sp : Split

/-- The splits at a port of a core. -/
def State.portSplits (s : State) (c p : Nat) : List PortSplit :=
  (s.blocks.filter fun b => b.core == c).flatMap fun b => (b.gangs.filter fun g => g.port == p).flatMap fun g =>
    g.splits.map fun sp => { key := match b.whey with | some (slot, _) => (0, slot) | none => (b.seqx, g.num), b, g, sp }

/-- The order of keys. -/
def keyLe (x y : Nat × Nat) : Bool := decide (x.1 < y.1 ∨ (x.1 = y.1 ∧ x.2 ≤ y.2))

/-- The order of a port: gangs, then lowest slice number. -/
def portLe (x y : PortSplit) : Bool :=
  if x.key == y.key then decide (x.sp.slices.headD 0 ≤ y.sp.slices.headD 0) else keyLe x.key y.key

/-- The winner of an arbitration among ready splits (R166). -/
def pickWinner (last : Option (Nat × Nat)) (l : List PortSplit) : Option PortSplit :=
  let l := sortBy portLe l
  let most := ((l.filter fun x => 4 ≤ x.sp.losses).map fun x => x.sp.losses).foldl max 0
  if 4 ≤ most then l.find? fun x => x.sp.losses == most
  else match last with
    | none => l.head?
    | some k => match l.find? fun x => !keyLe x.key k with
      | some x => some x
      | none => l.head?

/-- The split that a port issues in this cycle: the one whose run is under way, or the winner. -/
def State.portPick (s : State) (c p : Nat) : Option PortSplit :=
  match (s.core c).ports[p]? with
  | none => none
  | some port =>
    if port.last == some s.now then none
    else
      let all := s.portSplits c p
      let own := match port.owner with
        | some (bid, gn, k) => all.find? fun (x : PortSplit) => x.b.id == bid && x.g.num == gn && x.sp.slices.contains k && x.sp.inRun && !x.sp.stop
        | none => none
      match own with
      | some x => if s.ready x.b x.g x.sp then some x else none
      | none => pickWinner port.winner (all.filter fun x => s.ready x.b x.g x.sp)

/-- Counts an arbitration's losses, and starts the winner's run (R166). -/
def State.startRun (s : State) (x : PortSplit) : State :=
  if x.sp.inRun then s
  else
    let lost : PortSplit → Bool := fun y => s.ready y.b y.g y.sp
    let s' := (s.portSplits x.b.core x.g.port).foldl (fun s' y =>
      s'.modSplit y.b.id y.g.num (y.sp.slices.headD 0) fun z => { z with losses := if lost y then z.losses + 1 else 0 }) s
    let s' := s'.modSplit x.b.id x.g.num (x.sp.slices.headD 0) fun z => { z with losses := 0, inRun := true, runLen := 0, runStart := s.now }
    let port : Port → Port := fun p => { p with winner := some x.key, owner := some (x.b.id, x.g.num, x.sp.slices.headD 0) }
    s'.modCore x.b.core fun c => { c with ports := c.ports.mapIdx fun i p => if i == x.g.port then port p else p }

/-! ### Issuing a word -/

/-- The state in which a lane-stream word executes: results that are due have landed, the agent and its word are named,
and the skid of earlier accesses is counted (R233, R401). A run is measured from the issue of its first word (R400). -/
def State.beginSplit (s : State) (x : PortSplit) (w : DWord) : State :=
  let skid : Access → Access := fun a => { a with skid := min 24 (a.skid + 1) }
  let slice : Slice → Slice := fun sl =>
    if x.sp.slices.contains sl.num then { sl.landTo s.now with acc := sl.acc.map skid, yielded := false } else sl
  let s := s.modGang x.b.id x.g.num fun g => { g with slices := g.slices.map slice }
  let s := s.modSplit x.b.id x.g.num (x.sp.slices.headD 0) fun z =>
    { z with readyAt := s.now + 1, lastPc := x.g.splitPc x.sp, runStart := if z.runLen == 0 then s.now else z.runStart }
  { s with cur := some (.split x.b.id x.g.num (x.sp.slices.headD 0)), curWord := w }

/-- Executes a decoded word: a pair's halves one after the other, on the registers as they stand (R229). -/
def runWord (d : Decoded) (s : State) : Host.Outcome State Fault Refusal :=
  match d with
  | .instr _ i => exec i s
  | .pair _ _ x y => (match exec x s with
    | .next s => exec y s
    | r => r)
  | _ => .next s

/-- The control fields that end a word. -/
def Decoded.ctl (d : Decoded) : Ctl :=
  match d with
  | .instr _ i => i.ctl
  | .pair _ _ _ y => { y.ctl with slot := .full }
  | _ => {}

/-- Issues the word of a split that its port has picked: it is held while its pipes are (R17), or is checked and
executed (R462). -/
def State.issueWord (s : State) (x : PortSplit) (w : DWord) : Host.Outcome State Fault Refusal :=
  let d := decodeWord x.b.table w
  let k := x.sp.slices.headD 0
  let s := s.startRun x
  let port := (s.core x.b.core).ports.getD x.g.port {}
  match port.take s.now d with
  | none => .next (s.modSplit x.b.id x.g.num k fun z => { z with readyAt := s.now + 1 })
  | some port' =>
    let s := s.modCore x.b.core fun c =>
      { c with ports := c.ports.mapIdx fun i p => if i == x.g.port then { port' with last := some s.now } else p }
    let s := s.beginSplit x w
    match s.blk x.b.id with
    | none => .next s
    | some b =>
      match b.gang x.g.num with
      | none => .next s
      | some g =>
        match g.splitOf k with
        | none => .next s
        | some sp =>
          match (s.wordFault b false g sp w).bind (s.takeWordFault b g sp (Decoded.ctl d)) with
          | some s => .next s
          | none => runWord d s

/-- A split issues: its word is fetched; a fetch fault is precise (R437). -/
def State.issueSplit (s : State) (x : PortSplit) : Host.Outcome State Fault Refusal :=
  let pc := x.g.splitPc x.sp
  let k := x.sp.slices.headD 0
  match s.fetch x.b pc with
  | .word w s => (match s.meetIssue x.b.core with
    | (false, s) => s.issueWord x w
    -- uncorrectable data in the register file (R461)
    | (true, s) => .next (trapMany s x.b x.g x.sp {} (fun sl => nextPc sl.pc) [(0x60, 0, [], splitLanes x.g x.sp)]))
  | .wait s => .next (s.modSplit x.b.id x.g.num k fun z => { z with readyAt := s.now + 1 })
  | .away =>
    .next (if (memberSlices x.g x.sp).all Slice.settled then s.departNow x.b.id
      else s.modSplit x.b.id x.g.num k fun z => { z with wait := .departure })
  | .bad code lvl e s =>
    .next (trapMany s x.b x.g x.sp {} (fun sl => nextPc sl.pc)
      [(code, pc.setWidth 64, memDetail 3 (vaClass pc.toNat).path lvl 0 0 e, splitLanes x.g x.sp)])

/-- The uniform registers that a word names and that a load still holds (R332). -/
def heldBy (q : Sequencer) (i : Instr) : Option Nat :=
  ((i.touched true).find? fun r => r.file == .q && q.held.contains r.idx).map (·.idx)

/-- The state in which a uniform word executes. -/
def State.beginSeq (s : State) (bid : Nat) (w : DWord) : State :=
  let skid : Access → Access := fun a => { a with skid := min 24 (a.skid + 1) }
  let s := s.modSeq bid fun q => { q.landTo s.now with acc := q.acc.map skid, readyAt := s.now + 1 }
  { s with cur := some (.seq bid), curWord := w }

/-- The sequencer issues its next word (R329, R462). -/
def State.issueSeq (s : State) (b : Block) : Host.Outcome State Fault Refusal :=
  match s.fetch b b.seq.pc with
  | .away => .next s
  | .wait s => .next (s.modSeq b.id fun q => { q with readyAt := s.now + 1 })
  | .bad code lvl e s =>
    let pc := b.seq.pc
    .next (s.trapSeq b.id { code, pc, addr := pc.setWidth 64, agent := 1, detail := memDetail 3 (vaClass pc.toNat).path lvl 0 0 e })
  | .word w s =>
    match s.meetIssue b.core with
    | (true, s) => .next (s.trapSeq b.id { code := 0x60, pc := b.seq.pc, agent := 1 })
    | (false, s) =>
    let s := s.beginSeq b.id w
    match s.blk b.id with
    | none => .next s
    | some b =>
      match s.wordFault b true { num := 16 } { slices := [] } w with
      | some f => .next (trapSeqWord s b f.1 0 f.2.1)
      | none =>
        let d := decodeWord b.table w
        match (Decoded.parts d).findSome? (heldBy b.seq) with
        | some q => .next (waitSeq s b (.load q))
        | none => runWord d s

/-! ### The device's own steps that nothing else announces -/

/-- The wait of a split at SLEEPW is over for one of its slices (R367). -/
def State.sleepers (s : State) (b : Block) : List Event :=
  b.gangs.flatMap fun g => g.splits.filterMap fun sp => match sp.wait with
    | .sleepw l => if !sp.stop && l.any (s.sleepDone b) then some (.sleepwWake ⟨b.id, g.num, sp.slices.headD 0⟩) else none
    | _ => none

/-- A save of a block's unit can begin, or can be completed (R168, R169, R424). -/
def State.saveDue (s : State) (b : Block) : Bool :=
  let bs := s.unit b.launch
  let h := s.ctxHalted b.asid
  (s.launches.any fun l => l.id == b.launch) && (h || bs.all (·.yreq)) && (h || !(bs.any (·.halt.isSome))) &&
    (bs.any (·.saving) || bs.all fun b => if h then b.idle else b.yieldDone) && (!(bs.all (·.saving)) || bs.all (Block.quiet h))

/-- A halted block can resume (R416, R417). -/
def State.resumeDue (s : State) (b : Block) : Bool :=
  match b.halt with
  | none => false
  | some h => !h.origins.isEmpty && !s.ctxHalted b.asid && b.stopped && (h.origins.all fun o => markDone (s.marksOf b o)) &&
      !(b.gangs.any fun g => g.slices.any fun sl => !(heldNew h sl).isEmpty)

/-- The watchdog of a gang, or of the sequencer, has run out (R400). -/
def State.watchdogs (s : State) (b : Block) : List Event :=
  if b.saving then []
  else
    (b.gangs.filterMap fun g =>
      if g.splits.any fun sp => sp.inRun && watchLimit ≤ s.now - sp.runStart then some (.watchdog b.id (some g.num)) else none) ++
    (if b.unif && !b.seq.ended && !b.seq.stop && b.seq.wait.counted && watchLimit ≤ s.now + 1 - b.seq.readyAt then [.watchdog b.id none] else [])

/-- CX_YIELD_BUDGET cycles have passed and the unit of a block has not yielded (R168, R423, R427). -/
def State.budgetGone (s : State) (b : Block) : Bool :=
  b.yreq && !b.saving && decide (fld (s.cxr b.asid 0x104) 0 32 ≤ b.yspent) && !s.ctxHalted b.asid &&
    !((s.unit b.launch).any fun x => x.halt.isSome || x.saving) && !((s.unit b.launch).all Block.yieldDone)

/-- The collectives of a block whose completion waits for a release that is complete (R339). -/
def State.collsDue (s : State) (b : Block) : List Event :=
  b.ops.filterMap fun op => match op.kind with
    | .coll _ o _ =>
      if op.step == 1 && op.posted == 0 && op.fault.isNone && !s.relWaits (seqWho b) (b.levelScope o.lv.toNat) 0 then
        some (.engineOpCompletion b.id op.ctx op.num) else none
    | _ => none

/-- The steps that a block's state calls for. -/
def State.blockDue (s : State) (b : Block) : List Event :=
  (if s.budgetGone b then [.forcedSave b.id] else []) ++ s.collsDue b ++ s.sleepers b ++ (if s.saveDue b then [.unitSave b.id] else []) ++ (if b.ended then [.blockRetirement b.id] else []) ++
    (if s.resumeDue b then [.blockResume b.id] else []) ++ s.watchdogs b

/-- The steps that launches, interrupts and an evacuation call for (R71, R193, R394). -/
def State.deviceDue (s : State) : List Event :=
  (s.launches.filterMap fun l =>
    if l.nblocks ≤ l.retired && s.complRoom l && (l.phase == 0 || !s.complWaits l.id) then some (.launchCompletion l.id) else none) ++
  (s.ui.filterMap fun u => if (s.uiTaker u.asid).isSome then some (.uiDelivery u.asid) else none) ++
  (if s.evacPhase == 1 || (s.evacPhase == 2 && s.noUnits) then [.evacCopying] else []) ++
  (if s.evacPhase == 4 && !(s.markersOut.any fun m => m.who == evacWho) then [.evacLatchFree] else [])

/-- A split that has lost arbitrations and is not ready has lost none in sequence (R166). -/
def State.calmSplits (s : State) : State :=
  if s.blocks.any fun b => b.gangs.any fun g => g.splits.any fun z => z.losses != 0 && !s.ready b g z then
    { s with blocks := s.blocks.map fun b => { b with gangs := b.gangs.map fun g =>
        { g with splits := g.splits.map fun z => { z with losses := if s.ready b g z then z.losses else 0 } } } }
  else s

/-- Adds the steps that the state calls for and that are not due yet; the level follows CAP (R389); due steps that travel have their packets. -/
def State.poke (s : State) : State :=
  let l := (s.blocks.flatMap s.blockDue) ++ s.deviceDue
  { s with work := s.work ++ l.filter fun e => !s.work.contains e }.settleLevel.calmSplits.syncNet

/-- A holder belongs to another device (R102). -/
def State.foreign (s : State) (sec : Nat) (h : Holder) : Bool :=
  isFab sec && (match h with | .l2 a => a / 8 != s.devNum | .home => !s.homeHere sec)

/-- An event reaches what runs at service level 0, where the management controller alone does: it serves management, the platform and the
links, and no memory, token, fabric, interrupt or scheduler request of others (R388). -/
def atLevel0 : Event → Bool
  | .tokenArrival _ | .writeBack _ | .transientRequest _ | .pressRequest _ | .pressDeactivation .. | .pressAcknowledgement ..
  | .pressActivation .. | .pressClear .. | .census .. | .kickNoticeArrival _ | .doorbell .. | .hostUiSend .. | .hostSyscallEnd ..
  | .hostSnoop .. | .cxlMemAccess .. | .markerCopy _ | .markerCompletion .. | .vectorRead _ | .vectorWrite _ | .vectorAtomic _
  | .readResponse .. | .writeAcceptance .. | .atomicResponse .. | .hostCompletion .. | .peerSend .. | .barMemoryAccess ..
  | .goDataResponse .. => false
  | _ => true

/-- An event comes from outside the device: the host, management and supervisor software, other devices, links and the platform. A
message of the fabric must come from another device. The device's other steps are taken when they are due. At service level 0 there are
only those of the management controller (R388). -/
def State.outside (s : State) (e : Event) : Bool :=
  (s.level != 0 || atLevel0 e) && match e with
  | .tokenArrival m => s.foreign m.sec m.src
  | .writeBack m => s.foreign m.sec m.src || !s.homeHere m.sec
  | .transientRequest m => s.foreign m.sec (.l2 m.src)
  | .pressRequest m => s.foreign m.sec m.src
  | .pressDeactivation sec src => s.foreign sec src
  | .pressAcknowledgement agent sec _ => s.foreign sec (.l2 agent)
  | .pressActivation _ m => s.foreign m.sec .home
  | .pressClear _ sec | .census _ sec _ => s.foreign sec .home
  | .kickNoticeArrival n => n.sdev != s.devNum
  | .doorbell .. | .hostUiSend .. | .hostSyscallEnd .. | .hostSnoop .. | .cxlMemAccess ..
  | .markerCopy _ | .markerCompletion .. | .vectorRead _ | .vectorWrite _ | .vectorAtomic _
  | .readResponse .. | .writeAcceptance .. | .atomicResponse .. | .linkReplay _ | .linkDown _ | .linkUp _
  | .routeWithdrawal _ | .hostCompletion .. | .cxYreq .. | .cxHalt .. | .dvGtimeSet _ | .ppsPulse | .dvLostClr _
  | .ovfClear _ | .errorCounterClear _ | .registerWrite .. | .capWrite _ | .levelRise | .boot _ | .firmwarePush _ | .supplyReplan
  | .identityRead .. | .getVersion | .getCapabilities | .negotiateAlgorithms | .getDigests | .getCertificate | .challenge _
  | .getMeasurements | .evacGo _ | .evacDraining | .evacFailure _ | .mainSupplyLoss | .rangeExport .. | .tokenMessageExpiry _
  | .peerSend .. | .barMemoryAccess .. | .goDataResponse .. => true
  | _ => false

/-! ### Time (R34, R35, R162) -/

/-- A cycle counts toward CX_YIELD_BUDGET in the blocks of a unit that is asked to yield, unless one of them is halted (R168, R427). -/
def State.countYield (s : State) : State :=
  if s.blocks.any (·.yreq) then
    { s with blocks := s.blocks.map fun b =>
        if b.yreq && !b.saving && !((s.unit b.launch).any fun x => x.halt.isSome) then { b with yspent := b.yspent + 1 } else b }
  else s

/-- One core cycle passes. The correction of %gtime is spread over time, one nanosecond in each 5 µs (R162). -/
def State.tick (s : State) : State :=
  let s := s.countYield
  let n := (s.gfrac + s.cycle7) / 7
  let acc := s.slewAcc + n
  let due := decide (5000 ≤ acc) && s.slew != 0
  let up := due && decide (0 < s.slew)
  let down := due && decide (s.slew < 0)
  { s with
    now := s.now + 1
    net7 := s.net7 + s.cycle7
    work := s.work ++ turnsDue s.net7 (s.net7 + s.cycle7)
    gfrac := (s.gfrac + s.cycle7) % 7
    gtime := (s.gtime + n + up.toNat - down.toNat) % 2 ^ 64
    slew := if up then s.slew - 1 else if down then s.slew + 1 else s.slew
    slewAcc := if s.slew == 0 then 0 else if due then acc - 5000 else acc }

/-! ### One turn -/

/-- Agent `a` may issue in this cycle. -/
def State.mayIssue (s : State) (a : Agent) : Option (Sum PortSplit Block) :=
  match a with
  | .seq bid => (s.blk bid).bind fun b => if s.seqReady b then some (.inr b) else none
  | .split bid gn k =>
    (s.blk bid).bind fun b => (b.gang gn).bind fun g => (s.portPick b.core g.port).bind fun x =>
      if x.b.id == bid && x.g.num == gn && x.sp.slices.contains k then some (.inl x) else none

/-- The first agent that may issue in this cycle: the blocks in order, each with its sequencer and its core's ports. -/
def State.firstAgent (s : State) : Option (Sum PortSplit Block) :=
  s.blocks.findSome? fun b =>
    if s.seqReady b then some (.inr b) else (List.range 4).findSome? fun p => (s.portPick b.core p).map .inl

/-- An agent issues. -/
def State.issue (s : State) : Sum PortSplit Block → Host.Outcome State Fault Refusal
  | .inl x => s.issueSplit x
  | .inr b => s.issueSeq b

/-- The first timer that has run out. -/
def State.dueTimer (s : State) : Option (Nat × Event) := s.timers.find? fun x => decide (x.1 ≤ s.gtime)

/-- The oldest due step that has come to where it is taken. -/
def State.dueStep (s : State) : Option Event := s.work.find? s.arrived

/-- What happens with nothing scheduled: the oldest due step of the device that has arrived, else a packet that can crosses a link, else a
timer that has run out, else the first agent that may issue, else a cycle passes (entry 3). -/
def State.turnFree (s : State) : Host.Outcome State Fault Refusal :=
  match s.dueStep with
  | some e => runEvent e { s with work := s.work.erase e }
  | none =>
    match (List.range s.net.length).find? s.canHop with
    | some k => .next (s.hop k)
    | none =>
      match s.dueTimer with
      | some x => runEvent x.2 { s with timers := s.timers.erase x }
      | none =>
        match s.firstAgent with
        | some a => s.issue a
        | none => .next s.tick

/-- One turn (entry 3): what the schedule says, or the free turn. Time passes only in a cycle in which no agent can
issue (R232). -/
def State.turn (s : State) : Host.Outcome State Fault Refusal :=
  match s.plan with
  | [] => s.turnFree
  | t :: rest =>
    let s' : State := { s with plan := rest }
    match t with
    | .issue a => (match s.mayIssue a with | some x => s'.issue x | none => .next s')
    | .work k => (match s.work[k]? with
      | some e => if s.arrived e then runEvent e { s' with work := s.work.eraseIdx k } else .next s'
      | none => .next s')
    | .hop k => .next (s'.hop k)
    | .event e => if s.outside e then runEvent e s' else .next s'
    | .time n =>
      match s.firstAgent with
      | some x => s.issue x
      | none => if n == 0 then .next s' else .next ({ s.tick with plan := .time (n - 1) :: rest })

end Sys2Proof.Machine
end

