-- ==== Sys2Proof/Machine/Step.lean ====
section
/-! DEFINITION. The step of the machine: one turn, and what it makes due (entry 3); and a word placed where the next step
fetches it. -/

namespace Sys2Proof.Machine

/-- One step. -/
def step (s : State) : Host.Outcome State Fault Refusal :=
  match s.turn with
  | .next s => .next s.poke
  | r => r

/-- The byte address of the word that `withFetchWord` places. -/
def probePc : Nat := 0x20000

/-- Bytes of a translation table and of one word: the root's entry 0 leads to a table whose entry 0 maps the first GiB with
load, store and fetch allowed (R77). -/
def probeBytes (w : DWord) : List (Nat × Nat) := [(0x10000, 0x11001), (0x11000, 0x1F), (probePc, w.toNat)]

/-- The slice of the probe's block: four lanes, registers at zero. -/
def probeSlice : Slice :=
  { num := 0, lanes := List.replicate 4 { present := true }, pc := BitVec.ofNat 48 probePc, vregs := (List.range 128).map fun k => (k, 0),
    vlive := 32 }

/-- The probe's block: one gang of one slice on core 0, a sequencer at the same word, every barrier declared. -/
def probeBlock (id now : Nat) : Block :=
  { id, asid := 1, launch := 0, num := 0, core := 0, firstCore := 0, unif := true, tcnt := 16,
    gangs := [{ num := 0, slices := [probeSlice], splits := [{ slices := [0], readyAt := now }] }],
    bars := List.replicate 16 { declared := true, seqMember := true, expected := 1 },
    seq := { pc := BitVec.ofNat 48 probePc, readyAt := now }, region := { prog := 65536, nslices := 1 },
    levels := [(2, .blk, 4), (6, .dev, 1)] }

/-- `s` with an instruction where the next step fetches it (entry 13): a launch has placed a block of a supervisor context
whose next word it is and whose page the die's unit keeps, and that agent's turn is next: the sequencer for an operation of the uniform stream alone, else the
gang. -/
def State.withFetchWord (s : State) (nbits w : Nat) : State :=
  let w : DWord := BitVec.ofNat 64 (w % 2 ^ nbits)
  let seq := match decodeWord .map3 w with
    | .instr c _ | .illegal c => (match opRow c with | some o => o.unif && !o.lane | none => false)
    | _ => false
  let id := s.nextId
  let s : State :=
    { s with plan := [.issue (if seq then .seq id else .split id 0 0)], blocks := [probeBlock id s.now], cores := [], nextId := id + 1,
             bound := addNew s.bound 1, level := 3, powered := true, platFail := 0, evacPhase := 0 }
  let s := s.modDie 0 fun x => { x with tlb := [{ asid := 1, vpage := 0, size := 30, entry := 0x1F, unit := tlbUnit 1 probePc }] }
  let s := (s.setCx 1 0x100 1).setCx 1 0x101 0x10000
  let s := (((s.setCx 1 0x102 3).setCx 1 0x103 0).setCx 1 0x105 0).setCx 1 0x11F 0
  (probeBytes w).foldl (fun s x => s.wrBytes x.1 (leBytes 8 x.2)) { s with badMem := [], upsets := [] }

end Sys2Proof.Machine
end

