-- ==== Sys2Proof/Safety.lean ====
section
/-! DEFINITION. What counts as a safe run, and the terms in which statements speak of the machine: who issues a word, what a
word of a split may change, and what a register reads at a cycle. -/

namespace Sys2Proof.Machine

/-! ### Safe states -/

/-- The byte memories are in canonical form: rising addresses, no zero byte listed (entry 1). -/
def State.memWf (s : State) : Bool := Memory.wf s.mem && Memory.wf s.vault

/-- A run of `k` steps that never stops and keeps the memories canonical. -/
def State.safeFor (s : State) : Nat → Prop
  | 0 => s.memWf = true
  | k + 1 => s.memWf = true ∧ (match step s with | .next s' => s'.safeFor k | _ => False)

/-! ### Who issues -/

/-- Split `sp` of gang `g` of block `b` issues the word (R48). -/
structure Issues (s : State) (b : Block) (g : Gang) (sp : Split) : Prop where
  cur : ∃ k, s.cur = some (.split b.id g.num k) ∧ g.splitOf k = some sp
  blk : s.blk b.id = some b
  gang : b.gang g.num = some g

/-- The uniform sequencer of block `b` issues the word (R329). -/
structure SeqIssues (s : State) (b : Block) : Prop where
  cur : s.cur = some (.seq b.id)
  blk : s.blk b.id = some b

/-! ### What a register reads -/

/-- The value of physical register `p` of lane `j` that a word issued at cycle `t` reads (R233). -/
def Slice.regAt (sl : Slice) (t p j : Nat) : Word := (sl.landTo t).vphys p j

/-- Predicate `i` of lane `j` as a word issued at cycle `t` reads it (R222, R233). -/
def Slice.predAt (sl : Slice) (t i j : Nat) : Bool := ((sl.landTo t).lane j).p i

/-- Scalar register `i` as a word issued at cycle `t` reads it (R233). -/
def Slice.sregAt (sl : Slice) (t i : Nat) : Word := (sl.landTo t).s i

/-- Uniform register `i` as a word issued at cycle `t` reads it (R233). -/
def Sequencer.qAt (q : Sequencer) (t i : Nat) : DWord := (q.landTo t).q i

/-! ### What a word of a split changes -/

/-- From `s` to `t` only one gang of one block changes, and the issue ports: every slice of the gang as `f` says, its splits,
and nothing else of the machine. -/
def onlyGang (s t : State) (bid gn : Nat) (f : Slice → Slice → Prop) : Prop :=
  t = { s with blocks := t.blocks, cores := t.cores } ∧
  (∀ c, t.core c = { s.core c with ports := (t.core c).ports }) ∧
  (∀ i, i ≠ bid → t.blk i = s.blk i) ∧
  ∀ b, s.blk bid = some b → ∃ b', t.blk bid = some b' ∧ b' = { b with gangs := b'.gangs } ∧
    (∀ n, n ≠ gn → b'.gang n = b.gang n) ∧
    ∀ g, b.gang gn = some g → ∃ g', b'.gang gn = some g' ∧ g' = { g with slices := g'.slices, splits := g'.splits } ∧
      (∀ k, g.slice k = none → g'.slice k = none) ∧
      ∀ k sl, g.slice k = some sl → ∃ sl', g'.slice k = some sl' ∧ f sl sl'

/-- A word of a split has been executed: each member slice as `f` says, and nothing else but the split itself and its
port. -/
def wordDone (s t : State) (b : Block) (g : Gang) (sp : Split) (f : Slice → Slice → Prop) : Prop :=
  onlyGang s t b.id g.num fun sl sl' => if sp.slices.contains sl.num then f sl sl' else sl' = sl

/-- A slice goes on at `pc`; its lanes, registers and all else are what they were, but for results to be written. The first
half of a pair moves nothing (R229). -/
def wentOn (c : Ctl) (pc : BitVec 48) (sl sl' : Slice) : Prop :=
  sl' = if c.slot == .x then { sl with pend := sl'.pend } else { sl with pc, execMask := none, pend := sl'.pend }

/-- Every register of a slice reads at every cycle as before, but those that `w` names: by file, register, lane and cycle. -/
def keepsBut (sl sl' : Slice) (w : RFile → Nat → Nat → Nat → Prop) : Prop :=
  ∀ t, (∀ p j, j < 4 → ¬ w .v p j t → sl'.regAt t p j = sl.regAt t p j) ∧
    (∀ i j, ¬ w .p i j t → sl'.predAt t i j = sl.predAt t i j) ∧
    (∀ i, ¬ w .s i 0 t → sl'.sregAt t i = sl.sregAt t i)

/-- A vector word has left in register `d` of each lane in which it takes effect the value `val`, to be read `lat` cycles
on (R222, R233). -/
def vecDone (c : Ctl) (lat now budget : Nat) (d : BitVec 8) (val : Slice → Nat → Word) (sl sl' : Slice) : Prop :=
  wentOn c (nextPc sl.pc) sl sl' ∧
  (∀ j, j ∈ effLanes c sl → sl'.regAt (now + lat) (sl.phys budget d.toNat) j = val sl j) ∧
  keepsBut sl sl' fun f p j t => f = .v ∧ p = sl.phys budget d.toNat ∧ j ∈ effLanes c sl ∧ now + lat ≤ t

/-- The same for a pair (R204). -/
def pairDone (c : Ctl) (lat now budget : Nat) (d : BitVec 8) (val : Slice → Nat → DWord) (sl sl' : Slice) : Prop :=
  wentOn c (nextPc sl.pc) sl sl' ∧
  (∀ j, j ∈ effLanes c sl → pair64 (sl'.regAt (now + lat) (sl.phys budget d.toNat) j)
    (sl'.regAt (now + lat) (sl.phys budget (d.toNat + 1)) j) = val sl j) ∧
  keepsBut sl sl' fun f p j t =>
    f = .v ∧ (p = sl.phys budget d.toNat ∨ p = sl.phys budget (d.toNat + 1)) ∧ j ∈ effLanes c sl ∧ now + lat ≤ t

/-- The same for a predicate; predicate 7 keeps reading 1 (R222). -/
def predDone (c : Ctl) (lat now : Nat) (pd : BitVec 3) (val : Slice → Nat → Bool) (sl sl' : Slice) : Prop :=
  wentOn c (nextPc sl.pc) sl sl' ∧
  (∀ j, j ∈ effLanes c sl → sl'.predAt (now + lat) pd.toNat j = (pd == 7 || val sl j)) ∧
  keepsBut sl sl' fun f i j t => f = .p ∧ i = pd.toNat ∧ j ∈ effLanes c sl ∧ now + lat ≤ t

/-- The same for a scalar, once in a slice in which the word takes effect (R222, R266). -/
def scalarDone (c : Ctl) (lat now : Nat) (d : BitVec 8) (val : Slice → Word) (sl sl' : Slice) : Prop :=
  wentOn c (nextPc sl.pc) sl sl' ∧
  (takes c sl = true → sl'.sregAt (now + lat) d.toNat = val sl) ∧
  keepsBut sl sl' fun f i _ t => f = .s ∧ i = d.toNat ∧ takes c sl = true ∧ now + lat ≤ t

end Sys2Proof.Machine
end

