-- ==== Sys2Proof/Certificates/Slice0/Obligations.lean ====
section
/-! DEFINITION. The statements for the provers, and the tables of values in which they are written. -/

open Sys2Proof Sys2Proof.Machine

/-! ### Vector words with a 32-bit result -/

/-- The integer that a register holds under a type: unsigned under .u32, else signed (R263). -/
def Sys2Proof.Terms.int32 (ty : Ty) (w : Word) : Int := if ty = .u32 then w.toNat else w.toInt

/-- An exact integer written into a register: wrapped, or clamped under .sat (R205, R263). -/
def Sys2Proof.Terms.fit32 (ty : Ty) (sat : Bool) (x : Int) : Word :=
  BitVec.ofInt 32 (if !sat then x else if ty = .u32 then max 0 (min x (2 ^ 32 - 1)) else max (-2 ^ 31) (min x (2 ^ 31 - 1)))

/-- A second source in a lane (R224, R225). -/
def Sys2Proof.Terms.x32 (o : VOp) (budget : Nat) (sl : Slice) (j : Nat) : Word := srcV budget sl j o.b

/-- A row of a table: an instruction and its value as a function of the sources. -/
def Sys2Proof.Terms.row3 (i : Instr) (f : Word → Word → Word → Word) : Instr × (Word → Word → Word → Word) := (i, f)

/-- Integer words (R263 to R265, R268): the result from the sources a, b and c of a lane. -/
def Sys2Proof.Terms.intRows (c : Ctl) (o : VOp) : List (Instr × (Word → Word → Word → Word)) :=
  let int := Terms.int32 o.ty
  let fit := Terms.fit32 o.ty o.sat
  let row := Terms.row3
  [row (.iadd c o) (fun a b _ => fit (int a + int b)),
   row (.isub c o) (fun a b _ => fit (int a - int b)),
   row (.imul c o) (fun a b _ => fit (int a * int b)),
   row (.iminS c o) (fun a b _ => BitVec.ofInt 32 (min a.toInt b.toInt)),
   row (.iminU c o) (fun a b _ => BitVec.ofNat 32 (min a.toNat b.toNat)),
   row (.imaxS c o) (fun a b _ => BitVec.ofInt 32 (max a.toInt b.toInt)),
   row (.imaxU c o) (fun a b _ => BitVec.ofNat 32 (max a.toNat b.toNat)),
   row (.iabs c o) (fun _ b _ => BitVec.ofInt 32 (if o.sat then min |b.toInt| (2 ^ 31 - 1) else |b.toInt|)),
   row (.andB c o) (fun a b _ => a &&& b)] ++
  [row (.orB c o) (fun a b _ => a ||| b),
   row (.xorB c o) (fun a b _ => a ^^^ b),
   row (.andn c o) (fun a b _ => a &&& ~~~b),
   row (.shl c o) (fun a b _ => BitVec.ofNat 32 (a.toNat * 2 ^ (b.toNat % 256))),
   row (.shr c o) (fun a b _ => BitVec.ofNat 32 (a.toNat / 2 ^ (b.toNat % 256))),
   row (.sar c o) (fun a b _ => BitVec.ofInt 32 (a.toInt / 2 ^ min (b.toNat % 256) 31)),
   row (.rotl c o) (fun a b _ => a <<< (b.toNat % 32) ||| a >>> (32 - b.toNat % 32)),
   row (.popc c o) (fun _ b _ => BitVec.ofNat 32 ((List.range 32).map fun i => (b.getLsbD i).toNat).sum),
   row (.clz c o) (fun _ b _ => BitVec.ofNat 32 (32 - Nat.size b.toNat))] ++
  [row (.brev c o) (fun _ b _ => b.reverse),
   row (.mov c o) (fun _ b _ => b),
   row (.movi c o) (fun a b _ => BitVec.ofNat 32 (b.toNat * 2 ^ 12 + a.toNat % 2 ^ 12)),
   row (.sext c o) (fun a b _ => if 32 ≤ b.toNat % 64 then a else (a.setWidth (b.toNat % 64)).signExtend 32),
   row (.zext c o) (fun a b _ => if 32 ≤ b.toNat % 64 then a else BitVec.ofNat 32 (a.toNat % 2 ^ (b.toNat % 64))),
   row (.bfe c o) (fun a b _ => bfeV a (b.toNat % 256) (b.toNat / 256 % 256) (o.ty == .s32)),
   row (.bfi c o) (fun a b c => bfiV c a (b.toNat % 256) (b.toNat / 256 % 256)),
   row (.imad c o) (fun a b c => fit (int a * int b + int c)),
   row (.imulhiS c o) (fun a b _ => BitVec.ofInt 32 (a.toInt * b.toInt / 2 ^ 32))] ++
  [row (.imulhiU c o) (fun a b _ => BitVec.ofNat 32 (a.toNat * b.toNat / 2 ^ 32)),
   row (.iadd3 c o) (fun a b c => fit (int a + int b + int c)),
   row (.lut3 c o) (fun a b c => lut3V o.k a b c),
   row (.lea c o) (fun a b _ => BitVec.ofNat 32 (a.toNat + b.toNat * 2 ^ o.k.toNat)),
   row (.ishf c o) (fun a b c =>
     let v := b.toNat * 2 ^ 32 + a.toNat
     BitVec.ofNat 32 (if o.x then v * 2 ^ (c.toNat % 64) % 2 ^ 64 / 2 ^ 32 else v / 2 ^ (c.toNat % 64))),
   row (.prmt c o) (fun a b c => prmtV a b c)]

/-- R263 to R265: an integer word writes in each lane in which it takes effect, and nowhere else, the value of its table row, to be
read four cycles on; its slices go on to the next word and nothing else of the machine changes. -/
def Obligations.IntegerWords : Prop :=
  ∀ (s : State) (b : Block) (g : Gang) (sp : Split) (c : Ctl) (o : VOp), Issues s b g sp → b.halt = none →
    ∀ r ∈ Terms.intRows c o, ∃ t, exec r.1 s = .next t ∧
      wordDone s t b g sp (vecDone c 4 s.now g.budget o.d fun sl j =>
        r.2 (sl.v g.budget o.a.toNat j) (Terms.x32 o g.budget sl j) (sl.v g.budget o.c.toNat j))

/-- The exact value of an FP32 register (R206). -/
def Sys2Proof.Terms.f32 (w : Word) : FV := fS.decode w.toNat

/-- An exact value rounded once into an FP32 register (R209 to R211). -/
def Sys2Proof.Terms.to32 (o : VOp) (x : FV) : Word := BitVec.ofNat 32 (fS.round o.rnd o.sat x)

/-- The signed or unsigned value of byte `k` of a register. -/
def Sys2Proof.Terms.byteOf (signed : Bool) (w : Word) (k : Nat) : Int :=
  if signed then (w.extractLsb' (8 * k) 8).toInt else (w.extractLsb' (8 * k) 8).toNat

/-- Each 16-bit half of a packed operation, in the format `f` (R287). -/
def Sys2Proof.Terms.halves (o : VOp) (f : Fmt) (op : FV → FV → FV → FV) (a b c : Word) : Word :=
  let half := fun (w : Word) (k : Nat) => f.decode (w.toNat / 65536 ^ k % 65536)
  let one := fun (k : Nat) => f.round o.rnd o.sat (op (half a k) (half b k) (half c k))
  BitVec.ofNat 32 (one 0 + 65536 * one 1)

/-- Floating-point words (R280 to R287): the result from the sources a, b and c of a lane. -/
def Sys2Proof.Terms.floatRows (c : Ctl) (o : VOp) : List (Instr × (Word → Word → Word → Word)) :=
  let row := Terms.row3
  let v := Terms.f32
  let to32 := Terms.to32 o
  let nan : Word := 0x7FC00000
  let sum := sumFV o.rnd
  [row (.fadd c o) (fun a b _ => to32 (sum [v a, v b])),
   row (.fsub c o) (fun a b _ => to32 (sum [v a, (v b).negate])),
   row (.fmul c o) (fun a b _ => to32 (mulFV (v a) (v b))),
   row (.ffma c o) (fun a b c => to32 (sum [mulFV (v a) (v b), v c])),
   row (.fmin c o) (fun a b _ =>
     if (v a).isNan then (if (v b).isNan then nan else b) else if (v b).isNan || !ltMin (v b) (v a) then a else b),
   row (.fmax c o) (fun a b _ =>
     if (v a).isNan then (if (v b).isNan then nan else b) else if (v b).isNan || !ltMin (v a) (v b) then a else b),
   row (.fabs c o) (fun _ b _ => if (v b).isNan then nan else b &&& 0x7FFFFFFF),
   row (.fneg c o) (fun _ b _ => if (v b).isNan then nan else b ^^^ 0x80000000),
   row (.fcopysign c o) (fun a b _ => if (v a).isNan then nan else a &&& 0x7FFFFFFF ||| b &&& 0x80000000)] ++
  [row (.fsat c o) (fun _ b _ => if (v b).isNan || b.getLsbD 31 then 0 else if 0x3F800000 ≤ b.toNat then 0x3F800000 else b),
   row (.frnd c o) (fun _ b _ => BitVec.ofNat 32 (fS.rnd o.rnd b.toNat)),
   row (.fscale c o) (fun a b _ => to32 (match v a with | .fin n m e => .fin n m (e + b.toInt) | x => x)),
   row (.fclass c o) (fun _ b _ =>
     if o.ty = .f16 then fH.classOf (b.toNat % 65536) else if o.ty = .bf16 then fB.classOf (b.toNat % 65536) else fS.classOf b.toNat),
   row (.idp4 c o) (fun a b c =>
     let x := ((List.range 4).map fun k =>
       Terms.byteOf (o.x || o.ty != .u32) a k * Terms.byteOf (!o.x && o.ty != .u32) b k).sum
     if o.x then Terms.fit32 .s32 o.sat (x + c.toInt) else Terms.fit32 o.ty o.sat (x + Terms.int32 o.ty c)),
   row (.hadd2 c o) (Terms.halves o fH fun x y _ => sum [x, y]),
   row (.hmul2 c o) (Terms.halves o fH fun x y _ => mulFV x y),
   row (.hfma2 c o) (Terms.halves o fH fun x y z => sum [mulFV x y, z]),
   row (.badd2 c o) (Terms.halves o fB fun x y _ => sum [x, y])] ++
  [row (.bmul2 c o) (Terms.halves o fB fun x y _ => mulFV x y),
   row (.bfma2 c o) (Terms.halves o fB fun x y z => sum [mulFV x y, z]),
   row (.hmin2 c o) (fun a b _ => packed ((fmt16 o.ty).minMax false) a b),
   row (.hmax2 c o) (fun a b _ => packed ((fmt16 o.ty).minMax true) a b)]

/-- R280 to R287: a floating-point word writes in each lane in which it takes effect, and nowhere else, the value of its table row:
an exact result rounded once. It is to be read four cycles on. -/
def Obligations.FloatWords : Prop :=
  ∀ (s : State) (b : Block) (g : Gang) (sp : Split) (c : Ctl) (o : VOp), Issues s b g sp → b.halt = none →
    ∀ r ∈ Terms.floatRows c o, ∃ t, exec r.1 s = .next t ∧
      wordDone s t b g sp (vecDone c 4 s.now g.budget o.d fun sl j =>
        r.2 (sl.v g.budget o.a.toNat j) (Terms.x32 o g.budget sl j) (sl.v g.budget o.c.toNat j))

/-! ### Conversions, and words with sources of other shapes -/

/-- A row whose value is read from the slice and lane. -/
def Sys2Proof.Terms.rowS (i : Instr) (f : Slice → Nat → Word) : Instr × (Slice → Nat → Word) := (i, f)

/-- Sixteen bits written into one half of a register whose other half stays (R291). -/
def Sys2Proof.Terms.half (hi : Bool) (old : Word) (x : Nat) : Word :=
  if hi then BitVec.ofNat 32 (old.toNat % 65536 + 65536 * x) else BitVec.ofNat 32 (old.toNat / 65536 * 65536 + x)

/-- Conversions with a 32-bit result, and QUNPK (R290, R291, R297), with latency 6. -/
def Sys2Proof.Terms.convRows (c : Ctl) (o : VOp) (budget : Nat) : List (Instr × (Slice → Nat → Word)) :=
  let row := Terms.rowS
  let b := fun sl j => Terms.x32 o budget sl j
  let b64 := fun sl j => fD.decode (srcV64 budget sl j o.b).toNat
  let old := fun (sl : Slice) (j : Nat) => sl.v budget o.d.toNat j
  let up : Nat := if o.x then 65536 else 1
  let f8 := fun (f : Fmt) (sl : Slice) (j : Nat) =>
    f.round o.rnd o.sat (Terms.f32 (sl.v budget o.a.toNat j)) + 256 * f.round o.rnd o.sat (Terms.f32 (b sl j))
  [row (.i2f c o) (fun sl j => BitVec.ofNat 32 (fS.round o.rnd false (ofIntFV (Terms.int32 o.ty (b sl j))))),
   row (.f2i c o) (fun sl j => BitVec.ofInt 32 (if o.ty = .u32 then toIntSat 0 (2 ^ 32 - 1) o.rnd (Terms.f32 (b sl j))
     else toIntSat (-2 ^ 31) (2 ^ 31 - 1) o.rnd (Terms.f32 (b sl j)))),
   row (.f2h c o) (fun sl j => Terms.half o.x (old sl j) (fH.round o.rnd o.sat (Terms.f32 (b sl j)))),
   row (.f2b c o) (fun sl j => Terms.half o.x (old sl j) (fB.round o.rnd o.sat (Terms.f32 (b sl j)))),
   row (.h2f c o) (fun sl j => BitVec.ofNat 32 (fS.round .rn false (fH.decode ((b sl j).toNat / up % 65536)))),
   row (.b2f c o) (fun sl j => BitVec.ofNat 32 ((b sl j).toNat / up % 65536 * 65536) |>
     fun w => if (Terms.f32 w).isNan then 0x7FC00000 else w),
   row (.f2e4 c o) (fun sl j => Terms.half o.x (old sl j) (f8 fE4 sl j)),
   row (.f2e5 c o) (fun sl j => Terms.half o.x (old sl j) (f8 fE5 sl j)),
   row (.dcvt c o) (fun sl j => Terms.half o.x (old sl j) ((if o.ty = .bf16 then fB else fH).round o.rnd o.sat (b64 sl j))),
   row (.qunpk c o) (fun sl j =>
     let x := (b sl j).toNat
     BitVec.ofNat 32 (fS.round .rn false (dbDecode o.ty (x % 256) (x / 256 % 256)
       ((sl.v64 budget o.a.toNat j).toNat / 2 ^ (x / 65536 % 64) % 2 ^ dbW o.ty))))]

/-- R290, R291, R297: a conversion writes in each lane in which it takes effect, and nowhere else, the exact source value rounded
once into the destination, whose other half it keeps; it is to be read six cycles on. -/
def Obligations.Conversions : Prop :=
  ∀ (s : State) (b : Block) (g : Gang) (sp : Split) (c : Ctl) (o : VOp), Issues s b g sp → b.halt = none →
    ∀ r ∈ Terms.convRows c o g.budget, ∃ t, exec r.1 s = .next t ∧
      wordDone s t b g sp (vecDone c 6 s.now g.budget o.d fun sl j => r.2 sl j)

/-- R268, R266, R285: SEL takes a where its predicate is true and b elsewhere; LMASK relates every lane to the lane's own number;
FDOT2 rounds the exact sum of two products and c once. Each is written only where the word takes effect, to be read four cycles
on. -/
def Obligations.SelectMaskDot : Prop :=
  ∀ (s : State) (b : Block) (g : Gang) (sp : Split) (c : Ctl) (o : VOp), Issues s b g sp → b.halt = none →
    let x := Terms.x32 o g.budget
    (∃ t, exec (.sel c o) s = .next t ∧ wordDone s t b g sp (vecDone c 4 s.now g.budget o.d fun sl j =>
      if (sl.lane j).p (o.c.toNat % 8) = !o.x then sl.v g.budget o.a.toNat j else x sl j)) ∧
    (∃ t, exec (.lmask c o) s = .next t ∧ wordDone s t b g sp (vecDone c 4 s.now g.budget o.d fun sl j =>
      BitVec.ofNat 32 (((List.range 32).filter fun n => match (x sl j).toNat % 8 with
        | 0 => n == 4 * sl.num + j | 1 => decide (n < 4 * sl.num + j) | 2 => decide (n ≤ 4 * sl.num + j)
        | 3 => decide (4 * sl.num + j < n) | 4 => decide (4 * sl.num + j ≤ n) | 5 => n != 4 * sl.num + j
        | 6 => true | _ => false).map fun n => 2 ^ n).sum)) ∧
    (∃ t, exec (.fdot2 c o) s = .next t ∧ wordDone s t b g sp (vecDone c 4 s.now g.budget o.d fun sl j =>
      let f : Fmt := if o.ty = .f16 then fH else if o.ty = .bf16 then fB else fS
      let lo := fun (v : DWord) => if o.ty = .f16 ∨ o.ty = .bf16 then f.decode (v.toNat % 65536) else f.decode (v.toNat % 2 ^ 32)
      let hi := fun (v : DWord) =>
        if o.ty = .f16 ∨ o.ty = .bf16 then f.decode (v.toNat / 65536 % 65536) else f.decode (v.toNat / 2 ^ 32)
      let av := if o.ty = .f16 ∨ o.ty = .bf16 then (sl.v g.budget o.a.toNat j).setWidth 64 else sl.v64 g.budget o.a.toNat j
      let bv := if o.ty = .f16 ∨ o.ty = .bf16 then (x sl j).setWidth 64 else srcV64 g.budget sl j o.b
      Terms.to32 o (sumFV o.rnd [mulFV (lo av) (lo bv), mulFV (hi av) (hi bv), Terms.f32 (sl.v g.budget o.c.toNat j)])))

/-! ### Pairs -/

/-- A second source of 64 bits in IADD64: a scalar is one register, extended by the type (R265). -/
def Sys2Proof.Terms.x64 (o : VOp) (budget : Nat) (sl : Slice) (j : Nat) : DWord :=
  match o.b with
  | .sreg i => if o.ty = .u32 then (sl.s i.toNat).setWidth 64 else (sl.s i.toNat).signExtend 64
  | b => srcV64 budget sl j b

def Sys2Proof.Terms.int64 (ty : Ty) (w : DWord) : Int := if ty = .u32 then w.toNat else w.toInt

/-- An exact integer written into a pair: wrapped, or clamped under .sat (R262, R265). -/
def Sys2Proof.Terms.fit64 (ty : Ty) (sat : Bool) (x : Int) : DWord :=
  BitVec.ofInt 64 (if !sat then x else if ty = .u32 then max 0 (min x (2 ^ 64 - 1)) else max (-2 ^ 63) (min x (2 ^ 63 - 1)))

/-- A row whose value is a pair, with its latency. -/
def Sys2Proof.Terms.rowP (i : Instr) (lat : Nat) (f : Slice → Nat → DWord) : Instr × Nat × (Slice → Nat → DWord) := (i, lat, f)

/-- Words with a 64-bit result (R265, R286, R290). -/
def Sys2Proof.Terms.pairRows (c : Ctl) (o : VOp) (budget : Nat) : List (Instr × Nat × (Slice → Nat → DWord)) :=
  let row := Terms.rowP
  let a := fun (sl : Slice) j => sl.v64 budget o.a.toNat j
  let b := fun sl j => srcV64 budget sl j o.b
  let c3 := fun (sl : Slice) j => sl.v64 budget o.c.toNat j
  let v := fun (w : DWord) => fD.decode w.toNat
  let to64 := fun (x : FV) => BitVec.ofNat 64 (fD.round o.rnd o.sat x)
  let b32 := Terms.x32 o budget
  let two := fun (f : Fmt) (sl : Slice) (j : Nat) =>
    let h := (b32 sl j).toNat / (if o.x then 65536 else 1) % 65536
    pair64 (BitVec.ofNat 32 (fS.round .rn false (f.decode (h % 256)))) (BitVec.ofNat 32 (fS.round .rn false (f.decode (h / 256))))
  [row (.iadd64 c o) 8 (fun sl j => Terms.fit64 o.ty o.sat (Terms.int64 o.ty (a sl j) + Terms.int64 o.ty (Terms.x64 o budget sl j))),
   row (.imad64 c o) 8 (fun sl j => Terms.fit64 o.ty o.sat (Terms.int32 o.ty (sl.v budget o.a.toNat j) * Terms.int32 o.ty (b32 sl j) +
     Terms.int64 o.ty (c3 sl j))),
   row (.dadd c o) 8 (fun sl j => to64 (sumFV o.rnd [v (a sl j), v (b sl j)])),
   row (.dmul c o) 8 (fun sl j => to64 (mulFV (v (a sl j)) (v (b sl j)))),
   row (.dfma c o) 8 (fun sl j => to64 (sumFV o.rnd [mulFV (v (a sl j)) (v (b sl j)), v (c3 sl j)])),
   row (.dmin c o) 8 (fun sl j => BitVec.ofNat 64 (fD.minMax false (a sl j).toNat (b sl j).toNat)),
   row (.dmax c o) 8 (fun sl j => BitVec.ofNat 64 (fD.minMax true (a sl j).toNat (b sl j).toNat)),
   row (.frnd64 c o) 8 (fun sl j => BitVec.ofNat 64 (fD.rnd o.rnd (b sl j).toNat)),
   row (.cvtif c o) 6 (fun sl j => BitVec.ofNat 64 (fD.round o.rnd false (ofIntFV
     (if o.ty = .w64 then (if o.x then ((b sl j).toNat : Int) else (b sl j).toInt) else Terms.int32 o.ty (b32 sl j))))),
   row (.e42f c o) 6 (two fE4),
   row (.e52f c o) 6 (two fE5)]

/-- R265, R286, R290: a word with a 64-bit result writes the even and the odd register of its pair in each lane in which it takes
effect, and nowhere else, to be read at its latency. -/
def Obligations.PairWords : Prop :=
  ∀ (s : State) (b : Block) (g : Gang) (sp : Split) (c : Ctl) (o : VOp), Issues s b g sp → b.halt = none → g.budget ≠ 1 →
    ∀ r ∈ Terms.pairRows c o g.budget, ∃ t, exec r.1 s = .next t ∧
      wordDone s t b g sp (pairDone c r.2.1 s.now g.budget o.d r.2.2)

/-- R290: F2F and CVTFI write by TYPE: under .64 a pair, else one register; the source is rounded once. -/
def Obligations.ConversionsByType : Prop :=
  ∀ (s : State) (b : Block) (g : Gang) (sp : Split) (c : Ctl) (o : VOp), Issues s b g sp → b.halt = none → g.budget ≠ 1 →
    let b64 := fun sl j => srcV64 g.budget sl j o.b
    let x := fun sl j => fD.decode (b64 sl j).toNat
    (∃ t, exec (.f2f c o) s = .next t ∧ wordDone s t b g sp (
      if o.ty = .w64 then pairDone c 6 s.now g.budget o.d fun sl j => BitVec.ofNat 64 (fD.round .rn o.sat (Terms.f32 (Terms.x32 o g.budget sl j)))
      else vecDone c 6 s.now g.budget o.d fun sl j =>
        if o.ty = .f16 ∨ o.ty = .bf16 then
          let f := if o.ty = .bf16 then fB else fH
          BitVec.ofNat 32 (f.round o.rnd o.sat (Terms.f32 (lo32 (b64 sl j))) + 65536 * f.round o.rnd o.sat (Terms.f32 (hi32 (b64 sl j))))
        else BitVec.ofNat 32 (fS.round o.rnd o.sat (x sl j)))) ∧
    ∃ t, exec (.cvtfi c o) s = .next t ∧ wordDone s t b g sp (
      if o.ty = .w64 then pairDone c 6 s.now g.budget o.d fun sl j => BitVec.ofInt 64
        (if o.x then toIntSat 0 (2 ^ 64 - 1) o.rnd (x sl j) else toIntSat (-2 ^ 63) (2 ^ 63 - 1) o.rnd (x sl j))
      else vecDone c 6 s.now g.budget o.d fun sl j => BitVec.ofInt 32
        (if o.ty = .u32 then toIntSat 0 (2 ^ 32 - 1) o.rnd (x sl j) else toIntSat (-2 ^ 31) (2 ^ 31 - 1) o.rnd (x sl j)))

/-! ### Predicates, carries -/

/-- A row with a predicate result: instruction, latency, destination, value. -/
def Sys2Proof.Terms.rowB (i : Instr) (lat : Nat) (pd : BitVec 3) (f : Slice → Nat → Bool) :
    Instr × Nat × BitVec 3 × (Slice → Nat → Bool) := (i, lat, pd, f)

/-- R267: PAND, POR and PXOR write pa AND pb, pa OR pb and pa XOR pb, PNOT writes NOT pa and PMOV pa, in each lane in which they take
effect; a write to p7 has no effect, and p7 still reads 1. (A one-source word holds its source in `b`; a half with IM = 1 holds
imm9[0] there.) -/
def Obligations.PredicateWords : Prop :=
  ∀ (s : State) (b : Block) (g : Gang) (sp : Split) (c : Ctl) (o : POp), Issues s b g sp → b.halt = none →
    let pa := fun (sl : Slice) j => (sl.lane j).p o.a.toNat
    let pb := fun (sl : Slice) j => match o.b with | .inl i => (sl.lane j).p i.toNat | .inr v => v
    (∀ (l : Lane) (v : Bool), (l.setP 7 v).p 7 = true ∧ l.p 7 = true) ∧
    ∀ r ∈ [Terms.rowB (.pand c o) 4 o.d (fun sl j => pa sl j && pb sl j), Terms.rowB (.por c o) 4 o.d (fun sl j => pa sl j || pb sl j),
        Terms.rowB (.pxor c o) 4 o.d (fun sl j => pa sl j ^^ pb sl j), Terms.rowB (.pnot c o) 4 o.d (fun sl j => !pb sl j),
        Terms.rowB (.pmov c o) 4 o.d pb],
      ∃ t, exec r.1 s = .next t ∧ wordDone s t b g sp (predDone c r.2.1 s.now r.2.2.1 r.2.2.2)

/-- Whether x cond y, for values of which neither is a NaN, from their order (R227). -/
def Sys2Proof.Terms.holds (cond : Cond) (lt eq gt : Bool) : Bool :=
  match cond with
  | .eq => eq | .ne => !eq | .lt => lt | .le => lt || eq | .gt => gt | .ge => gt || eq | .num => true | .nan => false

/-- A floating-point comparison: with a NaN operand the condition gives U, but .num and .nan tell whether there is one (R227,
R284). -/
def Sys2Proof.Terms.compare (o : COp) (x y : FV) : Bool :=
  if x.isNan || y.isNan then (match o.cond with | .nan => true | _ => o.u)
  else Terms.holds o.cond (ltFV x y) (!ltFV x y && !ltFV y x) (ltFV y x)

/-- R268, R284: ISETP, FSETP and DSETP write whether a cond b in each lane in which they take effect, and nowhere else. -/
def Obligations.CompareWords : Prop :=
  ∀ (s : State) (b : Block) (g : Gang) (sp : Split) (c : Ctl) (o : COp), Issues s b g sp → b.halt = none →
    let a := fun (sl : Slice) j => sl.v g.budget o.a.toNat j
    let x := fun sl j => srcV g.budget sl j o.b
    let n := fun (w : Word) => if o.u then (w.toNat : Int) else w.toInt
    ∀ r ∈ [Terms.rowB (.isetp c o) 4 o.pd (fun sl j => Terms.holds o.cond (decide (n (a sl j) < n (x sl j)))
            (decide (n (a sl j) = n (x sl j))) (decide (n (x sl j) < n (a sl j)))),
        Terms.rowB (.fsetp c o) 4 o.pd (fun sl j => Terms.compare o (Terms.f32 (a sl j)) (Terms.f32 (x sl j))),
        Terms.rowB (.dsetp c o) 8 o.pd (fun sl j => Terms.compare o (fD.decode (sl.v64 g.budget o.a.toNat j).toNat)
          (fD.decode (srcV64 g.budget sl j o.b).toNat))],
      ∃ t, exec r.1 s = .next t ∧ wordDone s t b g sp (predDone c r.2.1 s.now r.2.2.1 r.2.2.2)

/-- R263: IADDC writes the low 32 bits of a + b + cin, with cin := p6 or 0 under .nc, and p6 := the carry out of bit 31, only in the
lanes in which it takes effect and at one latency. -/
def Obligations.AddWithCarry : Prop :=
  ∀ (s : State) (b : Block) (g : Gang) (sp : Split) (c : Ctl) (o : VOp), Issues s b g sp → b.halt = none →
    ∃ t, exec (.iaddc c o) s = .next t ∧ wordDone s t b g sp fun sl sl' =>
      let x := fun j => (sl.v g.budget o.a.toNat j).toNat + (Terms.x32 o g.budget sl j).toNat +
        (if o.x then 0 else ((sl.lane j).p 6).toNat)
      wentOn c (nextPc sl.pc) sl sl' ∧
      (∀ j ∈ effLanes c sl, sl'.regAt (s.now + 4) (sl.phys g.budget o.d.toNat) j = BitVec.ofNat 32 (x j % 2 ^ 32) ∧
        sl'.predAt (s.now + 4) 6 j = decide (2 ^ 32 ≤ x j)) ∧
      keepsBut sl sl' fun f i j t => j ∈ effLanes c sl ∧ s.now + 4 ≤ t ∧
        (f = .v ∧ i = sl.phys g.budget o.d.toNat ∨ f = .p ∧ i = 6)

/-! ### Special functions -/

/-- R288, R289: each special function is a fixed map from input bits to output bits, with the special results of R289; it is written
in each lane in which the word takes effect, to be read twelve cycles on. -/
def Obligations.SpecialFunctions : Prop :=
  let pz : Word := 0; let nz : Word := 0x80000000; let pinf : Word := 0x7F800000; let ninf : Word := 0xFF800000
  let nan : Word := 0x7FC00000; let one : Word := 0x3F800000; let mone : Word := 0xBF800000
  ∀ rnd : Rnd, ∃ f : Nat → Word → Word,
    (∀ (s : State) (b : Block) (g : Gang) (sp : Split) (c : Ctl) (o : VOp), Issues s b g sp → b.halt = none → o.rnd = rnd →
      ∀ r ∈ [(Instr.frcp c o, 0), (.frsq c o, 1), (.fsqrt c o, 2), (.fexp2 c o, 3), (.flog2 c o, 4), (.fsin c o, 5), (.fcos c o, 6),
          (.ftanh c o, 7)],
        ∃ t, exec r.1 s = .next t ∧
          wordDone s t b g sp (vecDone c 12 s.now g.budget o.d fun sl j => f r.2 (Terms.x32 o g.budget sl j))) ∧
    [f 0 pz, f 1 pz, f 2 pz, f 3 pz, f 4 pz, f 5 pz, f 6 pz, f 7 pz] = [pinf, pinf, pz, one, ninf, pz, one, pz] ∧
    [f 0 nz, f 1 nz, f 2 nz, f 3 nz, f 4 nz, f 5 nz, f 6 nz, f 7 nz] = [ninf, ninf, nz, one, ninf, nz, one, nz] ∧
    [f 0 pinf, f 1 pinf, f 2 pinf, f 3 pinf, f 4 pinf, f 5 pinf, f 6 pinf, f 7 pinf] = [pz, pz, pinf, pinf, pinf, nan, nan, one] ∧
    [f 0 ninf, f 1 ninf, f 2 ninf, f 3 ninf, f 4 ninf, f 5 ninf, f 6 ninf, f 7 ninf] = [nz, nan, nan, pz, nan, nan, nan, mone] ∧
    (∀ k < 8, ∀ w, (Terms.f32 w).isNan → f k w = nan) ∧
    (∀ w n m e, Terms.f32 w = .fin n m e → n = true → m ≠ 0 → f 1 w = nan ∧ f 2 w = nan ∧ f 4 w = nan)

/-! ### Scalars -/

/-- Scalar operations: the value from the scalar a and the second source b (R266). -/
def Sys2Proof.Terms.scalarRows (c : Ctl) (o : VOp) : List (Instr × (Word → Word → Word)) :=
  let int := Terms.int32 o.ty
  let fit := Terms.fit32 o.ty o.sat
  let row := fun (i : Instr) (f : Word → Word → Word) => (i, f)
  [row (.sadd c o) (fun a b => fit (int a + int b)),
   row (.ssub c o) (fun a b => fit (int a - int b)),
   row (.smul c o) (fun a b => fit (int a * int b)),
   row (.smov c o) (fun _ b => b),
   row (.smovi c o) (fun a b => BitVec.ofNat 32 (b.toNat * 2 ^ 12 + a.toNat % 2 ^ 12)),
   row (.sshl c o) (fun a b => BitVec.ofNat 32 (a.toNat * 2 ^ (b.toNat % 256))),
   row (.sshr c o) (fun a b =>
     if o.ty = .s32 then BitVec.ofInt 32 (a.toInt / 2 ^ min (b.toNat % 256) 31) else BitVec.ofNat 32 (a.toNat / 2 ^ (b.toNat % 256)))] ++
  [row (.sand c o) (fun a b => a &&& b),
   row (.sor c o) (fun a b => a ||| b),
   row (.sbfe c o) (fun a b => bfeV a (b.toNat % 256) (b.toNat / 256 % 256) (o.ty == .s32)),
   row (.smax c o) (fun a b => BitVec.ofInt 32 (max (int a) (int b))),
   row (.smin c o) (fun a b => BitVec.ofInt 32 (min (int a) (int b)))]

/-- R266: a scalar operation takes effect once per slice: the result is that of its vector counterpart on the slice's scalars, to be
read two cycles on; nothing else changes. -/
def Obligations.ScalarWords : Prop :=
  ∀ (s : State) (b : Block) (g : Gang) (sp : Split) (c : Ctl) (o : VOp), Issues s b g sp → b.halt = none →
    ∀ r ∈ Terms.scalarRows c o, ∃ t, exec r.1 s = .next t ∧
      wordDone s t b g sp (scalarDone c 2 s.now o.d fun sl => r.2 (sl.s o.a.toNat) (srcS sl o.b))

/-- R266, R276: SCMP writes its one result to pd in every active lane of a slice in which it takes effect, and nowhere else; NOP
changes no register. -/
def Obligations.ScalarCompareNop : Prop :=
  ∀ (s : State) (b : Block) (g : Gang) (sp : Split) (c : Ctl) (o : COp), Issues s b g sp → b.halt = none →
    let n := fun (w : Word) => if o.u then (w.toNat : Int) else w.toInt
    (∃ t, exec (.scmp c o) s = .next t ∧ wordDone s t b g sp fun sl sl' =>
      let x := n (sl.s o.a.toNat)
      let y := n (srcS sl o.b)
      wentOn c (nextPc sl.pc) sl sl' ∧
      (takes c sl = true → ∀ j ∈ sl.active,
        sl'.predAt (s.now + 2) o.pd.toNat j = (o.pd == 7 || Terms.holds o.cond (decide (x < y)) (decide (x = y)) (decide (y < x)))) ∧
      keepsBut sl sl' fun f i j t => f = .p ∧ i = o.pd.toNat ∧ takes c sl = true ∧ j ∈ sl.active ∧ s.now + 2 ≤ t) ∧
    ∃ t, exec (.nop c) s = .next t ∧ wordDone s t b g sp fun sl sl' => wentOn c (nextPc sl.pc) sl sl' ∧ sl'.pend = sl.pend

/-! ### Exchange between lanes -/

/-- The value `f` of taking lane `n`, or `d` where lane `n` is not taking (R269). -/
def Sys2Proof.Terms.from' {α : Type} (t : Taking) (n : Nat) (f : Slice → Nat → α) (d : α) : α :=
  ((t.find? fun x => x.1 == n).map fun x => f x.2.1 x.2.2).getD d

/-- The mask of the taking lanes that `f` admits. -/
def Sys2Proof.Terms.ballot (t : Taking) (f : Slice → Nat → Bool) : Word :=
  ((t.filter fun x => f x.2.1 x.2.2).map fun x => (1 : Word) <<< x.1).foldl (· ||| ·) 0

/-- Cross-lane words (R270, R295, R296): the value in lane `l` of the gang, which is lane `j` of slice `sl`, from the taking lanes. -/
def Sys2Proof.Terms.crossRows (c : Ctl) (o : VOp) (budget : Nat) (t : Taking) : List (Instr × (Slice → Nat → Word)) :=
  let row := Terms.rowS
  let a := fun (sl : Slice) j => sl.v budget o.a.toNat j
  let b := fun sl j => Terms.x32 o budget sl j
  let p := fun (sl : Slice) j => (sl.lane j).p (o.a.toNat % 8) = !o.x
  let lowB := (t.head?.map fun x => (b x.2.1 x.2.2).toNat)
  [row (.shflx c o) (fun sl j => Terms.from' t (4 * sl.num + (j ^^^ (b sl j).toNat % 4)) a (a sl j)),
   row (.bcast c o) (fun sl j => Terms.from' t ((lowB.getD (4 * sl.num + j)) % 32) a (a sl j)),
   row (.shfl c o) (fun sl j =>
     let l := 4 * sl.num + j
     let k := (b sl j).toNat % 32
     Terms.from' t (if o.k = 0 then k else if o.k = 1 then (l + k) % 32 else if o.k = 2 then (l + 32 - k) % 32 else l ^^^ k) a (a sl j)),
   row (.vote c o) (fun _ _ =>
     if o.k = 0 then (if ∀ x ∈ t, p x.2.1 x.2.2 then 1 else 0)
     else if o.k = 1 then (if ∃ x ∈ t, p x.2.1 x.2.2 then 1 else 0)
     else if o.k = 2 then (if (∀ x ∈ t, p x.2.1 x.2.2) ∨ ∀ x ∈ t, ¬ p x.2.1 x.2.2 then 1 else 0)
     else Terms.ballot t fun sl j => decide (p sl j)),
   row (.redux c o) (fun _ _ =>
     let vs := t.map fun x => b x.2.1 x.2.2
     let s := vs.map BitVec.toInt
     let u := vs.map BitVec.toNat
     match o.k.toNat with
     | 0 => vs.foldl (· + ·) 0
     | 1 => BitVec.ofInt 32 (s.foldl min (s.headD 0))
     | 2 => BitVec.ofNat 32 (u.foldl min (u.headD 0))
     | 3 => BitVec.ofInt 32 (s.foldl max (s.headD 0))
     | 4 => BitVec.ofNat 32 (u.foldl max (u.headD 0))
     | 5 => vs.foldl (· &&& ·) (vs.headD 0)
     | 6 => vs.foldl (· ||| ·) 0
     | _ => vs.foldl (· ^^^ ·) 0),
   row (.matchL c o) (fun sl j =>
     if o.k = 0 then Terms.ballot t fun sl' j' => b sl' j' == b sl j
     else if ∀ x ∈ t, b x.2.1 x.2.2 = b sl j then Terms.ballot t fun _ _ => true else 0)]

/-- R269, R270: a cross-lane word acts over its taking lanes, those of the slices of the issuing split that are active and whose
guard is 1; the result of each is written in every taking lane, to be read six cycles on; a lane whose source lane is not taking
receives its own a. -/
def Obligations.CrossLaneWords : Prop :=
  ∀ (s : State) (b : Block) (g : Gang) (sp : Split) (c : Ctl) (o : VOp), Issues s b g sp → b.halt = none →
    let t : Taking := (g.slices.filter fun sl => sp.slices.contains sl.num).flatMap fun sl => (effLanes c sl).map fun j => (4 * sl.num + j, sl, j)
    ∀ r ∈ Terms.crossRows c o g.budget t, ∃ u, exec r.1 s = .next u ∧
      wordDone s u b g sp (vecDone c 6 s.now g.budget o.d r.2)

/-- A binary tree over neighbours: `k` levels over the lanes of a gang, where an empty leaf gives way to its neighbour (R220). -/
def Sys2Proof.Terms.tree {α : Type} (f : α → α → α) (leaf : Nat → Option α) : Nat → Nat → Option α
  | 0, i => leaf i
  | k + 1, i => match Terms.tree f leaf k (2 * i), Terms.tree f leaf k (2 * i + 1) with
    | some x, some y => some (f x y)
    | some x, none => some x
    | none, y => y

/-- R292, R220, R295, R296: FREDUX writes in every taking lane the result of the fixed tree over the lane numbers, each sum rounded;
QSCALE the clip exponent of the histogram that the taking lanes hold; QPACK word l of the packed block in lane l, then the
exponents, then 0. -/
def Obligations.ReduceAndPack : Prop :=
  ∀ (s : State) (b : Block) (g : Gang) (sp : Split) (c : Ctl) (o : VOp), Issues s b g sp → b.halt = none → g.budget ≠ 1 →
    let t : Taking := (g.slices.filter fun sl => sp.slices.contains sl.num).flatMap fun sl => (effLanes c sl).map fun j => (4 * sl.num + j, sl, j)
    let f : Fmt := if o.ty = .w64 then fD else fS
    let op := fun (x y : Nat) => if o.k = 0 then f.round .rn false (sumFV .rn [f.decode x, f.decode y])
      else if o.k = 1 then f.minMax false x y else f.minMax true x y
    let leaf := fun (n : Nat) => Terms.from' t n (fun sl j => some (if o.ty = .w64 then (srcV64 g.budget sl j o.b).toNat
      else (Terms.x32 o g.budget sl j).toNat)) none
    let r := (Terms.tree op leaf 5 0).getD 0
    let lowB := (t.head?.map fun x => (Terms.x32 o g.budget x.2.1 x.2.2).toNat).getD 0
    (∃ u, exec (.fredux c o) s = .next u ∧ wordDone s u b g sp (if o.ty = .w64 then pairDone c 6 s.now g.budget o.d fun _ _ => BitVec.ofNat 64 r
      else vecDone c 6 s.now g.budget o.d fun _ _ => BitVec.ofNat 32 r)) ∧
    (∃ u, exec (.qscale c o) s = .next u ∧ wordDone s u b g sp (vecDone c 6 s.now g.budget o.d fun _ _ =>
      BitVec.ofNat 32 (clipExp ((List.range 256).map fun i =>
        Terms.from' t (i / 8) (fun sl j => (sl.v g.budget (o.a.toNat + i % 8) j).toNat) 0) (lowB % 65536)))) ∧
    ∃ u, exec (.qpack c o) s = .next u ∧ wordDone s u b g sp (vecDone c 6 s.now g.budget o.d fun sl j =>
      let l := 4 * sl.num + j
      let gap := if lowB / 32768 % 2 = 1 then lowB / 256 % 16 else dbGap o.ty
      let pk := dbPack o.ty ((List.range 32).map fun n => Terms.from' t n (fun sl j => sl.v g.budget o.a.toNat j) 0) (lowB % 256) gap
      BitVec.ofNat 32 (if l < dbW o.ty then dbString o.ty pk.2.2 / 2 ^ (32 * l) else if l = dbW o.ty then pk.2.1 * 256 + pk.1 else 0))

/-! ### Divergence and branches -/

/-- A lane whose counter a divergence word changes: present and not exited, in a slice that is not frozen; at the first word after a
trap, one that returned without .skip (R52, R417, R418). -/
def Sys2Proof.Terms.counted (sl : Slice) (j : Nat) : Prop :=
  sl.frozen = false ∧ j ∈ sl.live ∧ ∀ l pc, sl.execMask = some (l, pc) → pc = sl.pc → j ∈ l

/-- R52: the counter of a lane after each of the five divergence words. -/
def Sys2Proof.Terms.nestRows (c : Ctl) (k : BitVec 3) (neg : Bool) (n : BitVec 8) : List (Instr × (Lane → Nat)) :=
  let row := fun (i : Instr) (f : Lane → Nat) => (i, f)
  let pred := fun (l : Lane) => l.p c.pred.toNat != c.neg
  [row (.ifp c { k, neg }) (fun l => if 0 < l.nest.toNat then l.nest.toNat + 1 else if l.p k.toNat != neg then 0 else 1),
   row (.elsep c) (fun l => if l.nest.toNat = 1 then 0 else if l.nest.toNat = 0 then 1 else l.nest.toNat),
   row (.endifp c) (fun l => l.nest.toNat - 1),
   row (.brk c n) (fun l => if l.nest.toNat = 0 ∧ pred l then n.toNat + 2 else l.nest.toNat),
   row (.cont c n) (fun l => if l.nest.toNat = 0 ∧ pred l then n.toNat + 1 else l.nest.toNat)]

/-- R52: IFP, ELSEP, ENDIFP, BRK and CONT change the counter of every present lane that has not exited, where none passes 255, and
nothing else; their slices go on to the next word. -/
def Obligations.DivergenceWords : Prop :=
  ∀ (s : State) (b : Block) (g : Gang) (sp : Split) (c : Ctl) (k : BitVec 3) (neg : Bool) (n : BitVec 8), Issues s b g sp →
    b.halt = none → ∀ r ∈ Terms.nestRows c k neg n,
    (∀ sl ∈ memberSlices g sp, ∀ j, Terms.counted sl j → r.2 (sl.lane j) ≤ 255) →
    ∃ t, exec r.1 s = .next t ∧ wordDone s t b g sp fun sl sl' =>
      wentOn c (nextPc sl.pc) { sl with lanes := sl'.lanes } sl' ∧ sl'.pend = sl.pend ∧ sl'.lanes.length = sl.lanes.length ∧
      ∀ j, (Terms.counted sl j → sl'.lane j = { sl.lane j with nest := BitVec.ofNat 8 (r.2 (sl.lane j)) }) ∧
        (¬ Terms.counted sl j → sl'.lane j = sl.lane j)

/-- A slice takes a branch (R50): its predicate is true in at least one active lane; with no active lane only an unconditional
one. -/
def Sys2Proof.Terms.branches (c : Ctl) (sl : Slice) : Bool :=
  if sl.active = [] then decide (c.pred = 7 ∧ c.neg = false) else decide (effLanes c sl ≠ [])

/-- A relative target (R223, R271): a signed offset in words from the word after the branch. -/
def Sys2Proof.Terms.target (pc : BitVec 48) (off : BitVec 20) : BitVec 48 := BitVec.ofInt 48 (pc.toInt + 8 + 8 * off.toInt)

/-- The slice of a split may go to an address: outside a whey launch anywhere, in one within its segment (R177; a slice that leaves its
segment travels, R181). -/
def Sys2Proof.Terms.staysAt (s : State) (b : Block) (pc : BitVec 48) : Prop := s.wheyGo b pc = none

/-- R50, R271: BRA completes: each slice that takes it goes to its target, and the others to the next word; under .uni the slices must agree.
SCBRA completes likewise, moving those in which the scalar compares with 0 as well. Nothing else changes. -/
def Obligations.BranchWords : Prop :=
  ∀ (s : State) (b : Block) (g : Gang) (sp : Split) (c : Ctl) (uni : Bool) (off : BitVec 20) (a : BitVec 6) (cond : Cond) (u : Bool),
    Issues s b g sp → b.halt = none → (∀ sl ∈ memberSlices g sp, Terms.branches c sl → Terms.staysAt s b (Terms.target sl.pc off)) →
    let v := fun (sl : Slice) => if u then ((sl.s a.toNat).toNat : Int) else (sl.s a.toNat).toInt
    let to1 := fun (sl : Slice) => if Terms.branches c sl then Terms.target sl.pc off else sl.pc + 8
    let to2 := fun (sl : Slice) =>
      if Terms.branches c sl ∧ Terms.holds cond (decide (v sl < 0)) (decide (v sl = 0)) (decide (0 < v sl)) then Terms.target sl.pc off
      else sl.pc + 8
    ((uni = true → ∀ x ∈ memberSlices g sp, ∀ y ∈ memberSlices g sp, to1 x = to1 y) →
      ∃ t, exec (.bra c { uni, off }) s = .next t ∧
        wordDone s t b g sp fun sl sl' => sl' = { sl with pc := to1 sl, execMask := none }) ∧
    ∃ t, exec (.scbra c { a, cond, u, off }) s = .next t ∧
      wordDone s t b g sp fun sl sl' => sl' = { sl with pc := to2 sl, execMask := none }

/-- The address that the lowest taking lane of a slice holds in the pair `a` (R271). -/
def Sys2Proof.Terms.held (c : Ctl) (budget : Nat) (a : BitVec 8) (sl : Slice) : BitVec 48 :=
  (sl.v64 budget a.toNat ((effLanes c sl).headD 0)).setWidth 48

/-- The taking lanes of a slice agree on an address of a word in the segment: what a branch through a register needs (R271, R408). -/
def Sys2Proof.Terms.agrees (s : State) (b : Block) (c : Ctl) (budget : Nat) (a : BitVec 8) (sl : Slice) : Prop :=
  effLanes c sl ≠ [] ∧ (Terms.held c budget a sl).toNat % 8 = 0 ∧ Terms.staysAt s b (Terms.held c budget a sl) ∧
  ∀ j ∈ effLanes c sl, sl.v64 budget a.toNat j = (Terms.held c budget a sl).setWidth 64

/-- A call's frame in a slice: the window raised by the advance, the frame size set and the return entry pushed, with the spill that the
frame needs (R59 to R61); none where that does not fit. -/
def Sys2Proof.Terms.frame (s : State) (b : Block) (g : Gang) (adv size : BitVec 6) (sl : Slice) : Option Slice :=
  (sl.grow b.spillCap g.budget b.whey.isSome (8 * adv.toNat) (8 * size.toNat) (some { addr := sl.pc + 8, adv := 8 * adv.toNat, n := sl.n })
    (s.fresh + sl.num)).getLeft?

/-- A call has been taken to `pc`, its frame fitting without a spill: base, frame size, return entry, and the registers of the new frame alone. -/
def Sys2Proof.Terms.framed (budget : Nat) (adv size : BitVec 6) (pc : BitVec 48) (sl sl' : Slice) : Prop :=
  sl' = { sl with pc, execMask := none, base := sl.base + 8 * adv.toNat, n := 8 * size.toNat, vregs := sl'.vregs,
                  ret := { addr := sl.pc + 8, adv := 8 * adv.toNat, n := sl.n } :: sl.ret } ∧
  ∀ p < budget, ∀ j < 4,
    (∀ i, sl.n - 8 * adv.toNat ≤ i → i < 8 * size.toNat → p ≠ (sl.base + 8 * adv.toNat + i) % budget) → sl'.vphys p j = sl.vphys p j

/-- R59, R60, R61, R271: BRX, CALL and CALLX answer a next state. BRX takes each slice that branches to the address that its taking lanes
hold; CALLX does likewise, and CALL goes to its target. A call whose frame fits without a spill raises the window by its advance, sets the
frame size and pushes the return entry; one that spills leaves the slice with the spill that its frame needs, written to its spill part of
the vault. A slice that does not branch goes on, and nothing else changes. -/
def Obligations.IndirectWords : Prop :=
  ∀ (s : State) (b : Block) (g : Gang) (sp : Split) (c : Ctl) (a : BitVec 8) (adv size : BitVec 6) (off : BitVec 20), Issues s b g sp →
    b.halt = none →
    let on := fun (sl sl' : Slice) => sl' = { sl with pc := sl.pc + 8, execMask := none }
    let at' := fun (sl : Slice) => Terms.held c g.budget a sl
    let near := fun (sl : Slice) => Terms.target sl.pc off
    let to' := fun (sl : Slice) => if Terms.branches c sl then at' sl else sl.pc + 8
    let room := fun (sl : Slice) => sl.ret.length < 16 ∧ sl.spill = [] ∧ sl.base + 8 * adv.toNat + 8 * size.toNat - sl.low ≤ g.budget
    let spills := fun (sl : Slice) => Terms.frame s b g adv size sl ≠ none
    let spilt := ((memberSlices g sp).foldl (fun u sl => match Terms.frame s b g adv size sl with
      | some x => if Terms.branches c sl then u.writeSpill b g.num sl x else u
      | none => u) s).vault
    let grown := fun (pc : BitVec 48) (sl sl' : Slice) => ∀ x, Terms.frame s b g adv size sl = some x → sl' = { x with pc, execMask := none }
    ((∀ sl ∈ memberSlices g sp, Terms.branches c sl → Terms.agrees s b c g.budget a sl) →
      ∃ t n, exec (.brx c { flag := false, a }) s = .next t ∧ wordDone { s with fresh := n } t b g sp fun sl sl' =>
        sl' = { sl with pc := to' sl, execMask := none }) ∧
    ((∀ sl ∈ memberSlices g sp, Terms.branches c sl → Terms.agrees s b c g.budget a sl) →
      (∀ x ∈ memberSlices g sp, ∀ y ∈ memberSlices g sp, to' x = to' y) →
      ∃ t n, exec (.brx c { flag := true, a }) s = .next t ∧ wordDone { s with fresh := n } t b g sp fun sl sl' =>
        sl' = { sl with pc := to' sl, execMask := none }) ∧
    ((∀ sl ∈ memberSlices g sp, Terms.branches c sl → Terms.staysAt s b (near sl) ∧ room sl) →
      ∃ t n, exec (.call c { adv, size, off }) s = .next t ∧ wordDone { s with fresh := n } t b g sp fun sl sl' =>
        if Terms.branches c sl then Terms.framed g.budget adv size (near sl) sl sl' else on sl sl') ∧
    ((∀ sl ∈ memberSlices g sp, Terms.branches c sl → Terms.agrees s b c g.budget a sl ∧ room sl) →
      ∃ t n, exec (.callx c { adv, size, b := a }) s = .next t ∧ wordDone { s with fresh := n } t b g sp fun sl sl' =>
        if Terms.branches c sl then Terms.framed g.budget adv size (at' sl) sl sl' else on sl sl') ∧
    ((∀ sl ∈ memberSlices g sp, Terms.branches c sl → Terms.staysAt s b (near sl) ∧ spills sl) →
      ∃ t n, exec (.call c { adv, size, off }) s = .next t ∧ wordDone { s with fresh := n, vault := spilt } t b g sp fun sl sl' =>
        if Terms.branches c sl then grown (near sl) sl sl' else on sl sl') ∧
    ((∀ sl ∈ memberSlices g sp, Terms.branches c sl → Terms.agrees s b c g.budget a sl ∧ spills sl) →
      ∃ t n, exec (.callx c { adv, size, b := a }) s = .next t ∧ wordDone { s with fresh := n, vault := spilt } t b g sp fun sl sl' =>
        if Terms.branches c sl then grown (at' sl) sl sl' else on sl sl')

/-- R59, R271: RET in a slice that takes it returns to the newest entry of its return stack, whose advance and caller frame size it
restores; with nothing spilled and another entry left, nothing else changes. -/
def Obligations.ReturnWord : Prop :=
  ∀ (s : State) (b : Block) (g : Gang) (sp : Split) (c : Ctl), Issues s b g sp → b.halt = none →
    (∀ sl ∈ memberSlices g sp, Terms.branches c sl → sl.spill = [] ∧ ∃ e f r, sl.ret = e :: f :: r ∧ Terms.staysAt s b e.addr) →
    ∃ t n, exec (.ret c {}) s = .next t ∧ wordDone { s with fresh := n } t b g sp fun sl sl' =>
      if Terms.branches c sl then ∀ e r, sl.ret = e :: r →
        sl' = { sl with pc := e.addr, execMask := none, base := sl.base - e.adv, n := e.n, low := min sl.low (sl.base - e.adv), ret := r }
      else sl' = { sl with pc := sl.pc + 8, execMask := none }

/-! ### Encoding -/

/-- A well-formed full word of a vector or scalar operation (forms V, S and X) decodes to the instruction that it encodes, with every
operand at every value that the encoding admits (R221 to R226, R238, R261, R262). -/
def Obligations.RoundTripVector : Prop :=
  ∀ (i : Instr) (o : OpInfo) (c : Ctl) (v : VOp) (w : DWord), i.info = some (o, c, .v v) → c.slot = .full → i.wf → encode i = some w →
    decodeWord .map3 w = .instr o.code i

/-- The same for comparisons, predicate operations and memory accesses (forms C, P and M; R227, R228, R267, R299 to R301). -/
def Obligations.RoundTripMemory : Prop :=
  ∀ (i : Instr) (o : OpInfo) (c : Ctl) (w : DWord), c.slot = .full → i.wf → encode i = some w →
    (∃ v, i.info = some (o, c, .cmp v)) ∨ (∃ v, i.info = some (o, c, .pred v)) ∨ (∃ v, i.info = some (o, c, .mem v)) →
    decodeWord .map3 w = .instr o.code i

/-- The same for every other word: control, uniform and system operations (forms K, U and Z; R271 to R277, R313 to R320, R332 to R349,
R351, R352). -/
def Obligations.RoundTripControl : Prop :=
  ∀ (i : Instr) (o : OpInfo) (c : Ctl) (body : Body) (w : DWord), i.info = some (o, c, body) → c.slot = .full → i.wf → encode i = some w →
    (match body with | .v _ | .cmp _ | .pred _ | .mem _ => False | _ => True) → decodeWord .map3 w = .instr o.code i

/-- Two well-formed halves, laid out as a pair word, decode to the same two instructions, unless a rule of R231 forbids the pair
(R229, R230, R231). -/
def Obligations.RoundTripPair : Prop :=
  ∀ (x y : Instr) (w : DWord), x.ctl.slot = .x → y.ctl.slot = .y → x.wf → y.wf → encodePair x y = some w →
    (∃ r, decodeWord .map3 w = .badPair r) ∨ ∃ j k, decodeWord .map3 w = .pair j k x y

/-- Words written out field by field from the spec's tables (R221, R228, R229, R238, R271, R332) decode to their instructions. -/
def Obligations.DecodedWords : Prop :=
  decodeWord .map3 (0#1 ++ 0x000#10 ++ 3#3 ++ 1#1 ++ 1#1 ++ 2#3 ++ 5#8 ++ 6#8 ++ 7#8 ++ 0#1 ++ 0#1 ++ 0#2 ++ 2#4 ++ 0#3 ++ 1#1 ++ 0#1 ++ 0#8 : BitVec 64) =
    .instr 0x000 (.iadd { pred := 2, neg := true, stall := 3, brk := true } { d := 5, a := 6, b := .reg 7, ty := .u32, sat := true }) ∧
  decodeWord .map3 (0#1 ++ 0x180#10 ++ 0#3 ++ 0#1 ++ 0#1 ++ 7#3 ++ 9#8 ++ 10#8 ++ 0#8 ++ 1#1 ++ 0xFFFF8#20 : BitVec 64) =
    .instr 0x180 (.ld {} { d := 9, a := 10, off := .bytes 0xFFFF8 }) ∧
  decodeWord .map3 (0#1 ++ 0x090#10 ++ 0#3 ++ 0#1 ++ 0#1 ++ 1#3 ++ 0#8 ++ 0#8 ++ 0#8 ++ 1#1 ++ 0xFFFFE#20 : BitVec 64) =
    .instr 0x090 (.bra { pred := 1 } { off := 0xFFFFE }) ∧
  decodeWord .map3 (0#1 ++ 0x209#10 ++ 0#3 ++ 0#1 ++ 0#1 ++ 7#3 ++ 3#8 ++ 4#8 ++ 0#8 ++ 1#1 ++ 16#20 : BitVec 64) =
    .instr 0x209 (.qadd {} { d := 3, a := 4, b := .inr 16 })

/-! ### The machine -/

/-- When the schedule's turn is a split's that may issue, its word is fetched, its pipes are free and the checks of R462 find nothing,
step runs the instructions that the word decodes to on the state in which it begins, and adds the device's due steps; likewise for a
sequencer. The turn and the steps that come due are the model's (entry 3). -/
def Obligations.StepRunsWord : Prop :=
  (∀ (s sf : State) (bid gn k : Nat) (rest : List Turn) (x : PortSplit) (w : DWord) (code : Nat) (i : Instr) (p : Port), sf.upsets = [] →
    s.plan = .issue (.split bid gn k) :: rest → s.mayIssue (.split bid gn k) = some (.inl x) →
    State.fetch { s with plan := rest } x.b (x.g.splitPc x.sp) = .word w sf → decodeWord x.b.table w = .instr code i →
    let s1 := sf.startRun x
    (((s1.core x.b.core).ports.getD x.g.port {}).take s1.now (.instr code i)) = some p →
    let s2 := (s1.modCore x.b.core fun c =>
      { c with ports := c.ports.mapIdx fun n q => if n == x.g.port then { p with last := some s1.now } else q }).beginSplit x w
    (∃ b g sp, s2.blk x.b.id = some b ∧ b.gang x.g.num = some g ∧ g.splitOf (x.sp.slices.headD 0) = some sp ∧
      s2.wordFault b false g sp w = none) →
    step s = match exec i s2 with | .next t => .next t.poke | r => r) ∧
  ∀ (s sf : State) (b b' : Block) (bid : Nat) (rest : List Turn) (w : DWord) (code : Nat) (i : Instr), sf.upsets = [] →
    s.plan = .issue (.seq bid) :: rest → s.mayIssue (.seq bid) = some (.inr b) →
    State.fetch { s with plan := rest } b b.seq.pc = .word w sf →
    let s2 := sf.beginSeq b.id w
    s2.blk b.id = some b' → decodeWord b'.table w = .instr code i →
    s2.wordFault b' true { num := 16 } { slices := [] } w = none → heldBy b'.seq i = none →
    step s = match exec i s2 with | .next t => .next t.poke | r => r

/-- With nothing scheduled, the oldest of the device's due steps that has come to where it is taken runs, as the instruction that stands for
it. With none, the first packet of the device's networks that can crosses its next link, which changes nothing but where that packet is, the plane that it
takes there, and whether turning has displaced it (R133, R134, R137, R138); the order is the model's (entry 3). -/
def Obligations.StepRunsEvent : Prop :=
  (∀ (s : State) (e : Event) (rest : List Event), s.plan = [] → s.work = e :: rest → s.arrived e = true →
    step s = match runEvent e { s with work := rest } with | .next t => .next t.poke | r => r) ∧
  ∀ (s : State) (k : Nat) (p : NetPkt), s.plan = [] → s.dueStep = none → (∀ j < k, s.canHop j = false) → s.canHop k = true → s.net[k]? = some p →
    ∃ t : State, step s = .next t.poke ∧ t = { s with net := t.net, planes := t.planes } ∧ t.net.length = s.net.length ∧ (∀ j, j ≠ k → t.net[j]? = s.net[j]?) ∧
      t.net[k]? = some { p with pos := s.netNext k p, plane := s.planeAt p (s.netNext k p), displaced := p.displaced && s.netNext k p != .here }

/-- What the spec gives for reset: no block is resident, the memories list nothing, CX_DECODE_MAP selects map 3 (R239) and
CX_PRESS_RETRY reads 2 (R189), CAP reads 3 (R389), DV_SAVE_DRAIN 100,000 ns (R423) and DV_TOKRC_TIMEOUT 20,000 (R453). -/
def Obligations.Reset : Prop :=
  State.reset.memWf = true ∧ State.reset.blocks = [] ∧ State.reset.mem = [] ∧ State.reset.vault = [] ∧
  (∀ asid, State.reset.cxr asid 0x102 = 3 ∧ State.reset.cxr asid 0x106 = 2) ∧
  State.reset.cap = 3 ∧ State.reset.saveDrain = 100000 ∧ State.reset.tokrcTimeout = 20000

/-- The memories stay in canonical form: from every state in which they are, a step leads to one in which they are. -/
def Obligations.StepKeepsMemory : Prop := ∀ s t : State, s.memWf = true → step s = .next t → t.memWf = true

/-- R74, R80: a vault read of the bytes just written gives the value, and every byte outside them reads as before. -/
def Obligations.VaultReadWrite : Prop :=
  ∀ (s : State) (die a n v : Nat), a % 2 ^ 28 + n ≤ 2 ^ 28 →
    (s.vlWr die a n v).vlRd die a n = v % 256 ^ n ∧
    ∀ x, (∀ k < n, x ≠ s.vkey die a + k) → Memory.byte (s.vlWr die a n v).vault x = Memory.byte s.vault x

/-- R89, R103: a byte written to package memory is what every read of it gives, wherever its current copy lies, and every other byte
reads as before. -/
def Obligations.MemoryReadWrite : Prop :=
  ∀ (s : State) (pa : Nat) (v : Byte), (∀ d < 8, ∀ x, mget (s.die d).l2 (pa / 64) = some x → x.tokn ≠ 0) →
    (s.wr1 pa v).rd1 pa = v ∧ ∀ q, memAddr q ≠ memAddr pa → (s.wr1 pa v).rd1 q = s.rd1 q

/-! ### Memory words at their issue -/

/-- What a memory word puts in flight: the kind of its accesses, their element size, order and scope; whether it acts once for its
slice; whether its addresses lie in the vault, and whether they may touch an armed slot; the lanes in which it does nothing; the address that names its path where that is no lane's part; and the part of a
lane. -/
structure Sys2Proof.Terms.MemRow where
  i : Instr
  kind : AccKind
  esz : Nat
  ord : Order := .rlx
  scope : Scope := .blk
  once : Bool := false
  vault : Bool := false
  arms : Bool := false
  ctl : Bool := false
  idle : Slice → Nat → Bool := fun _ _ => false
  named : Option (Slice → Nat → Nat) := none
  part : Slice → Nat → Part

/-- The memory words (R302 to R310, R293, R323 to R328): the address of a lane is its base register and the offset (R299); a store
carries its register, an atomic its operand, a load the physical destination. -/
def Sys2Proof.Terms.memRows (c : Ctl) (o : MOp) (B : Nat) : List Terms.MemRow :=
  let e := o.ty.esize
  let e4 := if o.ty = .w64 then 8 else 4
  let dst := fun (sl : Slice) => sl.phys B o.d.toNat
  let data := fun (n : Nat) (r : BitVec 8) (sl : Slice) (j : Nat) => if n = 8 then sl.v64 B r.toNat j else (sl.v B r.toNat j).setWidth 64
  let va := fun (n : Nat) (sl : Slice) (j : Nat) => (sl.v64 B o.a.toNat j + offOf n o.off).toNat
  let vv := fun (n : Nat) (sl : Slice) (j : Nat) => (sl.v B o.a.toNat j + lo32 (offOf n o.off)).toNat
  let at0 := match o.off with | .elems n => n.toNat | .bytes _ => 0
  let aa := fun (n : Nat) (sl : Slice) (j : Nat) => (sl.v64 B o.a.toNat j + BitVec.ofNat 64 (at0 * n)).toNat
  let av := fun (n : Nat) (sl : Slice) (j : Nat) => (sl.v B o.a.toNat j + BitVec.ofNat 32 (at0 * n)).toNat
  let opnd := fun (n : Nat) (sl : Slice) (j : Nat) => match o.off with
    | .elems _ => data n o.c sl j | .bytes k => if n = 8 then k.signExtend 64 else (k.signExtend 32).setWidth 64
  let fp := fun (sl : Slice) (j : Nat) => match o.off with | .elems _ => data e4 o.c sl j | .bytes k => BitVec.ofNat 64 (k.toNat * 4096)
  let mask := fun (sl : Slice) => BitVec.ofNat 64 ((sl.active.map fun j => 2 ^ j).sum)
  let aop : BitVec 5 := BitVec.ofNat 5 (o.y.toNat + if o.ty = .s32 then 8 else 0)
  [{ i := .ld c o, kind := .load (o.y == 1), esz := e, ord := o.ord, scope := o.scope, part := fun sl j => { lane := j, addr := va e sl j, dst := dst sl } },
   { i := .st c o, kind := .store, esz := e, ord := o.ord, scope := o.scope, part := fun sl j => { lane := j, addr := va e sl j, data := data e o.d sl j } },
   { i := .ldnc c o, kind := .loadNc (o.y == 1), esz := e, ord := o.ord, scope := o.scope,
     part := fun sl j => { lane := j, addr := va e sl j, dst := dst sl } },
   { i := .stnc c o, kind := .storeNc, esz := e, ord := o.ord, scope := o.scope, part := fun sl j => { lane := j, addr := va e sl j, data := data e o.d sl j } },
   { i := .ldv c o, kind := .vload (o.y == 1), esz := e, ord := o.ord, scope := o.scope, vault := true,
     part := fun sl j => { lane := j, addr := vv e sl j, dst := dst sl } },
   { i := .stv c o, kind := .vstore, esz := e, ord := o.ord, scope := o.scope, vault := true, arms := true,
     part := fun sl j => { lane := j, addr := vv e sl j, data := data e o.d sl j } },
   { i := .ldc c o, kind := .ldc, esz := e, ord := o.ord, scope := o.scope, once := true,
     part := fun sl j => { lane := j, addr := (sl.s64 o.a.toNat + offOf e o.off).toNat, dst := o.d.toNat } }] ++
  [{ i := .pref c o, kind := .pref (o.y == 1), esz := 4, ctl := true, idle := fun sl j => 2 ≤ va 4 sl j / 2 ^ 46 % 4,
     part := fun sl j => { lane := j, addr := va 4 sl j } },
   { i := .atom c o, kind := .atomic aop, esz := 4, ord := o.ord, scope := o.scope,
     part := fun sl j => { lane := j, addr := aa 4 sl j, dst := dst sl, data := opnd 4 sl j } },
   { i := .atom64 c o, kind := .atomic aop, esz := 8, ord := o.ord, scope := o.scope,
     part := fun sl j => { lane := j, addr := aa 8 sl j, dst := dst sl, data := opnd 8 sl j } },
   { i := .red c o, kind := .red aop, esz := e4, ord := o.ord, scope := o.scope,
     part := fun sl j => { lane := j, addr := aa e4 sl j, data := opnd e4 sl j } },
   { i := .atomv c o, kind := .vatomic aop, esz := 4, ord := o.ord, scope := o.scope, vault := true, arms := true,
     part := fun sl j => { lane := j, addr := av 4 sl j, dst := dst sl, data := opnd 4 sl j } },
   { i := .atomcas c o, kind := if o.y = 1 then .vatomic 24 else .atomic 24, esz := e4, ord := o.ord, scope := o.scope, vault := o.y == 1, arms := true,
     part := fun sl j => { lane := j, addr := if o.y = 1 then vv e4 sl j else va e4 sl j, dst := dst sl, data := data e4 o.d sl j, cmp := data e4 o.c sl j } },
   { i := .atomf c o, kind := .atomic (if o.y = 3 then (if o.ty = .bf16 then 20 else 19) else BitVec.ofNat 5 (16 + o.y.toNat)), esz := e4,
     ord := o.ord, scope := o.scope, part := fun sl j => { lane := j, addr := aa e4 sl j, dst := dst sl, data := fp sl j } }] ++
  [{ i := .qhist c o, kind := .hist 0, esz := 4, vault := true, arms := true, idle := fun sl j => (histBin (sl.v B o.d.toNat j)).isNone, named := some (vv 4),
     part := fun sl j => { lane := j, addr := (vv 4 sl j + 4 * (histBin (sl.v B o.d.toNat j)).getD 0) % 2 ^ 32 } },
   { i := .cctlEvict c o, kind := .evict, esz := 4, ctl := true, once := true, part := fun sl j => { lane := j, addr := va 4 sl j, dst := dst sl } },
   { i := .probe c o, kind := .probe, esz := 8, ctl := true, once := true, part := fun sl j => { lane := j, addr := va 4 sl j, dst := dst sl, cmp := mask sl } },
   { i := .tokq c o, kind := .tokq, esz := 4, ctl := true, once := true, part := fun sl j =>
     { lane := j, addr := va 4 sl j, dst := dst sl, data := BitVec.ofNat 64 ((sl.v B o.c.toNat j).toNat % 16), cmp := mask sl } },
   { i := .mcpredRd c o, kind := .mcpredRd, esz := 4, ctl := true, once := true,
     part := fun sl j => { lane := j, addr := va 4 sl j, dst := dst sl, cmp := mask sl } },
   { i := .mcpredWr c o, kind := .mcpredWr, esz := 4, ctl := true, once := true,
     part := fun sl j => { lane := j, addr := va 4 sl j, dst := dst sl, data := (sl.v B o.d.toNat j).setWidth 64 } },
   { i := .press c o, kind := .press (o.y == 1), esz := 4, ctl := true, part := fun sl j => { lane := j, addr := va 4 sl j } },
   { i := .wbinv c o, kind := .wbinv, esz := 4, ctl := true, once := true, part := fun sl j => { lane := j, addr := va 4 sl j, dst := dst sl } }]

/-- The lanes in which a memory word acts: those in which it takes effect, or the lowest for a word that acts once (R300). -/
def Sys2Proof.Terms.acting (c : Ctl) (once : Bool) (sl : Slice) : List Nat :=
  if once then (if takes c sl then [lowLane c sl] else []) else effLanes c sl

/-- R293, R300, R302 to R310, R323 to R328: a memory word completes its issue where its release is complete and its addresses are aligned and, in the vault, its
own: it puts one access in flight for each slice in which it acts, on the path of its first address, with one part for each lane in which it acts; that access is to
be performed, the slices go on, and nothing else changes. A PREF does nothing in a lane whose address is of fabric or host memory; a QHIST adds
nothing in a lane whose value is zero or a NaN, but counts all the same, on the path that the address of its lowest taking lane names. -/
def Obligations.MemoryWords : Prop :=
  ∀ (s : State) (b : Block) (g : Gang) (sp : Split) (c : Ctl) (o : MOp), Issues s b g sp → b.halt = none → c.slot = .full →
    (∀ sl ∈ memberSlices g sp, ∀ p, accCount sl.acc p < 63) → ∀ r ∈ Terms.memRows c o g.budget,
    let act := (memberSlices g sp).filter fun sl => !(Terms.acting c r.once sl).isEmpty
    let lanes := fun (sl : Slice) => (Terms.acting c r.once sl).filter fun j => !r.idle sl j
    let puts := fun (sl : Slice) => Terms.acting c r.once sl ≠ [] ∧ (r.named.isSome = true ∨ lanes sl ≠ [])
    let n := (act.filter fun sl => r.named.isSome || !(lanes sl).isEmpty).length
    (r.ord = .rel ∨ r.ord = .ar → relAll s b g sp act r.scope = none) →
    (∀ sl ∈ act, ∀ j ∈ lanes sl, let a := (r.part sl j).addr
      (r.ctl = false → a % r.esz = 0) ∧
      (r.vault = true → s.vaultOk b a r.esz = true ∧ (r.arms = true → s.hitsArmed (dieOf b.core) a r.esz = false))) →
    ∃ t, exec r.i s = .next t ∧
      wordDone { s with nextId := s.nextId + n,
                        work := s.work ++ (List.range n).map fun k => .accessCompletion (s.nextId + k) } t b g sp fun sl sl' =>
        ∃ l, sl' = { sl with pc := sl.pc + 8, execMask := none, acc := sl.acc ++ l } ∧ (¬ puts sl → l = []) ∧
          (∀ a ∈ l, a.who = ⟨b.id, g.num, sl.num⟩ ∧ a.kind = r.kind ∧ a.esz = r.esz ∧ a.ord = r.ord ∧ a.scope = r.scope ∧
            a.pc = g.splitPc sp ∧ s.nextId ≤ a.id ∧ a.id < s.nextId + n ∧ a.tries = 0) ∧
          (puts sl → ∃ a, l = [a] ∧ a.asid = (if r.vault then b.asid else s.accAsid b sl) ∧
            a.parts = ((lanes sl).map fun j =>
              { r.part sl j with also := if r.kind.once then (faultLanes c sl).filter fun k => k != j else [] }) ∧
            a.path = (let first := match r.named with
                | some f => f sl ((Terms.acting c r.once sl).headD 0)
                | none => (a.parts.map (·.addr)).headD 0
              if r.ctl then 2 else if r.vault then s.vaultPath b first else (match first / 2 ^ 46 % 4 with | 2 => 3 | 3 => 4 | _ => 2)))

/-- R80, R94, R299, R302: a vault access that nothing is before comes on. A load writes the bytes at its address, extended, into its
registers and no other, after the results that are due have been written; a store writes its data there and nowhere else; the access is done
and its counter falls. -/
def Obligations.VaultAccess : Prop :=
  ∀ (s : State) (w : SliceRef) (sl : Slice) (b : Block) (a : Access) (p : Part), s.slice w = some sl → s.blk w.blk = some b → w.slice ≠ seqSlice →
    sl.acc = [a] → a.who = w → a.parts = [p] → p.st = .todo → p.spilt = none → p.lane < 4 → a.path < 8 → s.accOf a.id = some a → s.siblings a = [] → s.order a = [a] → s.upsets = [] →
    (∀ x ∈ s.allAccs, ∀ q ∈ x.parts, ∀ code, q.st ≠ .failed code) → p.addr % 2 ^ 28 + a.esz ≤ 2 ^ 28 →
    let d := dieOf b.core
    let v := s.vlRd d p.addr a.esz
    (∀ sx, a.kind = .vload sx → s.badVaultAt d p.addr a.esz = false →
      ∃ t sl', exec (.accessCompletion a.id) s = .next t ∧ t.slice w = some sl' ∧ t.vault = s.vault ∧ t.mem = s.mem ∧
        sl' = { sl.landTo s.now with acc := [], vregs := sl'.vregs } ∧
        (a.esz = 8 → sl'.vphys p.dst p.lane = BitVec.ofNat 32 v ∧ sl'.vphys (p.dst + 1) p.lane = BitVec.ofNat 32 (v / 2 ^ 32)) ∧
        (a.esz < 8 → sl'.vphys p.dst p.lane =
          if sx ∧ a.esz = 1 then (BitVec.ofNat 8 v).signExtend 32 else if sx ∧ a.esz = 2 then (BitVec.ofNat 16 v).signExtend 32 else BitVec.ofNat 32 v) ∧
        ∀ r j, j < 4 → ¬ (j = p.lane ∧ (r = p.dst ∨ a.esz = 8 ∧ r = p.dst + 1)) → sl'.vphys r j = (sl.landTo s.now).vphys r j) ∧
    (a.kind = .vstore →
      ∃ t, exec (.accessCompletion a.id) s = .next t ∧ t.slice w = some { sl with acc := [] } ∧ t.mem = s.mem ∧
        t.vlRd d p.addr a.esz = p.data.toNat % 256 ^ a.esz ∧
        ∀ x, (∀ k < a.esz, x ≠ s.vkey d p.addr + k) → Memory.byte t.vault x = Memory.byte s.vault x)

/-! ### Words of the lane stream that change registers or waits at once -/

/-- A slice has become `x` and goes on at the next word. -/
def Sys2Proof.Terms.became (c : Ctl) (x sl' : Slice) : Prop := wentOn c (nextPc x.pc) x sl' ∧ sl'.pend = x.pend

/-- R277: what RDSR reads in lane `j` of a slice, by index. -/
def Sys2Proof.Terms.srRows (s : State) (b : Block) (g : Gang) (sp : Split) (sl : Slice) (j asid : Nat) : List (Nat × DWord) :=
  let n := BitVec.ofNat 64
  let own := fun i => if s.inUse asid then s.cxr asid i else 0
  let ui := fun k => if s.inUse asid then n (s.uiRd asid k 8) else 0
  [(0x00, n (4 * sl.num + j)), (0x01, n sl.num), (0x02, n g.num), (0x03, n b.num), (0x04, n b.core), (0x05, n (b.core / 64)), (0x06, n s.devNum),
   (0x07, n b.asid)] ++ (List.range 8).map (fun k => (0x08 + k, ((sl.lane j).idx.getD k 0).setWidth 64)) ++
  [(0x10, n ((memberSlices g sp).map fun x => (x.active.map fun i => 2 ^ (4 * x.num + i)).sum).sum), (0x11, n b.yreq.toNat),
   (0x12, (sl.lane j).orig.setWidth 64), (0x13, (sl.lane j).fcode.setWidth 64), (0x14, n s.gtime),
   (0x15, n (s.now + Config.clockOffset b.core)), (0x111, ui 8), (0x112, ui 0), (0x16, n (b.firstCore % 64 * 2 ^ 22 + b.region.off)), (0x17, if s.sup b.asid then sl.xasid.setWidth 64 else 0)] ++
  (([0x100, 0x101, 0x102, 0x103, 0x104, 0x105, 0x106, 0x107, 0x108, 0x109, 0x10A, 0x10B, 0x10C, 0x10D, 0x110] : List Nat) ++
   [0x113, 0x114, 0x115, 0x116, 0x117, 0x118, 0x119, 0x11A, 0x11B, 0x11C, 0x11D, 0x11E, 0x11F]).map fun i => (i, own i)

/-- R277: RDSR writes the register that its index names into every lane in which it takes effect, a pair under .64, and nothing else;
the value is there for the next word. -/
def Obligations.ReadSpecial : Prop :=
  ∀ (s : State) (b : Block) (g : Gang) (sp : Split) (c : Ctl) (idx : BitVec 20) (r t8 : BitVec 8) (wide x : Bool), Issues s b g sp →
    b.halt = none → (∀ sl ∈ memberSlices g sp, sl.frozen = false) → ∃ t, exec (.rdsr c { idx, r, wide, x, t := t8 }) s = .next t ∧ wordDone s t b g sp fun sl sl' =>
      Terms.became c { sl with vregs := sl'.vregs } sl' ∧
      (∀ j ∈ effLanes c sl, ∀ y ∈ Terms.srRows s b g sp sl j (if x then (sl.s t8.toNat).toNat % 4096 else b.asid), y.1 = idx.toNat →
        sl'.vphys (sl.phys g.budget r.toNat) j = lo32 y.2 ∧ (wide = true → sl'.vphys (sl.phys g.budget r.toNat + 1) j = hi32 y.2)) ∧
      ∀ p j, j < 4 → ¬ (j ∈ effLanes c sl ∧ (p = sl.phys g.budget r.toNat ∨ wide = true ∧ p = sl.phys g.budget r.toNat + 1)) →
        sl'.vphys p j = sl.vphys p j

/-- The bits that a privileged write sets in the control registers that are plain fields (R189, R411). -/
def Sys2Proof.Terms.cxRows : List (Nat × DWord) :=
  [(0x100, 1), (0x101, 0x000FFFFFFFFFF000), (0x103, 1), (0x104, 0xFFFFFFFF), (0x106, 7), (0x107, 0x0000FFFFFFFFFFFF), (0x108, 0x0000FFFFFFFFFFFF)] ++
  [(0x10D, 0x0000FFFFFFFFFFFF), (0x113, 0x0000FFFFFFFFFC00), (0x114, 0x0000FFFFFFFFFFF0), (0x115, 0x1FF), (0x116, 0x0000FFFFFFFFFFC0),
   (0x118, 0x0000FFFFFFFFF800), (0x119, 0x1FFF)] ++
  [(0x109, 0x0000FFFFFFFFFF80), (0x10A, 0x1FFFF), (0x10B, 0xFFFF), (0x11A, 0x80000FFF0000003F), (0x11B, 0x000FFFFFFFFFF800), (0x11C, 0x1FFF), (0x11D, 0x7FF),
   (0x11E, 0x80000FFF00000000)]

/-- R278, R189: a WRSR of one slice that is not frozen writes a plain control register of the context that it names: the listed bits take
those of its lowest taking lane, reserved bits stay zero, and every other control register reads as before. Index 0x13 clears %fcode of
the taking lanes, and 0x17 sets %xasid. -/
def Obligations.WriteSpecial : Prop :=
  ∀ (s : State) (b : Block) (g : Gang) (sp : Split) (sl : Slice) (c : Ctl) (idx : BitVec 20) (r t8 : BitVec 8) (wide x : Bool), Issues s b g sp →
    b.halt = none → memberSlices g sp = [sl] → sl.frozen = false → effLanes c sl ≠ [] →
    let v : DWord := if wide then sl.v64 g.budget r.toNat (lowLane c sl) else (sl.v g.budget r.toNat (lowLane c sl)).setWidth 64
    let asid := if x then (sl.s t8.toNat).toNat % 4096 else b.asid
    let i : Instr := .wrsr c { idx, r, wide, x, t := t8 }
    (∀ m, (idx.toNat, m) ∈ Terms.cxRows → ∃ t, exec i s = .next t ∧
      wordDone { s with cx := t.cx, bound := addNew s.bound asid } t b g sp (fun sl sl' => Terms.became c sl sl') ∧
      t.cxr asid idx.toNat = v &&& m ∧ ∀ a k, k < 512 → ¬ (a = asid ∧ k = idx.toNat) → t.cxr a k = s.cxr a k) ∧
    (idx = 0x13 → ∃ t, exec i s = .next t ∧ wordDone s t b g sp fun sl sl' => Terms.became c { sl with lanes := sl'.lanes } sl' ∧
      ∀ j, sl'.lane j = if j ∈ effLanes c sl then { sl.lane j with fcode := 0 } else sl.lane j) ∧
    (idx = 0x17 → ∃ t, exec i s = .next t ∧ wordDone s t b g sp fun sl sl' => Terms.became c { sl with xasid := v.setWidth 13 } sl')

/-- From `s` to `u` only L1 lines and cached instructions of one core have been discarded: those of `asids`, if `yes`, at a scope wider than
.core (R85). -/
def Sys2Proof.Terms.acquired (s u : State) (core : Nat) (asids : List Nat) (sc : Scope) (yes : Prop) : Prop :=
  u = { s with cores := u.cores } ∧ (∀ k, u.core k = { s.core k with l1 := (u.core k).l1, icache := (u.core k).icache } ∧ (k ≠ core → u.core k = s.core k)) ∧
  (∀ x ∈ (u.core core).l1, x ∈ (s.core core).l1) ∧ (∀ x ∈ (u.core core).icache, x ∈ (s.core core).icache) ∧
  (yes → sc ≠ .blk → sc ≠ .core → (∀ x ∈ (u.core core).l1, x.asid ∉ asids) ∧ ∀ x ∈ (u.core core).icache, x.1 ∉ asids)

/-- R84, R87, R313: a FENCE whose release is complete goes on; an acquire at a scope wider than .core has discarded the L1 sectors of its
contexts on its core; nothing else changes. -/
def Obligations.FenceWord : Prop :=
  ∀ (s : State) (b : Block) (g : Gang) (sp : Split) (sl : Slice) (c : Ctl) (o : FenceOp), Issues s b g sp → b.halt = none →
    memberSlices g sp = [sl] → takes c sl = true → relAll s b g sp [sl] (if o.ord = .acq then (if o.scope = .sys then .die else .blk) else o.scope) = none →
    ∃ t u, exec (.fence c o) s = .next t ∧ Terms.acquired s u b.core [b.asid, s.accAsid b sl] o.scope (o.ord = .acq ∨ o.ord = .ar) ∧
      wordDone u t b g sp fun sl sl' => Terms.became c sl sl'

/-- R94, R95, R319, R320: WAITP goes on where the counters that it names are at most its threshold, and waits where one is not; TLREAD
writes the timeline counter into a scalar pair; TLADV writes into a predicate of every active lane whether the counter has reached the
slice's value; TLWAIT goes on where it has, once the block's operations are released at its scope (R96). -/
def Obligations.WaitWords : Prop :=
  ∀ (s : State) (b : Block) (g : Gang) (sp : Split) (c : Ctl), Issues s b g sp → b.halt = none →
    (∀ (path : BitVec 3) (all : Bool) (a : BitVec 6),
      (∀ sl ∈ memberSlices g sp, takes c sl = true → ∀ k < 8, (all = true ∨ k = path.toNat) → accCount sl.acc k ≤ min (sl.s a.toNat).toNat 63) →
      ∃ t, exec (.waitp c { path, all, a }) s = .next t ∧ wordDone s t b g sp fun sl sl' => Terms.became c sl sl') ∧
    (∀ o : TlOp, ∃ t, exec (.tlread c o) s = .next t ∧ wordDone s t b g sp fun sl sl' => Terms.became c { sl with sregs := sl'.sregs } sl' ∧
      (takes c sl = true → sl'.s64 o.d.toNat = BitVec.ofNat 64 (b.tlOf o.ctx).counter ∧
        ∀ i, i ≠ o.d.toNat → i ≠ o.d.toNat + 1 → sl'.s i = sl.s i) ∧ (takes c sl = false → sl'.sregs = sl.sregs)) ∧
    (∀ o : TlOp, ∃ t u, exec (.tladv c o) s = .next t ∧ Terms.acquired s u b.core [b.asid] o.scope
        (∃ sl ∈ memberSlices g sp, takes c sl = true ∧ (sl.s64 o.n.toNat).toNat ≤ (b.tlOf o.ctx).counter) ∧ wordDone u t b g sp fun sl sl' =>
      Terms.became c { sl with lanes := sl'.lanes } sl' ∧
      ∀ j, sl'.lane j = if takes c sl = true ∧ j ∈ sl.active then
        (sl.lane j).setP o.d.toNat (decide ((sl.s64 o.n.toNat).toNat ≤ (b.tlOf o.ctx).counter)) else sl.lane j) ∧
    ∀ o : TlOp, (∀ sl ∈ memberSlices g sp, takes c sl = true → (sl.s64 o.n.toNat).toNat ≤ (b.tlOf o.ctx).counter) →
      (s.tlRelease b o.scope).1 = true →
      ∃ t u, exec (.tlwait c o) s = .next t ∧ Terms.acquired s u b.core [b.asid] o.scope (∃ sl ∈ memberSlices g sp, takes c sl = true) ∧
        wordDone u t b g sp fun sl sl' => Terms.became c sl sl'

/-! ### Retiring, yielding, joining and waiting in a block -/

/-- R69, R166, R168, R276: SPINH goes on, and so does YIELD with no yield request; under one, a YIELD that some slice takes marks its slices as
yielded and has the block's save looked at. EXIT retires the lanes in which it takes effect; with a live lane left in the gang, no
barrier in use and no slice at REGANG or SYNCM, nothing else changes. -/
def Obligations.RunWords : Prop :=
  ∀ (s : State) (b : Block) (g : Gang) (sp : Split) (c : Ctl), Issues s b g sp → b.halt = none →
    (∃ t, exec (.spinh c) s = .next t ∧ wordDone s t b g sp fun sl sl' => Terms.became c sl sl') ∧
    (b.yreq = false → ∃ t, exec (.yield c) s = .next t ∧ wordDone s t b g sp fun sl sl' => Terms.became c sl sl') ∧
    (b.yreq = true → (∃ sl ∈ memberSlices g sp, takes c sl = true) → ∃ t, exec (.yield c) s = .next t ∧
      wordDone { s with work := s.work ++ [.unitSave b.id] } t b g sp fun sl sl' => Terms.became c { sl with yielded := true } sl') ∧
    (b.isHandler = false → (∀ x ∈ b.bars, x.expected = 0 ∧ x.marks = []) → (∀ x ∈ g.slices, x.syncm = []) →
      (∀ q ∈ g.splits, ∀ m, q.wait ≠ .regang m) →
      (∃ sl ∈ g.slices, ∃ j ∈ sl.live, sp.slices.contains sl.num = true → j ∉ effLanes c sl) →
      ∃ t, exec (.exit c) s = .next t ∧ wordDone s t b g sp fun sl sl' =>
        Terms.became c { sl with lanes := sl'.lanes } sl' ∧
        ∀ j, sl'.lane j = if j ∈ effLanes c sl then { sl.lane j with exited := true } else sl.lane j)

/-- R55, R64, R274, R315, R316: a REGANG whose mask names two slices, of which the other waits at the same word with the same mask, joins
them into one split, and both go on once their stalls have passed (R232). The BAR that brings the last expected arrival completes the phase: PHASE rises, the arrivals
are forgotten, and the slice goes on. A SYNCM goes on where the lanes of its mask that have not exited all take it with that mask. -/
def Obligations.JoinWords : Prop :=
  ∀ (s : State) (b : Block) (g : Gang) (sp : Split) (c : Ctl), Issues s b g sp → b.halt = none → c.slot = .full →
    (∀ (m : BitVec 8) (x y : Slice) (q : Split), m ≠ 0 → g.slices = [x, y] → g.splits = [sp, q] → sp.slices = [x.num] → q.slices = [y.num] →
      q.wait = .regang m → x.num ≠ y.num → x.live ≠ [] → y.live ≠ [] → x.pc = y.pc → m.getLsbD x.num = true → m.getLsbD y.num = true →
      ∃ t, exec (.regang c m) s = .next t ∧ (onlyGang s t b.id g.num fun sl sl' => sl' = { sl with pc := sl.pc + 8, execMask := none }) ∧
        ∀ b', t.blk b.id = some b' → ∀ g', b'.gang g.num = some g' →
          g'.splits = [({ slices := [x.num, y.num], readyAt := max (s.now + 1 + c.stall.toNat) (max sp.readyAt q.readyAt), owed := true } : Split)]) ∧
    (∀ (n : BitVec 4) (arv : Bool) (sl : Slice) (x : Barrier), b.bars[n.toNat]? = some x → g.slices = [sl] → sp.slices = [sl.num] → sl.num < 8 →
      sl.live ≠ [] → g.retired = false → sp.made = false → relAll s b g sp [sl] .blk = none → b.barSettle = b →
      x.expected = x.arrived.length + 1 → g.num ∉ x.arrived → x.seqArrived = 0 → x.next = [] →
      let done := fun (i : Nat) (y : Barrier) => if i = n.toNat then { y with phase := y.phase + 1, arrived := [], marks := [] } else y
      ∃ t, exec (.bar c { b := n, arv }) s = .next t ∧
        wordDone { s with blocks := s.blocks.map fun y => if y.id = b.id then { y with bars := y.bars.mapIdx done } else y } t b g sp fun sl sl' =>
          Terms.became c sl sl') ∧
    ∀ (o : MOp) (sl : Slice) (m : Word), memberSlices g sp = [sl] → (∀ x ∈ g.slices, x.syncm = []) → relAll s b g sp [sl] .blk = none → m ≠ 0 →
      (∀ j ∈ effLanes c sl, sl.v g.budget o.d.toNat j = m ∧ m.getLsbD (4 * sl.num + j) = true) →
      (∀ k < 32, m.getLsbD k = true → (∃ j ∈ effLanes c sl, k = 4 * sl.num + j) ∨ ∀ x, g.slice (k / 4) = some x → k % 4 ∉ x.live) →
      ∃ t, exec (.syncm c o) s = .next t ∧ wordDone s t b g sp fun sl sl' => Terms.became c sl sl'

/-- One access has been put in flight for the only member slice of a split, which goes on; nothing else of `u` changes. -/
def Sys2Proof.Terms.inFlight (u t : State) (b : Block) (g : Gang) (sp : Split) (a : Access) : Prop :=
  wordDone { u with nextId := u.nextId + 1, work := u.work ++ [.accessCompletion u.nextId] } t b g sp fun sl sl' =>
    sl' = { sl with pc := sl.pc + 8, execMask := none, acc := sl.acc ++ [a] }

/-- An access as a slice issues it (R93, R94). -/
def Sys2Proof.Terms.issued (s : State) (b : Block) (g : Gang) (sp : Split) (sl : Slice) (k : AccKind) (path esz asid : Nat) (parts : List Part) :
    Access :=
  { id := s.nextId, who := ⟨b.id, g.num, sl.num⟩, path, kind := k, esz, asid, pc := g.splitPc sp, parts, grp := s.nextId }

/-- The taking lanes of a slice but the lowest, for a word that acts once for its slice (R269). -/
def Sys2Proof.Terms.others (c : Ctl) (sl : Slice) : List Nat := (faultLanes c sl).filter fun k => k != lowLane c sl

/-- R97, R98, R317: in a slice that takes it, a transaction-barrier word whose address is 16-byte aligned and its own updates the slot there and
puts one access on the slot's path. BINIT gives a slot that is not armed MODE 1 and its expected arrivals; BEXP moves PEND and, with
arrival, ARR; BARV moves ARR; where ARR comes to EXPA with PEND 0, PHASE rises and ARR is 0; BRET clears MODE; BTEST without .wait changes
no slot and carries whether the phase has passed, and a 1 acquires. Every other vault byte stays. -/
def Obligations.BarrierWords : Prop :=
  ∀ (s : State) (b : Block) (g : Gang) (sp : Split) (c : Ctl) (o : MOp) (sl : Slice), Issues s b g sp → b.halt = none → c.slot = .full →
    memberSlices g sp = [sl] → takes c sl = true → (∀ p < 2, accCount sl.acc p < 63) →
    (∀ sc, relAll s b g sp [sl] sc = none) →
    let j := lowLane c sl
    let a := (sl.v g.budget o.a.toNat j).toNat
    let d := dieOf b.core
    let slot := s.vlRd d a 16
    let f := fun (lo n : Nat) => slot / 2 ^ lo % 2 ^ n
    let w := sl.v g.budget o.d.toNat j
    let acc := fun (p : Part) => Terms.issued s b g sp sl (.vbar 0) (s.vaultPath b a) 4 b.asid [p]
    let p : Part := { lane := j, addr := a, dst := sl.phys g.budget o.d.toNat, also := Terms.others c sl }
    let wrote := fun (t : State) (armed : List Nat) (v : Nat) =>
      t.vlRd d a 16 = v ∧ (∀ x, (∀ k < 16, x ≠ s.vkey d a + k) → Memory.byte t.vault x = Memory.byte s.vault x) ∧
      (∀ x ∈ t.badVault, x ∈ s.badVault) ∧
      Terms.inFlight { s with vault := t.vault, badVault := t.badVault, armed } t b g sp (acc p)
    let next := fun (pend : Int) (arr : Nat) =>
      f 122 6 * 2 ^ 122 + (pend % 2 ^ 26).toNat * 2 ^ 96 + f 80 16 * 2 ^ 80 +
        (if arr = f 80 16 ∧ pend = 0 then ((f 32 32 + 1) % 2 ^ 32) * 2 ^ 32 else arr % 2 ^ 16 * 2 ^ 64 + f 32 32 * 2 ^ 32) + f 0 32
    let pend : Int := if f 96 26 < 2 ^ 25 then (f 96 26 : Int) else (f 96 26 : Int) - 2 ^ 26
    a % 16 = 0 → s.vaultOk b a 16 = true →
    (f 126 2 ≠ 1 → w.toNat % 2 ^ 16 ≠ 0 → ∃ t, exec (.binit c o) s = .next t ∧
      wrote t (addNew s.armed (s.vkey d a / 16)) (2 ^ 126 + w.toNat % 2 ^ 16 * 2 ^ 80)) ∧
    (f 126 2 = 1 →
      (-2 ^ 25 ≤ pend + w.toInt → pend + w.toInt < 2 ^ 25 → ∃ t, exec (.bexp c o) s = .next t ∧
        wrote t s.armed (next (pend + w.toInt) (f 64 16 + if o.y = 1 then 1 else 0))) ∧
      (∃ t, exec (.barv c o) s = .next t ∧ wrote t s.armed (next pend (f 64 16 + 1))) ∧
      (∃ t, exec (.bret c o) s = .next t ∧ wrote t (s.armed.filter fun k => k != s.vkey d a / 16) (slot % 2 ^ 126)) ∧
      let n := (BitVec.ofNat 32 (f 32 32) - sl.v g.budget o.c.toNat j).toNat
      let passed := decide (1 ≤ n ∧ n ≤ 2 ^ 31)
      (o.y ≠ 1 ∨ passed = true → ∃ t u, exec (.btest c o) s = .next t ∧ Terms.acquired s u b.core [b.asid] .die (passed = true) ∧
        Terms.inFlight u t b g sp (acc { p with data := BitVec.ofNat 64 passed.toNat, cmp := BitVec.ofNat 64 ((sl.active.map fun j => 2 ^ j).sum) })))

/-- The coordinate that a register holds: a signed number (R307). -/
def Sys2Proof.Terms.inside (d : Desc) (x y : Word) : Prop := 0 ≤ x.toInt ∧ x.toInt < d.dim0 ∧ 0 ≤ y.toInt ∧ y.toInt < d.dim1

/-- R307, R321, R322, R334: LDX reads the descriptor that its lowest taking lane names and puts one access in flight with a part at the
element of each taking lane, where all lie in the tensor; CPYA copies the lanes' bytes to their vault addresses; STCW stores the pair
of the lowest taking lane, after its release. Nothing else changes. -/
def Obligations.CopyWords : Prop :=
  ∀ (s : State) (b : Block) (g : Gang) (sp : Split) (c : Ctl) (o : MOp) (sl : Slice), Issues s b g sp → b.halt = none → c.slot = .full →
    memberSlices g sp = [sl] → (∀ p < 8, accCount sl.acc p < 63) →
    let v := fun (r : BitVec 8) (j : Nat) => sl.v g.budget r.toNat j
    (effLanes c sl ≠ [] →
      let da := (v o.a ((effLanes c sl).headD 0)).toNat
      let d := s.descAt (dieOf b.core) da
      let e := etypeSize d.etype
      let y := fun (j : Nat) => sl.v g.budget (o.c.toNat + 1) j
      let at' := fun (j : Nat) =>
        let x := (d.base + (y j).toInt.toNat * d.stride + (v o.c j).toInt.toNat * e) % 2 ^ 64
        if d.vault then x % 2 ^ 32 else x
      descBusy sl da = false → da % 64 = 0 → s.vaultOk b da 64 = true → d.ok true false = true → (e = 8 → o.ty = .w64) →
      (∀ j ∈ effLanes c sl, Terms.inside d (v o.c j) (y j) ∧ at' j % e = 0 ∧ (d.vault = true → s.vaultOk b (at' j) e = true)) →
      ∃ t, exec (.ldx c o) s = .next t ∧ Terms.inFlight s t b g sp (Terms.issued s b g sp sl
        (.ldx ((if o.ty = .w64 then 1 else 0) + (if d.vault then 2 else 0))) 6 e (if d.vault then b.asid else s.accAsid b sl)
        ((effLanes c sl).map fun j => ({ lane := j, addr := at' j, dst := sl.phys g.budget o.d.toNat } : Part)))) ∧
    (effLanes c sl ≠ [] → o.y.getLsbD 2 = false →
      let n := 4 * 2 ^ (o.y.toNat % 4)
      let from' := fun (j : Nat) => (sl.v64 g.budget o.a.toNat j + offOf n o.off).toNat
      (∀ j ∈ effLanes c sl, from' j % n = 0 ∧ (v o.d j).toNat % n = 0 ∧ s.vaultOk b (v o.d j).toNat n = true ∧
        s.hitsArmed (dieOf b.core) (v o.d j).toNat n = false) →
      ∃ t, exec (.cpya c o) s = .next t ∧ Terms.inFlight s t b g sp (Terms.issued s b g sp sl (.cpya n none) 5 n (s.accAsid b sl)
        ((effLanes c sl).map fun j => ({ lane := j, addr := from' j, dst := (v o.d j).toNat } : Part)))) ∧
    (takes c sl = true → relAll s b g sp [sl] o.scope = none →
      let j := lowLane c sl
      let a := (sl.v64 g.budget o.a.toNat j + offOf 8 o.off).toNat
      a % 8 = 0 → ∃ t, exec (.stcw c o) s = .next t ∧ Terms.inFlight s t b g sp
        { Terms.issued s b g sp sl (.stcw (if o.y = 1 then some ((v o.c j).toNat % 2048) else none))
            (match a / 2 ^ 46 % 4 with | 2 => 3 | 3 => 4 | _ => 2) 8 (s.accAsid b sl)
            [{ lane := j, addr := a, data := sl.v64 g.budget o.d.toNat j, also := Terms.others c sl }] with ord := .rel, scope := o.scope })

/-! ### Caches, translations, notices and records -/

/-- R323, R364, R367: CCTL.inv acquires at .die; CCTL.invl discards the L1 line of an address; each MAPCTL word puts one access in flight
that names a context in use; SLEEPW goes on where the word that it watches in the vault differs from the expected value. -/
def Obligations.CacheWords : Prop :=
  ∀ (s : State) (b : Block) (g : Gang) (sp : Split) (c : Ctl) (sl : Slice), Issues s b g sp → b.halt = none → c.slot = .full →
    memberSlices g sp = [sl] → takes c sl = true → (∀ p < 8, accCount sl.acc p < 63) →
    let j := lowLane c sl
    (∀ o : MOp, ∃ t u, exec (.cctlInv c o) s = .next t ∧ Terms.acquired s u b.core [b.asid] .die True ∧
      wordDone u t b g sp fun sl sl' => Terms.became c sl sl') ∧
    (∀ o : MOp, ∃ t u, exec (.cctlInvl c o) s = .next t ∧ u = { s with cores := u.cores } ∧
      (∀ k, k ≠ b.core → u.core k = s.core k) ∧
      u.core b.core = { s.core b.core with l1 := (s.core b.core).l1.filter fun x =>
        !(x.asid == s.accAsid b sl && x.vline == (sl.v64 g.budget o.a.toNat j + offOf 4 o.off).toNat / 128) } ∧
      wordDone u t b g sp fun sl sl' => Terms.became c sl sl') ∧
    (∀ o : ZOp, s.inUse ((sl.s o.d.toNat).toNat % 4096) = true →
      ∀ r ∈ [(Instr.mapctlInv c o, 0), (.mapctlInvall c o, 1), (.mapctlHost c o, 2), (.mapctlDev c o, 3)], ∃ t, exec r.1 s = .next t ∧
        Terms.inFlight s t b g sp (Terms.issued s b g sp sl (.mapctl r.2 ((sl.s o.d.toNat).toNat % 4096)) 2 8 b.asid
          [{ lane := j, addr := (sl.v64 g.budget o.a.toNat j).toNat, also := Terms.others c sl }])) ∧
    ∀ o : SleepwOp, o.v = true →
      let a := (sl.v g.budget o.a.toNat j).toNat
      a % 4 = 0 → s.vaultOk b a 4 = true → BitVec.ofNat 32 (s.vlRd (dieOf b.core) a 4) ≠ sl.v g.budget o.b.toNat j →
      ∃ t, exec (.sleepw c o) s = .next t ∧ wordDone s t b g sp fun sl sl' => Terms.became c sl sl'

/-- R178, R239, R314, R359, R365: WLIVE sets the live counts of a whey slice, and elsewhere nothing; DECLD sets the decode map of a context in use, from a
value whose map number is not 0, and reserved bits stay 0; MARK with no tracked device goes on, and with one sends it a marker on every
path of its route and counts it on the fabric path. -/
def Obligations.MarkWords : Prop :=
  ∀ (s : State) (b : Block) (g : Gang) (sp : Split) (c : Ctl) (sl : Slice), Issues s b g sp → b.halt = none → c.slot = .full →
    memberSlices g sp = [sl] → takes c sl = true → accCount sl.acc 3 < 63 →
    (∀ o : WliveOp, ∃ t, exec (.wlive c o) s = .next t ∧ wordDone s t b g sp fun sl sl' =>
      Terms.became c (if b.whey = none then sl else { sl with vlive := 8 * o.nv.toNat, slive := 8 * o.ns.toNat }) sl') ∧
    (∀ o : ZOp, let v := sl.s64 o.a.toNat
      let asid := (sl.s o.d.toNat).toNat % 4096
      v.toNat % 4 ≠ 0 → (v.toNat % 4 = 1 → v.toNat / 4 % 512 = 0) → s.inUse asid = true → ∃ t, exec (.decld c o) s = .next t ∧
        wordDone { s with cx := t.cx } t b g sp (fun sl sl' => Terms.became c sl sl') ∧
        t.cxr asid 0x102 = v &&& 0x0000FFFFFFFFF803 ∧ ∀ a k, k < 512 → ¬ (a = asid ∧ k = 0x102) → t.cxr a k = s.cxr a k) ∧
    (sl.devs = [] → sl.devOvf = false → sl.unposted = false → ∃ t, exec (.mark c false) s = .next t ∧ wordDone s t b g sp fun sl sl' => Terms.became c sl sl') ∧
    ∀ d, sl.devs = [d] → sl.devOvf = false → sl.unposted = false →
      let n := (s.paths d).length
      let w : Issuer := ⟨b.id, g.num, sl.num⟩
      ∃ t, exec (.mark c false) s = .next t ∧
        wordDone { s with nextId := s.nextId + 2, markersOut := s.markersOut ++ [{ id := s.nextId + 1, who := w, acc := s.nextId, dev := d }],
                          outs := s.outs ++ (List.range n).map fun k => .marker d
                            { id := s.nextId + 1, src := s.devNum, copies := n, path := k, slice := b.id * 4096 + g.num * 16 + sl.num } } t b g sp
          fun sl sl' => sl' = { sl with
            pc := sl.pc + 8, execMask := none, devs := [],
            acc := sl.acc ++ [{ id := s.nextId, who := w, path := 3, kind := .mark, esz := 4, asid := b.asid, pc := sl.pc,
                                parts := [{ lane := 0, addr := 0, st := .sent 0 }], grp := s.nextId }] }

/-- R160, R163, R360, R361: a LAUNCH to a device launch queue that grants an entry puts the record that it reads at the end of the queue; an EMIT of one lane
puts the 64 bytes at its vault address at the end of its node's queue. The other queues stay, and the slice goes on.
R147, R362, R363: a KICK of a notice that passes its checks sends the notice to its kick register and is counted on path 7. -/
def Obligations.QueueWords : Prop :=
  (∀ (s : State) (b : Block) (g : Gang) (sp : Split) (c : Ctl) (sl : Slice) (o : ZqOp) (j : Nat), Issues s b g sp → b.halt = none → c.slot = .full →
     memberSlices g sp = [sl] → sl.frozen = false → effLanes c sl = [j] → sl.sent = [] → relAll s b g sp [sl] .dev = none →
     let d := dieOf b.core
     let put := fun (t : State) (q : Nat) (x : QItem) =>
       t.queue d q = s.queue d q ++ [x] ∧ (∀ k n, ¬ (k = d ∧ n = q) → t.queue k n = s.queue k n) ∧
       ∀ k, t.die k = { s.die k with queues := (t.die k).queues }
     (∀ r, let a := (sl.v64 g.budget o.a.toNat j).toNat
       s.launchQueue d o.q.toNat b.asid = true → s.grants d o.q.toNat = true → s.readRecord b.asid a = .inl r →
       ∃ t, exec (.launch c o) s = .next t ∧ put t o.q.toNat (.launch r a b.asid 0 none none []) ∧
         wordDone { s with dies := t.dies, work := s.work ++ [.launchPlacement d] } t b g sp fun sl sl' => Terms.became c sl sl') ∧
     ∀ lr q n tmo, let a := (sl.v g.budget o.a.toNat j).toNat
       a % 64 = 0 → s.vaultOk b a 64 = true → s.nodeOf b.asid o.q.toNat = some (lr, q, n, tmo) → s.emitFull d q b.asid = false → s.grants d q = true →
       ∃ t, exec (.emit c o) s = .next t ∧ put t q (.emit b.asid o.q.toNat (leBytes 64 (s.vlRd d a 64)) s.gtime) ∧
         wordDone { s with dies := t.dies, work := s.work ++ [.launchPlacement d],
                           timers := s.timers ++ if tmo = 0 then [] else [(s.gtime + tmo, .nodeFlushTimeout b.asid o.q.toNat)] } t b g sp fun sl sl' =>
           Terms.became c sl sl') ∧
  ∀ (s : State) (b : Block) (g : Gang) (sp : Split) (c : Ctl) (sl : Slice) (o : ZOp), Issues s b g sp → b.halt = none → c.slot = .full →
    memberSlices g sp = [sl] → takes c sl = true → (∀ x ∈ g.slices, x.acc = []) → sl.num ≠ seqSlice → (∀ x ∈ s.allAccs, x.id < s.nextId) →
    let a := (sl.v g.budget o.a.toNat (lowLane c sl)).toNat
    let n := s.noticeAt b a
    relAll s b g sp [sl] (s.kickScope b n) = none → s.kickChk b a = none → n.tdev = s.devNum → n.tasid = b.asid → n.sv = true →
    ∃ t sl', exec (.kick c o) s = .next t ∧ t.slice ⟨b.id, g.num, sl.num⟩ = some sl' ∧ sl' = { sl with pc := sl.pc + 8, execMask := none, acc := sl'.acc } ∧
      (∃ x, sl'.acc = [x] ∧ x.path = 7 ∧ x.kind = .kick n ∧ x.id = s.nextId) ∧ .kickNoticeArrival { n with sender := s.nextId } ∈ t.work ∧
      t.mem = s.mem ∧ t.vault = s.vault

/-! ### Interrupts, system calls, returns from traps -/

/-- R190, R193, R354: the UIMASK words write the mask of the context's interrupt block, and UIPEND reads the pending vectors; UIMASK.hnd makes the issuing gang the
handler, with its entry address. Only the mask's bytes change in memory, and a delivery that comes to be due waits for the handler's next run end and may
be taken up.
R191, R192, R353: a SENDUI to a context of this device whose interrupt unit permits the vector applies the send and goes on; one to a peer device
travels, and is counted on the fabric path. -/
def Obligations.InterruptWords : Prop :=
  (∀ (s : State) (b : Block) (g : Gang) (sp : Split) (c : Ctl) (sl : Slice) (pa pm : Nat) (e em : DWord), Issues s b g sp → b.halt = none →
     memberSlices g sp = [sl] → takes c sl = true → s.uiBase b.asid ≠ 0 → s.xlat b.asid (s.uiBase b.asid) .any = .inl (pa, e) →
     s.xlat b.asid (s.uiBase b.asid + 8) .any = .inl (pm, em) → pm % 8 = 0 →
     (∀ d < 8, ∀ x, mget (s.die d).l2 (pm / 64) = some x → x.tokn ≠ 0) →
     let poked := fun (t : State) => t.work = s.work ∨ t.work = s.work ++ [.uiDelivery b.asid]
     let old := BitVec.ofNat 64 (s.rd pm 8)
     (∀ o : ZOp, let x := sl.s64 o.a.toNat
       ∀ r ∈ [(Instr.uimaskWr c o, x), (.uimaskSet c o, old ||| x), (.uimaskClr c o, old &&& ~~~x)], ∃ t, exec r.1 s = .next t ∧
         BitVec.ofNat 64 (t.rd pm 8) = r.2 ∧ (∀ q, (∀ k < 8, memAddr q ≠ memAddr (pm + k)) → t.rd1 q = s.rd1 q) ∧
         (t.work.length = s.work.length ∨ t.work.length = s.work.length + 1 ∧ t.work.getLast? = some (.uiDelivery b.asid)) ∧
         wordDone { ({ s with mem := t.mem, dies := t.dies } : State).uiMark (s.uiDue b.asid) b.asid with work := t.work } t b g sp fun sl sl' =>
           Terms.became c sl sl') ∧
     (∀ o : ZOp, ∃ t, exec (.uipend c o) s = .next t ∧ poked t ∧ wordDone { s with work := t.work } t b g sp fun sl sl' =>
       Terms.became c { sl with sregs := sl'.sregs } sl' ∧ sl'.s64 o.d.toNat = BitVec.ofNat 64 (s.rd pa 8) ∧
       ∀ i, i ≠ o.d.toNat → i ≠ o.d.toNat + 1 → sl'.s i = sl.s i) ∧
     ∀ off : BitVec 20, ∃ t, exec (.uimaskHnd c off) s = .next t ∧ poked t ∧
       t.cxr b.asid 0x110 = BitVec.ofNat 64 (2 ^ 63 + b.core % 512 * 2 ^ 54 + b.seqx % 4 * 2 ^ 52 + g.num % 16 * 2 ^ 48 + (Terms.target sl.pc off).toNat) ∧
       (∀ a k, k < 512 → ¬ (a = b.asid ∧ k = 0x110) → t.cxr a k = s.cxr a k) ∧
       t.uiOf b.asid = { s.uiOf b.asid with hnd := some (b.id, g.num) } ∧ (∀ a, a ≠ b.asid → t.uiOf a = s.uiOf a) ∧
       wordDone { s with ui := t.ui, cx := t.cx, work := t.work } t b g sp fun sl sl' => Terms.became c sl sl') ∧
  ∀ (s : State) (b : Block) (g : Gang) (sp : Split) (c : Ctl) (sl : Slice) (o : SendOp), Issues s b g sp → b.halt = none → c.slot = .full →
    memberSlices g sp = [sl] → takes c sl = true → accCount sl.acc 3 < 63 → (∀ sc, relAll s b g sp [sl] sc = none) →
    let j := lowLane c sl
    let tgt := (sl.s o.a.toNat).toNat
    let dev := tgt / 4096 % 512
    let p := sl.v64 g.budget o.d.toNat j
    (o.peer = false ∨ dev = s.devNum → ∀ u, s.uiSend (tgt % 4096) o.v.toNat p (.loc b.asid) = .inl u →
      ∃ t, exec (.sendui c o) s = .next t ∧ wordDone u t b g sp fun sl sl' => Terms.became c sl sl') ∧
    (o.peer = true → dev ≠ s.devNum → dev ∈ s.members → ∃ t, exec (.sendui c o) s = .next t ∧
      wordDone { s with nextId := s.nextId + 1, fabReqs := t.fabReqs,
                        outs := s.outs ++ [.peerUi dev (tgt % 4096) o.v.toNat p b.asid (s.nextId % 65536)] } t b g sp fun sl sl' =>
        ∃ a, sl' = { sl with pc := sl.pc + 8, execMask := none, acc := sl.acc ++ [a] } ∧ a.path = 3 ∧ a.kind = .sendui ∧ a.id = s.nextId)

/-- R355, R200, R201: the SYSCALL of one lane whose number may be posted makes a record with the lane's arguments and waits for it; where the host ring's next slot is
free, the record is written there with its interrupt. When no record of the wait is left, the split goes on. -/
def Obligations.SystemCall : Prop :=
  ∀ (s : State) (b : Block) (g : Gang) (sp : Split) (c : Ctl) (sl : Slice) (o : SyscallOp) (j : Nat), Issues s b g sp → b.halt = none →
    memberSlices g sp = [sl] → sp.slices = [sl.num] → effLanes c sl = [j] →
    let n := match o.n with | .inl r => (sl.v g.budget r.toNat j).toNat % 4096 | .inr i => i.toNat
    let args := (List.range 6).map fun k => sl.v64 g.budget (o.a.toNat + 2 * k) j
    let lane := 4 * sl.num + j
    let ring := s.scRing b.asid true
    let slot := mgetD s.scFill (2 * b.asid + 1) 0 % ring.2.1
    (sp.made = false → 0x800 ≤ n → s.callOk b.asid n = true → relAll s b g sp [sl] .sys = none → s.sc = [] → lane < 32 →
      ∃ t, exec (.syscall c o) s = .next t ∧
        t.sc = [{ id := s.nextId, asid := b.asid, host := true, slot, who := ⟨b.id, g.num, sl.num⟩,
                  lanes := [(lane, sl.phys g.budget o.d.toNat, args)], posted := true, num := n }] ∧
        (∃ bytes, t.outs = s.outs ++ [.hostWrite ring.2.2 (ring.1 + 2048 * slot) bytes, .msix ring.2.2 (fld (s.cxr b.asid 0x11D) 0 11)] ∧
          bytes.take 16 = leBytes 2 n ++ [1, 0] ++ leBytes 4 (2 ^ lane) ++ leBytes 4 b.num ++ leBytes 1 g.num ++ [0] ++ leBytes 2 b.asid ∧
          ∀ k < 6, (bytes.drop (64 + 48 * lane + 8 * k)).take 8 = leBytes 8 (args.getD k 0).toNat) ∧
        (onlyGang { s with sc := t.sc, outs := t.outs, scFill := t.scFill, nextId := s.nextId + 1 } t b.id g.num fun sl sl' => sl' = sl) ∧
        ∀ b', t.blk b.id = some b' → ∀ g', b'.gang g.num = some g' → ∃ q, g'.splitOf sl.num = some q ∧ q.made = true ∧ q.wait = .syscall [s.nextId]) ∧
    ∀ recs, sp.made = true → sp.wait = .syscall recs → (∀ r ∈ s.sc, r.id ∉ recs) →
      ∃ t, exec (.syscall c o) s = .next t ∧ wordDone s t b g sp fun sl sl' => Terms.became c sl sl'

/-- R201, R356: a SYSRET that names a slot whose record is posted ends the record: the lane that waits for it receives the value that stands in the slot, as a pair. -/
def Obligations.SystemReturn : Prop :=
  ∀ (s : State) (b b2 : Block) (g g2 : Gang) (sp : Split) (c : Ctl) (sl x : Slice) (o : ZOp) (r : ScRec) (l p : Nat) (args : List DWord),
    Issues s b g sp → b.halt = none → c.slot = .full → memberSlices g sp = [sl] → takes c sl = true → relAll s b g sp [sl] .dev = none →
    let asid := (sl.s o.d.toNat).toNat % 4096
    let i := (sl.s o.a.toNat).toNat
    let ring := s.scRing asid false
    let at' := ring.1 + 2048 * i + 2
    s.inUse asid = true → ring.1 ≠ 0 → i < ring.2.1 → s.vrd asid at' 1 = some 1 →
    s.sc = [r] → r.asid = asid → r.host = false → r.posted = true → r.slot = i → r.acc = none → r.lanes = [(l, p, args)] →
    s.blk r.who.blk = some b2 → b2.gang r.who.gang = some g2 → g2.slice (l / 4) = some x →
    let v := BitVec.ofNat 64 (((s.vwr asid at' [2]).vrd asid (ring.1 + 2048 * i + 1792 + 8 * l) 8).getD 0)
    ∃ t x', exec (.sysret c o) s = .next t ∧ t.sc = [] ∧ t.slice { r.who with slice := l / 4 } = some x' ∧
      x'.vphys p (l % 4) = lo32 v ∧ x'.vphys (p + 1) (l % 4) = hi32 v ∧
      (∀ q j, j < 4 → ¬ (j = l % 4 ∧ (q = p ∨ q = p + 1)) → x'.vphys q j = (x.landTo s.now).vphys q j) ∧ t.vault = s.vault

/-- R357, R416: a TRAPRET of one handler lane writes the registers that it returns into its origin's trap entry, marks the entry as returned (and skipped under
.skip), and the lane retires; no other vault byte changes. The origin's block may then resume.
R420, R436: TRAPRET.frz in a frozen slice with nothing in flight restores s56 to s63 and the program counter of its frozen frame, or with .skip the word after, and the
slice is frozen no more. -/
def Obligations.TrapReturn : Prop :=
  (∀ (s : State) (b ob : Block) (g : Gang) (sp : Split) (c : Ctl) (sl : Slice) (o : TrapretOp) (j : Nat) (org : Origin),
     Issues s b g sp → b.halt = none → memberSlices g sp = [sl] → sl.frozen = false → effLanes c sl = [j] →
     b.isHandler = true → b.handlerOf[4 * sl.num + j]? = some org → org.seq = false → s.blk org.blk = some ob →
     o.m1 ≠ 255 → o.k.toNat + o.m1.toNat + 1 ≤ 32 → org.entry % 2 ^ 28 + 160 ≤ 2 ^ 28 →
     let d := dieOf ob.core
     let n := o.m1.toNat + 1
     ∃ t sl', exec (.trapret c o) s = .next t ∧
       (∀ i < n, t.vlRd d (org.entry + 32 + 4 * (o.k.toNat + i)) 4 = (sl.v g.budget (o.k.toNat + i) j).toNat) ∧
       t.vlRd d (org.entry + 9) 1 = Nat.lor (s.vlRd d (org.entry + 9) 1) (if o.skip then 6 else 2) ∧
       (∀ x, (∀ k < 4 * n, x ≠ s.vkey d org.entry + 32 + 4 * o.k.toNat + k) → x ≠ s.vkey d org.entry + 9 →
         Memory.byte t.vault x = Memory.byte s.vault x) ∧
       .blockResume org.blk ∈ t.work ∧ t.mem = s.mem ∧ t.slice ⟨b.id, g.num, sl.num⟩ = some sl' ∧
       ∀ i, sl'.lane i = if i = j then { sl.lane i with exited := true } else sl.lane i) ∧
  ∀ (s : State) (b : Block) (g : Gang) (sp : Split) (c : Ctl) (sl : Slice) (skip : Bool), Issues s b g sp → b.halt = none → c.slot = .full →
    memberSlices g sp = [sl] → sl.frozen = true → takes c sl = true → sl.acc = [] → sl.num ≠ seqSlice →
    let d := dieOf b.core
    let a := b.vaddr (b.region.saveOff + 0x200 + 64 * sl.num)
    let rpc : BitVec 48 := BitVec.ofNat 48 (s.vlRd d a 8)
    ∃ t, exec (.trapretFrz c skip) s = .next t ∧ wordDone s t b g sp fun sl sl' =>
      sl' = { sl with frozen := false, pc := if skip then rpc + 8 else rpc, sregs := sl'.sregs, execMask := none } ∧
      ∀ i, sl'.s i = if 56 ≤ i ∧ i < 64 then BitVec.ofNat 32 (s.vlRd d (a + 32 + 4 * (i - 56)) 4) else sl.s i

/-- R196: the UIRET that brings the last slice of the running handler there, with no further vector due, restores the slice from its interrupt frame, which
lies where the delivery wrote it: the program counter, s56 to s63, and the counters and predicates of its live lanes; the handler runs no more. -/
def Obligations.InterruptReturn : Prop :=
  ∀ (s : State) (b : Block) (g : Gang) (sp : Split) (c : Ctl) (sl : Slice), Issues s b g sp → b.halt = none → g.slices = [sl] → g.splits = [sp] →
    sp.slices = [sl.num] → takes c sl = true → sl.live ≠ [] → (s.uiOf b.asid).running = some (b.id, g.num) → s.uiVector b.asid = none →
    let frame := sl.frameAt.getD (dieOf b.core, b.vaddr (b.region.saveOff + 64 * sl.num))
    let d := frame.1
    let a := frame.2
    ∃ t sl', exec (.uiret c) s = .next t ∧ (t.uiOf b.asid).running = none ∧ t.mem = s.mem ∧ t.vault = s.vault ∧
      t.slice ⟨b.id, g.num, sl.num⟩ = some sl' ∧ sl'.pc = BitVec.ofNat 48 (s.vlRd d a 8) ∧ sl'.n = 8 * s.vlRd d (a + 16) 1 ∧
      (∀ k < 8, sl'.s (56 + k) = BitVec.ofNat 32 (s.vlRd d (a + 32 + 4 * k) 4)) ∧
      ∀ j ∈ sl.live, (sl'.lane j).nest.toNat = s.vlRd d (a + 8) 4 / 2 ^ (8 * j) % 256 ∧ (sl'.lane j).preds.toNat = s.vlRd d (a + 12) 4 / 2 ^ (7 * j) % 128

/-- R178, R181, R358: outside a whey launch MIGR goes on; in one, where it names a replica of the slice's segment on another core in service with a backing slot
free, the slice, which has nothing in flight, leaves its core: its record is staged at that core, whose copy engine is to pull it. -/
def Obligations.MigrateWord : Prop :=
  ∀ (s : State) (b : Block) (g : Gang) (sp : Split) (c : Ctl) (sl : Slice) (o : MigrOp), Issues s b g sp → b.halt = none → c.slot = .full →
    memberSlices g sp = [sl] → takes c sl = true →
    (b.whey = none → ∃ t, exec (.migr c o) s = .next t ∧ wordDone s t b g sp fun sl sl' => Terms.became c sl sl') ∧
    ∀ slot seg x rep k v, b.whey = some (slot, seg) → o.named = true → (s.segs b.launch)[seg]? = some x →
      x.2.2.find? (fun r => r.1 == o.rep.toNat) = some (rep, k, v) → k ≠ b.core → (s.core k).inService = true → (s.core k).backUsed < (s.core k).backing →
      sl.acc = [] → ∃ t r, exec (.migr c o) s = .next t ∧ t.blk b.id = none ∧ (∀ i, i ≠ b.id → t.blk i = s.blk i) ∧
        (t.core k).staged = (s.core k).staged ++ [(r, k, b.core)] ∧ (t.core k).backUsed = (s.core k).backUsed + 1 ∧ r.seg = seg ∧ r.blk.id = b.id ∧
        t.work = s.work ++ [.copyEnginePull k] ∧ t.mem = s.mem ∧ t.vault = s.vault

/-- R366, R402, R403, R407, R409, R415: BKPT takes trap 0x0D. In a context that is no supervisor's and whose trap control is valid, with one split in the block and its
sequencer stopped, the block halts with the code, the record goes to the ring, the slice stays at its word, and the entry of each taking lane holds the program counter and the code. -/
def Obligations.Breakpoint : Prop :=
  ∀ (s : State) (b : Block) (g : Gang) (sp : Split) (c : Ctl) (sl : Slice) (n : BitVec 20), Issues s b g sp → b.halt = none → c.slot = .full →
    b.gangs = [g] → g.slices = [sl] → g.splits = [sp] → sp.slices = [sl.num] → sl.frozen = false → effLanes c sl ≠ [] → sl.acc = [] → b.seq.stop = true →
    s.sup b.asid = false → (s.cxr b.asid 0x11E).getLsbD 63 = true → (∀ j < 4, b.entryAddr g.num (4 * sl.num + j) + 160 ≤ 2 ^ 28) → sl.num < 8 →
    ∃ t b' h sl', exec (.bkpt c n) s = .next t ∧ t.blk b.id = some b' ∧ b'.halt = some h ∧ h.code = 0x0D ∧ h.faulted = [(g.num, sl.num, sl.pc)] ∧
      t.slice ⟨b.id, g.num, sl.num⟩ = some sl' ∧ sl'.pc = sl.pc ∧ sl'.lanes.map (·.exited) = sl.lanes.map (·.exited) ∧
      t.cxr b.asid 0x117 = (ringPut (s.cxr b.asid 0x116) (s.cxr b.asid 0x117)).2 ∧
      (∀ j ∈ effLanes c sl, let a := b.entryAddr g.num (4 * sl.num + j)
        t.vlRd (dieOf b.core) a 8 = sl.pc.toNat ∧ t.vlRd (dieOf b.core) (a + 8) 1 = 0x0D) ∧
      h.origins.map (fun x => (x.gang, x.slice, x.lane, x.code)) = (effLanes c sl).map fun j => (g.num, sl.num, j, 0x0D)

/-- R56, R275: a REGROUP whose partner has retired goes on alone once its loads are in: its live lanes close ranks in ascending number, each with its origin and the named
registers, which are all that keep their values, with what is still to be written to them (R234). -/
def Obligations.RegroupWord : Prop :=
  ∀ (s : State) (b : Block) (g h : Gang) (sp : Split) (c : Ctl) (o : RegroupOp), Issues s b g sp → b.halt = none → g.splits = [sp] →
    b.gang o.g.toNat = some h → h.retired = true → (∀ sl ∈ g.slices, sl.live ≠ [] → sl.ret = [] ∧ sl.active = sl.live) →
    (∀ sl ∈ g.slices, ∀ a ∈ sl.acc, a.kind.loads = true → a.complete = true) →
    o.k.toNat + o.m1.toNat + 1 ≤ g.budget →
    let lanes := g.slices.flatMap fun sl => sl.live.map fun j => (sl, j)
    ∃ t, exec (.regroup c o) s = .next t ∧ t.mem = s.mem ∧ t.vault = s.vault ∧ t.cx = s.cx ∧ (∀ i, i ≠ b.id → t.blk i = s.blk i) ∧
      ∀ n x, lanes[n]? = some x → ∃ sl', t.slice ⟨b.id, g.num, n / 4⟩ = some sl' ∧
        sl'.live.length = min 4 (lanes.length - n / 4 * 4) ∧ (sl'.lane (n % 4)).orig = (x.1.lane x.2).orig ∧
        (∀ y ys, g.liveSlices = y :: ys → sl'.pc = y.pc + 8 ∧ ∀ i u, s.now ≤ u → sl'.sregAt u i = y.sregAt u i) ∧
        ∀ k u, o.k.toNat ≤ k → k ≤ o.k.toNat + o.m1.toNat → s.now ≤ u →
          sl'.regAt u (sl'.phys g.budget k) (n % 4) = x.1.regAt u (x.1.phys g.budget k) x.2

/-! ### The uniform stream -/

/-- From `s` to `t` only the block `b` changes: it becomes `x`. -/
def Sys2Proof.Terms.blockTo (s t : State) (b x : Block) : Prop :=
  t = { s with blocks := t.blocks } ∧ (∀ i, i ≠ b.id → t.blk i = s.blk i) ∧ t.blk b.id = some x

/-- The sequencer goes on at `pc` (R232, R329). -/
def Sys2Proof.Terms.seqOn (s : State) (c : Ctl) (pc : BitVec 48) (q : Sequencer) : Sequencer :=
  { q with pc, readyAt := s.now + 1 + c.stall.toNat, wait := .none, made := false }

/-- R332: QADD and QMOVI leave a value in one uniform register, to be read two cycles on, and every other register reads as before; QBRA goes to its target where the
register compares with 0 so, else on; QWAIT.until goes on once the time has come, and QWAIT.end ends the stream.
R332: a QLD whose address is 8-byte aligned, and in the vault the block's own, puts one access in flight and holds its destination. -/
def Obligations.UniformWords : Prop :=
  (∀ (s : State) (b : Block) (c : Ctl), SeqIssues s b → b.halt = none →
     let on := Terms.seqOn s c (b.seq.pc + 8) b.seq
     let wrote := fun (t : State) (d : Nat) (v : DWord) => ∃ l,
       Terms.blockTo s t b { b with seq := { on with pend := l } } ∧ ({ on with pend := l } : Sequencer).qAt (s.now + 2) d = v ∧
       ∀ i k, ¬ (i = d ∧ s.now + 2 ≤ k) → ({ on with pend := l } : Sequencer).qAt k i = b.seq.qAt k i
     (∀ o : QaddOp, ∃ t, exec (.qadd c o) s = .next t ∧ wrote t o.d.toNat
       (b.seq.q o.a.toNat + match o.b with | .inl r => b.seq.q r.toNat | .inr i => BitVec.ofInt 64 i.toInt)) ∧
     (∀ o : QmoviOp, let old := if o.z then 0 else (b.seq.q o.d.toNat).toNat
       let u := 2 ^ (16 * o.h.toNat)
       ∃ t, exec (.qmovi c o) s = .next t ∧ wrote t o.d.toNat (BitVec.ofNat 64 (old - old / u % 2 ^ 16 * u + o.imm.toNat * u))) ∧
     (∀ o : CBraOp, let v := if o.u then ((b.seq.q o.a.toNat).toNat : Int) else (b.seq.q o.a.toNat).toInt
       ∃ t, exec (.qbra c o) s = .next t ∧ Terms.blockTo s t b { b with
         seq := Terms.seqOn s c (if Terms.holds o.cond (decide (v < 0)) (decide (v = 0)) (decide (0 < v)) then Terms.target b.seq.pc o.off
           else b.seq.pc + 8) b.seq }) ∧
     (∀ r : BitVec 6, (b.seq.q r.toNat).toNat ≤ s.gtime → ∃ t, exec (.qwaitUntil c r) s = .next t ∧ Terms.blockTo s t b { b with seq := on }) ∧
     ∃ t, exec (.qwaitEnd c) s = .next t ∧
       Terms.blockTo { s with work := s.work ++ [.blockRetirement b.id] } t b { b with seq := { b.seq with ended := true, wait := .ended, made := true } }) ∧
  ∀ (s : State) (b : Block) (c : Ctl) (o : MOp), SeqIssues s b → b.halt = none → (∀ p < 8, accCount b.seq.acc p < 63) →
    let a := if o.y = 1 then (lo32 (b.seq.q o.a.toNat) + lo32 (offOf 8 o.off)).toNat else (b.seq.q o.a.toNat + offOf 8 o.off).toNat
    a % 8 = 0 → (o.y = 1 → s.vaultOk b a 8 = true) → ∃ t, exec (.qld c o) s = .next t ∧
      Terms.blockTo { s with nextId := s.nextId + 1, work := s.work ++ [.accessCompletion s.nextId] } t b { b with
        seq := { Terms.seqOn s c (b.seq.pc + 8) b.seq with
          held := b.seq.held ++ [o.d.toNat]
          acc := b.seq.acc ++ [{ id := s.nextId, who := ⟨b.id, 16, seqSlice⟩, esz := 8, asid := b.asid, ord := o.ord, scope := o.scope, pc := b.seq.pc,
                                 grp := s.nextId, parts := [{ lane := 0, addr := a, dst := o.d.toNat }], kind := if o.y = 1 then .vqld else .qld,
                                 path := if o.y = 1 then s.vaultPath b a else (match a / 2 ^ 46 % 4 with | 2 => 3 | 3 => 4 | _ => 2) }] } }

/-- A context has taken an operation: its next number is given out, and the operation waits to begin (R95, R329). -/
def Sys2Proof.Terms.tookOp (s : State) (c : Ctl) (b : Block) (k : Ctx) (kind : EngKind) (q : List DWord) : Block :=
  { b with
    seq := Terms.seqOn s c (b.seq.pc + 8) b.seq
    tl := b.tl.mapIdx fun i x => if i = k.code.toNat then { x with issued := x.issued + 1 } else x
    ops := b.ops ++ [{ ctx := k, num := (b.tlOf k).issued + 1, kind, q, pc := b.seq.pc, fmt := b.fmt, after := s.nextId }] }

/-- The q operands of a word, in the order D, A, B, M[7:0], B + 1 (R329). -/
def Sys2Proof.Terms.qs (b : Block) (d a x m : BitVec 6) : List DWord :=
  [b.seq.q d.toNat, b.seq.q a.toNat, b.seq.q x.toNat, b.seq.q m.toNat, b.seq.q (x.toNat + 1)]

/-- Tile copies: code, word, and the registers that name its tensor ends (R335, R336). -/
def Sys2Proof.Terms.copyRows (c : Ctl) (o : CopyOp) : List (Instr × Nat × List (BitVec 6)) :=
  [(.tload c o, 0x200, [o.a]), (.tstore c o, 0x201, [o.a]), (.tcopy c o, 0x202, [o.a, o.d]), (.tgath c o, 0x203, [o.a]), (.tscat c o, 0x204, [o.a]),
   (.tfill c o, 0x207, [])]

/-- Tile operations of the matrix context (R348). -/
def Sys2Proof.Terms.tileRows (c : Ctl) (o : TileOp) : List (Instr × Nat) :=
  [(.mzero c o, 0x243), (.mloadt c o, 0x244), (.mstoret c o, 0x245), (.mcvt c o, 0x246), (.mtrans c o, 0x249), (.maddt c o, 0x24A), (.mscale c o, 0x24B)] ++
  [(.mhist c o, 0x24C), (.mquant c o, 0x24D), (.mact c o, 0x24E), (.mrowred c o, 0x24F)]

/-- R329, R336, R339, R343, R347, R348: with the leave held and fewer than 16 operations open in its context, a tile copy, a collective on a level not below the block's, a product
under a format of R341 that the service level offers, a group word that MCOOP accepts, or a tile operation takes the next number of its context with the operands
that it reads, and the sequencer goes on. A copy with a host tensor end goes to the host context. -/
def Obligations.EngineIssue : Prop :=
  ∀ (s : State) (b : Block) (c : Ctl), SeqIssues s b → b.halt = none → b.leaveHeld = true →
    (∀ k, (b.ops.filter fun x => x.ctx == k && !x.done).length < 16) →
    let took := fun (t : State) (k : Ctx) (kind : EngKind) (q : List DWord) =>
      Terms.blockTo { s with work := s.work ++ [.engineOpBegin b.id k ((b.tlOf k).issued + 1)] } t b (Terms.tookOp s c b k kind q)
    (∀ o : CopyOp, ∀ r ∈ Terms.copyRows c o,
      let ends := r.2.2.map fun i => (b.seq.q i.toNat).toNat % 2 ^ 32
      let host := (∀ a ∈ ends, a % 64 = 0 ∧ s.vaultOk b a 64 = true) ∧
        ∃ a ∈ ends, (s.descAt (dieOf b.core) a).vault = false ∧ (s.descAt (dieOf b.core) a).base / 2 ^ 46 % 4 = 3
      ∃ t, exec r.1 s = .next t ∧ (host → took t .host (.copy r.2.1 o) (Terms.qs b o.d o.a o.b o.x)) ∧
        (¬ host → took t .copy (.copy r.2.1 o) (Terms.qs b o.d o.a o.b o.x))) ∧
    (∀ o : MmaOp, (fmtGroup b.fmt).isSome = true → s.level ≠ 1 →
      ∀ r ∈ [(Instr.mma c o, false, false), (.mmas c o, true, false), (.mmag c o, false, true)],
        ∃ t, exec r.1 s = .next t ∧ took t .matrix (.mat (.mma o r.2.1 r.2.2)) (Terms.qs b 0 o.a o.b o.l)) ∧
    (∀ r : BitVec 6, coopOk (b.seq.q r.toNat) = true →
      ∃ t, exec (.mcoop c r) s = .next t ∧ took t .matrix (.mat (.coop (b.seq.q r.toNat))) [b.seq.q r.toNat]) ∧
    (∀ o : TileOp, (∀ r ∈ Terms.tileRows c o, ∃ t, exec r.1 s = .next t ∧ took t .matrix (.mat (.tile r.2 o)) (Terms.qs b o.d o.a o.b o.c)) ∧
      ∃ t, exec (.msync c o) s = .next t ∧ took t .matrix (.mat (.tile 0x248 o))
        ([Ctx.copy, .coll, .host].map fun k => BitVec.ofNat 64 (b.tlOf k).issued)) ∧
    ∀ o : CollOp, let k := o.lv.toNat
      let j := mgetD b.collJ k 0
      (∃ i, b.levels.findIdx? (fun x => x.1 == 2) = some i ∧ i ≤ k) → k < b.levels.length →
      ∀ r ∈ [(Instr.creduce c o, 0x205), (.cbcast c o, 0x206)], ∃ t, exec r.1 s = .next t ∧
        Terms.blockTo { s with work := s.work ++ [.engineOpBegin b.id .coll ((b.tlOf .coll).issued + 1)] } t b
          { Terms.tookOp s c b .coll (.coll r.2 o j) (Terms.qs b 0 o.a o.b 0) with collJ := mset b.collJ k (j + 1) }

/-- A block asks for no leave of its own any more: the governor's queue of its die keeps the other requests in order (R167, R349). -/
def Sys2Proof.Terms.unasked (s u : State) (b : Block) : Prop :=
  u = { s with dies := u.dies } ∧ ∀ d, u.die d = if d = dieOf b.core then
    { s.die d with gov := { (s.die d).gov with queue := (s.die d).gov.queue.filter fun y => y != (b.id, none) } } else s.die d

/-- R338, R340, R349: MFMT sets the block's format word; MLEAVE.get with a leave held goes on, and MLEAVE.put gives it back, and asks for none; TLSIG queues an arrival whose counter has not
come so far, and makes at once one whose counter has.
R94, R313, R320: in the uniform stream a FENCE whose release is complete goes on, having acquired if it does; TLREAD leaves the counter in a register; TLWAIT
goes on where the counter has come so far, with its acquire. -/
def Obligations.UniformModes : Prop :=
  (∀ (s : State) (b : Block) (c : Ctl), SeqIssues s b → b.halt = none →
     let on := Terms.seqOn s c (b.seq.pc + 8) b.seq
     (∀ f : BitVec 20, ∃ t, exec (.mfmt c f) s = .next t ∧ Terms.blockTo s t b { b with fmt := f, seq := on }) ∧
     (b.leaveHeld = true → ∃ t, exec (.mleaveGet c) s = .next t ∧ Terms.blockTo s t b { b with seq := on }) ∧
     (b.leaveHeld = true → ∃ t u, exec (.mleavePut c) s = .next t ∧ Terms.unasked s u b ∧
       Terms.blockTo { u with work := s.work ++ [.leaveGrant (dieOf b.core)] } t b { b with leaveHeld := false, seq := on }) ∧
     (b.leaveHeld = false → ∃ t u, exec (.mleavePut c) s = .next t ∧ Terms.unasked s u b ∧ Terms.blockTo u t b { b with seq := on }) ∧
     ∀ o : TlsigOp, b.sigs = [] → let n := (b.seq.q o.a.toNat).toNat
       ((b.tlOf o.ctx).counter < n → ∃ t, exec (.tlsig c o) s = .next t ∧
         Terms.blockTo s t b { b with sigs := [(o.ctx, n, o.b.toNat)], seq := on }) ∧
       (n ≤ (b.tlOf o.ctx).counter → b.barSettle = b → ∀ x, b.bars[o.b.toNat]? = some x → x.seqArrived ≠ 0 ∨ x.expected ≠ x.arrived.length + 1 →
         ∃ t, exec (.tlsig c o) s = .next t ∧ Terms.blockTo s t b
           { b with seq := on, bars := b.bars.mapIdx fun i y => if i = o.b.toNat then { y with seqArrived := y.seqArrived + 1 } else y })) ∧
  ∀ (s : State) (b : Block) (c : Ctl), SeqIssues s b → b.halt = none →
    let on := Terms.seqOn s c (b.seq.pc + 8) b.seq
    (∀ o : FenceOp, (s.release ⟨b.id, 16, seqSlice⟩ (if o.ord = .acq then (if o.scope = .sys then .die else .blk) else o.scope)).1 = true →
      ∃ t u, exec (.fence c o) s = .next t ∧ Terms.acquired s u b.core [b.asid] o.scope (o.ord = .acq ∨ o.ord = .ar) ∧ Terms.blockTo u t b { b with seq := on }) ∧
    (∀ o : TlOp, ∃ t q, exec (.tlread c o) s = .next t ∧ Terms.blockTo s t b { b with seq := { on with qregs := q } } ∧
      ∀ i, ({ on with qregs := q } : Sequencer).q i = if i = o.d.toNat then BitVec.ofNat 64 (b.tlOf o.ctx).counter else b.seq.q i) ∧
    ∀ o : TlOp, (b.seq.q o.n.toNat).toNat ≤ (b.tlOf o.ctx).counter → (s.tlRelease b o.scope).1 = true →
      ∃ t u, exec (.tlwait c o) s = .next t ∧ Terms.acquired s u b.core [b.asid] o.scope True ∧ Terms.blockTo u t b { b with seq := on }
/-! ### What the device does on its own, and what reaches it from outside -/

/-- One control register of a context takes a value; every other one reads as before. -/
def Sys2Proof.Terms.cxSet (s t : State) (asid i : Nat) (v : DWord) : Prop :=
  t.cxr asid i = v ∧ ∀ a k, k < 512 → ¬ (a = asid ∧ k = i) → t.cxr a k = s.cxr a k

/-- Every block of a context has been asked to yield, for a cause. -/
def Sys2Proof.Terms.asked (s t : State) (asid : Nat) (cause : SaveCause) : Prop :=
  ∀ i b, s.blk i = some b → b.asid = asid → ∃ b', t.blk i = some b' ∧ b'.yreq = true ∧ cause ∈ b'.causes ∧ .unitSave i ∈ t.work

/-- A cause no longer keeps the blocks of a context, nor their saved units, which are looked at again. -/
def Sys2Proof.Terms.released (s t : State) (asid : Nat) (cause : SaveCause) : Prop :=
  (∀ i b, s.blk i = some b → t.blk i = some (if b.asid = asid ∧ cause ∈ b.causes then
    { b with causes := b.causes.filter fun x => decide (x ≠ cause), yreq := decide (∃ x ∈ b.causes, x ≠ cause) } else b)) ∧
  ∀ u ∈ s.saved, u.asid = asid → .unitRestore u.launch ∈ t.work

/-- CAP as firmware sets it from DV_PLAT_FAIL (R479). -/
def Sys2Proof.Terms.capFor (f : BitVec 48) : Nat :=
  let any := fun (lo n : Nat) => f.toNat / 2 ^ lo % 2 ^ n ≠ 0
  if any 0 2 ∨ any 26 4 ∨ any 30 18 then 0 else if any 2 6 then 1 else if any 16 8 then 2 else 3

/-- Firmware has checked an image: an accepted one has CAP set from the parts that failed, a rejected one is counted; the level is 0. -/
def Sys2Proof.Terms.checked (s t : State) (image : List Byte) : Prop :=
  t.level = 0 ∧ t.fwImage = image ∧ t.powered = true ∧ t.mem = s.mem ∧ t.vault = s.vault ∧ t.blocks = s.blocks ∧
  (Config.imageAccepted image = true → t.fwState = 1 ∧ t.cap = t.capFw ∧ t.cap.toNat = Terms.capFor t.platFail ∧ t.fwTries = s.fwTries) ∧
  (Config.imageAccepted image = false → t.fwState = 2 ∧ t.fwTries.toNat = min 255 (s.fwTries.toNat + 1) ∧ t.cap = s.cap)

/-- R162, R168, R386 to R392, R403 to R405, R411, R424, R456, R457, R478 to R481, R485, R487: writes of time, of CX_YREQ and CX_HALT, of the
registers of the device and of its counters; service levels, boot, firmware and supply; identity and management; the loss of the main supply. -/
def Obligations.PlatformSteps : Prop :=
  ∀ s : State,
    (∀ v : DWord, ∃ t, exec (.dvGtimeSet v) s = .next t ∧
      t = if s.gtime ≤ v.toNat then { s with gtime := v.toNat, slew := 0, slewAcc := 0 } else { s with gtimeTod := v }) ∧
    (∃ t, exec .ppsPulse s = .next t ∧ t = { s with slew := (s.gtimeTod.toNat : Int) - s.gtime, slewAcc := 0 }) ∧
    (∀ (asid : Nat) (v : DWord), asid < 4096 →
      (∃ t, exec (.cxYreq asid v) s = .next t ∧ Terms.cxSet s t asid 0x105 (v &&& 1) ∧
        (v.getLsbD 0 = true → Terms.asked s t asid .cxYreq) ∧ (v.getLsbD 0 = false → Terms.released s t asid .cxYreq)) ∧
      ∃ t, exec (.cxHalt asid v) s = .next t ∧ Terms.cxSet s t asid 0x11F (v &&& 1) ∧
        (v.getLsbD 0 = true → Terms.asked s t asid .halt ∧ ∀ b ∈ s.blocks, b.asid = asid → .forcedSave b.id ∈ t.work) ∧
        (v.getLsbD 0 = false → Terms.released s t asid .halt)) ∧
    (∀ v : DWord, let sec := v.toNat / 64 % 2 ^ 46
      s.homeHere sec = true → ∃ t, exec (.dvLostClr v) s = .next t ∧ (t.home sec).lost = false ∧ t.memSector sec = 0 ∧ t.badAt (sec * 64) 64 = false ∧
        (∀ q, q ≠ sec → t.home q = s.home q) ∧ t = { s with homes := t.homes, mem := t.mem, badMem := t.badMem }) ∧
    (∃ t, exec (.ovfClear .dev) s = .next t ∧ t = { s with fltCtl := s.fltCtl &&& ~~~16 }) ∧
    (∀ asid, ∃ t, exec (.ovfClear (.cx asid)) s = .next t ∧ Terms.cxSet s t asid 0x117 (s.cxr asid 0x117 &&& ~~~16) ∧ t = { s with cx := t.cx }) ∧
    (∀ r k, errKey r = some k → ∃ t, exec (.errorCounterClear r) s = .next t ∧ t = { s with errs := t.errs } ∧
      ∀ i, mgetD t.errs i 0 = if i = k then 0 else mgetD s.errs i 0) ∧
    (∀ v : BitVec 256, let w : Word := v.setWidth 32
      (∀ r ∈ [(DvReg.saveDrain, { s with saveDrain := w }), (.gtimeTod, { s with gtimeTod := v.setWidth 64 }),
          (.tokrcTimeout, { s with tokrcTimeout := if w.toNat < 5000 then 5000 else w }),
          (.fltBase, { s with fltBase := v.setWidth 64 &&& 0x0000FFFFFFFFFFC0 })],
        ∃ t, exec (.registerWrite (.dv r.1) v) s = .next t ∧ t = r.2) ∧
      (∀ d q, d < 8 → q < 512 → ∃ t, exec (.registerWrite (.dv (.qbind d q)) v) s = .next t ∧
        (∀ k n, mgetD (t.die k).qbind n 0 = if k = d ∧ n = q then w &&& 0xE0000FFF else mgetD (s.die k).qbind n 0) ∧
        t = { s with dies := t.dies, work := s.work ++ [.entryGrant d q, .launchPlacement d] }) ∧
      ∀ asid i m, asid < 4096 → (i, m) ∈ Terms.cxRows → ∃ t, exec (.registerWrite (.cx asid i) v) s = .next t ∧
        Terms.cxSet s t asid i (v.setWidth 64 &&& m) ∧ t = { s with cx := t.cx, bound := addNew s.bound asid }) ∧
    (∀ cap : BitVec 2, let c : BitVec 2 := if s.capFw.toNat < cap.toNat then s.capFw else cap
      ∃ t, exec (.capWrite cap) s = .next t ∧
        t = { s with cap := c, level := if s.noUnits = true ∧ c.toNat < s.level.toNat then c else s.level }) ∧
    (s.powered = true → s.fwState = 1 → s.noUnits = true → s.level.toNat < s.cap.toNat → ∃ t, exec .levelRise s = .next t ∧
      t = { s with level := s.level + 1, work := t.work } ∧ (∀ e ∈ s.work, e ∈ t.work) ∧ ∀ u ∈ s.saved, .unitRestore u.launch ∈ t.work) ∧
    (∀ image, s.level = 0 → s.fwState = 0 → ∃ t, exec (.boot image) s = .next t ∧
      Terms.checked s t (if s.fwFlash = [] then image else s.fwFlash) ∧ t.boots = s.boots + 1) ∧
    (∀ image, s.powered = true → s.fwState = 2 → ∃ t, exec (.firmwarePush image) s = .next t ∧ Terms.checked s t image ∧ t.boots = s.boots) ∧
    (s.powered = true → s.fwState = 1 → ∃ t, exec .supplyReplan s = .next t ∧ t.mem = s.mem ∧ t.vault = s.vault ∧ t.blocks = s.blocks ∧
      (∀ k, s.platFail.getLsbD k = true → t.platFail.getLsbD k = true) ∧
      (∀ k, t.platFail.getLsbD k = true → s.platFail.getLsbD k = true ∨ (k < 8 ∨ 16 ≤ k ∧ k < 24) ∧ ∀ b ∈ s.blocks, dieOf b.core ≠ k % 8) ∧
      t.capFw.toNat = min s.capFw.toNat (Terms.capFor t.platFail) ∧ (s.blocks ≠ [] → t.cap = s.cap ∧ t.level = s.level)) ∧
    (∀ off len, ∃ t l, exec (.identityRead off len) s = .next t ∧ t = { s with outs := s.outs ++ [.mctp 2 l] } ∧ l.length = len ∧
      ∀ i < len, off + i < 16 → l[i]? = some ((("MLR-L9-768".toList.map fun c => BitVec.ofNat 8 c.toNat) : List Byte).getD (off + i) 0)) ∧
    (s.powered = true →
      let answers := fun (i : Instr) (n : Nat) (l : List Byte) => ∃ t, exec i s = .next t ∧ t = { s with outs := s.outs ++ [.mctp (16 + n) l] }
      answers .getVersion 0 (Config.mgmtBody 0) ∧ answers .getCapabilities 1 (Config.mgmtBody 1) ∧ answers .negotiateAlgorithms 2 (Config.mgmtBody 2) ∧
      answers .getDigests 3 (Config.digest (Config.mgmtBody 4)) ∧ answers .getCertificate 4 (Config.mgmtBody 4) ∧
      (∀ nonce, answers (.challenge nonce) 5 (Config.mgmtBody 5 ++ Config.signature (nonce ++ Config.mgmtBody 5))) ∧
      let m := Config.digest s.fwImage ++ leBytes 4 (4 * s.cap.toNat + s.level.toNat) ++ [Config.identityByte 36, Config.identityByte 37]
      answers .getMeasurements 6 (m ++ Config.signature m)) ∧
    ∃ t, exec .mainSupplyLoss s = .next t ∧ t.powered = false ∧ t.level = 0 ∧ t.mem = [] ∧ t.vault = [] ∧ t.blocks = [] ∧ t.saved = [] ∧ t.launches = [] ∧
      t.dies = [] ∧ t.cores = [] ∧ t.cx = [] ∧ t.devNum = s.devNum

/-- R136, R146, R393 to R396, R398, R404, R405, R450, R451, R453, R455, R482, R486: an evacuation through its phases, and one that fails; links that replay, go down and
come back; the turning of a die's buffers; tokens lost with a message; routes withdrawn; ranges exported. -/
def Obligations.EvacuationLinks : Prop :=
  ∀ s : State,
    (∀ v : DWord, let n := v.toNat / 2 ^ 48 % 512
      v.getLsbD 63 = true → ∃ t, exec (.evacGo v) s = .next t ∧ (s.evacPhase ≠ 0 → t = s) ∧
        (s.evacPhase = 0 → t = { s with evacCtl := BitVec.ofNat 64 (n * 2 ^ 48), evacErr := 0, evacPhase := 1, evacStart := s.gtime,
                                        work := s.work ++ [if n ∈ s.members then .evacCopying else .evacFailure 1] })) ∧
    (∀ v : DWord, v.getLsbD 63 = false → ∃ t, exec (.evacGo v) s = .next t ∧
      t = if s.evacPhase = 0 then { s with evacCtl := BitVec.ofNat 64 (v.toNat / 2 ^ 48 % 512 * 2 ^ 48) } else s) ∧
    (s.evacPhase = 1 → ∃ t, exec .evacCopying s = .next t ∧ t.evacPhase = 2 ∧
      ∀ i b, s.blk i = some b → ∃ b', t.blk i = some b' ∧ b'.yreq = true ∧ .evac ∈ b'.causes ∧ .unitSave i ∈ t.work) ∧
    (s.evacPhase = 2 → s.noUnits = true → (∀ x ∈ s.homes, s.homeHere x.1 = true → s.allHome x.1 = true) →
      let n := s.evacCtl.toNat / 2 ^ 48 % 512
      ∃ t, exec .evacCopying s = .next t ∧ t = if s.reaches n = true then { s with evacPhase := 3, outs := s.outs ++ [.evacuate n s.bound] }
        else { s with evacPhase := 3, work := s.work ++ [.evacFailure 3] }) ∧
    (s.evacPhase = 3 → (∀ x ∈ s.homes, s.homeHere x.1 = true → s.allHome x.1 = true) → ∃ t, exec .evacDraining s = .next t ∧
      t = { s with evacPhase := 4, nextId := t.nextId, markersOut := t.markersOut, outs := t.outs } ∧
      ∀ d, d ∈ s.members ∨ d ∈ s.routes.map (·.1) → d ≠ s.devNum → ∃ m ∈ t.markersOut, m.dev = d ∧ m.who = evacWho ∧
        ∀ k < (s.paths d).length, ∃ x, .marker d x ∈ t.outs ∧ x.id = m.id ∧ x.path = k ∧ x.copies = (s.paths d).length) ∧
    (s.evacPhase = 4 → (∀ m ∈ s.markersOut, m.who ≠ evacWho) → ∃ t, exec .evacLatchFree s = .next t ∧ t.evacPhase = 5 ∧ t.latch = true ∧
      t.saved = [] ∧ t.launches = [] ∧ t.bound = [] ∧ t.slots = [] ∧ (∀ d < 8, ∀ q, t.queue d q = []) ∧ t.mem = s.mem ∧ t.work = s.work) ∧
    (∀ cause, s.evacPhase ≠ 0 → s.evacPhase ≠ 5 → ∃ t, exec (.evacFailure cause) s = .next t ∧ t.evacPhase = 0 ∧ t.latch = s.latch ∧
      t.evacErr = BitVec.ofNat 32 (s.evacPhase * 256 + cause.toNat) ∧ (∀ m ∈ t.markersOut, m.who ≠ evacWho) ∧
      (∀ u ∈ s.saved, .unitRestore u.launch ∈ t.work) ∧ ∀ d < 8, ∀ x ∈ (s.die d).qbind, .entryGrant d x.1 ∈ t.work) ∧
    (∀ l k, (match l with | .kazath p => p < 48 ∧ k = 64 + p | .internal _ => k = 5) →
      ∃ t, exec (.linkReplay l) s = .next t ∧ t = { s with errs := t.errs } ∧
        ∀ i, (mgetD t.errs i 0).toNat = if i = k then min (2 ^ 32 - 1) ((mgetD s.errs i 0).toNat + 1) else (mgetD s.errs i 0).toNat) ∧
    (∀ l, linkOk l = true → ∃ t, exec (.linkDown l) s = .next t ∧ l ∈ t.linksDown ∧ (∀ x ∈ s.linksDown, x ∈ t.linksDown) ∧ t.fltCtl = (ringPut s.fltBase s.fltCtl).2 ∧
      t.vault = s.vault ∧ ∀ p, l = .kazath p → (∀ d, ∀ q ∈ t.paths d, q.headD 0 ≠ p) ∧ t.streams = (s.streams.filter fun x => x.1 / 64 ≠ p) ∧
        t.sendCtx = s.sendCtx.filter fun x => x.1 / 64 ≠ p) ∧
    (∀ l, linkOk l = false → exec (.linkDown l) s = .next s ∧ exec (.linkUp l) s = .next s) ∧
    (∀ l, linkOk l = true → ∃ t, exec (.linkUp l) s = .next t ∧
      t = { s with linksDown := t.linksDown, streams := t.streams, sendCtx := t.sendCtx, outPast := t.outPast } ∧
      (∀ x, x ∈ t.linksDown ↔ x ∈ s.linksDown ∧ x ≠ l) ∧ ∀ p, l = .kazath p → t.streams = (s.streams.filter fun x => x.1 / 64 ≠ p) ∧
        t.sendCtx = s.sendCtx.filter fun x => x.1 / 64 ≠ p) ∧
    (∀ d, ∃ t, exec (.turning d) s = .next t ∧ t = { s with net := t.net, dies := t.dies } ∧ t.net = s.net.map (NetPkt.turn d) ∧
      (∀ (x : NetPkt) sw i, x.pos = .buf d sw i → walkOk (turnLinks x.plane) = true → ∀ b, turnTo (turnLinks x.plane) (sw, i) = some b →
        x.turn d = { x with pos := .buf d b.1 b.2, displaced := true }) ∧
      (∀ x : NetPkt, x.turn d = { x with pos := (x.turn d).pos, displaced := (x.turn d).displaced }) ∧
      t.die d = { s.die d with turns := (s.die d).turns + 1 } ∧ ∀ k, k ≠ d → t.die k = s.die k) ∧
    (∀ m, ∃ t, exec (.tokenMessageExpiry m) s = .next t ∧ t = { s with work := t.work } ∧
      ∀ e, t.work.count e = s.work.count e - if e = .tokenArrival m ∨ e = .writeBack m then 1 else 0) ∧
    (∀ dev, dev ≠ s.devNum → s.homes = [] → (∀ d < 8, (s.die d).heldActs = []) → ∃ t, exec (.routeWithdrawal dev) s = .next t ∧
      t = { s with routes := t.routes, dies := t.dies, outPast := t.outPast } ∧
      t.reaches dev = false ∧ (∀ d, d ≠ dev → t.paths d = s.paths d) ∧
      ∀ d < 8, ∀ sec, t.l2 d sec = if isFab sec = true ∧ fabDev (sec * 64) = dev then {} else s.l2 d sec) ∧
    ∀ base len n devs, (n = 64 ∨ n = 256) → devs.length ≤ n / 8 →
      (∀ x ∈ s.homes, s.inRange base len x.1 = true → s.allHome x.1 = true) → ∃ t, exec (.rangeExport base len n devs) s = .next t ∧
      t = { s with exports := t.exports, homes := t.homes } ∧
      (∃ rest, t.exports = rest ++ [{ base, len, t := n, devs }] ∧ ∀ a k ds,
        (∃ e ∈ rest, e.base ≤ a ∧ a < e.base + e.len ∧ e.t = k ∧ e.devs = ds) ↔
          (∃ e ∈ s.exports, e.base ≤ a ∧ a < e.base + e.len ∧ e.t = k ∧ e.devs = ds) ∧ ¬ (base ≤ a ∧ a < base + len)) ∧
      ∀ x ∈ s.homes, (s.inRange base len x.1 = true → (t.home x.1).tokn = n ∧ (t.home x.1).t = n ∧ (t.home x.1).own = true) ∧
        (s.inRange base len x.1 = false → t.home x.1 = s.home x.1)

/-- A queue of a die has taken an item at its end; no other queue changes. -/
def Sys2Proof.Terms.queued (s t : State) (d q : Nat) (x : QItem) : Prop :=
  t.queue d q = s.queue d q ++ [x] ∧ (∀ k n, ¬ (k = d ∧ n = q) → t.queue k n = s.queue k n) ∧ ∀ k, t.die k = { s.die k with queues := (t.die k).queues }

/-- A block has been halted with a code. -/
def Sys2Proof.Terms.haltedWith (t : State) (bid : Nat) (code : BitVec 8) : Prop := ∃ b h, t.blk bid = some b ∧ b.halt = some h ∧ h.code = code

/-- R71, R156 to R167, R171, R258, R332, R367, R394: rings, grants, firings and nodes; the placement of a launch of one block, its retirement and completion; leaves; waits
that end; a word that names no operation. -/
def Obligations.QueueSteps : Prop :=
  ∀ s : State,
    (∀ host asid v, s.inUse asid = true → ∃ t, exec (.doorbell host asid v) s = .next t ∧ Terms.cxSet s t asid 0x10C (v &&& 0xFFFF) ∧
      t = { s with cx := t.cx, work := t.work } ∧
      ∀ d < 8, ∀ x ∈ (s.die d).qbind, x.2.getLsbD 31 = true → x.2.toNat / 2 ^ 29 % 4 = 0 → x.2.toNat % 4096 = asid → .hqRecordRead d x.1 ∈ t.work) ∧
    (∀ d q asid, s.qbindOf d q = some (0, asid) → s.grants d q = true →
      let n := (s.cxr asid 0x10A).toNat % 2 ^ 17
      let head := (s.cxr asid 0x10B).toNat % 2 ^ 16
      let a := (s.cxr asid 0x109).toNat % 2 ^ 48 + 128 * (head % n)
      n ≠ 0 → head % n ≠ (s.cxr asid 0x10C).toNat % 2 ^ 16 % n → ∃ t l, exec (.hqRecordRead d q) s = .next t ∧
        Terms.queued s t d q (.launch l a asid 0 none none []) ∧ (∀ k < 16, ∀ x, vaClass (a + 8 * k) = .package → s.vrd asid (a + 8 * k) 8 = some x → (l.drop (8 * k)).take 8 = leBytes 8 x) ∧
        l.length = 128 ∧ Terms.cxSet s t asid 0x10B (BitVec.ofNat 64 ((head + 1) % n)) ∧
        t = { s with dies := t.dies, cx := t.cx, work := s.work ++ [.launchPlacement d, .hqRecordRead d q] }) ∧
    (∀ d q asid, s.qbindOf d q = some (0, asid) → ∃ t, exec (.entryGrant d q) s = .next t ∧ t = { s with work := s.work ++ [.hqRecordRead d q] }) ∧
    (∀ d q asid i k, s.qbindOf d q = some (3, asid) → s.slotHeld = [(i, k)] → i % 8 = d → (s.slotOf i).toNat / 2 ^ 160 % 2 ^ 16 = q →
      mget s.slotPrev i = none → s.grants d q = true → let a := (s.slotOf i).toNat % 2 ^ 64
      ∃ t, exec (.entryGrant d q) s = .next t ∧ Terms.queued s t d q (.launch (s.recBytes asid a) a asid k (some i) none []) ∧ t.slotHeld = [] ∧
        mget t.slotPrev i = some k ∧ mget t.slotDone i = none ∧
        t = { s with dies := t.dies, slotHeld := t.slotHeld, slotPrev := t.slotPrev, slotDone := t.slotDone, work := s.work ++ [.launchPlacement d] }) ∧
    (∀ i asid, let e := (s.slotOf i).toNat
      let f := fun (lo n : Nat) => e / 2 ^ lo % 2 ^ n
      let a := f 0 64
      f 183 1 = 1 → s.evacPhase = 0 → f 64 64 ≤ s.gtime → f 64 64 + f 128 32 < 2 ^ 64 → f 192 64 + 1 < 2 ^ 64 →
      let moved := fun (t : State) => (t.slotOf i).toNat = e + f 128 32 * 2 ^ 64 + 2 ^ 192 ∧ (∀ k, k ≠ i → t.slotOf k = s.slotOf k) ∧
        t.timers = s.timers ++ [(max (f 64 64 + f 128 32) s.gtime, .slotFiring i)]
      (mget s.slotHeld i = none → mget s.slotPrev i = none → s.qbindOf (i % 8) (f 160 16) = some (3, asid) → s.grants (i % 8) (f 160 16) = true →
        ∃ t, exec (.slotFiring i) s = .next t ∧ moved t ∧ mget t.slotPrev i = some (f 192 64) ∧
          Terms.queued s t (i % 8) (f 160 16) (.launch (s.recBytes asid a) a asid (f 192 64) (some i) none [])) ∧
      (∀ p, mget s.slotPrev i = some p → s.slotBusy i p (f 64 64) = true → f 181 2 = 0 → ∃ t, exec (.slotFiring i) s = .next t ∧ moved t ∧
        t = { s with slots := t.slots, timers := t.timers })) ∧
    (∀ asid node, ∃ t, exec (.nodeFlushTimeout asid node) s = .next t ∧ t = { s with work := t.work } ∧ (∀ e ∈ s.work, e ∈ t.work) ∧
      ∀ d < 8, (∃ q ∈ (s.die d).queues, ∃ l n, QItem.emit asid node l n ∈ q.2) → .launchPlacement d ∈ t.work) ∧
    (∀ d q pri l addr asid add slot recs, s.level ≠ 0 → s.powered = true → s.evacPhase = 0 → s.saved = [] →
      s.choose d = some (q, pri, .launch l addr asid add slot none recs) → recordBad l addr = none →
      let r := parseRec l
      r.whey = false → r.has 3 = false → r.has 4 = false → r.blocks = 1 → (∃ c < 512, s.coreRuns c = true ∧ s.fits r c = true) →
      ∃ t b u, exec (.launchPlacement d) s = .next t ∧ t.blocks = s.blocks ++ [b] ∧ t.launches = s.launches ++ [u] ∧ b.launch = u.id ∧ b.asid = asid ∧ u.asid = asid ∧
        u.lrec = { r with seq := r.seq + BitVec.ofNat 64 add } ∧ s.fits r b.core = true ∧ t.queue d q = (s.queue d q).drop 1 ∧ t.mem = s.mem ∧
        ∀ g ∈ b.gangs, g.budget = r.regs ∧ ∀ sl ∈ g.slices, sl.pc = BitVec.ofNat 48 r.lanepc ∧ sl.s64 0 = r.param) ∧
    (∀ i b, s.blk i = some b → b.ended = true → ∃ t, exec (.blockRetirement i) s = .next t ∧ t.blocks = (s.blocks.filter fun x => x.id ≠ i) ∧
      t.launches.map (fun l => (l.id, l.retired)) = s.launches.map (fun l => (l.id, if l.id = b.launch then l.retired + 1 else l.retired)) ∧
      .launchCompletion b.launch ∈ t.work ∧ t = { s with blocks := t.blocks, launches := t.launches, work := t.work }) ∧
    (∀ n l pa e, s.launches.find? (fun x => x.id == n) = some l → l.nblocks ≤ l.retired → l.handler = false → l.phase = 1 → l.slot = none →
      s.complWaits n = false → s.complRoom l = true → s.xlat l.asid l.lrec.cword.toNat .store = .inl (pa, e) → paClass pa ≠ some .host → s.place pa = .tokens → pa % 8 = 0 →
      (∀ d < 8, ∀ x, mget (s.die d).l2 (pa / 64) = some x → x.tokn ≠ 0) → ∃ t, exec (.launchCompletion n) s = .next t ∧
        BitVec.ofNat 64 (t.rd pa 8) = l.lrec.seq ∧ (∀ q, (∀ k < 8, memAddr q ≠ memAddr (pa + k)) → t.rd1 q = s.rd1 q) ∧
        t.launches = s.launches.filter (fun x => x.id ≠ n) ∧ t.outs = s.outs ++ if l.lrec.msix = true then [.msix 0 l.lrec.msixv] else []) ∧
    (∀ d i k rest b, (s.die d).gov.queue = (i, k) :: rest → s.blk i = some b → s.leavesHeld d < (s.die d).gov.limit →
      (((s.die d).gov.grants.filter fun x => s.gtime < x + 100).length < 8) → ∃ t, exec (.leaveGrant d) s = .next t ∧
        t.blk i = some (match k with | none => { b with leaveHeld := true } | some k => { b with leaves := addNew b.leaves k }) ∧
        (∀ j, j ≠ i → t.blk j = s.blk j) ∧ (t.die d).gov.queue = rest ∧ s.gtime ∈ (t.die d).gov.grants ∧
        t = { s with blocks := t.blocks, dies := t.dies, work := s.work ++ if rest = [] then [] else [.leaveGrant d] }) ∧
    (∀ i k b, s.blk i = some b → b.open' k = [] → k ∈ b.leaves → (∀ x ∈ s.timers, x.2 ≠ .leaveExpiry i k) → ∃ t, exec (.leaveExpiry i k) s = .next t ∧
      t.blk i = some { b with leaves := b.leaves.filter fun x => x ≠ k } ∧ (∀ j, j ≠ i → t.blk j = s.blk j) ∧
      t = { s with blocks := t.blocks, work := s.work ++ [.leaveGrant (dieOf b.core)] }) ∧
    (∀ r b g sp l, s.blk r.blk = some b → b.gang r.gang = some g → g.splitOf r.slice = some sp → sp.wait = .sleepw l → sp.stop = false → b.saving = false → b.halt = none →
      (∃ x ∈ l, s.sleepDone b x = true) → ∃ t, exec (.sleepwWake r) s = .next t ∧ wordDone s t b g sp fun sl sl' => sl' = { sl with pc := sl.pc + 8, execMask := none }) ∧
    (∀ i b at', s.blk i = some b → b.seq.wait = .until' at' → at' ≤ s.gtime → ∃ t, exec (.qwaitDeadline i) s = .next t ∧
      Terms.blockTo s t b { b with seq := { b.seq with wait := .none, made := false } }) ∧
    (∀ (b : Block) (g : Gang) (sp : Split) (sl : Slice) (w : DWord), Issues s b g sp → b.halt = none → g.slices = [sl] → sp.slices = [sl.num] → sl.frozen = false →
      sl.active ≠ [] → s.sup b.asid = false → decodeWord b.table w = .empty → ∃ t, exec (.emptyEntryWord w) s = .next t ∧ Terms.haltedWith t b.id 0x01) ∧
    ∀ (b : Block) (w : DWord), SeqIssues s b → b.halt = none → (w.getLsbD 63 = true ∨ decodeWord b.table w = .empty) →
      ∃ t, exec (.emptyEntryWord w) s = .next t ∧ Terms.haltedWith t b.id (if w.getLsbD 63 then 0x02 else 0x01)

/-- R48, R168 to R170, R182, R184, R187, R188, R400, R412 to R417, R423 to R425: the save of a unit of one block that has yielded, a forced save, the end of its drain, and its
restore; handler gangs; the resumption of a block; the watchdog; the arrival of a travelling slice. -/
def Obligations.SaveAndTrapSteps : Prop :=
  ∀ s : State,
    (∀ i b l, s.blk i = some b → s.launches.find? (fun x => x.id == b.launch) = some l → s.unit l.id = [b] → l.lrec.whey = false → b.yreq = true → b.halt = none →
      s.ctxHalted l.asid = false → b.yieldDone = true → b.quiet false = true → (∀ r ∈ s.recs, r.blk.launch ≠ l.id) → (s.core b.core).pullDone = 0 →
      let k0 := s.vkey (dieOf b.core) (b.vaddr b.region.off)
      let mine := fun (k : Nat) => k0 ≤ k ∧ k < k0 + b.region.size
      ∃ t x b', exec (.unitSave i) s = .next t ∧ t.blocks = s.blocks.filter (fun y => y.launch ≠ l.id) ∧ t.saved = s.saved ++ [x] ∧ x.launch = l.id ∧ x.asid = l.asid ∧
        x.blocks = [b'] ∧ b' = { b with gangs := b'.gangs, seq := b'.seq, ops := b'.ops, leaves := [], leaveHeld := b'.leaveHeld, saving := true } ∧ (b.leaveHeld = true → b'.leaveHeld = true) ∧
        b'.gangs.map (·.slices) = b.gangs.map (fun g => g.slices.map fun sl => sl.landTo (s.now + 16)) ∧ (∀ c ∈ b.causes, c ∈ x.causes) ∧
        (∀ p, (b.id, p) ∉ (t.core b.core).pins) ∧ ((s.cxr l.asid 0x107).toNat % 2 ^ 48 = 0 → t.mem = s.mem) ∧
        ∀ k, (mine k → Memory.byte x.vault k = Memory.byte s.vault k ∧ Memory.byte t.vault k = 0) ∧ (¬ mine k → Memory.byte t.vault k = Memory.byte s.vault k)) ∧
    (∀ i b, s.blk i = some b → s.unit b.launch = [b] → b.yreq = true → b.saving = false → s.ctxHalted b.asid = false → (s.cxr b.asid 0x104).toNat % 2 ^ 32 ≤ b.yspent → b.halt = none →
      b.yieldDone = false → ∃ t b', exec (.forcedSave i) s = .next t ∧ t.blk i = some b' ∧ b' = { b with gangs := b'.gangs, saving := true } ∧
        (∀ g ∈ b'.gangs, ∀ sp ∈ g.splits, sp.inRun = false) ∧ b'.gangs.map (·.slices) = b.gangs.map (·.slices) ∧
        t.cxr b.asid 0x117 = (ringPut (s.cxr b.asid 0x116) (s.cxr b.asid 0x117)).2 ∧ .unitSave i ∈ t.work) ∧
    (∀ i b op code o, s.blk i = some b → s.unit b.launch = [b] → b.saving = true → b.ops = [op] → op.ctx = .copy → op.kind = .copy code o → op.begun = true →
      op.fault = none → op.written = 0 → ∃ t, exec (.saveDrainTimeout i) s = .next t ∧
        t.blk i = some { b with ops := [{ op with begun := false, step := 0, posted := 0, moved := 0, due := 0, inbox := [], asked := [] }] } ∧
        (∀ j, j ≠ i → t.blk j = s.blk j) ∧
        t = { s with blocks := t.blocks, fabReqs := t.fabReqs, cores := t.cores, work := s.work ++ [.unitSave i] } ∧
        (∀ k, t.core k = { s.core k with l1 := (t.core k).l1, sp := (s.core k).sp.filter fun e => e.eng ≠ some (i, .copy, op.num) }) ∧ ∀ r, r ∈ t.fabReqs ↔ r ∈ s.fabReqs ∧ r.eng ≠ some (i, .copy, op.num)) ∧
    (∀ n x l b, s.saved.find? (fun x => x.launch == n) = some x → s.launches.find? (fun y => y.id == x.launch) = some l → s.mayRestore x = true →
      l.lrec.whey = false → l.lrec.has 3 = false → x.blocks = [b] → mwf x.vault = true → (∃ c, dieOf c = dieOf b.core ∧ s.refits b c = true) → s.unit x.launch = [] →
      b.launch = x.launch →
      let k0 := s.vkey (dieOf b.core) (b.vaddr b.region.off)
      ∃ t b', exec (.unitRestore n) s = .next t ∧ t.blocks = s.blocks ++ [b'] ∧ t.saved = s.saved.filter (fun y => y.launch ≠ n) ∧ b'.id = b.id ∧
        dieOf b'.core = dieOf b.core ∧ b'.firstCore = b.firstCore ∧ b'.yreq = false ∧ b'.saving = false ∧ b'.halt = none ∧ b'.bars = b.bars ∧
        b'.gangs.map (fun g => g.slices.map fun sl => (sl.pc, sl.vregs, sl.sregs, sl.lanes)) = b.gangs.map (fun g => g.slices.map fun sl => (sl.pc, sl.vregs, sl.sregs, sl.lanes)) ∧
        ∀ k, Memory.byte t.vault k = (mget x.vault k).getD (if k0 ≤ k ∧ k < k0 + b.region.size then 0 else Memory.byte s.vault k)) ∧
    (∀ d g o, (s.die d).gather = [g] → g.lanes = [o] → o.seq = false → s.ctxHalted g.asid = false → g.first + 1000 ≤ s.gtime → (∀ x ∈ s.blocks, x.launch ≠ s.nextId) →
      (∃ k < 64, s.fits (handlerLaunch 0 0 d 1).lrec (64 * d + k) = true) →
      ∃ t b, exec (.handlerGangClose d) s = .next t ∧ t.blocks = s.blocks ++ [b] ∧ b.isHandler = true ∧ b.handlerOf = [o] ∧ dieOf b.core = d ∧
        b.asid = (s.cxr g.asid 0x11E).toNat / 2 ^ 32 % 2 ^ 12 ∧ (t.die d).gather = [] ∧
        ∀ y ∈ b.gangs, ∀ sl ∈ y.slices, sl.num = 0 → sl.pc = (s.cxr g.asid 0x108).setWidth 48 ∧ (sl.lane 0).fcode = o.code ∧
          sl.vphys 32 0 = BitVec.ofNat 32 o.entry ∧ ∀ k < 32, sl.vphys k 0 = BitVec.ofNat 32 (t.vlRd d (o.entry + 32 + 4 * k) 4)) ∧
    (∀ i b h g sp sl o, s.blk i = some b → b.halt = some h → b.gangs = [g] → g.slices = [sl] → g.splits = [sp] → sp.slices = [sl.num] → sl.acc = [] → sl.syncm = [] →
      s.ctxHalted b.asid = false → b.stopped = true → h.origins = [o] → o.seq = false → o.gang = g.num → o.slice = sl.num → o.lane ∈ sl.live → 32 ≤ g.budget →
      h.faulted = [(g.num, sl.num, sl.pc)] → let d := dieOf b.core
      s.vlRd d o.entry 8 = sl.pc.toNat → s.vlRd d (o.entry + 9) 1 / 2 % 8 = 1 → ∃ t b' sl', exec (.blockResume i) s = .next t ∧ t.blk i = some b' ∧ b'.halt = none ∧
        b'.seq.stop = false ∧ t.slice ⟨i, g.num, sl.num⟩ = some sl' ∧ sl'.pc = sl.pc ∧ sl'.execMask = some ([o.lane], sl.pc) ∧
        (∀ k < 32, sl'.vphys (sl.phys g.budget k) o.lane = BitVec.ofNat 32 (s.vlRd d (o.entry + 32 + 4 * k) 4)) ∧
        (sl'.lane o.lane).nest = BitVec.ofNat 8 (s.vlRd d (o.entry + 10) 1) ∧ (sl'.lane o.lane).preds = BitVec.ofNat 7 (s.vlRd d (o.entry + 11) 1) ∧ t.mem = s.mem) ∧
    (∀ i b gn g, s.blk i = some b → b.halt = none → s.sup b.asid = false → b.gang gn = some g → (∃ sp ∈ g.splits, sp.inRun = true ∧ 2 ^ 24 ≤ s.now - sp.runStart) →
      ∃ t, exec (.watchdog i (some gn)) s = .next t ∧ Terms.haltedWith t i 0x63) ∧
    (∀ i b, s.blk i = some b → b.halt = none → s.sup b.asid = false → b.unif = true → b.seq.ended = false → b.seq.stop = false → b.seq.wait.counted = true →
      2 ^ 24 ≤ s.now + 1 - b.seq.readyAt → ∃ t, exec (.watchdog i none) s = .next t ∧ Terms.haltedWith t i 0x63) ∧
    (∀ k r h rest slot, (s.core k).arrivals = (r, h) :: rest → s.launchSaving r.blk.launch = false → s.freeSlot k r.blk.launch = some slot →
      ∃ t b, exec (.wheyArrival k) s = .next t ∧ t.blocks = s.blocks ++ [b] ∧ b.id = r.blk.id ∧ b.core = k ∧ b.whey = some (slot, r.seg) ∧
        b.gangs.map (·.slices) = r.blk.gangs.map (·.slices) ∧ (t.core k).arrivals = rest ∧ (t.core h).backUsed = (s.core h).backUsed - 1 ∧
        (∀ x ∈ (t.core k).l1, x.asid ∉ r.blk.asids) ∧ t.mem = s.mem ∧ t.vault = s.vault) ∧
    ∀ w, s.wheys = [w] → (∃ x ∈ w.segs, x.2.2 ≠ []) → ∃ t, exec .replicaAdvertisement s = .next t ∧
      t = { s with cores := t.cores, timers := s.timers ++ [(s.gtime + 1000, .replicaAdvertisement)] } ∧
      ∀ x ∈ w.segs, ∀ r ∈ x.2.2, (t.core r.2.1).advert = wheySlots (s.regsOf w.launch) - (s.slotsUsed r.2.1).length

/-- The eight L2 agents of the package class (R102). -/
def Sys2Proof.Terms.dies8 : List Nat := List.range 8

/-- All tokens that an L2 holds of a sector, in one message (R103, R106). -/
def Sys2Proof.Terms.allOf (s : State) (d sec : Nat) (dst : Holder) (grant : Bool) : TokMsg :=
  let x := s.l2 d sec
  { sec, dst, src := .l2 d, n := x.tokn, own := x.own, ser := x.ser, t := x.t, data := if x.own then some x.data else none,
    dirty := x.own && x.dirty, grant, bad := x.bad }

/-- Nothing on the device waits for a sector. -/
def Sys2Proof.Terms.noWaiters (s : State) : Prop := s.blocks = [] ∧ s.cores = [] ∧ s.vecJobs = [] ∧ s.homeWait = []

/-- The home of a sector becomes `x`; the lists of due steps and timers may change. -/
def Sys2Proof.Terms.homeTo (s t : State) (sec : Nat) (x : HomeSector) : Prop :=
  t = { s with homes := t.homes, work := t.work, timers := t.timers, mem := t.mem, outs := t.outs } ∧ t.home sec = x ∧ ∀ y, y ≠ sec → t.home y = s.home y

/-- R111 to R114, R122, R123: requests and tokens on their way. An owner with two tokens or more answers a read with one token and the data; a home answers a
write with all its tokens; a request unanswered for 2 µs is sent again to every holder, or raises a press; tokens that arrive are counted at an L2 or a home,
where the owner's dirty data goes to memory.
R117 to R121: a home at rest takes a press request into its round, and with its turn activates it at every agent and passes its tokens on; an agent records it, passes its tokens on and acknowledges; the end of the
activation goes the same way.
R453: a press not ended in time begins a census, and an agent answers it with all its tokens. -/
def Obligations.CoherenceSteps : Prop :=
  ∀ (s : State) (d sec : Nat), d < 8 → sec * 64 < 2 ^ 51 →
    let x := s.l2 d sec
    let h := s.home sec
    let free := h.active = none ∧ h.deacting = false ∧ h.census = none
    (∀ a < 8, a ≠ d → s.pendReq d sec true = false → s.pact d sec = none → x.own = true → 2 ≤ x.tokn → x.t = s.sectorT sec →
      ∃ t, exec (.transientRequest ⟨sec, .l2 d, a, false, s.sectorT sec, false⟩) s = .next t ∧ t.l2 d sec = { x with tokn := x.tokn - 1 } ∧
        (∀ k, k ≠ d → t.die k = s.die k) ∧ t = { s with dies := t.dies, work := t.work } ∧
        t.work = s.work ++ [.tokenArrival { sec, dst := .l2 a, src := .l2 d, n := 1, own := false, ser := x.ser, t := s.sectorT sec, data := some x.data,
                                            dirty := false, bad := x.bad }]) ∧
    (h.active = none → h.req = none → s.hostPage sec = false → h.lost = false → h.tokn ≠ 0 → s.cxlPort sec = none → h.cxl = none →
      ∃ t, exec (.transientRequest ⟨sec, .home, d, true, s.sectorT sec, false⟩) s = .next t ∧ Terms.homeTo s t sec { h with tokn := 0, own := false } ∧
        t.mem = s.mem ∧ t.outs = s.outs ∧ t.timers = s.timers ∧
        t.work = s.work ++ [.tokenArrival { sec, dst := .l2 d, src := .home, n := h.tokn, own := h.own, ser := h.ser, t := h.t,
                                            data := if h.own then some (s.memSector sec) else none, dirty := false }]) ∧
    (∀ r a, (s.die d).reqs = [r] → r.sec = sec → r.pressed = false → r.timeout ≤ s.gtime → r.asids = [a] →
      ∃ t, exec (.transientTimeout d sec) s = .next t ∧ t = { s with dies := t.dies, work := t.work, timers := t.timers } ∧
        (r.sends ≤ s.retryOf a → (t.die d).reqs = [{ r with sends := r.sends + 1, timeout := s.gtime + 2000 }] ∧
          t.timers = s.timers ++ [(s.gtime + 2000, .transientTimeout d sec)] ∧
          t.work = s.work ++ (((Terms.dies8.filter fun k => k ≠ d).map Holder.l2) ++ [Holder.home]).map fun to' =>
            Event.transientRequest ⟨sec, to', d, r.write, r.t, false⟩) ∧
        (s.retryOf a < r.sends → (t.die d).reqs = [{ r with pressed := true }] ∧ t.timers = s.timers ∧
          t.work = s.work ++ [.pressRequest ⟨sec, .l2 d, r.write, r.t, []⟩])) ∧
    (∀ m : TokMsg, m.sec = sec → m.dst = .l2 d → m.n ≠ 0 → s.serialOk d m = true → (s.die d).reqs = [] → s.pact d sec = none → s.l2Room d sec = true →
      Terms.noWaiters s →
      ∃ t, exec (.tokenArrival m) s = .next t ∧ t = { s with dies := t.dies } ∧ (∀ k, k ≠ d → t.die k = s.die k) ∧
        (∀ y, y ≠ sec → t.l2 d y = s.l2 d y) ∧
        t.l2 d sec = { ser := if x.tokn = 0 then m.ser else x.ser, own := x.own || m.own, dv := x.dv || m.data.isSome, dirty := x.dirty || (m.own && m.dirty),
                       tokn := x.tokn + m.n, data := if x.dv then x.data else m.data.getD x.data, t := m.t,
                         bad := if x.dv then x.bad else m.bad }) ∧
    (∀ m : TokMsg, ∀ v, m.sec = sec → m.dst = .home → m.data = some v → m.ser = h.ser → m.bad = 0 → h.active = none → h.census = none → h.req = none → s.cxlPort sec = none →
      Terms.noWaiters s → ∀ i ∈ [Instr.tokenArrival m, .writeBack m], ∃ t, exec i s = .next t ∧
        Terms.homeTo s t sec { h with tokn := h.tokn + m.n, own := h.own || m.own } ∧ t.work = s.work ∧ t.timers = s.timers ∧ t.outs = s.outs ∧
        t.memSector sec = (if m.own && m.dirty then v else s.memSector sec) ∧
        ∀ a, a < 64 * sec ∨ 64 * sec + 64 ≤ a → Memory.byte t.mem a = Memory.byte s.mem a) ∧
    (∀ m : PressReq, m.sec = sec → m.src = .l2 d → m.t = s.sectorT sec → free → (∀ y ∈ h.pending ++ h.round, y.src ≠ .l2 d) →
      ∃ t, exec (.pressRequest m) s = .next t ∧ Terms.homeTo s t sec { h with pending := h.pending ++ [m] } ∧ t.mem = s.mem ∧ t.outs = s.outs ∧ t.timers = s.timers ∧
        t.work = s.work ++ [.pressAcknowledgement noAgent sec false]) ∧
    (∀ m : PressReq, m.sec = sec → m.src = .l2 d → free → h.round = [] → h.pending = [m] → noAgent ∉ h.deacks → s.activeAt (homeClass sec) < 8 → s.pressQueue = [] →
      s.hostPage sec = false → h.lost = false → s.cxlPort sec = none → h.cxl = none → h.tokn ≠ 0 →
      ∃ t, exec (.pressAcknowledgement noAgent sec false) s = .next t ∧
        Terms.homeTo s t sec { h with pending := [], active := some m, activeAt := s.gtime, acksDue := Terms.dies8, tokn := 0, own := false } ∧
        t.mem = s.mem ∧ t.outs = s.outs ∧ t.timers = s.timers ++ [(s.gtime + s.tokrcTimeout.toNat, .tokenRecreation sec)] ∧
        t.work = s.work ++ Terms.dies8.map (fun k => Event.pressActivation k m) ++
          [.tokenArrival { sec, dst := .l2 d, src := .home, n := h.tokn, own := h.own, ser := h.ser, t := h.t,
                           data := if h.own then some (s.memSector sec) else none, dirty := false }]) ∧
    (∀ a w tt, a < 8 → a ≠ d → s.pact d sec = none → x.tokn ≠ 0 → Terms.noWaiters s →
      ∃ t, exec (.pressActivation d ⟨sec, .l2 a, w, tt, []⟩) s = .next t ∧ t = { s with dies := t.dies, work := t.work } ∧ t.pact d sec = some (.l2 a) ∧
        (t.l2 d sec).tokn = 0 ∧ (∀ k, k ≠ d → t.die k = s.die k) ∧
        t.work = s.work ++ [.tokenArrival (Terms.allOf s d sec (.l2 a) false), .pressAcknowledgement d sec true]) ∧
    (∀ m, h.active = some m → h.acksDue = [] → ∃ t, exec (.pressDeactivation sec m.src) s = .next t ∧
      Terms.homeTo s t sec { h with active := none, deacting := true, deacks := Terms.dies8, recalled := h.recalled && m.src != .home } ∧
      t.mem = s.mem ∧ t.outs = s.outs ∧ t.timers = s.timers ∧ t.work = s.work ++ Terms.dies8.map fun k => Event.pressClear k sec) ∧
    ((s.die d).heldActs = [] → (∀ m ∈ (s.die d).pact, m.sec = sec → m.src ≠ .l2 d) → ∃ t, exec (.pressClear d sec) s = .next t ∧ t.pact d sec = none ∧
      (∀ k, k ≠ d → t.die k = s.die k) ∧ t = { s with dies := t.dies, work := s.work ++ [.pressAcknowledgement d sec false] }) ∧
    (h.deacting = false → h.active ≠ none → ∃ t, exec (.pressAcknowledgement d sec true) s = .next t ∧ Terms.homeTo s t sec { h with acksDue := h.acksDue.erase d } ∧
      t.work = s.work ∧ t.timers = s.timers ∧ t.mem = s.mem ∧ t.outs = s.outs) ∧
    (∀ m, h.census = none → h.active = some m → h.activeAt + s.tokrcTimeout.toNat ≤ s.gtime → h.lastCensus = none →
      ∃ t, exec (.tokenRecreation sec) s = .next t ∧
        Terms.homeTo s t sec { h with census := some (h.ser + 1, Terms.dies8), lastCensus := some s.gtime } ∧ t.mem = s.mem ∧ t.outs = s.outs ∧
        t.timers = s.timers ++ [(s.gtime + 2000, .tokenRecreation sec)] ∧ t.work = s.work ++ Terms.dies8.map fun k => Event.census k sec (h.ser + 1)) ∧
    ∀ ser, x.tokn ≠ 0 → (s.die d).heldActs = [] → ∃ t, exec (.census d sec ser) s = .next t ∧ t = { s with dies := t.dies, work := t.work } ∧ (t.l2 d sec).tokn = 0 ∧
      t.pact d sec = none ∧ mget (t.die d).serials sec = some ser ∧ (∀ k, k ≠ d → t.die k = s.die k) ∧
      t.work = s.work ++ [.tokenArrival (Terms.allOf s d sec .home true)]

/-- The lone access `a` of the slice `w` has the one part `p`, which a request that is out carries under `tag`. -/
def Sys2Proof.Terms.waits (s : State) (w : SliceRef) (sl : Slice) (b : Block) (a : Access) (p : Part) (tag : Nat) : Prop :=
  s.slice w = some sl ∧ s.blk w.blk = some b ∧ w.slice ≠ seqSlice ∧ sl.acc = [a] ∧ a.who = w ∧ a.parts = [p] ∧ p.st = .sent tag ∧ p.spilt = none ∧ p.lane < 4 ∧
    a.path < 8 ∧ s.allAccs = [a]

/-- A slice takes a value of an access into its destination, after the results that are due, and has no access more in flight. -/
def Sys2Proof.Terms.landed (t : State) (w : SliceRef) (sl : Slice) (a : Access) (p : Part) (v : DWord) : Prop :=
  let sl := sl.landTo t.now
  ∃ sl', t.slice w = some sl' ∧ sl' = { sl with acc := [], vregs := sl'.vregs } ∧ sl'.vphys p.dst p.lane = lo32 v ∧
    (a.esz = 8 → sl'.vphys (p.dst + 1) p.lane = hi32 v) ∧
    ∀ r j, j < 4 → ¬ (j = p.lane ∧ (r = p.dst ∨ a.esz = 8 ∧ r = p.dst + 1)) → sl'.vphys r j = sl.vphys r j

/-- R126, R142, R143, R146, R304, R447: packets and markers at their home. R85, R146, R447: their answers here, and requests without one.
R149, R458: host completions. R128, R130, R149, R153: what hosts do to device memory. R439, R440: the end of a page walk.
R147, R363, R426: kick notices. R191 to R194, R200, R201, R353: interrupts from hosts and peers, their delivery, and the end of a host system call. -/
def Obligations.FabricHostSteps : Prop :=
  ∀ s : State,
    (∀ p : VPkt, p.vault = false → p.compressed = false → p.dst = s.devNum → s.answerOf p.src p.rid = none → s.pktRefused p = none →
      (∃ t, exec (.vectorRead p) s = .next t ∧ t = { s with streams := t.streams, answers := t.answers, outs := t.outs } ∧
        t.outs = s.outs ++ [.fabResp 4 p.src p.rid ((pktAddrs p).map fun pa => BitVec.ofNat 64 (s.rd pa p.esz))]) ∧
      ∀ pa v, pktAddrs p = [pa] → p.data = [v] → s.vecJobs = [] → s.markersIn = [] → let d := homeDie pa
        let x := s.l2 d (pa / 64)
        x.tokn = s.sectorT (pa / 64) → x.dv = true → x.tokn ≠ 0 → pa % 64 + p.esz ≤ 64 →
        (∃ t, exec (.vectorWrite p) s = .next t ∧ t.outs = s.outs ++ [.fabResp 5 p.src p.rid []] ∧ t.vecJobs = [] ∧ t.mem = s.mem ∧
          secBytes (t.l2 d (pa / 64)).data (pa % 64) p.esz = v.toNat % 256 ^ p.esz) ∧
        let old := secBytes x.data (pa % 64) p.esz
        ∃ t, exec (.vectorAtomic p) s = .next t ∧ t.outs = s.outs ++ [.fabResp 6 p.src p.rid [BitVec.ofNat 64 old]] ∧ t.vecJobs = [] ∧ t.mem = s.mem ∧
          secBytes (t.l2 d (pa / 64)).data (pa % 64) p.esz = atomicNew p.aop p.esz old v.toNat (p.cmp.getD 0 0).toNat % 256 ^ p.esz) ∧
    (∀ (r : FabReq) w sl b a p (v : DWord), s.fabReqs = [r] → r.acc = a.id → r.parts = [(a.id, p.lane)] → r.eng = none → r.pull = none →
      Terms.waits s w sl b a p r.rid → a.esz = 4 ∨ a.esz = 8 →
      (a.kind = .load false → ∃ t, exec (.readResponse r.rid [v]) s = .next t ∧ t.fabReqs = [] ∧ t.mem = s.mem ∧ Terms.landed t w sl a p v) ∧
      (∀ op, a.kind = .atomic op → ∃ t, exec (.atomicResponse r.rid [v]) s = .next t ∧ t.fabReqs = [] ∧ t.mem = s.mem ∧ Terms.landed t w sl a p v) ∧
      (a.kind = .store → ∃ t, exec (.writeAcceptance r.rid 0) s = .next t ∧ t.fabReqs = [] ∧ t.mem = s.mem ∧ t.slice w = some { sl with acc := [] }) ∧
      (a.kind = .load false → s.sup b.asid = false → b.halt = none → r.time + 8000 ≤ s.gtime → 3 ≤ r.sends →
        ∃ t, exec (.fabricRequestTimeout r.rid) s = .next t ∧ Terms.haltedWith t b.id 0x2B)) ∧
    (∀ r : FabReq, s.fabReqs = [r] → r.time + 8000 ≤ s.gtime → r.sends < 3 → ∃ t q, exec (.fabricRequestTimeout r.rid) s = .next t ∧
      t = { s with outs := s.outs ++ [.fabric q], sendCtx := t.sendCtx, fabReqs := [{ r with sends := r.sends + 1, time := s.gtime }],
                   timers := s.timers ++ [(s.gtime + 8000, .fabricRequestTimeout r.rid)] } ∧
      q = { r.pkt with path := s.pathTo r.pkt.dst, link := (s.pathTo r.pkt.dst).headD 0, compressed := q.compressed, scx := q.scx, delta := q.delta }) ∧
    (∀ (r : HostReq) w sl b a p (v : BitVec 128), s.hostReqs = [r] → r.acc = a.id → r.lane = p.lane → r.eng = none → r.pull = none → r.sc = none →
      r.zero = false → Terms.waits s w sl b a p r.tag → a.kind = .load false → a.esz = 4 ∨ a.esz = 8 →
      (∃ t, exec (.hostCompletion r.tag .ok v) s = .next t ∧ t.hostReqs = [] ∧ t.mem = s.mem ∧ Terms.landed t w sl a p (v.setWidth 64)) ∧
      (s.sup b.asid = false → b.halt = none → r.time + 50000000 ≤ s.gtime →
        ∃ t, exec (.hostCompletionTimeout r.tag) s = .next t ∧ t.hostReqs = [] ∧ Terms.haltedWith t b.id 0x2B)) ∧
    (∀ m : Marker, s.markersIn = [] → s.vecJobs = [] →
      (m.copies = 1 → exec (.markerCopy m) s = .next { s with outs := s.outs ++ [.markerDone m.src m.id] }) ∧
      (1 < m.copies → exec (.markerCopy m) s = .next { s with markersIn := [{ id := m.id, src := m.src, copies := m.copies, got := 1 }] })) ∧
    (∀ m : MarkerOut, s.markersOut = [m] →
      (m.acc = 0 → exec (.markerCompletion m.id m.dev) s =
        .next { s with markersOut := [], work := s.work ++ s.homeOps.map Event.accessCompletion }) ∧
      ∀ w sl b a p, Terms.waits s w sl b a p 0 → a.kind = .mark → m.acc = a.id → a.id ≠ 0 →
        ∃ t, exec (.markerCompletion m.id m.dev) s = .next t ∧ t.markersOut = [] ∧ t.slice w = some { sl with acc := [] }) ∧
    (∀ port sec, s.cxlPort sec = some port → s.allHome sec = true →
      let h := s.home sec
      let evict := if h.cxl = some .modified then [OutMsg.cxl port sec 2 (some (s.memSector sec))] else []
      ∀ x ∈ [(Snoop.inv, none, 5), (.data, h.cxl.map fun _ => CxlState.shared, 6)], ∃ t, exec (.hostSnoop port sec x.1) s = .next t ∧
        t = { s with homes := t.homes, outs := s.outs ++ evict ++ [.cxl port sec x.2.2 none] } ∧ t.home sec = { h with cxl := x.2.1 } ∧
        ∀ y, y ≠ sec → t.home y = s.home y) ∧
    (∀ port sec st data, s.cxlPort sec = some port → (s.home sec).active = none → (∀ d < 8, ∀ r ∈ (s.die d).reqs, r.sec ≠ sec) →
      ∃ t, exec (.goDataResponse port sec st data) s = .next t ∧
        t = { s with homes := t.homes, mem := t.mem, work := s.work ++ s.homeTurns } ∧
        t.home sec = { s.home sec with cxl := some st } ∧ t.memSector sec = data.getD (s.memSector sec) ∧
        ∀ a, a < 64 * sec ∨ 64 * sec + 64 ≤ a → Memory.byte t.mem a = Memory.byte s.mem a) ∧
    (∀ port pa n, s.barHolds port pa n = true →
      exec (.barMemoryAccess port pa (.read n)) s = .next { s with outs := s.outs ++ [.barData port (s.rdBytes pa n)] }) ∧
    (∀ port pa l, s.barHolds port pa l.length = true →
      ∃ t, exec (.barMemoryAccess port pa (.write l)) s = .next t ∧ t.rdBytes pa l.length = l ∧ t.outs = s.outs ∧
        ∀ a, a < pa ∨ pa + l.length ≤ a → Memory.byte t.mem a = Memory.byte s.mem a) ∧
    (∀ port pa n, s.cxlPorts.contains port = true → s.hdmHolds port pa n = true → 0 < n → pa % 64 + n ≤ 64 → s.allHome (pa / 64) = true →
      ∃ t, exec (.cxlMemAccess ⟨port, pa⟩ (.read n)) s = .next t ∧ t.home (pa / 64) = { s.home (pa / 64) with cxl := some .shared, bisPorts := addNew (s.home (pa / 64)).bisPorts port } ∧
        t = { s with homes := t.homes, outs := s.outs ++ [.barData port (s.rdBytes pa n)], work := s.work ++ s.homeOps.map Event.accessCompletion } ∧ ∀ y, y ≠ pa / 64 → t.home y = s.home y) ∧
    (∀ d asid page e size, (s.die d).walks = [(asid, page)] → (s.die d).walkQ = [] → s.walk asid (page * 65536) = .ok e size →
      (∀ b ∈ s.blocks, ∀ op ∈ b.ops, walkKey (65536 * page) ∉ op.asked) → (∀ x ∈ s.cores, fetchWalk asid (65536 * page) ∉ x.2.pullAsked) →
      let new : TlbEntry := { asid, vpage := page * 65536 / 2 ^ size, size, entry := e, unit := tlbUnit asid (page * 65536) }
      ((s.die d).tlb.filter fun x => x.unit == new.unit).length < 4096 → ∃ t, exec (.pageWalkEnd d asid page) s = .next t ∧ t = { s with dies := t.dies, work := t.work } ∧
        t.die d = { s.die d with walks := [], tlb := (t.die d).tlb } ∧ (∀ x, x ∈ (t.die d).tlb ↔ x ∈ (s.die d).tlb ∨ x = new) ∧
        ∀ i, i ∈ t.work ↔ i ∈ s.work ∨ ∃ x ∈ s.walkers d asid page, i = .accessCompletion x.1.id) ∧
    (∀ n x, n.tdev = s.devNum → n.sdev = s.devNum → noticeLenOk n = true → s.dstBlock n = some x →
      ((s.core x.core).kicks.length < 32 → ∃ t, exec (.kickNoticeArrival n) s = .next t ∧
        (t.core x.core).kicks = (s.core x.core).kicks ++ [n] ∧ t = { s with cores := t.cores, work := s.work ++ [.copyEnginePull x.core] }) ∧
      (32 ≤ (s.core x.core).kicks.length → exec (.kickNoticeArrival n) s = .next { s with timers := s.timers ++ [(s.gtime + 1000, .kickRetry n)] })) ∧
    (∀ n, n.tdev = s.devNum → exec (.kickRetry n) s = .next { s with work := s.work ++ [.kickNoticeArrival n] }) ∧
    (∀ target (v : BitVec 6) (p : DWord) i mask, s.inUse target = true → s.uiBase target ≠ 0 → mask.testBit v.toNat = true →
      (∀ dev asid, s.uiEntry target (.peer dev asid) = some (i, mask) → ∃ t, exec (.peerSend dev asid target v p) s = .next t ∧
        t = { s.uiApply target v.toNat p i with outs := (s.uiApply target v.toNat p i).outs ++ [.kickAck dev 0] }) ∧
      ∀ port pasid (x : BitVec 128), s.uiEntry target (.host port pasid.toNat) = some (i, mask) → (x.extractLsb' 64 12).toNat = target →
        x.extractLsb' 80 6 = v → x.extractLsb' 0 64 = p → exec (.hostUiSend port pasid x) s = .next (s.uiApply target v.toNat p i)) ∧
    (∀ asid v bid gn b g sl x, s.uiTaker asid = some (v, bid, gn) → s.blk bid = some b → b.gang gn = some g → g.slices = [sl] → sl.live ≠ [] →
      (let y := sl.landTo (s.now + 16); y.grow b.spillCap g.budget b.whey.isSome y.n 32 none s.fresh) = .inl x →
      let pay : DWord := BitVec.ofNat 64 (s.uiRd asid (0x200 + 8 * v) 8)
      ∃ t sl', exec (.uiDelivery asid) s = .next t ∧ (t.uiOf asid).running = some (bid, gn) ∧ t.slice ⟨bid, gn, sl.num⟩ = some sl' ∧
        sl'.pc = (s.cxr asid 0x110).setWidth 48 ∧ sl'.s 62 = lo32 pay ∧ sl'.s 63 = hi32 pay) ∧
    ∀ port (pasid : BitVec 20) (x : BitVec 128) (r : ScRec) l, s.sc = [r] → s.inUse r.asid = true → (s.scRing r.asid true).2.2 = port →
      (s.uiEntry r.asid (.host port pasid.toNat)).isSome = true → r.host = true → r.posted = true → r.ended = false → r.lanes = [l] →
      (x.extractLsb' 0 16).toNat = r.slot → (x.extractLsb' 64 12).toNat = r.asid →
      let addr := (s.scRing r.asid true).1 + 2048 * r.slot + 1792 + 8 * l.1
      s.hostRoom port 1 = true → ∃ t, exec (.hostSyscallEnd port pasid x) s = .next t ∧ t.sc = [{ r with ended := true }] ∧
        t.outs = s.outs ++ [.hostRead port s.freeTag addr 8] ∧ t.timers = s.timers ++ [(s.gtime + 50000000, .hostCompletionTimeout s.freeTag)] ∧
        t.hostReqs = s.hostReqs ++ [{ tag := s.freeTag, acc := 0, lane := l.1, port, addr, atomic := false, time := s.gtime, sc := some r.id }] ∧
        t = { s with sc := t.sc, outs := t.outs, timers := t.timers, hostReqs := t.hostReqs }

/-- The block has the one engine operation `op`, in the context `k`. -/
def Sys2Proof.Terms.oneOp (s : State) (i : Nat) (b : Block) (k : Ctx) (op : EngOp) : Prop :=
  s.blk i = some b ∧ b.ops = [op] ∧ op.ctx = k ∧ op.fault = none

/-- R95, R330, R337: an operation that nothing holds begins, and one whose bytes are written and accepted completes: its counter advances.
R24, R363: a pull from this device's vaults moves its bytes and leaves the queue of its core.
R147, R148, R205, R339: in matched collectives of two members each member pulls, up to 4 KiB at a turn, the root's bytes (CBCAST) or the sums (CREDUCE with .u32); once both have
pulled the whole, each writes what it has pulled into its own buffer. -/
def Obligations.EngineSteps : Prop :=
  ∀ s : State,
    (∀ i b k op code o p, Terms.oneOp s i b k op → k = .copy ∨ k = .host → op.kind = .copy code o → op.begun = false → op.step = 0 → b.halt = none → b.saving = false →
      b.issueHeld op = false →
      s.copyPlan b code o op.q = .inl p → o.bar = false → ∃ t, exec (.engineOpBegin i k op.num) s = .next t ∧
        Terms.blockTo { s with work := s.work ++ [.copyEnginePull b.core] } t b { b with ops := [{ op with begun := true }] }) ∧
    (∀ i b op code o j, Terms.oneOp s i b .coll op → op.kind = .coll code o j → op.step = 0 → b.halt = none → b.saving = false → b.issueHeld op = false → s.collChk b op = none →
      ∃ t, exec (.engineOpBegin i .coll op.num) s = .next t ∧
        Terms.blockTo { s with work := s.work ++ ((s.collMembers b o.lv.toNat).getD []).filterMap fun x => x.collHead.map fun y => Event.collectiveChunk x.id y.num } t b
          { b with ops := [{ op with begun := true }] }) ∧
    (∀ i b k op, Terms.oneOp s i b k op → op.step = 1 → op.posted = 0 → op.num = (b.tlOf k).counter + 1 → (b.tlOf k).extra = [] → b.sigs = [] → b.leaves = [] →
      b.seq.ended = false → (∀ x ∈ s.cores, ∀ e ∈ x.2.sp, e.eng ≠ some (i, k, op.num)) → (s.engRelease b op).1 = true →
      ∃ t, exec (.engineOpCompletion i k op.num) s = .next t ∧
        Terms.blockTo s t b { b with ops := [], tl := b.tl.mapIdx fun n x => if n = Ctx.idx k then { x with counter := op.num } else x }) ∧
    (∀ core n b, (s.core core).kicks = [n] → (s.core core).pullIn = [] → (s.core core).staged = [] → s.copiesReady core = [] → s.dstBlock n = some b →
      n.sdev = s.devNum → n.sv = true → n.bar = false → s.pullChk core b n = none → s.kickWait = [] → s.accOf n.sender = none → n.src + n.len ≤ 2 ^ 28 →
      let done := (s.core core).pullDone
      let piece := min 4096 (n.len - done)
      let key := s.vkey (dieOf core) (n.dst + done)
      done < n.len → ∃ t, exec (.copyEnginePull core) s = .next t ∧ t.vlRd (dieOf core) (n.dst + done) piece = s.vlRd n.sdie (n.src + done) piece ∧
        t.mem = s.mem ∧ t.blocks = s.blocks ∧ (∀ x, x < key ∨ key + piece ≤ x → Memory.byte t.vault x = Memory.byte s.vault x) ∧
        (n.len ≤ done + 4096 → (t.core core).kicks = [] ∧ t.work = s.work) ∧
        (done + 4096 < n.len → (t.core core).kicks = [n] ∧ (t.core core).pullDone = done + 4096 ∧ t.work = s.work ++ [.copyEnginePull core])) ∧
    (∀ i b op y oy code o j, s.blk i = some b → b.opOf .coll op.num = some op → op.kind = .coll code o j → s.collMembers b o.lv.toNat = some [b, y] → y.id ≠ i →
      collOps [b, y] o.lv.toNat j = some [(b, op), (y, oy)] → op.begun = true → oy.begun = true → op.written = 0 → collBad [(b, op), (y, oy)] = false →
      let n := (op.q.getD 2 0).toNat % 2 ^ 24
      let buf := fun (x : EngOp) => (x.q.getD 1 0).toNat % 2 ^ 32
      let d := dieOf b.core
      let e := dieOf y.core
      let pulled := fun (total : Nat) (byte : Nat → Nat) =>
        let m := min 4096 (total - op.moved)
        ∃ t b' op', exec (.collectiveChunk i op.num) s = .next t ∧ t.mem = s.mem ∧ t.vault = s.vault ∧ t.blk i = some b' ∧ b'.opOf .coll op.num = some op' ∧
          op' = { op with moved := op.moved + m, inbox := op.inbox ++ (List.range m).map fun k => (op.moved + k, BitVec.ofNat 8 (byte (op.moved + k)))
                          written := if total ≤ op.moved + m ∧ oy.moved = total then 1 else 0 } ∧
          (op.moved + m < total ∨ oy.moved = total → .collectiveChunk i op.num ∈ t.work) ∧ (total ≤ op.moved + m → oy.moved = total → .collectiveChunk y.id oy.num ∈ t.work)
      (code = 0x206 → (op.q.getD 2 0).toNat / 2 ^ 32 % 2 ^ 16 = 0 → buf op + n ≤ 2 ^ 28 → pulled n fun k => s.vlRd d (buf op + k) 1) ∧
      (code = 0x205 → o.ty = .u32 → o.op = 0 → buf op + 4 * n ≤ 2 ^ 28 → buf oy + 4 * n ≤ 2 ^ 28 →
        pulled (4 * n) fun k => (s.vlRd d (buf op + 4 * (k / 4)) 4 + s.vlRd e (buf oy + 4 * (k / 4)) 4) % 2 ^ 32 / 256 ^ (k % 4) % 256)) ∧
    ∀ i b op code o j, s.blk i = some b → b.opOf .coll op.num = some op → op.kind = .coll code o j → op.written = 1 → op.step = 0 → op.fault = none →
      let buf := (op.q.getD 1 0).toNat % 2 ^ 32
      let key := s.vkey (dieOf b.core) buf
      buf + op.inbox.length ≤ 2 ^ 28 → ∃ t b', exec (.collectiveChunk i op.num) s = .next t ∧ t.mem = s.mem ∧ t.blk i = some b' ∧
        b'.opOf .coll op.num = some { op with step := 1, inbox := [] } ∧ t.work = s.work ++ [.engineOpCompletion i .coll op.num] ∧
        (∀ k x, op.inbox[k]? = some x → t.vlRd (dieOf b.core) (buf + k) 1 = x.2.toNat) ∧
        ∀ k, k < key ∨ key + op.inbox.length ≤ k → Memory.byte t.vault k = Memory.byte s.vault k
end

