-- ==== Sys2Proof/Laws/Exec.lean ====
section
/-! SUPPORT. One equation per instruction: `exec` calls its meaning. Each is true by `rfl`; a proof that rewrites with one
does not take the dispatch apart. -/

namespace Sys2Proof.Machine

theorem exec_iadd (c : Ctl) (o : VOp) (s : State) : exec (.iadd c o) s = execIadd c o s := rfl
theorem exec_isub (c : Ctl) (o : VOp) (s : State) : exec (.isub c o) s = execIsub c o s := rfl
theorem exec_imul (c : Ctl) (o : VOp) (s : State) : exec (.imul c o) s = execImul c o s := rfl
theorem exec_iminS (c : Ctl) (o : VOp) (s : State) : exec (.iminS c o) s = execIminS c o s := rfl
theorem exec_iminU (c : Ctl) (o : VOp) (s : State) : exec (.iminU c o) s = execIminU c o s := rfl
theorem exec_imaxS (c : Ctl) (o : VOp) (s : State) : exec (.imaxS c o) s = execImaxS c o s := rfl
theorem exec_imaxU (c : Ctl) (o : VOp) (s : State) : exec (.imaxU c o) s = execImaxU c o s := rfl
theorem exec_iabs (c : Ctl) (o : VOp) (s : State) : exec (.iabs c o) s = execIabs c o s := rfl
theorem exec_andB (c : Ctl) (o : VOp) (s : State) : exec (.andB c o) s = execAndB c o s := rfl
theorem exec_orB (c : Ctl) (o : VOp) (s : State) : exec (.orB c o) s = execOrB c o s := rfl
theorem exec_xorB (c : Ctl) (o : VOp) (s : State) : exec (.xorB c o) s = execXorB c o s := rfl
theorem exec_andn (c : Ctl) (o : VOp) (s : State) : exec (.andn c o) s = execAndn c o s := rfl
theorem exec_shl (c : Ctl) (o : VOp) (s : State) : exec (.shl c o) s = execShl c o s := rfl
theorem exec_shr (c : Ctl) (o : VOp) (s : State) : exec (.shr c o) s = execShr c o s := rfl
theorem exec_sar (c : Ctl) (o : VOp) (s : State) : exec (.sar c o) s = execSar c o s := rfl
theorem exec_rotl (c : Ctl) (o : VOp) (s : State) : exec (.rotl c o) s = execRotl c o s := rfl
theorem exec_popc (c : Ctl) (o : VOp) (s : State) : exec (.popc c o) s = execPopc c o s := rfl
theorem exec_clz (c : Ctl) (o : VOp) (s : State) : exec (.clz c o) s = execClz c o s := rfl
theorem exec_brev (c : Ctl) (o : VOp) (s : State) : exec (.brev c o) s = execBrev c o s := rfl
theorem exec_mov (c : Ctl) (o : VOp) (s : State) : exec (.mov c o) s = execMov c o s := rfl
theorem exec_movi (c : Ctl) (o : VOp) (s : State) : exec (.movi c o) s = execMovi c o s := rfl
theorem exec_sel (c : Ctl) (o : VOp) (s : State) : exec (.sel c o) s = execSel c o s := rfl
theorem exec_isetp (c : Ctl) (o : COp) (s : State) : exec (.isetp c o) s = execIsetp c o s := rfl
theorem exec_iaddc (c : Ctl) (o : VOp) (s : State) : exec (.iaddc c o) s = execIaddc c o s := rfl
theorem exec_fadd (c : Ctl) (o : VOp) (s : State) : exec (.fadd c o) s = execFadd c o s := rfl
theorem exec_fsub (c : Ctl) (o : VOp) (s : State) : exec (.fsub c o) s = execFsub c o s := rfl
theorem exec_fmul (c : Ctl) (o : VOp) (s : State) : exec (.fmul c o) s = execFmul c o s := rfl
theorem exec_fmin (c : Ctl) (o : VOp) (s : State) : exec (.fmin c o) s = execFmin c o s := rfl
theorem exec_fmax (c : Ctl) (o : VOp) (s : State) : exec (.fmax c o) s = execFmax c o s := rfl
theorem exec_fsetp (c : Ctl) (o : COp) (s : State) : exec (.fsetp c o) s = execFsetp c o s := rfl
theorem exec_fabs (c : Ctl) (o : VOp) (s : State) : exec (.fabs c o) s = execFabs c o s := rfl
theorem exec_fneg (c : Ctl) (o : VOp) (s : State) : exec (.fneg c o) s = execFneg c o s := rfl
theorem exec_hadd2 (c : Ctl) (o : VOp) (s : State) : exec (.hadd2 c o) s = execHadd2 c o s := rfl
theorem exec_hmul2 (c : Ctl) (o : VOp) (s : State) : exec (.hmul2 c o) s = execHmul2 c o s := rfl
theorem exec_badd2 (c : Ctl) (o : VOp) (s : State) : exec (.badd2 c o) s = execBadd2 c o s := rfl
theorem exec_bmul2 (c : Ctl) (o : VOp) (s : State) : exec (.bmul2 c o) s = execBmul2 c o s := rfl
theorem exec_hmin2 (c : Ctl) (o : VOp) (s : State) : exec (.hmin2 c o) s = execHmin2 c o s := rfl
theorem exec_hmax2 (c : Ctl) (o : VOp) (s : State) : exec (.hmax2 c o) s = execHmax2 c o s := rfl
theorem exec_pand (c : Ctl) (o : POp) (s : State) : exec (.pand c o) s = execPand c o s := rfl
theorem exec_por (c : Ctl) (o : POp) (s : State) : exec (.por c o) s = execPor c o s := rfl
theorem exec_pxor (c : Ctl) (o : POp) (s : State) : exec (.pxor c o) s = execPxor c o s := rfl
theorem exec_pnot (c : Ctl) (o : POp) (s : State) : exec (.pnot c o) s = execPnot c o s := rfl
theorem exec_pmov (c : Ctl) (o : POp) (s : State) : exec (.pmov c o) s = execPmov c o s := rfl
theorem exec_sadd (c : Ctl) (o : VOp) (s : State) : exec (.sadd c o) s = execSadd c o s := rfl
theorem exec_ssub (c : Ctl) (o : VOp) (s : State) : exec (.ssub c o) s = execSsub c o s := rfl
theorem exec_smov (c : Ctl) (o : VOp) (s : State) : exec (.smov c o) s = execSmov c o s := rfl
theorem exec_smovi (c : Ctl) (o : VOp) (s : State) : exec (.smovi c o) s = execSmovi c o s := rfl
theorem exec_scmp (c : Ctl) (o : COp) (s : State) : exec (.scmp c o) s = execScmp c o s := rfl
theorem exec_shflx (c : Ctl) (o : VOp) (s : State) : exec (.shflx c o) s = execShflx c o s := rfl
theorem exec_bcast (c : Ctl) (o : VOp) (s : State) : exec (.bcast c o) s = execBcast c o s := rfl
theorem exec_i2f (c : Ctl) (o : VOp) (s : State) : exec (.i2f c o) s = execI2f c o s := rfl
theorem exec_f2i (c : Ctl) (o : VOp) (s : State) : exec (.f2i c o) s = execF2i c o s := rfl
theorem exec_f2h (c : Ctl) (o : VOp) (s : State) : exec (.f2h c o) s = execF2h c o s := rfl
theorem exec_h2f (c : Ctl) (o : VOp) (s : State) : exec (.h2f c o) s = execH2f c o s := rfl
theorem exec_f2b (c : Ctl) (o : VOp) (s : State) : exec (.f2b c o) s = execF2b c o s := rfl
theorem exec_b2f (c : Ctl) (o : VOp) (s : State) : exec (.b2f c o) s = execB2f c o s := rfl
theorem exec_nop (c : Ctl) (s : State) : exec (.nop c) s = execNop c s := rfl
theorem exec_sext (c : Ctl) (o : VOp) (s : State) : exec (.sext c o) s = execSext c o s := rfl
theorem exec_zext (c : Ctl) (o : VOp) (s : State) : exec (.zext c o) s = execZext c o s := rfl
theorem exec_bfe (c : Ctl) (o : VOp) (s : State) : exec (.bfe c o) s = execBfe c o s := rfl
theorem exec_bfi (c : Ctl) (o : VOp) (s : State) : exec (.bfi c o) s = execBfi c o s := rfl
theorem exec_fsat (c : Ctl) (o : VOp) (s : State) : exec (.fsat c o) s = execFsat c o s := rfl
theorem exec_frnd (c : Ctl) (o : VOp) (s : State) : exec (.frnd c o) s = execFrnd c o s := rfl
theorem exec_lmask (c : Ctl) (o : VOp) (s : State) : exec (.lmask c o) s = execLmask c o s := rfl
theorem exec_imad (c : Ctl) (o : VOp) (s : State) : exec (.imad c o) s = execImad c o s := rfl
theorem exec_imulhiS (c : Ctl) (o : VOp) (s : State) : exec (.imulhiS c o) s = execImulhiS c o s := rfl
theorem exec_imulhiU (c : Ctl) (o : VOp) (s : State) : exec (.imulhiU c o) s = execImulhiU c o s := rfl
theorem exec_iadd3 (c : Ctl) (o : VOp) (s : State) : exec (.iadd3 c o) s = execIadd3 c o s := rfl
theorem exec_lut3 (c : Ctl) (o : VOp) (s : State) : exec (.lut3 c o) s = execLut3 c o s := rfl
theorem exec_lea (c : Ctl) (o : VOp) (s : State) : exec (.lea c o) s = execLea c o s := rfl
theorem exec_iadd64 (c : Ctl) (o : VOp) (s : State) : exec (.iadd64 c o) s = execIadd64 c o s := rfl
theorem exec_imad64 (c : Ctl) (o : VOp) (s : State) : exec (.imad64 c o) s = execImad64 c o s := rfl
theorem exec_ishf (c : Ctl) (o : VOp) (s : State) : exec (.ishf c o) s = execIshf c o s := rfl
theorem exec_smul (c : Ctl) (o : VOp) (s : State) : exec (.smul c o) s = execSmul c o s := rfl
theorem exec_sshl (c : Ctl) (o : VOp) (s : State) : exec (.sshl c o) s = execSshl c o s := rfl
theorem exec_sshr (c : Ctl) (o : VOp) (s : State) : exec (.sshr c o) s = execSshr c o s := rfl
theorem exec_sand (c : Ctl) (o : VOp) (s : State) : exec (.sand c o) s = execSand c o s := rfl
theorem exec_sor (c : Ctl) (o : VOp) (s : State) : exec (.sor c o) s = execSor c o s := rfl
theorem exec_sbfe (c : Ctl) (o : VOp) (s : State) : exec (.sbfe c o) s = execSbfe c o s := rfl
theorem exec_smax (c : Ctl) (o : VOp) (s : State) : exec (.smax c o) s = execSmax c o s := rfl
theorem exec_bra (c : Ctl) (o : BraOp) (s : State) : exec (.bra c o) s = execBra c o s := rfl
theorem exec_brx (c : Ctl) (o : BrxOp) (s : State) : exec (.brx c o) s = execBrx c o s := rfl
theorem exec_call (c : Ctl) (o : CallOp) (s : State) : exec (.call c o) s = execCall c o s := rfl
theorem exec_callx (c : Ctl) (o : CallOp) (s : State) : exec (.callx c o) s = execCallx c o s := rfl
theorem exec_ret (c : Ctl) (o : BrxOp) (s : State) : exec (.ret c o) s = execRet c o s := rfl
theorem exec_ifp (c : Ctl) (o : IfpOp) (s : State) : exec (.ifp c o) s = execIfp c o s := rfl
theorem exec_elsep (c : Ctl) (s : State) : exec (.elsep c) s = execElsep c s := rfl
theorem exec_endifp (c : Ctl) (s : State) : exec (.endifp c) s = execEndifp c s := rfl
theorem exec_brk (c : Ctl) (o : BitVec 8) (s : State) : exec (.brk c o) s = execBrk c o s := rfl
theorem exec_cont (c : Ctl) (o : BitVec 8) (s : State) : exec (.cont c o) s = execCont c o s := rfl
theorem exec_regang (c : Ctl) (o : BitVec 8) (s : State) : exec (.regang c o) s = execRegang c o s := rfl
theorem exec_regroup (c : Ctl) (o : RegroupOp) (s : State) : exec (.regroup c o) s = execRegroup c o s := rfl
theorem exec_vote (c : Ctl) (o : VOp) (s : State) : exec (.vote c o) s = execVote c o s := rfl
theorem exec_shfl (c : Ctl) (o : VOp) (s : State) : exec (.shfl c o) s = execShfl c o s := rfl
theorem exec_exit (c : Ctl) (s : State) : exec (.exit c) s = execExit c s := rfl
theorem exec_yield (c : Ctl) (s : State) : exec (.yield c) s = execYield c s := rfl
theorem exec_spinh (c : Ctl) (s : State) : exec (.spinh c) s = execSpinh c s := rfl
theorem exec_rdsr (c : Ctl) (o : SrOp) (s : State) : exec (.rdsr c o) s = execRdsr c o s := rfl
theorem exec_wrsr (c : Ctl) (o : SrOp) (s : State) : exec (.wrsr c o) s = execWrsr c o s := rfl
theorem exec_scbra (c : Ctl) (o : CBraOp) (s : State) : exec (.scbra c o) s = execScbra c o s := rfl
theorem exec_prmt (c : Ctl) (o : VOp) (s : State) : exec (.prmt c o) s = execPrmt c o s := rfl
theorem exec_redux (c : Ctl) (o : VOp) (s : State) : exec (.redux c o) s = execRedux c o s := rfl
theorem exec_matchL (c : Ctl) (o : VOp) (s : State) : exec (.matchL c o) s = execMatchL c o s := rfl
theorem exec_smin (c : Ctl) (o : VOp) (s : State) : exec (.smin c o) s = execSmin c o s := rfl
theorem exec_ffma (c : Ctl) (o : VOp) (s : State) : exec (.ffma c o) s = execFfma c o s := rfl
theorem exec_dadd (c : Ctl) (o : VOp) (s : State) : exec (.dadd c o) s = execDadd c o s := rfl
theorem exec_dmul (c : Ctl) (o : VOp) (s : State) : exec (.dmul c o) s = execDmul c o s := rfl
theorem exec_dfma (c : Ctl) (o : VOp) (s : State) : exec (.dfma c o) s = execDfma c o s := rfl
theorem exec_dmin (c : Ctl) (o : VOp) (s : State) : exec (.dmin c o) s = execDmin c o s := rfl
theorem exec_dmax (c : Ctl) (o : VOp) (s : State) : exec (.dmax c o) s = execDmax c o s := rfl
theorem exec_dsetp (c : Ctl) (o : COp) (s : State) : exec (.dsetp c o) s = execDsetp c o s := rfl
theorem exec_frnd64 (c : Ctl) (o : VOp) (s : State) : exec (.frnd64 c o) s = execFrnd64 c o s := rfl
theorem exec_frcp (c : Ctl) (o : VOp) (s : State) : exec (.frcp c o) s = execFrcp c o s := rfl
theorem exec_frsq (c : Ctl) (o : VOp) (s : State) : exec (.frsq c o) s = execFrsq c o s := rfl
theorem exec_fsqrt (c : Ctl) (o : VOp) (s : State) : exec (.fsqrt c o) s = execFsqrt c o s := rfl
theorem exec_fexp2 (c : Ctl) (o : VOp) (s : State) : exec (.fexp2 c o) s = execFexp2 c o s := rfl
theorem exec_flog2 (c : Ctl) (o : VOp) (s : State) : exec (.flog2 c o) s = execFlog2 c o s := rfl
theorem exec_fsin (c : Ctl) (o : VOp) (s : State) : exec (.fsin c o) s = execFsin c o s := rfl
theorem exec_fcos (c : Ctl) (o : VOp) (s : State) : exec (.fcos c o) s = execFcos c o s := rfl
theorem exec_ftanh (c : Ctl) (o : VOp) (s : State) : exec (.ftanh c o) s = execFtanh c o s := rfl
theorem exec_hfma2 (c : Ctl) (o : VOp) (s : State) : exec (.hfma2 c o) s = execHfma2 c o s := rfl
theorem exec_bfma2 (c : Ctl) (o : VOp) (s : State) : exec (.bfma2 c o) s = execBfma2 c o s := rfl
theorem exec_f2f (c : Ctl) (o : VOp) (s : State) : exec (.f2f c o) s = execF2f c o s := rfl
theorem exec_cvtfi (c : Ctl) (o : VOp) (s : State) : exec (.cvtfi c o) s = execCvtfi c o s := rfl
theorem exec_cvtif (c : Ctl) (o : VOp) (s : State) : exec (.cvtif c o) s = execCvtif c o s := rfl
theorem exec_f2e4 (c : Ctl) (o : VOp) (s : State) : exec (.f2e4 c o) s = execF2e4 c o s := rfl
theorem exec_f2e5 (c : Ctl) (o : VOp) (s : State) : exec (.f2e5 c o) s = execF2e5 c o s := rfl
theorem exec_e42f (c : Ctl) (o : VOp) (s : State) : exec (.e42f c o) s = execE42f c o s := rfl
theorem exec_e52f (c : Ctl) (o : VOp) (s : State) : exec (.e52f c o) s = execE52f c o s := rfl
theorem exec_qhist (c : Ctl) (o : MOp) (s : State) : exec (.qhist c o) s = execQhist c o s := rfl
theorem exec_qscale (c : Ctl) (o : VOp) (s : State) : exec (.qscale c o) s = execQscale c o s := rfl
theorem exec_qpack (c : Ctl) (o : VOp) (s : State) : exec (.qpack c o) s = execQpack c o s := rfl
theorem exec_qunpk (c : Ctl) (o : VOp) (s : State) : exec (.qunpk c o) s = execQunpk c o s := rfl
theorem exec_fclass (c : Ctl) (o : VOp) (s : State) : exec (.fclass c o) s = execFclass c o s := rfl
theorem exec_fscale (c : Ctl) (o : VOp) (s : State) : exec (.fscale c o) s = execFscale c o s := rfl
theorem exec_fdot2 (c : Ctl) (o : VOp) (s : State) : exec (.fdot2 c o) s = execFdot2 c o s := rfl
theorem exec_idp4 (c : Ctl) (o : VOp) (s : State) : exec (.idp4 c o) s = execIdp4 c o s := rfl
theorem exec_fcopysign (c : Ctl) (o : VOp) (s : State) : exec (.fcopysign c o) s = execFcopysign c o s := rfl
theorem exec_fredux (c : Ctl) (o : VOp) (s : State) : exec (.fredux c o) s = execFredux c o s := rfl
theorem exec_dcvt (c : Ctl) (o : VOp) (s : State) : exec (.dcvt c o) s = execDcvt c o s := rfl
theorem exec_ld (c : Ctl) (o : MOp) (s : State) : exec (.ld c o) s = execLd c o s := rfl
theorem exec_st (c : Ctl) (o : MOp) (s : State) : exec (.st c o) s = execSt c o s := rfl
theorem exec_ldv (c : Ctl) (o : MOp) (s : State) : exec (.ldv c o) s = execLdv c o s := rfl
theorem exec_stv (c : Ctl) (o : MOp) (s : State) : exec (.stv c o) s = execStv c o s := rfl
theorem exec_ldc (c : Ctl) (o : MOp) (s : State) : exec (.ldc c o) s = execLdc c o s := rfl
theorem exec_pref (c : Ctl) (o : MOp) (s : State) : exec (.pref c o) s = execPref c o s := rfl
theorem exec_atom (c : Ctl) (o : MOp) (s : State) : exec (.atom c o) s = execAtom c o s := rfl
theorem exec_atomcas (c : Ctl) (o : MOp) (s : State) : exec (.atomcas c o) s = execAtomcas c o s := rfl
theorem exec_red (c : Ctl) (o : MOp) (s : State) : exec (.red c o) s = execRed c o s := rfl
theorem exec_atomv (c : Ctl) (o : MOp) (s : State) : exec (.atomv c o) s = execAtomv c o s := rfl
theorem exec_fence (c : Ctl) (o : FenceOp) (s : State) : exec (.fence c o) s = execFence c o s := rfl
theorem exec_mark (c : Ctl) (o : Bool) (s : State) : exec (.mark c o) s = execMark c o s := rfl
theorem exec_bar (c : Ctl) (o : BarOp) (s : State) : exec (.bar c o) s = execBar c o s := rfl
theorem exec_binit (c : Ctl) (o : MOp) (s : State) : exec (.binit c o) s = execBinit c o s := rfl
theorem exec_bexp (c : Ctl) (o : MOp) (s : State) : exec (.bexp c o) s = execBexp c o s := rfl
theorem exec_barv (c : Ctl) (o : MOp) (s : State) : exec (.barv c o) s = execBarv c o s := rfl
theorem exec_btest (c : Ctl) (o : MOp) (s : State) : exec (.btest c o) s = execBtest c o s := rfl
theorem exec_bret (c : Ctl) (o : MOp) (s : State) : exec (.bret c o) s = execBret c o s := rfl
theorem exec_waitp (c : Ctl) (o : WaitpOp) (s : State) : exec (.waitp c o) s = execWaitp c o s := rfl
theorem exec_tlwait (c : Ctl) (o : TlOp) (s : State) : exec (.tlwait c o) s = execTlwait c o s := rfl
theorem exec_tlread (c : Ctl) (o : TlOp) (s : State) : exec (.tlread c o) s = execTlread c o s := rfl
theorem exec_cctlInv (c : Ctl) (o : MOp) (s : State) : exec (.cctlInv c o) s = execCctlInv c o s := rfl
theorem exec_cctlInvl (c : Ctl) (o : MOp) (s : State) : exec (.cctlInvl c o) s = execCctlInvl c o s := rfl
theorem exec_cctlEvict (c : Ctl) (o : MOp) (s : State) : exec (.cctlEvict c o) s = execCctlEvict c o s := rfl
theorem exec_syncm (c : Ctl) (o : MOp) (s : State) : exec (.syncm c o) s = execSyncm c o s := rfl
theorem exec_ldx (c : Ctl) (o : MOp) (s : State) : exec (.ldx c o) s = execLdx c o s := rfl
theorem exec_cpya (c : Ctl) (o : MOp) (s : State) : exec (.cpya c o) s = execCpya c o s := rfl
theorem exec_stcw (c : Ctl) (o : MOp) (s : State) : exec (.stcw c o) s = execStcw c o s := rfl
theorem exec_tladv (c : Ctl) (o : TlOp) (s : State) : exec (.tladv c o) s = execTladv c o s := rfl
theorem exec_atom64 (c : Ctl) (o : MOp) (s : State) : exec (.atom64 c o) s = execAtom64 c o s := rfl
theorem exec_atomf (c : Ctl) (o : MOp) (s : State) : exec (.atomf c o) s = execAtomf c o s := rfl
theorem exec_probe (c : Ctl) (o : MOp) (s : State) : exec (.probe c o) s = execProbe c o s := rfl
theorem exec_tokq (c : Ctl) (o : MOp) (s : State) : exec (.tokq c o) s = execTokq c o s := rfl
theorem exec_mcpredRd (c : Ctl) (o : MOp) (s : State) : exec (.mcpredRd c o) s = execMcpredRd c o s := rfl
theorem exec_mcpredWr (c : Ctl) (o : MOp) (s : State) : exec (.mcpredWr c o) s = execMcpredWr c o s := rfl
theorem exec_press (c : Ctl) (o : MOp) (s : State) : exec (.press c o) s = execPress c o s := rfl
theorem exec_ldnc (c : Ctl) (o : MOp) (s : State) : exec (.ldnc c o) s = execLdnc c o s := rfl
theorem exec_stnc (c : Ctl) (o : MOp) (s : State) : exec (.stnc c o) s = execStnc c o s := rfl
theorem exec_wbinv (c : Ctl) (o : MOp) (s : State) : exec (.wbinv c o) s = execWbinv c o s := rfl
theorem exec_tload (c : Ctl) (o : CopyOp) (s : State) : exec (.tload c o) s = execTload c o s := rfl
theorem exec_tstore (c : Ctl) (o : CopyOp) (s : State) : exec (.tstore c o) s = execTstore c o s := rfl
theorem exec_tcopy (c : Ctl) (o : CopyOp) (s : State) : exec (.tcopy c o) s = execTcopy c o s := rfl
theorem exec_tgath (c : Ctl) (o : CopyOp) (s : State) : exec (.tgath c o) s = execTgath c o s := rfl
theorem exec_tscat (c : Ctl) (o : CopyOp) (s : State) : exec (.tscat c o) s = execTscat c o s := rfl
theorem exec_creduce (c : Ctl) (o : CollOp) (s : State) : exec (.creduce c o) s = execCreduce c o s := rfl
theorem exec_cbcast (c : Ctl) (o : CollOp) (s : State) : exec (.cbcast c o) s = execCbcast c o s := rfl
theorem exec_tfill (c : Ctl) (o : CopyOp) (s : State) : exec (.tfill c o) s = execTfill c o s := rfl
theorem exec_tlsig (c : Ctl) (o : TlsigOp) (s : State) : exec (.tlsig c o) s = execTlsig c o s := rfl
theorem exec_qadd (c : Ctl) (o : QaddOp) (s : State) : exec (.qadd c o) s = execQadd c o s := rfl
theorem exec_qmovi (c : Ctl) (o : QmoviOp) (s : State) : exec (.qmovi c o) s = execQmovi c o s := rfl
theorem exec_qld (c : Ctl) (o : MOp) (s : State) : exec (.qld c o) s = execQld c o s := rfl
theorem exec_qbra (c : Ctl) (o : CBraOp) (s : State) : exec (.qbra c o) s = execQbra c o s := rfl
theorem exec_qwaitEnd (c : Ctl) (s : State) : exec (.qwaitEnd c) s = execQwaitEnd c s := rfl
theorem exec_qwaitUntil (c : Ctl) (o : BitVec 6) (s : State) : exec (.qwaitUntil c o) s = execQwaitUntil c o s := rfl
theorem exec_mma (c : Ctl) (o : MmaOp) (s : State) : exec (.mma c o) s = execMma c o s := rfl
theorem exec_mmas (c : Ctl) (o : MmaOp) (s : State) : exec (.mmas c o) s = execMmas c o s := rfl
theorem exec_mmag (c : Ctl) (o : MmaOp) (s : State) : exec (.mmag c o) s = execMmag c o s := rfl
theorem exec_mzero (c : Ctl) (o : TileOp) (s : State) : exec (.mzero c o) s = execMzero c o s := rfl
theorem exec_mloadt (c : Ctl) (o : TileOp) (s : State) : exec (.mloadt c o) s = execMloadt c o s := rfl
theorem exec_mstoret (c : Ctl) (o : TileOp) (s : State) : exec (.mstoret c o) s = execMstoret c o s := rfl
theorem exec_mcvt (c : Ctl) (o : TileOp) (s : State) : exec (.mcvt c o) s = execMcvt c o s := rfl
theorem exec_mcoop (c : Ctl) (o : BitVec 6) (s : State) : exec (.mcoop c o) s = execMcoop c o s := rfl
theorem exec_msync (c : Ctl) (o : TileOp) (s : State) : exec (.msync c o) s = execMsync c o s := rfl
theorem exec_mtrans (c : Ctl) (o : TileOp) (s : State) : exec (.mtrans c o) s = execMtrans c o s := rfl
theorem exec_maddt (c : Ctl) (o : TileOp) (s : State) : exec (.maddt c o) s = execMaddt c o s := rfl
theorem exec_mscale (c : Ctl) (o : TileOp) (s : State) : exec (.mscale c o) s = execMscale c o s := rfl
theorem exec_mhist (c : Ctl) (o : TileOp) (s : State) : exec (.mhist c o) s = execMhist c o s := rfl
theorem exec_mquant (c : Ctl) (o : TileOp) (s : State) : exec (.mquant c o) s = execMquant c o s := rfl
theorem exec_mact (c : Ctl) (o : TileOp) (s : State) : exec (.mact c o) s = execMact c o s := rfl
theorem exec_mrowred (c : Ctl) (o : TileOp) (s : State) : exec (.mrowred c o) s = execMrowred c o s := rfl
theorem exec_mleaveGet (c : Ctl) (s : State) : exec (.mleaveGet c) s = execMleaveGet c s := rfl
theorem exec_mleavePut (c : Ctl) (s : State) : exec (.mleavePut c) s = execMleavePut c s := rfl
theorem exec_mfmt (c : Ctl) (o : BitVec 20) (s : State) : exec (.mfmt c o) s = execMfmt c o s := rfl
theorem exec_sendui (c : Ctl) (o : SendOp) (s : State) : exec (.sendui c o) s = execSendui c o s := rfl
theorem exec_uiret (c : Ctl) (s : State) : exec (.uiret c) s = execUiret c s := rfl
theorem exec_uimaskWr (c : Ctl) (o : ZOp) (s : State) : exec (.uimaskWr c o) s = execUimaskWr c o s := rfl
theorem exec_uimaskSet (c : Ctl) (o : ZOp) (s : State) : exec (.uimaskSet c o) s = execUimaskSet c o s := rfl
theorem exec_uimaskClr (c : Ctl) (o : ZOp) (s : State) : exec (.uimaskClr c o) s = execUimaskClr c o s := rfl
theorem exec_uimaskHnd (c : Ctl) (o : BitVec 20) (s : State) : exec (.uimaskHnd c o) s = execUimaskHnd c o s := rfl
theorem exec_uipend (c : Ctl) (o : ZOp) (s : State) : exec (.uipend c o) s = execUipend c o s := rfl
theorem exec_syscall (c : Ctl) (o : SyscallOp) (s : State) : exec (.syscall c o) s = execSyscall c o s := rfl
theorem exec_sysret (c : Ctl) (o : ZOp) (s : State) : exec (.sysret c o) s = execSysret c o s := rfl
theorem exec_trapret (c : Ctl) (o : TrapretOp) (s : State) : exec (.trapret c o) s = execTrapret c o s := rfl
theorem exec_trapretFrz (c : Ctl) (o : Bool) (s : State) : exec (.trapretFrz c o) s = execTrapretFrz c o s := rfl
theorem exec_migr (c : Ctl) (o : MigrOp) (s : State) : exec (.migr c o) s = execMigr c o s := rfl
theorem exec_wlive (c : Ctl) (o : WliveOp) (s : State) : exec (.wlive c o) s = execWlive c o s := rfl
theorem exec_launch (c : Ctl) (o : ZqOp) (s : State) : exec (.launch c o) s = execLaunch c o s := rfl
theorem exec_emit (c : Ctl) (o : ZqOp) (s : State) : exec (.emit c o) s = execEmit c o s := rfl
theorem exec_kick (c : Ctl) (o : ZOp) (s : State) : exec (.kick c o) s = execKick c o s := rfl
theorem exec_mapctlInv (c : Ctl) (o : ZOp) (s : State) : exec (.mapctlInv c o) s = execMapctlInv c o s := rfl
theorem exec_mapctlInvall (c : Ctl) (o : ZOp) (s : State) : exec (.mapctlInvall c o) s = execMapctlInvall c o s := rfl
theorem exec_mapctlHost (c : Ctl) (o : ZOp) (s : State) : exec (.mapctlHost c o) s = execMapctlHost c o s := rfl
theorem exec_mapctlDev (c : Ctl) (o : ZOp) (s : State) : exec (.mapctlDev c o) s = execMapctlDev c o s := rfl
theorem exec_decld (c : Ctl) (o : ZOp) (s : State) : exec (.decld c o) s = execDecld c o s := rfl
theorem exec_bkpt (c : Ctl) (o : BitVec 20) (s : State) : exec (.bkpt c o) s = execBkpt c o s := rfl
theorem exec_sleepw (c : Ctl) (o : SleepwOp) (s : State) : exec (.sleepw c o) s = execSleepw c o s := rfl
theorem exec_wheyArrival (core : Nat) (s : State) : exec (.wheyArrival core) s = execWheyArrival core s := rfl
theorem exec_replicaAdvertisement (s : State) : exec (.replicaAdvertisement) s = execReplicaAdvertisement s := rfl
theorem exec_doorbell (host : Bool) (asid : Nat) (v : DWord) (s : State) : exec (.doorbell host asid v) s = execDoorbell host asid v s := rfl
theorem exec_hqRecordRead (die q : Nat) (s : State) : exec (.hqRecordRead die q) s = execHqRecordRead die q s := rfl
theorem exec_entryGrant (die q : Nat) (s : State) : exec (.entryGrant die q) s = execEntryGrant die q s := rfl
theorem exec_launchPlacement (die : Nat) (s : State) : exec (.launchPlacement die) s = execLaunchPlacement die s := rfl
theorem exec_unitSave (u : Nat) (s : State) : exec (.unitSave u) s = execUnitSave u s := rfl
theorem exec_forcedSave (u : Nat) (s : State) : exec (.forcedSave u) s = execForcedSave u s := rfl
theorem exec_saveDrainTimeout (u : Nat) (s : State) : exec (.saveDrainTimeout u) s = execSaveDrainTimeout u s := rfl
theorem exec_unitRestore (u : Nat) (s : State) : exec (.unitRestore u) s = execUnitRestore u s := rfl
theorem exec_slotFiring (i : Nat) (s : State) : exec (.slotFiring i) s = execSlotFiring i s := rfl
theorem exec_nodeFlushTimeout (asid node : Nat) (s : State) : exec (.nodeFlushTimeout asid node) s = execNodeFlushTimeout asid node s := rfl
theorem exec_blockRetirement (b : Nat) (s : State) : exec (.blockRetirement b) s = execBlockRetirement b s := rfl
theorem exec_launchCompletion (l : Nat) (s : State) : exec (.launchCompletion l) s = execLaunchCompletion l s := rfl
theorem exec_accessCompletion (a : Nat) (s : State) : exec (.accessCompletion a) s = execAccessCompletion a s := rfl
theorem exec_engineOpBegin (b : Nat) (ctx : Ctx) (n : Nat) (s : State) : exec (.engineOpBegin b ctx n) s = execEngineOpBegin b ctx n s := rfl
theorem exec_engineOpCompletion (b : Nat) (ctx : Ctx) (n : Nat) (s : State) : exec (.engineOpCompletion b ctx n) s = execEngineOpCompletion b ctx n s := rfl
theorem exec_leaveGrant (die : Nat) (s : State) : exec (.leaveGrant die) s = execLeaveGrant die s := rfl
theorem exec_leaveExpiry (b : Nat) (ctx : Ctx) (s : State) : exec (.leaveExpiry b ctx) s = execLeaveExpiry b ctx s := rfl
theorem exec_sleepwWake (r : SliceRef) (s : State) : exec (.sleepwWake r) s = execSleepwWake r s := rfl
theorem exec_hostUiSend (port : Nat) (pasid : BitVec 20) (data : BitVec 128) (s : State) : exec (.hostUiSend port pasid data) s = execHostUiSend port pasid data s := rfl
theorem exec_uiDelivery (asid : Nat) (s : State) : exec (.uiDelivery asid) s = execUiDelivery asid s := rfl
theorem exec_hostSyscallEnd (port : Nat) (pasid : BitVec 20) (data : BitVec 128) (s : State) : exec (.hostSyscallEnd port pasid data) s = execHostSyscallEnd port pasid data s := rfl
theorem exec_transientRequest (m : ReqMsg) (s : State) : exec (.transientRequest m) s = execTransientRequest m s := rfl
theorem exec_transientTimeout (die sec : Nat) (s : State) : exec (.transientTimeout die sec) s = execTransientTimeout die sec s := rfl
theorem exec_tokenArrival (m : TokMsg) (s : State) : exec (.tokenArrival m) s = execTokenArrival m s := rfl
theorem exec_writeBack (m : TokMsg) (s : State) : exec (.writeBack m) s = execWriteBack m s := rfl
theorem exec_pressRequest (m : PressReq) (s : State) : exec (.pressRequest m) s = execPressRequest m s := rfl
theorem exec_pressActivation (agent : Nat) (m : PressReq) (s : State) : exec (.pressActivation agent m) s = execPressActivation agent m s := rfl
theorem exec_pressDeactivation (sec : Nat) (src : Holder) (s : State) : exec (.pressDeactivation sec src) s = execPressDeactivation sec src s := rfl
theorem exec_pressClear (agent sec : Nat) (s : State) : exec (.pressClear agent sec) s = execPressClear agent sec s := rfl
theorem exec_hostSnoop (port sec : Nat) (kind : Snoop) (s : State) : exec (.hostSnoop port sec kind) s = execHostSnoop port sec kind s := rfl
theorem exec_cxlMemAccess (pa : PortAddr) (req : BarReq) (s : State) : exec (.cxlMemAccess pa req) s = execCxlMemAccess pa req s := rfl
theorem exec_kickNoticeArrival (n : Notice) (s : State) : exec (.kickNoticeArrival n) s = execKickNoticeArrival n s := rfl
theorem exec_kickRetry (n : Notice) (s : State) : exec (.kickRetry n) s = execKickRetry n s := rfl
theorem exec_copyEnginePull (core : Nat) (s : State) : exec (.copyEnginePull core) s = execCopyEnginePull core s := rfl
theorem exec_markerCopy (m : Marker) (s : State) : exec (.markerCopy m) s = execMarkerCopy m s := rfl
theorem exec_markerCompletion (id dev : Nat) (s : State) : exec (.markerCompletion id dev) s = execMarkerCompletion id dev s := rfl
theorem exec_vectorRead (p : VPkt) (s : State) : exec (.vectorRead p) s = execVectorRead p s := rfl
theorem exec_vectorWrite (p : VPkt) (s : State) : exec (.vectorWrite p) s = execVectorWrite p s := rfl
theorem exec_vectorAtomic (p : VPkt) (s : State) : exec (.vectorAtomic p) s = execVectorAtomic p s := rfl
theorem exec_readResponse (rid : Nat) (data : List DWord) (s : State) : exec (.readResponse rid data) s = execReadResponse rid data s := rfl
theorem exec_writeAcceptance (rid : Nat) (code : BitVec 8) (s : State) : exec (.writeAcceptance rid code) s = execWriteAcceptance rid code s := rfl
theorem exec_atomicResponse (rid : Nat) (data : List DWord) (s : State) : exec (.atomicResponse rid data) s = execAtomicResponse rid data s := rfl
theorem exec_collectiveChunk (b : Nat) (n : Nat) (s : State) : exec (.collectiveChunk b n) s = execCollectiveChunk b n s := rfl
theorem exec_fabricRequestTimeout (rid : Nat) (s : State) : exec (.fabricRequestTimeout rid) s = execFabricRequestTimeout rid s := rfl
theorem exec_turning (die : Nat) (s : State) : exec (.turning die) s = execTurning die s := rfl
theorem exec_linkReplay (l : LinkRef) (s : State) : exec (.linkReplay l) s = execLinkReplay l s := rfl
theorem exec_linkDown (l : LinkRef) (s : State) : exec (.linkDown l) s = execLinkDown l s := rfl
theorem exec_tokenRecreation (sec : Nat) (s : State) : exec (.tokenRecreation sec) s = execTokenRecreation sec s := rfl
theorem exec_census (agent sec : Nat) (ser : BitVec 8) (s : State) : exec (.census agent sec ser) s = execCensus agent sec ser s := rfl
theorem exec_routeWithdrawal (dev : Nat) (s : State) : exec (.routeWithdrawal dev) s = execRouteWithdrawal dev s := rfl
theorem exec_hostCompletion (tag : Nat) (st : HStat) (data : BitVec 128) (s : State) : exec (.hostCompletion tag st data) s = execHostCompletion tag st data s := rfl
theorem exec_hostCompletionTimeout (tag : Nat) (s : State) : exec (.hostCompletionTimeout tag) s = execHostCompletionTimeout tag s := rfl
theorem exec_handlerGangClose (die : Nat) (s : State) : exec (.handlerGangClose die) s = execHandlerGangClose die s := rfl
theorem exec_blockResume (b : Nat) (s : State) : exec (.blockResume b) s = execBlockResume b s := rfl
theorem exec_watchdog (b : Nat) (gang : Option Nat) (s : State) : exec (.watchdog b gang) s = execWatchdog b gang s := rfl
theorem exec_cxYreq (asid : Nat) (v : DWord) (s : State) : exec (.cxYreq asid v) s = execCxYreq asid v s := rfl
theorem exec_cxHalt (asid : Nat) (v : DWord) (s : State) : exec (.cxHalt asid v) s = execCxHalt asid v s := rfl
theorem exec_dvGtimeSet (v : DWord) (s : State) : exec (.dvGtimeSet v) s = execDvGtimeSet v s := rfl
theorem exec_ppsPulse (s : State) : exec (.ppsPulse) s = execPpsPulse s := rfl
theorem exec_dvLostClr (v : DWord) (s : State) : exec (.dvLostClr v) s = execDvLostClr v s := rfl
theorem exec_ovfClear (r : RingRef) (s : State) : exec (.ovfClear r) s = execOvfClear r s := rfl
theorem exec_errorCounterClear (r : DvReg) (s : State) : exec (.errorCounterClear r) s = execErrorCounterClear r s := rfl
theorem exec_registerWrite (r : RegTarget) (v : BitVec 256) (s : State) : exec (.registerWrite r v) s = execRegisterWrite r v s := rfl
theorem exec_capWrite (cap : BitVec 2) (s : State) : exec (.capWrite cap) s = execCapWrite cap s := rfl
theorem exec_levelRise (s : State) : exec (.levelRise) s = execLevelRise s := rfl
theorem exec_boot (image : List Byte) (s : State) : exec (.boot image) s = execBoot image s := rfl
theorem exec_firmwarePush (image : List Byte) (s : State) : exec (.firmwarePush image) s = execFirmwarePush image s := rfl
theorem exec_supplyReplan (s : State) : exec (.supplyReplan) s = execSupplyReplan s := rfl
theorem exec_identityRead (off len : Nat) (s : State) : exec (.identityRead off len) s = execIdentityRead off len s := rfl
theorem exec_getVersion (s : State) : exec (.getVersion) s = execGetVersion s := rfl
theorem exec_getCapabilities (s : State) : exec (.getCapabilities) s = execGetCapabilities s := rfl
theorem exec_negotiateAlgorithms (s : State) : exec (.negotiateAlgorithms) s = execNegotiateAlgorithms s := rfl
theorem exec_getDigests (s : State) : exec (.getDigests) s = execGetDigests s := rfl
theorem exec_getCertificate (s : State) : exec (.getCertificate) s = execGetCertificate s := rfl
theorem exec_challenge (nonce : List Byte) (s : State) : exec (.challenge nonce) s = execChallenge nonce s := rfl
theorem exec_getMeasurements (s : State) : exec (.getMeasurements) s = execGetMeasurements s := rfl
theorem exec_evacGo (v : DWord) (s : State) : exec (.evacGo v) s = execEvacGo v s := rfl
theorem exec_evacCopying (s : State) : exec (.evacCopying) s = execEvacCopying s := rfl
theorem exec_evacDraining (s : State) : exec (.evacDraining) s = execEvacDraining s := rfl
theorem exec_evacLatchFree (s : State) : exec (.evacLatchFree) s = execEvacLatchFree s := rfl
theorem exec_evacFailure (cause : BitVec 8) (s : State) : exec (.evacFailure cause) s = execEvacFailure cause s := rfl
theorem exec_emptyEntryWord (w : DWord) (s : State) : exec (.emptyEntryWord w) s = execEmptyEntryWord w s := rfl
theorem exec_mainSupplyLoss (s : State) : exec (.mainSupplyLoss) s = execMainSupplyLoss s := rfl
theorem exec_linkUp (l : LinkRef) (s : State) : exec (.linkUp l) s = execLinkUp l s := rfl
theorem exec_rangeExport (base len t : Nat) (devs : List Nat) (s : State) : exec (.rangeExport base len t devs) s = execRangeExport base len t devs s := rfl
theorem exec_tokenMessageExpiry (m : TokMsg) (s : State) : exec (.tokenMessageExpiry m) s = execTokenMessageExpiry m s := rfl
theorem exec_qwaitDeadline (b : Nat) (s : State) : exec (.qwaitDeadline b) s = execQwaitDeadline b s := rfl
theorem exec_peerSend (dev asid : Nat) (target : Nat) (v : BitVec 6) (p : DWord) (s : State) : exec (.peerSend dev asid target v p) s = execPeerSend dev asid target v p s := rfl
theorem exec_barMemoryAccess (port pa : Nat) (req : BarReq) (s : State) : exec (.barMemoryAccess port pa req) s = execBarMemoryAccess port pa req s := rfl
theorem exec_goDataResponse (port sec : Nat) (st : CxlState) (data : Option Sector) (s : State) : exec (.goDataResponse port sec st data) s = execGoDataResponse port sec st data s := rfl
theorem exec_pressAcknowledgement (agent sec : Nat) (act : Bool) (s : State) : exec (.pressAcknowledgement agent sec act) s = execPressAcknowledgement agent sec act s := rfl
theorem exec_pageWalkEnd (die asid page : Nat) (s : State) : exec (.pageWalkEnd die asid page) s = execPageWalkEnd die asid page s := rfl

end Sys2Proof.Machine
end

