-- ==== Sys2Proof/Laws/Map.lean ====
section
/-! SUPPORT. Laws of maps by number and of byte memories: reading what was written, every other key alone, and the canonical
form kept. None but the last needs the map to be in canonical form. -/

namespace Sys2Proof

variable {α : Type _}

@[simp] theorem mget_nil (k : Nat) : mget ([] : List (Nat × α)) k = none := rfl

theorem mget_cons (i k : Nat) (v : α) (r : List (Nat × α)) : mget ((i, v) :: r) k = if k == i then some v else mget r k := rfl

theorem mget_mset (l : List (Nat × α)) (k k' : Nat) (v : α) : mget (mset l k v) k' = if k' = k then some v else mget l k' := by
  induction l with
  | nil => simp [mset, mget_cons]
  | cons x r ih =>
    obtain ⟨i, w⟩ := x
    simp only [mset, beq_iff_eq]
    split
    · simp [mget_cons]
    · split
      · subst k; by_cases h : k' = i <;> simp [mget_cons, h]
      · simp only [mget_cons, ih]
        by_cases h : k' = i
        · subst h; simp; intro h; omega
        · simp [h]

@[simp] theorem mget_mset_self (l : List (Nat × α)) (k : Nat) (v : α) : mget (mset l k v) k = some v := by simp [mget_mset]

theorem mget_mset_ne (l : List (Nat × α)) {k k' : Nat} (v : α) (h : k' ≠ k) : mget (mset l k v) k' = mget l k' := by
  simp [mget_mset, h]

theorem mget_mdel (l : List (Nat × α)) (k k' : Nat) : mget (mdel l k) k' = if k' = k then none else mget l k' := by
  induction l with
  | nil => simp [mdel]
  | cons x r ih =>
    obtain ⟨i, w⟩ := x
    simp only [mdel, beq_iff_eq]
    split
    · subst k; rw [ih]; by_cases h : k' = i <;> simp [mget_cons, h]
    · rw [mget_cons, mget_cons, ih]
      by_cases h : k' = i
      · subst h; simp; intro h; omega
      · simp [h]

theorem mgetD_mset (l : List (Nat × α)) (k k' : Nat) (v d : α) : mgetD (mset l k v) k' d = if k' = k then v else mgetD l k' d := by
  unfold mgetD; rw [mget_mset]; split <;> rfl

theorem mgetD_msetD [DecidableEq α] (l : List (Nat × α)) (k k' : Nat) (v d : α) :
    mgetD (msetD l k v d) k' d = if k' = k then v else mgetD l k' d := by
  unfold msetD mgetD
  split
  · subst v; rw [mget_mdel]; split <;> rfl
  · rw [mget_mset]; split <;> rfl

/-! ### Canonical form -/

theorem mwf_cons (i : Nat) (v : α) (r : List (Nat × α)) : mwf ((i, v) :: r) = true ↔ (∀ x ∈ r, i < x.1) ∧ mwf r = true := by
  induction r generalizing i v with
  | nil => simp [mwf]
  | cons x r ih =>
    obtain ⟨j, w⟩ := x
    simp only [mwf, Bool.and_eq_true, decide_eq_true_eq, List.mem_cons, forall_eq_or_imp]
    constructor
    · rintro ⟨h, hr⟩
      exact ⟨⟨h, fun y hy => lt_trans h (((ih j w).mp hr).1 y hy)⟩, hr⟩
    · rintro ⟨⟨h, -⟩, hr⟩; exact ⟨h, hr⟩

theorem mem_mset {l : List (Nat × α)} {k : Nat} {v : α} {x : Nat × α} (h : x ∈ mset l k v) : x = (k, v) ∨ x ∈ l := by
  induction l with
  | nil => left; simpa [mset] using h
  | cons y r ih =>
    obtain ⟨i, w⟩ := y
    simp only [mset] at h
    split at h
    · simpa using h
    · split at h
      · rcases List.mem_cons.mp h with h | h
        · exact .inl h
        · exact .inr (List.mem_cons_of_mem _ h)
      · rcases List.mem_cons.mp h with h | h
        · right; simp [h]
        · rcases ih h with h | h
          · exact .inl h
          · exact .inr (List.mem_cons_of_mem _ h)

theorem mem_mdel {l : List (Nat × α)} {k : Nat} {x : Nat × α} (h : x ∈ mdel l k) : x ∈ l := by
  induction l with
  | nil => simp [mdel] at h
  | cons y r ih =>
    obtain ⟨i, w⟩ := y
    simp only [mdel] at h
    split at h
    · exact List.mem_cons_of_mem _ (ih h)
    · rcases List.mem_cons.mp h with h | h
      · simp [h]
      · exact List.mem_cons_of_mem _ (ih h)

theorem mwf_mset {l : List (Nat × α)} {k : Nat} {v : α} (h : mwf l = true) : mwf (mset l k v) = true := by
  induction l with
  | nil => rfl
  | cons y r ih =>
    obtain ⟨i, w⟩ := y
    obtain ⟨h1, h2⟩ := (mwf_cons ..).mp h
    simp only [mset]
    split
    · rename_i hk
      refine (mwf_cons ..).mpr ⟨?_, h⟩
      intro x hx
      rcases List.mem_cons.mp hx with rfl | hx
      · exact hk
      · exact lt_trans hk (h1 x hx)
    · rename_i hk
      split
      · rename_i he; simp at he; subst he; exact (mwf_cons ..).mpr ⟨h1, h2⟩
      · rename_i he; simp at he
        refine (mwf_cons ..).mpr ⟨?_, ih h2⟩
        intro x hx
        rcases mem_mset hx with rfl | hx
        · show i < k; omega
        · exact h1 x hx

theorem mwf_mdel {l : List (Nat × α)} {k : Nat} (h : mwf l = true) : mwf (mdel l k) = true := by
  induction l with
  | nil => rfl
  | cons y r ih =>
    obtain ⟨i, w⟩ := y
    obtain ⟨h1, h2⟩ := (mwf_cons ..).mp h
    simp only [mdel]
    split
    · exact ih h2
    · exact (mwf_cons ..).mpr ⟨fun x hx => h1 x (mem_mdel hx), ih h2⟩

/-! ### Byte memories -/

namespace Memory

@[simp] theorem byte_setByte (m : Memory) (a : Nat) (v : Byte) : (m.setByte a v).byte a = v := by
  simp [byte, setByte, mgetD_msetD]

theorem byte_setByte_ne (m : Memory) {a a' : Nat} (v : Byte) (h : a' ≠ a) : (m.setByte a v).byte a' = m.byte a' := by
  simp [byte, setByte, mgetD_msetD, h]

theorem wf_setByte {m : Memory} (h : m.wf = true) (a : Nat) (v : Byte) : (m.setByte a v).wf = true := by
  simp only [wf, Bool.and_eq_true, List.all_eq_true] at h ⊢
  obtain ⟨h1, h2⟩ := h
  unfold setByte msetD
  split
  · exact ⟨mwf_mdel h1, fun x hx => h2 x (mem_mdel hx)⟩
  · rename_i hv
    refine ⟨mwf_mset h1, fun x hx => ?_⟩
    rcases mem_mset hx with rfl | hx
    · simpa using hv
    · exact h2 x hx

theorem wf_writeN {m : Memory} (h : m.wf = true) (a n v : Nat) : (m.writeN a n v).wf = true := by
  induction n generalizing m a v with
  | zero => exact h
  | succ n ih => exact ih (wf_setByte h _ _) _ _

theorem wf_writeBytes {m : Memory} (h : m.wf = true) (a : Nat) (l : List Byte) : (m.writeBytes a l).wf = true := by
  induction l generalizing m a with
  | nil => exact h
  | cons b r ih => exact ih (wf_setByte h _ _) _

theorem byte_writeN_ne (m : Memory) (a n v a' : Nat) (h : a' < a ∨ a + n ≤ a') : (m.writeN a n v).byte a' = m.byte a' := by
  induction n generalizing m a v with
  | zero => rfl
  | succ n ih =>
    show ((m.setByte a _).writeN (a + 1) n _).byte a' = _
    rw [ih _ _ _ (by omega), byte_setByte_ne _ _ (by omega)]

theorem byte_writeBytes_ne (m : Memory) (a : Nat) (l : List Byte) (a' : Nat) (h : a' < a ∨ a + l.length ≤ a') :
    (m.writeBytes a l).byte a' = m.byte a' := by
  induction l generalizing m a with
  | nil => rfl
  | cons b r ih =>
    simp only [List.length_cons] at h
    show ((m.setByte a b).writeBytes (a + 1) r).byte a' = _
    rw [ih _ _ (by omega), byte_setByte_ne _ _ (by omega)]

theorem byte_writeBytes (m : Memory) (a : Nat) (l : List Byte) (k : Nat) (h : k < l.length) :
    (m.writeBytes a l).byte (a + k) = l[k] := by
  induction l generalizing m a k with
  | nil => simp at h
  | cons b r ih =>
    show ((m.setByte a b).writeBytes (a + 1) r).byte (a + k) = _
    cases k with
    | zero => simp only [Nat.add_zero, List.getElem_cons_zero]; rw [byte_writeBytes_ne _ _ _ _ (by omega), byte_setByte]
    | succ k => rw [show a + (k + 1) = a + 1 + k by omega, ih _ _ _ (by simpa using h)]; rfl

theorem readN_congr (m m' : Memory) (a n : Nat) (h : ∀ k, k < n → m.byte (a + k) = m'.byte (a + k)) : m.readN a n = m'.readN a n := by
  induction n generalizing a with
  | zero => rfl
  | succ n ih =>
    simp only [readN]
    rw [show m.byte a = m'.byte a by simpa using h 0 (by omega), ih (a + 1) (fun k hk => by
      rw [show a + 1 + k = a + (k + 1) by omega]; exact h (k + 1) (by omega))]

/-- Reading the bytes of a number that was written gives the number, within its width. -/
theorem readN_writeN (m : Memory) (a n v : Nat) : (m.writeN a n v).readN a n = v % 256 ^ n := by
  induction n generalizing m a v with
  | zero => simp [readN, Nat.mod_one]
  | succ n ih =>
    simp only [readN]
    have h0 : (m.writeN a (n + 1) v).byte a = BitVec.ofNat 8 (v % 256) := by
      show ((m.setByte a _).writeN (a + 1) n _).byte a = _
      rw [byte_writeN_ne _ _ _ _ _ (by omega), byte_setByte]
    rw [h0]
    show (BitVec.ofNat 8 (v % 256)).toNat + 256 * ((m.setByte a _).writeN (a + 1) n (v / 256)).readN (a + 1) n = _
    have h : v % 256 ^ (n + 1) = v % 256 + 256 * (v / 256 % 256 ^ n) := by rw [pow_succ', Nat.mod_mul]
    rw [ih, BitVec.toNat_ofNat, h]
    omega

end Memory

end Sys2Proof
end

