-- ==== Sys2Proof/Laws/State.lean ====
section
/-! SUPPORT. One equation per field and named update of the state, all true by `rfl`, so that no proof unfolds a record update. -/

namespace Sys2Proof.Machine

@[simp] theorem State.modBlk_cur (s : State) (b : Nat) (f : Block → Block) : (s.modBlk b f).cur = s.cur := rfl
@[simp] theorem State.modBlk_curWord (s : State) (b : Nat) (f : Block → Block) : (s.modBlk b f).curWord = s.curWord := rfl
@[simp] theorem State.modBlk_now (s : State) (b : Nat) (f : Block → Block) : (s.modBlk b f).now = s.now := rfl
@[simp] theorem State.modBlk_gtime (s : State) (b : Nat) (f : Block → Block) : (s.modBlk b f).gtime = s.gtime := rfl
@[simp] theorem State.modBlk_mem (s : State) (b : Nat) (f : Block → Block) : (s.modBlk b f).mem = s.mem := rfl
@[simp] theorem State.modBlk_vault (s : State) (b : Nat) (f : Block → Block) : (s.modBlk b f).vault = s.vault := rfl
@[simp] theorem State.modBlk_cores (s : State) (b : Nat) (f : Block → Block) : (s.modBlk b f).cores = s.cores := rfl
@[simp] theorem State.modBlk_dies (s : State) (b : Nat) (f : Block → Block) : (s.modBlk b f).dies = s.dies := rfl
@[simp] theorem State.modBlk_homes (s : State) (b : Nat) (f : Block → Block) : (s.modBlk b f).homes = s.homes := rfl
@[simp] theorem State.modBlk_cx (s : State) (b : Nat) (f : Block → Block) : (s.modBlk b f).cx = s.cx := rfl
@[simp] theorem State.modBlk_bound (s : State) (b : Nat) (f : Block → Block) : (s.modBlk b f).bound = s.bound := rfl
@[simp] theorem State.modBlk_work (s : State) (b : Nat) (f : Block → Block) : (s.modBlk b f).work = s.work := rfl
@[simp] theorem State.modBlk_timers (s : State) (b : Nat) (f : Block → Block) : (s.modBlk b f).timers = s.timers := rfl
@[simp] theorem State.modBlk_outs (s : State) (b : Nat) (f : Block → Block) : (s.modBlk b f).outs = s.outs := rfl
@[simp] theorem State.modBlk_fresh (s : State) (b : Nat) (f : Block → Block) : (s.modBlk b f).fresh = s.fresh := rfl
@[simp] theorem State.modBlk_nextId (s : State) (b : Nat) (f : Block → Block) : (s.modBlk b f).nextId = s.nextId := rfl
@[simp] theorem State.modBlk_launches (s : State) (b : Nat) (f : Block → Block) : (s.modBlk b f).launches = s.launches := rfl
@[simp] theorem State.modBlk_saved (s : State) (b : Nat) (f : Block → Block) : (s.modBlk b f).saved = s.saved := rfl
@[simp] theorem State.modBlk_armed (s : State) (b : Nat) (f : Block → Block) : (s.modBlk b f).armed = s.armed := rfl
@[simp] theorem State.modBlk_plan (s : State) (b : Nat) (f : Block → Block) : (s.modBlk b f).plan = s.plan := rfl
@[simp] theorem State.modBlk_net (s : State) (b : Nat) (f : Block → Block) : (s.modBlk b f).net = s.net := rfl
@[simp] theorem State.modBlk_net7 (s : State) (b : Nat) (f : Block → Block) : (s.modBlk b f).net7 = s.net7 := rfl
@[simp] theorem State.modBlk_fabReqs (s : State) (b : Nat) (f : Block → Block) : (s.modBlk b f).fabReqs = s.fabReqs := rfl
@[simp] theorem State.modBlk_hostReqs (s : State) (b : Nat) (f : Block → Block) : (s.modBlk b f).hostReqs = s.hostReqs := rfl
@[simp] theorem State.modBlk_sendCtx (s : State) (b : Nat) (f : Block → Block) : (s.modBlk b f).sendCtx = s.sendCtx := rfl
@[simp] theorem State.modBlk_cxlPorts (s : State) (b : Nat) (f : Block → Block) : (s.modBlk b f).cxlPorts = s.cxlPorts := rfl
@[simp] theorem State.modBlk_bars (s : State) (b : Nat) (f : Block → Block) : (s.modBlk b f).bars = s.bars := rfl
@[simp] theorem State.modBlk_hdm (s : State) (b : Nat) (f : Block → Block) : (s.modBlk b f).hdm = s.hdm := rfl
@[simp] theorem State.modBlk_upsets (s : State) (b : Nat) (f : Block → Block) : (s.modBlk b f).upsets = s.upsets := rfl
@[simp] theorem State.modBlk_pressQueue (s : State) (b : Nat) (f : Block → Block) : (s.modBlk b f).pressQueue = s.pressQueue := rfl

@[simp] theorem State.modCore_cur (s : State) (c : Nat) (f : Core → Core) : (s.modCore c f).cur = s.cur := rfl
@[simp] theorem State.modCore_curWord (s : State) (c : Nat) (f : Core → Core) : (s.modCore c f).curWord = s.curWord := rfl
@[simp] theorem State.modCore_now (s : State) (c : Nat) (f : Core → Core) : (s.modCore c f).now = s.now := rfl
@[simp] theorem State.modCore_gtime (s : State) (c : Nat) (f : Core → Core) : (s.modCore c f).gtime = s.gtime := rfl
@[simp] theorem State.modCore_mem (s : State) (c : Nat) (f : Core → Core) : (s.modCore c f).mem = s.mem := rfl
@[simp] theorem State.modCore_vault (s : State) (c : Nat) (f : Core → Core) : (s.modCore c f).vault = s.vault := rfl
@[simp] theorem State.modCore_blocks (s : State) (c : Nat) (f : Core → Core) : (s.modCore c f).blocks = s.blocks := rfl
@[simp] theorem State.modCore_dies (s : State) (c : Nat) (f : Core → Core) : (s.modCore c f).dies = s.dies := rfl
@[simp] theorem State.modCore_homes (s : State) (c : Nat) (f : Core → Core) : (s.modCore c f).homes = s.homes := rfl
@[simp] theorem State.modCore_cx (s : State) (c : Nat) (f : Core → Core) : (s.modCore c f).cx = s.cx := rfl
@[simp] theorem State.modCore_bound (s : State) (c : Nat) (f : Core → Core) : (s.modCore c f).bound = s.bound := rfl
@[simp] theorem State.modCore_work (s : State) (c : Nat) (f : Core → Core) : (s.modCore c f).work = s.work := rfl
@[simp] theorem State.modCore_timers (s : State) (c : Nat) (f : Core → Core) : (s.modCore c f).timers = s.timers := rfl
@[simp] theorem State.modCore_outs (s : State) (c : Nat) (f : Core → Core) : (s.modCore c f).outs = s.outs := rfl
@[simp] theorem State.modCore_fresh (s : State) (c : Nat) (f : Core → Core) : (s.modCore c f).fresh = s.fresh := rfl
@[simp] theorem State.modCore_nextId (s : State) (c : Nat) (f : Core → Core) : (s.modCore c f).nextId = s.nextId := rfl
@[simp] theorem State.modCore_launches (s : State) (c : Nat) (f : Core → Core) : (s.modCore c f).launches = s.launches := rfl
@[simp] theorem State.modCore_saved (s : State) (c : Nat) (f : Core → Core) : (s.modCore c f).saved = s.saved := rfl
@[simp] theorem State.modCore_armed (s : State) (c : Nat) (f : Core → Core) : (s.modCore c f).armed = s.armed := rfl
@[simp] theorem State.modCore_plan (s : State) (c : Nat) (f : Core → Core) : (s.modCore c f).plan = s.plan := rfl
@[simp] theorem State.modCore_net (s : State) (c : Nat) (f : Core → Core) : (s.modCore c f).net = s.net := rfl
@[simp] theorem State.modCore_net7 (s : State) (c : Nat) (f : Core → Core) : (s.modCore c f).net7 = s.net7 := rfl
@[simp] theorem State.modCore_fabReqs (s : State) (c : Nat) (f : Core → Core) : (s.modCore c f).fabReqs = s.fabReqs := rfl
@[simp] theorem State.modCore_hostReqs (s : State) (c : Nat) (f : Core → Core) : (s.modCore c f).hostReqs = s.hostReqs := rfl
@[simp] theorem State.modCore_sendCtx (s : State) (c : Nat) (f : Core → Core) : (s.modCore c f).sendCtx = s.sendCtx := rfl
@[simp] theorem State.modCore_cxlPorts (s : State) (c : Nat) (f : Core → Core) : (s.modCore c f).cxlPorts = s.cxlPorts := rfl
@[simp] theorem State.modCore_bars (s : State) (c : Nat) (f : Core → Core) : (s.modCore c f).bars = s.bars := rfl
@[simp] theorem State.modCore_hdm (s : State) (c : Nat) (f : Core → Core) : (s.modCore c f).hdm = s.hdm := rfl
@[simp] theorem State.modCore_upsets (s : State) (c : Nat) (f : Core → Core) : (s.modCore c f).upsets = s.upsets := rfl
@[simp] theorem State.modCore_pressQueue (s : State) (c : Nat) (f : Core → Core) : (s.modCore c f).pressQueue = s.pressQueue := rfl

@[simp] theorem State.modDie_cur (s : State) (d : Nat) (f : Die → Die) : (s.modDie d f).cur = s.cur := rfl
@[simp] theorem State.modDie_curWord (s : State) (d : Nat) (f : Die → Die) : (s.modDie d f).curWord = s.curWord := rfl
@[simp] theorem State.modDie_now (s : State) (d : Nat) (f : Die → Die) : (s.modDie d f).now = s.now := rfl
@[simp] theorem State.modDie_gtime (s : State) (d : Nat) (f : Die → Die) : (s.modDie d f).gtime = s.gtime := rfl
@[simp] theorem State.modDie_mem (s : State) (d : Nat) (f : Die → Die) : (s.modDie d f).mem = s.mem := rfl
@[simp] theorem State.modDie_vault (s : State) (d : Nat) (f : Die → Die) : (s.modDie d f).vault = s.vault := rfl
@[simp] theorem State.modDie_blocks (s : State) (d : Nat) (f : Die → Die) : (s.modDie d f).blocks = s.blocks := rfl
@[simp] theorem State.modDie_cores (s : State) (d : Nat) (f : Die → Die) : (s.modDie d f).cores = s.cores := rfl
@[simp] theorem State.modDie_homes (s : State) (d : Nat) (f : Die → Die) : (s.modDie d f).homes = s.homes := rfl
@[simp] theorem State.modDie_cx (s : State) (d : Nat) (f : Die → Die) : (s.modDie d f).cx = s.cx := rfl
@[simp] theorem State.modDie_bound (s : State) (d : Nat) (f : Die → Die) : (s.modDie d f).bound = s.bound := rfl
@[simp] theorem State.modDie_work (s : State) (d : Nat) (f : Die → Die) : (s.modDie d f).work = s.work := rfl
@[simp] theorem State.modDie_timers (s : State) (d : Nat) (f : Die → Die) : (s.modDie d f).timers = s.timers := rfl
@[simp] theorem State.modDie_outs (s : State) (d : Nat) (f : Die → Die) : (s.modDie d f).outs = s.outs := rfl
@[simp] theorem State.modDie_fresh (s : State) (d : Nat) (f : Die → Die) : (s.modDie d f).fresh = s.fresh := rfl
@[simp] theorem State.modDie_nextId (s : State) (d : Nat) (f : Die → Die) : (s.modDie d f).nextId = s.nextId := rfl
@[simp] theorem State.modDie_launches (s : State) (d : Nat) (f : Die → Die) : (s.modDie d f).launches = s.launches := rfl
@[simp] theorem State.modDie_saved (s : State) (d : Nat) (f : Die → Die) : (s.modDie d f).saved = s.saved := rfl
@[simp] theorem State.modDie_armed (s : State) (d : Nat) (f : Die → Die) : (s.modDie d f).armed = s.armed := rfl
@[simp] theorem State.modDie_plan (s : State) (d : Nat) (f : Die → Die) : (s.modDie d f).plan = s.plan := rfl
@[simp] theorem State.modDie_net (s : State) (d : Nat) (f : Die → Die) : (s.modDie d f).net = s.net := rfl
@[simp] theorem State.modDie_net7 (s : State) (d : Nat) (f : Die → Die) : (s.modDie d f).net7 = s.net7 := rfl
@[simp] theorem State.modDie_fabReqs (s : State) (d : Nat) (f : Die → Die) : (s.modDie d f).fabReqs = s.fabReqs := rfl
@[simp] theorem State.modDie_hostReqs (s : State) (d : Nat) (f : Die → Die) : (s.modDie d f).hostReqs = s.hostReqs := rfl
@[simp] theorem State.modDie_sendCtx (s : State) (d : Nat) (f : Die → Die) : (s.modDie d f).sendCtx = s.sendCtx := rfl
@[simp] theorem State.modDie_cxlPorts (s : State) (d : Nat) (f : Die → Die) : (s.modDie d f).cxlPorts = s.cxlPorts := rfl
@[simp] theorem State.modDie_bars (s : State) (d : Nat) (f : Die → Die) : (s.modDie d f).bars = s.bars := rfl
@[simp] theorem State.modDie_hdm (s : State) (d : Nat) (f : Die → Die) : (s.modDie d f).hdm = s.hdm := rfl
@[simp] theorem State.modDie_upsets (s : State) (d : Nat) (f : Die → Die) : (s.modDie d f).upsets = s.upsets := rfl
@[simp] theorem State.modDie_pressQueue (s : State) (d : Nat) (f : Die → Die) : (s.modDie d f).pressQueue = s.pressQueue := rfl

@[simp] theorem State.modHome_cur (s : State) (k : Nat) (f : HomeSector → HomeSector) : (s.modHome k f).cur = s.cur := rfl
@[simp] theorem State.modHome_curWord (s : State) (k : Nat) (f : HomeSector → HomeSector) : (s.modHome k f).curWord = s.curWord := rfl
@[simp] theorem State.modHome_now (s : State) (k : Nat) (f : HomeSector → HomeSector) : (s.modHome k f).now = s.now := rfl
@[simp] theorem State.modHome_gtime (s : State) (k : Nat) (f : HomeSector → HomeSector) : (s.modHome k f).gtime = s.gtime := rfl
@[simp] theorem State.modHome_mem (s : State) (k : Nat) (f : HomeSector → HomeSector) : (s.modHome k f).mem = s.mem := rfl
@[simp] theorem State.modHome_vault (s : State) (k : Nat) (f : HomeSector → HomeSector) : (s.modHome k f).vault = s.vault := rfl
@[simp] theorem State.modHome_blocks (s : State) (k : Nat) (f : HomeSector → HomeSector) : (s.modHome k f).blocks = s.blocks := rfl
@[simp] theorem State.modHome_cores (s : State) (k : Nat) (f : HomeSector → HomeSector) : (s.modHome k f).cores = s.cores := rfl
@[simp] theorem State.modHome_dies (s : State) (k : Nat) (f : HomeSector → HomeSector) : (s.modHome k f).dies = s.dies := rfl
@[simp] theorem State.modHome_cx (s : State) (k : Nat) (f : HomeSector → HomeSector) : (s.modHome k f).cx = s.cx := rfl
@[simp] theorem State.modHome_bound (s : State) (k : Nat) (f : HomeSector → HomeSector) : (s.modHome k f).bound = s.bound := rfl
@[simp] theorem State.modHome_work (s : State) (k : Nat) (f : HomeSector → HomeSector) : (s.modHome k f).work = s.work := rfl
@[simp] theorem State.modHome_timers (s : State) (k : Nat) (f : HomeSector → HomeSector) : (s.modHome k f).timers = s.timers := rfl
@[simp] theorem State.modHome_outs (s : State) (k : Nat) (f : HomeSector → HomeSector) : (s.modHome k f).outs = s.outs := rfl
@[simp] theorem State.modHome_fresh (s : State) (k : Nat) (f : HomeSector → HomeSector) : (s.modHome k f).fresh = s.fresh := rfl
@[simp] theorem State.modHome_nextId (s : State) (k : Nat) (f : HomeSector → HomeSector) : (s.modHome k f).nextId = s.nextId := rfl
@[simp] theorem State.modHome_launches (s : State) (k : Nat) (f : HomeSector → HomeSector) : (s.modHome k f).launches = s.launches := rfl
@[simp] theorem State.modHome_saved (s : State) (k : Nat) (f : HomeSector → HomeSector) : (s.modHome k f).saved = s.saved := rfl
@[simp] theorem State.modHome_armed (s : State) (k : Nat) (f : HomeSector → HomeSector) : (s.modHome k f).armed = s.armed := rfl
@[simp] theorem State.modHome_plan (s : State) (k : Nat) (f : HomeSector → HomeSector) : (s.modHome k f).plan = s.plan := rfl
@[simp] theorem State.modHome_net (s : State) (k : Nat) (f : HomeSector → HomeSector) : (s.modHome k f).net = s.net := rfl
@[simp] theorem State.modHome_net7 (s : State) (k : Nat) (f : HomeSector → HomeSector) : (s.modHome k f).net7 = s.net7 := rfl
@[simp] theorem State.modHome_fabReqs (s : State) (k : Nat) (f : HomeSector → HomeSector) : (s.modHome k f).fabReqs = s.fabReqs := rfl
@[simp] theorem State.modHome_hostReqs (s : State) (k : Nat) (f : HomeSector → HomeSector) : (s.modHome k f).hostReqs = s.hostReqs := rfl
@[simp] theorem State.modHome_sendCtx (s : State) (k : Nat) (f : HomeSector → HomeSector) : (s.modHome k f).sendCtx = s.sendCtx := rfl
@[simp] theorem State.modHome_cxlPorts (s : State) (k : Nat) (f : HomeSector → HomeSector) : (s.modHome k f).cxlPorts = s.cxlPorts := rfl
@[simp] theorem State.modHome_bars (s : State) (k : Nat) (f : HomeSector → HomeSector) : (s.modHome k f).bars = s.bars := rfl
@[simp] theorem State.modHome_hdm (s : State) (k : Nat) (f : HomeSector → HomeSector) : (s.modHome k f).hdm = s.hdm := rfl
@[simp] theorem State.modHome_upsets (s : State) (k : Nat) (f : HomeSector → HomeSector) : (s.modHome k f).upsets = s.upsets := rfl
@[simp] theorem State.modHome_pressQueue (s : State) (k : Nat) (f : HomeSector → HomeSector) : (s.modHome k f).pressQueue = s.pressQueue := rfl

@[simp] theorem State.setCx_cur (s : State) (a i : Nat) (v : DWord) : (s.setCx a i v).cur = s.cur := rfl
@[simp] theorem State.setCx_curWord (s : State) (a i : Nat) (v : DWord) : (s.setCx a i v).curWord = s.curWord := rfl
@[simp] theorem State.setCx_now (s : State) (a i : Nat) (v : DWord) : (s.setCx a i v).now = s.now := rfl
@[simp] theorem State.setCx_gtime (s : State) (a i : Nat) (v : DWord) : (s.setCx a i v).gtime = s.gtime := rfl
@[simp] theorem State.setCx_mem (s : State) (a i : Nat) (v : DWord) : (s.setCx a i v).mem = s.mem := rfl
@[simp] theorem State.setCx_vault (s : State) (a i : Nat) (v : DWord) : (s.setCx a i v).vault = s.vault := rfl
@[simp] theorem State.setCx_blocks (s : State) (a i : Nat) (v : DWord) : (s.setCx a i v).blocks = s.blocks := rfl
@[simp] theorem State.setCx_cores (s : State) (a i : Nat) (v : DWord) : (s.setCx a i v).cores = s.cores := rfl
@[simp] theorem State.setCx_dies (s : State) (a i : Nat) (v : DWord) : (s.setCx a i v).dies = s.dies := rfl
@[simp] theorem State.setCx_homes (s : State) (a i : Nat) (v : DWord) : (s.setCx a i v).homes = s.homes := rfl
@[simp] theorem State.setCx_bound (s : State) (a i : Nat) (v : DWord) : (s.setCx a i v).bound = s.bound := rfl
@[simp] theorem State.setCx_work (s : State) (a i : Nat) (v : DWord) : (s.setCx a i v).work = s.work := rfl
@[simp] theorem State.setCx_timers (s : State) (a i : Nat) (v : DWord) : (s.setCx a i v).timers = s.timers := rfl
@[simp] theorem State.setCx_outs (s : State) (a i : Nat) (v : DWord) : (s.setCx a i v).outs = s.outs := rfl
@[simp] theorem State.setCx_fresh (s : State) (a i : Nat) (v : DWord) : (s.setCx a i v).fresh = s.fresh := rfl
@[simp] theorem State.setCx_nextId (s : State) (a i : Nat) (v : DWord) : (s.setCx a i v).nextId = s.nextId := rfl
@[simp] theorem State.setCx_launches (s : State) (a i : Nat) (v : DWord) : (s.setCx a i v).launches = s.launches := rfl
@[simp] theorem State.setCx_saved (s : State) (a i : Nat) (v : DWord) : (s.setCx a i v).saved = s.saved := rfl
@[simp] theorem State.setCx_armed (s : State) (a i : Nat) (v : DWord) : (s.setCx a i v).armed = s.armed := rfl
@[simp] theorem State.setCx_plan (s : State) (a i : Nat) (v : DWord) : (s.setCx a i v).plan = s.plan := rfl
@[simp] theorem State.setCx_net (s : State) (a i : Nat) (v : DWord) : (s.setCx a i v).net = s.net := rfl
@[simp] theorem State.setCx_net7 (s : State) (a i : Nat) (v : DWord) : (s.setCx a i v).net7 = s.net7 := rfl
@[simp] theorem State.setCx_fabReqs (s : State) (a i : Nat) (v : DWord) : (s.setCx a i v).fabReqs = s.fabReqs := rfl
@[simp] theorem State.setCx_hostReqs (s : State) (a i : Nat) (v : DWord) : (s.setCx a i v).hostReqs = s.hostReqs := rfl
@[simp] theorem State.setCx_sendCtx (s : State) (a i : Nat) (v : DWord) : (s.setCx a i v).sendCtx = s.sendCtx := rfl
@[simp] theorem State.setCx_cxlPorts (s : State) (a i : Nat) (v : DWord) : (s.setCx a i v).cxlPorts = s.cxlPorts := rfl
@[simp] theorem State.setCx_bars (s : State) (a i : Nat) (v : DWord) : (s.setCx a i v).bars = s.bars := rfl
@[simp] theorem State.setCx_hdm (s : State) (a i : Nat) (v : DWord) : (s.setCx a i v).hdm = s.hdm := rfl
@[simp] theorem State.setCx_upsets (s : State) (a i : Nat) (v : DWord) : (s.setCx a i v).upsets = s.upsets := rfl
@[simp] theorem State.setCx_pressQueue (s : State) (a i : Nat) (v : DWord) : (s.setCx a i v).pressQueue = s.pressQueue := rfl

@[simp] theorem State.push_cur (s : State) (l : List Event) : (s.push l).cur = s.cur := rfl
@[simp] theorem State.push_curWord (s : State) (l : List Event) : (s.push l).curWord = s.curWord := rfl
@[simp] theorem State.push_now (s : State) (l : List Event) : (s.push l).now = s.now := rfl
@[simp] theorem State.push_gtime (s : State) (l : List Event) : (s.push l).gtime = s.gtime := rfl
@[simp] theorem State.push_mem (s : State) (l : List Event) : (s.push l).mem = s.mem := rfl
@[simp] theorem State.push_vault (s : State) (l : List Event) : (s.push l).vault = s.vault := rfl
@[simp] theorem State.push_blocks (s : State) (l : List Event) : (s.push l).blocks = s.blocks := rfl
@[simp] theorem State.push_cores (s : State) (l : List Event) : (s.push l).cores = s.cores := rfl
@[simp] theorem State.push_dies (s : State) (l : List Event) : (s.push l).dies = s.dies := rfl
@[simp] theorem State.push_homes (s : State) (l : List Event) : (s.push l).homes = s.homes := rfl
@[simp] theorem State.push_cx (s : State) (l : List Event) : (s.push l).cx = s.cx := rfl
@[simp] theorem State.push_bound (s : State) (l : List Event) : (s.push l).bound = s.bound := rfl
@[simp] theorem State.push_timers (s : State) (l : List Event) : (s.push l).timers = s.timers := rfl
@[simp] theorem State.push_outs (s : State) (l : List Event) : (s.push l).outs = s.outs := rfl
@[simp] theorem State.push_fresh (s : State) (l : List Event) : (s.push l).fresh = s.fresh := rfl
@[simp] theorem State.push_nextId (s : State) (l : List Event) : (s.push l).nextId = s.nextId := rfl
@[simp] theorem State.push_launches (s : State) (l : List Event) : (s.push l).launches = s.launches := rfl
@[simp] theorem State.push_saved (s : State) (l : List Event) : (s.push l).saved = s.saved := rfl
@[simp] theorem State.push_armed (s : State) (l : List Event) : (s.push l).armed = s.armed := rfl
@[simp] theorem State.push_plan (s : State) (l : List Event) : (s.push l).plan = s.plan := rfl
@[simp] theorem State.push_net (s : State) (l : List Event) : (s.push l).net = s.net := rfl
@[simp] theorem State.push_net7 (s : State) (l : List Event) : (s.push l).net7 = s.net7 := rfl
@[simp] theorem State.push_fabReqs (s : State) (l : List Event) : (s.push l).fabReqs = s.fabReqs := rfl
@[simp] theorem State.push_hostReqs (s : State) (l : List Event) : (s.push l).hostReqs = s.hostReqs := rfl
@[simp] theorem State.push_sendCtx (s : State) (l : List Event) : (s.push l).sendCtx = s.sendCtx := rfl
@[simp] theorem State.push_cxlPorts (s : State) (l : List Event) : (s.push l).cxlPorts = s.cxlPorts := rfl
@[simp] theorem State.push_bars (s : State) (l : List Event) : (s.push l).bars = s.bars := rfl
@[simp] theorem State.push_hdm (s : State) (l : List Event) : (s.push l).hdm = s.hdm := rfl
@[simp] theorem State.push_upsets (s : State) (l : List Event) : (s.push l).upsets = s.upsets := rfl
@[simp] theorem State.push_pressQueue (s : State) (l : List Event) : (s.push l).pressQueue = s.pressQueue := rfl

@[simp] theorem State.timer_cur (s : State) (t : Nat) (i : Event) : (s.timer t i).cur = s.cur := rfl
@[simp] theorem State.timer_curWord (s : State) (t : Nat) (i : Event) : (s.timer t i).curWord = s.curWord := rfl
@[simp] theorem State.timer_now (s : State) (t : Nat) (i : Event) : (s.timer t i).now = s.now := rfl
@[simp] theorem State.timer_gtime (s : State) (t : Nat) (i : Event) : (s.timer t i).gtime = s.gtime := rfl
@[simp] theorem State.timer_mem (s : State) (t : Nat) (i : Event) : (s.timer t i).mem = s.mem := rfl
@[simp] theorem State.timer_vault (s : State) (t : Nat) (i : Event) : (s.timer t i).vault = s.vault := rfl
@[simp] theorem State.timer_blocks (s : State) (t : Nat) (i : Event) : (s.timer t i).blocks = s.blocks := rfl
@[simp] theorem State.timer_cores (s : State) (t : Nat) (i : Event) : (s.timer t i).cores = s.cores := rfl
@[simp] theorem State.timer_dies (s : State) (t : Nat) (i : Event) : (s.timer t i).dies = s.dies := rfl
@[simp] theorem State.timer_homes (s : State) (t : Nat) (i : Event) : (s.timer t i).homes = s.homes := rfl
@[simp] theorem State.timer_cx (s : State) (t : Nat) (i : Event) : (s.timer t i).cx = s.cx := rfl
@[simp] theorem State.timer_bound (s : State) (t : Nat) (i : Event) : (s.timer t i).bound = s.bound := rfl
@[simp] theorem State.timer_work (s : State) (t : Nat) (i : Event) : (s.timer t i).work = s.work := rfl
@[simp] theorem State.timer_outs (s : State) (t : Nat) (i : Event) : (s.timer t i).outs = s.outs := rfl
@[simp] theorem State.timer_fresh (s : State) (t : Nat) (i : Event) : (s.timer t i).fresh = s.fresh := rfl
@[simp] theorem State.timer_nextId (s : State) (t : Nat) (i : Event) : (s.timer t i).nextId = s.nextId := rfl
@[simp] theorem State.timer_launches (s : State) (t : Nat) (i : Event) : (s.timer t i).launches = s.launches := rfl
@[simp] theorem State.timer_saved (s : State) (t : Nat) (i : Event) : (s.timer t i).saved = s.saved := rfl
@[simp] theorem State.timer_armed (s : State) (t : Nat) (i : Event) : (s.timer t i).armed = s.armed := rfl
@[simp] theorem State.timer_plan (s : State) (t : Nat) (i : Event) : (s.timer t i).plan = s.plan := rfl
@[simp] theorem State.timer_net (s : State) (t : Nat) (i : Event) : (s.timer t i).net = s.net := rfl
@[simp] theorem State.timer_net7 (s : State) (t : Nat) (i : Event) : (s.timer t i).net7 = s.net7 := rfl
@[simp] theorem State.timer_fabReqs (s : State) (t : Nat) (i : Event) : (s.timer t i).fabReqs = s.fabReqs := rfl
@[simp] theorem State.timer_hostReqs (s : State) (t : Nat) (i : Event) : (s.timer t i).hostReqs = s.hostReqs := rfl
@[simp] theorem State.timer_sendCtx (s : State) (t : Nat) (i : Event) : (s.timer t i).sendCtx = s.sendCtx := rfl
@[simp] theorem State.timer_cxlPorts (s : State) (t : Nat) (i : Event) : (s.timer t i).cxlPorts = s.cxlPorts := rfl
@[simp] theorem State.timer_bars (s : State) (t : Nat) (i : Event) : (s.timer t i).bars = s.bars := rfl
@[simp] theorem State.timer_hdm (s : State) (t : Nat) (i : Event) : (s.timer t i).hdm = s.hdm := rfl
@[simp] theorem State.timer_upsets (s : State) (t : Nat) (i : Event) : (s.timer t i).upsets = s.upsets := rfl
@[simp] theorem State.timer_pressQueue (s : State) (t : Nat) (i : Event) : (s.timer t i).pressQueue = s.pressQueue := rfl

@[simp] theorem State.send_cur (s : State) (m : OutMsg) : (s.send m).cur = s.cur := rfl
@[simp] theorem State.send_curWord (s : State) (m : OutMsg) : (s.send m).curWord = s.curWord := rfl
@[simp] theorem State.send_now (s : State) (m : OutMsg) : (s.send m).now = s.now := rfl
@[simp] theorem State.send_gtime (s : State) (m : OutMsg) : (s.send m).gtime = s.gtime := rfl
@[simp] theorem State.send_mem (s : State) (m : OutMsg) : (s.send m).mem = s.mem := rfl
@[simp] theorem State.send_vault (s : State) (m : OutMsg) : (s.send m).vault = s.vault := rfl
@[simp] theorem State.send_blocks (s : State) (m : OutMsg) : (s.send m).blocks = s.blocks := rfl
@[simp] theorem State.send_cores (s : State) (m : OutMsg) : (s.send m).cores = s.cores := rfl
@[simp] theorem State.send_dies (s : State) (m : OutMsg) : (s.send m).dies = s.dies := rfl
@[simp] theorem State.send_homes (s : State) (m : OutMsg) : (s.send m).homes = s.homes := rfl
@[simp] theorem State.send_cx (s : State) (m : OutMsg) : (s.send m).cx = s.cx := rfl
@[simp] theorem State.send_bound (s : State) (m : OutMsg) : (s.send m).bound = s.bound := rfl
@[simp] theorem State.send_work (s : State) (m : OutMsg) : (s.send m).work = s.work := rfl
@[simp] theorem State.send_timers (s : State) (m : OutMsg) : (s.send m).timers = s.timers := rfl
@[simp] theorem State.send_fresh (s : State) (m : OutMsg) : (s.send m).fresh = s.fresh := rfl
@[simp] theorem State.send_nextId (s : State) (m : OutMsg) : (s.send m).nextId = s.nextId := rfl
@[simp] theorem State.send_launches (s : State) (m : OutMsg) : (s.send m).launches = s.launches := rfl
@[simp] theorem State.send_saved (s : State) (m : OutMsg) : (s.send m).saved = s.saved := rfl
@[simp] theorem State.send_armed (s : State) (m : OutMsg) : (s.send m).armed = s.armed := rfl
@[simp] theorem State.send_plan (s : State) (m : OutMsg) : (s.send m).plan = s.plan := rfl
@[simp] theorem State.send_net (s : State) (m : OutMsg) : (s.send m).net = s.net := rfl
@[simp] theorem State.send_net7 (s : State) (m : OutMsg) : (s.send m).net7 = s.net7 := rfl
@[simp] theorem State.send_fabReqs (s : State) (m : OutMsg) : (s.send m).fabReqs = s.fabReqs := rfl
@[simp] theorem State.send_hostReqs (s : State) (m : OutMsg) : (s.send m).hostReqs = s.hostReqs := rfl
@[simp] theorem State.send_sendCtx (s : State) (m : OutMsg) : (s.send m).sendCtx = s.sendCtx := rfl
@[simp] theorem State.send_cxlPorts (s : State) (m : OutMsg) : (s.send m).cxlPorts = s.cxlPorts := rfl
@[simp] theorem State.send_bars (s : State) (m : OutMsg) : (s.send m).bars = s.bars := rfl
@[simp] theorem State.send_hdm (s : State) (m : OutMsg) : (s.send m).hdm = s.hdm := rfl
@[simp] theorem State.send_upsets (s : State) (m : OutMsg) : (s.send m).upsets = s.upsets := rfl
@[simp] theorem State.send_pressQueue (s : State) (m : OutMsg) : (s.send m).pressQueue = s.pressQueue := rfl

@[simp] theorem State.vlWr_cur (s : State) (d a n v : Nat) : (s.vlWr d a n v).cur = s.cur := rfl
@[simp] theorem State.vlWr_curWord (s : State) (d a n v : Nat) : (s.vlWr d a n v).curWord = s.curWord := rfl
@[simp] theorem State.vlWr_now (s : State) (d a n v : Nat) : (s.vlWr d a n v).now = s.now := rfl
@[simp] theorem State.vlWr_gtime (s : State) (d a n v : Nat) : (s.vlWr d a n v).gtime = s.gtime := rfl
@[simp] theorem State.vlWr_mem (s : State) (d a n v : Nat) : (s.vlWr d a n v).mem = s.mem := rfl
@[simp] theorem State.vlWr_blocks (s : State) (d a n v : Nat) : (s.vlWr d a n v).blocks = s.blocks := rfl
@[simp] theorem State.vlWr_cores (s : State) (d a n v : Nat) : (s.vlWr d a n v).cores = s.cores := rfl
@[simp] theorem State.vlWr_dies (s : State) (d a n v : Nat) : (s.vlWr d a n v).dies = s.dies := rfl
@[simp] theorem State.vlWr_homes (s : State) (d a n v : Nat) : (s.vlWr d a n v).homes = s.homes := rfl
@[simp] theorem State.vlWr_cx (s : State) (d a n v : Nat) : (s.vlWr d a n v).cx = s.cx := rfl
@[simp] theorem State.vlWr_bound (s : State) (d a n v : Nat) : (s.vlWr d a n v).bound = s.bound := rfl
@[simp] theorem State.vlWr_work (s : State) (d a n v : Nat) : (s.vlWr d a n v).work = s.work := rfl
@[simp] theorem State.vlWr_timers (s : State) (d a n v : Nat) : (s.vlWr d a n v).timers = s.timers := rfl
@[simp] theorem State.vlWr_outs (s : State) (d a n v : Nat) : (s.vlWr d a n v).outs = s.outs := rfl
@[simp] theorem State.vlWr_fresh (s : State) (d a n v : Nat) : (s.vlWr d a n v).fresh = s.fresh := rfl
@[simp] theorem State.vlWr_nextId (s : State) (d a n v : Nat) : (s.vlWr d a n v).nextId = s.nextId := rfl
@[simp] theorem State.vlWr_launches (s : State) (d a n v : Nat) : (s.vlWr d a n v).launches = s.launches := rfl
@[simp] theorem State.vlWr_saved (s : State) (d a n v : Nat) : (s.vlWr d a n v).saved = s.saved := rfl
@[simp] theorem State.vlWr_armed (s : State) (d a n v : Nat) : (s.vlWr d a n v).armed = s.armed := rfl
@[simp] theorem State.vlWr_plan (s : State) (d a n v : Nat) : (s.vlWr d a n v).plan = s.plan := rfl
@[simp] theorem State.vlWr_net (s : State) (d a n v : Nat) : (s.vlWr d a n v).net = s.net := rfl
@[simp] theorem State.vlWr_net7 (s : State) (d a n v : Nat) : (s.vlWr d a n v).net7 = s.net7 := rfl
@[simp] theorem State.vlWr_fabReqs (s : State) (d a n v : Nat) : (s.vlWr d a n v).fabReqs = s.fabReqs := rfl
@[simp] theorem State.vlWr_hostReqs (s : State) (d a n v : Nat) : (s.vlWr d a n v).hostReqs = s.hostReqs := rfl
@[simp] theorem State.vlWr_sendCtx (s : State) (d a n v : Nat) : (s.vlWr d a n v).sendCtx = s.sendCtx := rfl
@[simp] theorem State.vlWr_cxlPorts (s : State) (d a n v : Nat) : (s.vlWr d a n v).cxlPorts = s.cxlPorts := rfl
@[simp] theorem State.vlWr_bars (s : State) (d a n v : Nat) : (s.vlWr d a n v).bars = s.bars := rfl
@[simp] theorem State.vlWr_hdm (s : State) (d a n v : Nat) : (s.vlWr d a n v).hdm = s.hdm := rfl
@[simp] theorem State.vlWr_upsets (s : State) (d a n v : Nat) : (s.vlWr d a n v).upsets = s.upsets := rfl
@[simp] theorem State.vlWr_pressQueue (s : State) (d a n v : Nat) : (s.vlWr d a n v).pressQueue = s.pressQueue := rfl

@[simp] theorem State.vlWrBytes_cur (s : State) (d a : Nat) (l : List Byte) : (s.vlWrBytes d a l).cur = s.cur := rfl
@[simp] theorem State.vlWrBytes_curWord (s : State) (d a : Nat) (l : List Byte) : (s.vlWrBytes d a l).curWord = s.curWord := rfl
@[simp] theorem State.vlWrBytes_now (s : State) (d a : Nat) (l : List Byte) : (s.vlWrBytes d a l).now = s.now := rfl
@[simp] theorem State.vlWrBytes_gtime (s : State) (d a : Nat) (l : List Byte) : (s.vlWrBytes d a l).gtime = s.gtime := rfl
@[simp] theorem State.vlWrBytes_mem (s : State) (d a : Nat) (l : List Byte) : (s.vlWrBytes d a l).mem = s.mem := rfl
@[simp] theorem State.vlWrBytes_blocks (s : State) (d a : Nat) (l : List Byte) : (s.vlWrBytes d a l).blocks = s.blocks := rfl
@[simp] theorem State.vlWrBytes_cores (s : State) (d a : Nat) (l : List Byte) : (s.vlWrBytes d a l).cores = s.cores := rfl
@[simp] theorem State.vlWrBytes_dies (s : State) (d a : Nat) (l : List Byte) : (s.vlWrBytes d a l).dies = s.dies := rfl
@[simp] theorem State.vlWrBytes_homes (s : State) (d a : Nat) (l : List Byte) : (s.vlWrBytes d a l).homes = s.homes := rfl
@[simp] theorem State.vlWrBytes_cx (s : State) (d a : Nat) (l : List Byte) : (s.vlWrBytes d a l).cx = s.cx := rfl
@[simp] theorem State.vlWrBytes_bound (s : State) (d a : Nat) (l : List Byte) : (s.vlWrBytes d a l).bound = s.bound := rfl
@[simp] theorem State.vlWrBytes_work (s : State) (d a : Nat) (l : List Byte) : (s.vlWrBytes d a l).work = s.work := rfl
@[simp] theorem State.vlWrBytes_timers (s : State) (d a : Nat) (l : List Byte) : (s.vlWrBytes d a l).timers = s.timers := rfl
@[simp] theorem State.vlWrBytes_outs (s : State) (d a : Nat) (l : List Byte) : (s.vlWrBytes d a l).outs = s.outs := rfl
@[simp] theorem State.vlWrBytes_fresh (s : State) (d a : Nat) (l : List Byte) : (s.vlWrBytes d a l).fresh = s.fresh := rfl
@[simp] theorem State.vlWrBytes_nextId (s : State) (d a : Nat) (l : List Byte) : (s.vlWrBytes d a l).nextId = s.nextId := rfl
@[simp] theorem State.vlWrBytes_launches (s : State) (d a : Nat) (l : List Byte) : (s.vlWrBytes d a l).launches = s.launches := rfl
@[simp] theorem State.vlWrBytes_saved (s : State) (d a : Nat) (l : List Byte) : (s.vlWrBytes d a l).saved = s.saved := rfl
@[simp] theorem State.vlWrBytes_armed (s : State) (d a : Nat) (l : List Byte) : (s.vlWrBytes d a l).armed = s.armed := rfl
@[simp] theorem State.vlWrBytes_plan (s : State) (d a : Nat) (l : List Byte) : (s.vlWrBytes d a l).plan = s.plan := rfl
@[simp] theorem State.vlWrBytes_net (s : State) (d a : Nat) (l : List Byte) : (s.vlWrBytes d a l).net = s.net := rfl
@[simp] theorem State.vlWrBytes_net7 (s : State) (d a : Nat) (l : List Byte) : (s.vlWrBytes d a l).net7 = s.net7 := rfl
@[simp] theorem State.vlWrBytes_fabReqs (s : State) (d a : Nat) (l : List Byte) : (s.vlWrBytes d a l).fabReqs = s.fabReqs := rfl
@[simp] theorem State.vlWrBytes_hostReqs (s : State) (d a : Nat) (l : List Byte) : (s.vlWrBytes d a l).hostReqs = s.hostReqs := rfl
@[simp] theorem State.vlWrBytes_sendCtx (s : State) (d a : Nat) (l : List Byte) : (s.vlWrBytes d a l).sendCtx = s.sendCtx := rfl
@[simp] theorem State.vlWrBytes_cxlPorts (s : State) (d a : Nat) (l : List Byte) : (s.vlWrBytes d a l).cxlPorts = s.cxlPorts := rfl
@[simp] theorem State.vlWrBytes_bars (s : State) (d a : Nat) (l : List Byte) : (s.vlWrBytes d a l).bars = s.bars := rfl
@[simp] theorem State.vlWrBytes_hdm (s : State) (d a : Nat) (l : List Byte) : (s.vlWrBytes d a l).hdm = s.hdm := rfl
@[simp] theorem State.vlWrBytes_upsets (s : State) (d a : Nat) (l : List Byte) : (s.vlWrBytes d a l).upsets = s.upsets := rfl
@[simp] theorem State.vlWrBytes_pressQueue (s : State) (d a : Nat) (l : List Byte) : (s.vlWrBytes d a l).pressQueue = s.pressQueue := rfl

theorem State.modBlk_eq (s : State) (b : Nat) (f : Block → Block) : s.modBlk b f = { s with blocks := (s.modBlk b f).blocks } := rfl
theorem State.modCore_eq (s : State) (c : Nat) (f : Core → Core) : s.modCore c f = { s with cores := (s.modCore c f).cores } := rfl

end Sys2Proof.Machine
end

