-- ==== Sys2Proof/Laws/Find.lean ====
section
/-! SUPPORT. Finding blocks, gangs, slices and cores after an update: the updated one is found updated, every other as it
was. -/

namespace Sys2Proof

/-- Finding by a key that a map keeps. -/
theorem find_map_key {α : Type _} (key : α → Nat) (f : α → α) (hf : ∀ x, key (f x) = key x) (l : List α) (k : Nat) :
    (l.map f).find? (fun x => key x == k) = (l.find? fun x => key x == k).map f := by
  induction l with
  | nil => rfl
  | cons x r ih =>
    simp only [List.map_cons, List.find?_cons, hf]
    split
    · rfl
    · exact ih

theorem find_key {α : Type _} (key : α → Nat) {l : List α} {k : Nat} {x : α} (h : l.find? (fun x => key x == k) = some x) : key x = k := by
  simpa using List.find?_some h

theorem find_modWhere {α : Type _} (key : α → Nat) (f : α → α) (hf : ∀ x, key (f x) = key x) (l : List α) (k k' : Nat) :
    (modWhere (fun x => key x == k) f l).find? (fun x => key x == k') =
      if k' = k then (l.find? fun x => key x == k').map f else l.find? fun x => key x == k' := by
  unfold modWhere
  rw [find_map_key key _ (fun x => by split <;> simp [hf])]
  cases h : l.find? fun x => key x == k' with
  | none => simp
  | some x =>
    have := find_key key h
    by_cases e : k' = k <;> simp [this, e]

namespace Machine

theorem State.blk_id {s : State} {i : Nat} {b : Block} (h : s.blk i = some b) : b.id = i := find_key Block.id h
theorem Block.gang_num {b : Block} {n : Nat} {g : Gang} (h : b.gang n = some g) : g.num = n := find_key Gang.num h
theorem Gang.slice_num {g : Gang} {k : Nat} {sl : Slice} (h : g.slice k = some sl) : sl.num = k := find_key Slice.num h

theorem State.blk_modBlk (s : State) (i j : Nat) (f : Block → Block) (hf : ∀ b, (f b).id = b.id) :
    (s.modBlk i f).blk j = if j = i then (s.blk j).map f else s.blk j := find_modWhere Block.id f hf _ _ _

theorem Block.gang_modGang (b : Block) (i j : Nat) (f : Gang → Gang) (hf : ∀ g, (f g).num = g.num) :
    (b.modGang i f).gang j = if j = i then (b.gang j).map f else b.gang j := find_modWhere Gang.num f hf _ _ _

theorem Gang.slice_modSlice (g : Gang) (i j : Nat) (f : Slice → Slice) (hf : ∀ sl, (f sl).num = sl.num) :
    (g.modSlice i f).slice j = if j = i then (g.slice j).map f else g.slice j := find_modWhere Slice.num f hf _ _ _

@[simp] theorem Block.modGang_id (b : Block) (i : Nat) (f : Gang → Gang) : (b.modGang i f).id = b.id := rfl
@[simp] theorem Gang.modSlice_num (g : Gang) (i : Nat) (f : Slice → Slice) : (g.modSlice i f).num = g.num := rfl
@[simp] theorem Gang.modSplit_num (g : Gang) (i : Nat) (f : Split → Split) : (g.modSplit i f).num = g.num := rfl
@[simp] theorem Gang.modSplit_slice (g : Gang) (i k : Nat) (f : Split → Split) : (g.modSplit i f).slice k = g.slice k := rfl

theorem State.blk_modGang (s : State) (i g j : Nat) (f : Gang → Gang) :
    (s.modGang i g f).blk j = if j = i then (s.blk j).map fun b => b.modGang g f else s.blk j :=
  s.blk_modBlk i j _ fun _ => rfl

theorem State.core_modCore (s : State) (c c' : Nat) (f : Core → Core) :
    (s.modCore c f).core c' = if c' = c then f (s.core c) else s.core c' := by
  show mgetD (mset s.cores c (f (s.core c))) c' {} = _
  rw [mgetD_mset]; rfl

theorem State.die_modDie (s : State) (c c' : Nat) (f : Die → Die) :
    (s.modDie c f).die c' = if c' = c then f (s.die c) else s.die c' := by
  show mgetD (mset s.dies c (f (s.die c))) c' {} = _
  rw [mgetD_mset]; rfl

theorem State.home_modHome (s : State) (k k' : Nat) (f : HomeSector → HomeSector) :
    (s.modHome k f).home k' = if k' = k then f (s.home k) else s.home k' := by
  unfold State.home State.modHome
  simp only [mget_mset]
  split
  · subst k'; rfl
  · rfl

theorem State.cxr_setCx (s : State) (a i a' i' : Nat) (v : DWord) (h : i < 512) (h' : i' < 512) :
    (s.setCx a i v).cxr a' i' = if a' = a ∧ i' = i then v else s.cxr a' i' := by
  unfold State.cxr State.setCx
  by_cases e : a' = a ∧ i' = i
  · obtain ⟨rfl, rfl⟩ := e; simp [mgetD_msetD]
  · simp only [e, if_false]
    have ne : 512 * a' + i' ≠ 512 * a + i := fun x => e ⟨by omega, by omega⟩
    unfold msetD mgetD
    split
    · rw [mget_mdel, if_neg ne]
    · rw [mget_mset, if_neg ne]

end Machine

end Sys2Proof
end

