-- ==== Sys2Proof/Laws/Network.lean ====
section
/-! SUPPORT. What the operations of the device's networks can do (R132 to R139): the wiring of a plane is symmetrical, and a packet that
sets out or crosses a link changes nothing but the networks' own fields. -/

namespace Sys2Proof.Machine

/-- Every link of a plane has its way back: the port at which it ends leads to the port at which it begins (R132). -/
theorem linkEnd_linkEnd : ∀ l ∈ planeLinks, linkEnd (linkEnd l.1 l.2).1 (linkEnd l.1 l.2).2 = l := by
  have h : (planeLinks.all fun l => linkEnd (linkEnd l.1 l.2).1 (linkEnd l.1 l.2).2 == l) = true := by decide +kernel
  exact fun l hl => eq_of_beq (List.all_eq_true.mp h l hl)

/-- A hop changes the packets and the rotations of the leaves alone. -/
theorem State.hop_eq (s : State) (k : Nat) : s.hop k = { s with net := (s.hop k).net, planes := (s.hop k).planes } := by
  unfold State.hop; split <;> rfl

/-- A hop changes no packet but its own. -/
theorem State.hop_other (s : State) (j k : Nat) (h : j ≠ k) : (s.hop k).net[j]? = s.net[j]? := by
  unfold State.hop; split
  · simp only [List.getElem?_mapIdx]
    have : (j == k) = false := by simpa using h
    cases s.net[j]? <;> simp [this]
  · rfl

/-- A hop moves its packet to where it goes next. -/
theorem State.hop_self (s : State) (k : Nat) (p : NetPkt) (hp : s.net[k]? = some p) (h : s.canHop k = true) :
    (s.hop k).net[k]? = some { p with pos := s.netNext k p, plane := s.planeAt p (s.netNext k p), displaced := p.displaced && s.netNext k p != .here } := by
  unfold State.hop
  simp [h, List.getElem?_mapIdx, hp]

/-- A step that sets out changes the packets, the rotation of its source and its slice's sequence alone. -/
theorem State.setOut_eq (s : State) (e : Event) :
    s.setOut e = { s with net := (s.setOut e).net, planes := (s.setOut e).planes, seqs := (s.setOut e).seqs } := by
  unfold State.setOut
  generalize s.netWays e = l
  induction l generalizing s with
  | nil => rfl
  | cons x r ih =>
    rw [List.foldl_cons, ih (s.setOutOn e x)]
    rfl

/-- Turning moves packets, and counts the turnings of its die (R136). -/
theorem execTurning_eq (die : Nat) (s : State) :
    execTurning die s = .next ({ s with net := s.net.map (NetPkt.turn die) }.modDie die fun x => { x with turns := x.turns + 1 }) := rfl

end Sys2Proof.Machine
end

