-- ==== Sys2Proof/Laws/PerInstr.lean ====
section
/-! SUPPORT. One lemma per instruction: an instruction of the program is what its own row of the operation table builds from
its parts, and the row is in the table; a step of the device has no row. -/

namespace Sys2Proof.Laws.Rows

/-- The instruction is what the row of its operation builds from its parts. -/
def Statement (i : Instr) : Prop :=
  match i.parts with
  | some (code, sub, c, b) => mkInstr code sub c b = some i ∧ (opInfo code sub).isSome = true
  | none => True

theorem iadd (c : Ctl) (o : VOp) : Statement (.iadd c o) := ⟨rfl, rfl⟩
theorem isub (c : Ctl) (o : VOp) : Statement (.isub c o) := ⟨rfl, rfl⟩
theorem imul (c : Ctl) (o : VOp) : Statement (.imul c o) := ⟨rfl, rfl⟩
theorem iminS (c : Ctl) (o : VOp) : Statement (.iminS c o) := ⟨rfl, rfl⟩
theorem iminU (c : Ctl) (o : VOp) : Statement (.iminU c o) := ⟨rfl, rfl⟩
theorem imaxS (c : Ctl) (o : VOp) : Statement (.imaxS c o) := ⟨rfl, rfl⟩
theorem imaxU (c : Ctl) (o : VOp) : Statement (.imaxU c o) := ⟨rfl, rfl⟩
theorem iabs (c : Ctl) (o : VOp) : Statement (.iabs c o) := ⟨rfl, rfl⟩
theorem andB (c : Ctl) (o : VOp) : Statement (.andB c o) := ⟨rfl, rfl⟩
theorem orB (c : Ctl) (o : VOp) : Statement (.orB c o) := ⟨rfl, rfl⟩
theorem xorB (c : Ctl) (o : VOp) : Statement (.xorB c o) := ⟨rfl, rfl⟩
theorem andn (c : Ctl) (o : VOp) : Statement (.andn c o) := ⟨rfl, rfl⟩
theorem shl (c : Ctl) (o : VOp) : Statement (.shl c o) := ⟨rfl, rfl⟩
theorem shr (c : Ctl) (o : VOp) : Statement (.shr c o) := ⟨rfl, rfl⟩
theorem sar (c : Ctl) (o : VOp) : Statement (.sar c o) := ⟨rfl, rfl⟩
theorem rotl (c : Ctl) (o : VOp) : Statement (.rotl c o) := ⟨rfl, rfl⟩
theorem popc (c : Ctl) (o : VOp) : Statement (.popc c o) := ⟨rfl, rfl⟩
theorem clz (c : Ctl) (o : VOp) : Statement (.clz c o) := ⟨rfl, rfl⟩
theorem brev (c : Ctl) (o : VOp) : Statement (.brev c o) := ⟨rfl, rfl⟩
theorem mov (c : Ctl) (o : VOp) : Statement (.mov c o) := ⟨rfl, rfl⟩
theorem movi (c : Ctl) (o : VOp) : Statement (.movi c o) := ⟨rfl, rfl⟩
theorem sel (c : Ctl) (o : VOp) : Statement (.sel c o) := ⟨rfl, rfl⟩
theorem isetp (c : Ctl) (o : COp) : Statement (.isetp c o) := ⟨rfl, rfl⟩
theorem iaddc (c : Ctl) (o : VOp) : Statement (.iaddc c o) := ⟨rfl, rfl⟩
theorem fadd (c : Ctl) (o : VOp) : Statement (.fadd c o) := ⟨rfl, rfl⟩
theorem fsub (c : Ctl) (o : VOp) : Statement (.fsub c o) := ⟨rfl, rfl⟩
theorem fmul (c : Ctl) (o : VOp) : Statement (.fmul c o) := ⟨rfl, rfl⟩
theorem fmin (c : Ctl) (o : VOp) : Statement (.fmin c o) := ⟨rfl, rfl⟩
theorem fmax (c : Ctl) (o : VOp) : Statement (.fmax c o) := ⟨rfl, rfl⟩
theorem fsetp (c : Ctl) (o : COp) : Statement (.fsetp c o) := ⟨rfl, rfl⟩
theorem fabs (c : Ctl) (o : VOp) : Statement (.fabs c o) := ⟨rfl, rfl⟩
theorem fneg (c : Ctl) (o : VOp) : Statement (.fneg c o) := ⟨rfl, rfl⟩
theorem hadd2 (c : Ctl) (o : VOp) : Statement (.hadd2 c o) := ⟨rfl, rfl⟩
theorem hmul2 (c : Ctl) (o : VOp) : Statement (.hmul2 c o) := ⟨rfl, rfl⟩
theorem badd2 (c : Ctl) (o : VOp) : Statement (.badd2 c o) := ⟨rfl, rfl⟩
theorem bmul2 (c : Ctl) (o : VOp) : Statement (.bmul2 c o) := ⟨rfl, rfl⟩
theorem hmin2 (c : Ctl) (o : VOp) : Statement (.hmin2 c o) := ⟨rfl, rfl⟩
theorem hmax2 (c : Ctl) (o : VOp) : Statement (.hmax2 c o) := ⟨rfl, rfl⟩
theorem pand (c : Ctl) (o : POp) : Statement (.pand c o) := ⟨rfl, rfl⟩
theorem por (c : Ctl) (o : POp) : Statement (.por c o) := ⟨rfl, rfl⟩
theorem pxor (c : Ctl) (o : POp) : Statement (.pxor c o) := ⟨rfl, rfl⟩
theorem pnot (c : Ctl) (o : POp) : Statement (.pnot c o) := ⟨rfl, rfl⟩
theorem pmov (c : Ctl) (o : POp) : Statement (.pmov c o) := ⟨rfl, rfl⟩
theorem sadd (c : Ctl) (o : VOp) : Statement (.sadd c o) := ⟨rfl, rfl⟩
theorem ssub (c : Ctl) (o : VOp) : Statement (.ssub c o) := ⟨rfl, rfl⟩
theorem smov (c : Ctl) (o : VOp) : Statement (.smov c o) := ⟨rfl, rfl⟩
theorem smovi (c : Ctl) (o : VOp) : Statement (.smovi c o) := ⟨rfl, rfl⟩
theorem scmp (c : Ctl) (o : COp) : Statement (.scmp c o) := ⟨rfl, rfl⟩
theorem shflx (c : Ctl) (o : VOp) : Statement (.shflx c o) := ⟨rfl, rfl⟩
theorem bcast (c : Ctl) (o : VOp) : Statement (.bcast c o) := ⟨rfl, rfl⟩
theorem i2f (c : Ctl) (o : VOp) : Statement (.i2f c o) := ⟨rfl, rfl⟩
theorem f2i (c : Ctl) (o : VOp) : Statement (.f2i c o) := ⟨rfl, rfl⟩
theorem f2h (c : Ctl) (o : VOp) : Statement (.f2h c o) := ⟨rfl, rfl⟩
theorem h2f (c : Ctl) (o : VOp) : Statement (.h2f c o) := ⟨rfl, rfl⟩
theorem f2b (c : Ctl) (o : VOp) : Statement (.f2b c o) := ⟨rfl, rfl⟩
theorem b2f (c : Ctl) (o : VOp) : Statement (.b2f c o) := ⟨rfl, rfl⟩
theorem nop (c : Ctl) : Statement (.nop c) := ⟨rfl, rfl⟩
theorem sext (c : Ctl) (o : VOp) : Statement (.sext c o) := ⟨rfl, rfl⟩
theorem zext (c : Ctl) (o : VOp) : Statement (.zext c o) := ⟨rfl, rfl⟩
theorem bfe (c : Ctl) (o : VOp) : Statement (.bfe c o) := ⟨rfl, rfl⟩
theorem bfi (c : Ctl) (o : VOp) : Statement (.bfi c o) := ⟨rfl, rfl⟩
theorem fsat (c : Ctl) (o : VOp) : Statement (.fsat c o) := ⟨rfl, rfl⟩
theorem frnd (c : Ctl) (o : VOp) : Statement (.frnd c o) := ⟨rfl, rfl⟩
theorem lmask (c : Ctl) (o : VOp) : Statement (.lmask c o) := ⟨rfl, rfl⟩
theorem imad (c : Ctl) (o : VOp) : Statement (.imad c o) := ⟨rfl, rfl⟩
theorem imulhiS (c : Ctl) (o : VOp) : Statement (.imulhiS c o) := ⟨rfl, rfl⟩
theorem imulhiU (c : Ctl) (o : VOp) : Statement (.imulhiU c o) := ⟨rfl, rfl⟩
theorem iadd3 (c : Ctl) (o : VOp) : Statement (.iadd3 c o) := ⟨rfl, rfl⟩
theorem lut3 (c : Ctl) (o : VOp) : Statement (.lut3 c o) := ⟨rfl, rfl⟩
theorem lea (c : Ctl) (o : VOp) : Statement (.lea c o) := ⟨rfl, rfl⟩
theorem iadd64 (c : Ctl) (o : VOp) : Statement (.iadd64 c o) := ⟨rfl, rfl⟩
theorem imad64 (c : Ctl) (o : VOp) : Statement (.imad64 c o) := ⟨rfl, rfl⟩
theorem ishf (c : Ctl) (o : VOp) : Statement (.ishf c o) := ⟨rfl, rfl⟩
theorem smul (c : Ctl) (o : VOp) : Statement (.smul c o) := ⟨rfl, rfl⟩
theorem sshl (c : Ctl) (o : VOp) : Statement (.sshl c o) := ⟨rfl, rfl⟩
theorem sshr (c : Ctl) (o : VOp) : Statement (.sshr c o) := ⟨rfl, rfl⟩
theorem sand (c : Ctl) (o : VOp) : Statement (.sand c o) := ⟨rfl, rfl⟩
theorem sor (c : Ctl) (o : VOp) : Statement (.sor c o) := ⟨rfl, rfl⟩
theorem sbfe (c : Ctl) (o : VOp) : Statement (.sbfe c o) := ⟨rfl, rfl⟩
theorem smax (c : Ctl) (o : VOp) : Statement (.smax c o) := ⟨rfl, rfl⟩
theorem bra (c : Ctl) (o : BraOp) : Statement (.bra c o) := ⟨rfl, rfl⟩
theorem brx (c : Ctl) (o : BrxOp) : Statement (.brx c o) := ⟨rfl, rfl⟩
theorem call (c : Ctl) (o : CallOp) : Statement (.call c o) := ⟨rfl, rfl⟩
theorem callx (c : Ctl) (o : CallOp) : Statement (.callx c o) := ⟨rfl, rfl⟩
theorem ret (c : Ctl) (o : BrxOp) : Statement (.ret c o) := ⟨rfl, rfl⟩
theorem ifp (c : Ctl) (o : IfpOp) : Statement (.ifp c o) := ⟨rfl, rfl⟩
theorem elsep (c : Ctl) : Statement (.elsep c) := ⟨rfl, rfl⟩
theorem endifp (c : Ctl) : Statement (.endifp c) := ⟨rfl, rfl⟩
theorem brk (c : Ctl) (o : BitVec 8) : Statement (.brk c o) := ⟨rfl, rfl⟩
theorem cont (c : Ctl) (o : BitVec 8) : Statement (.cont c o) := ⟨rfl, rfl⟩
theorem regang (c : Ctl) (o : BitVec 8) : Statement (.regang c o) := ⟨rfl, rfl⟩
theorem regroup (c : Ctl) (o : RegroupOp) : Statement (.regroup c o) := ⟨rfl, rfl⟩
theorem vote (c : Ctl) (o : VOp) : Statement (.vote c o) := ⟨rfl, rfl⟩
theorem shfl (c : Ctl) (o : VOp) : Statement (.shfl c o) := ⟨rfl, rfl⟩
theorem exit (c : Ctl) : Statement (.exit c) := ⟨rfl, rfl⟩
theorem yield (c : Ctl) : Statement (.yield c) := ⟨rfl, rfl⟩
theorem spinh (c : Ctl) : Statement (.spinh c) := ⟨rfl, rfl⟩
theorem rdsr (c : Ctl) (o : SrOp) : Statement (.rdsr c o) := ⟨rfl, rfl⟩
theorem wrsr (c : Ctl) (o : SrOp) : Statement (.wrsr c o) := ⟨rfl, rfl⟩
theorem scbra (c : Ctl) (o : CBraOp) : Statement (.scbra c o) := ⟨rfl, rfl⟩
theorem prmt (c : Ctl) (o : VOp) : Statement (.prmt c o) := ⟨rfl, rfl⟩
theorem redux (c : Ctl) (o : VOp) : Statement (.redux c o) := ⟨rfl, rfl⟩
theorem matchL (c : Ctl) (o : VOp) : Statement (.matchL c o) := ⟨rfl, rfl⟩
theorem smin (c : Ctl) (o : VOp) : Statement (.smin c o) := ⟨rfl, rfl⟩
theorem ffma (c : Ctl) (o : VOp) : Statement (.ffma c o) := ⟨rfl, rfl⟩
theorem dadd (c : Ctl) (o : VOp) : Statement (.dadd c o) := ⟨rfl, rfl⟩
theorem dmul (c : Ctl) (o : VOp) : Statement (.dmul c o) := ⟨rfl, rfl⟩
theorem dfma (c : Ctl) (o : VOp) : Statement (.dfma c o) := ⟨rfl, rfl⟩
theorem dmin (c : Ctl) (o : VOp) : Statement (.dmin c o) := ⟨rfl, rfl⟩
theorem dmax (c : Ctl) (o : VOp) : Statement (.dmax c o) := ⟨rfl, rfl⟩
theorem dsetp (c : Ctl) (o : COp) : Statement (.dsetp c o) := ⟨rfl, rfl⟩
theorem frnd64 (c : Ctl) (o : VOp) : Statement (.frnd64 c o) := ⟨rfl, rfl⟩
theorem frcp (c : Ctl) (o : VOp) : Statement (.frcp c o) := ⟨rfl, rfl⟩
theorem frsq (c : Ctl) (o : VOp) : Statement (.frsq c o) := ⟨rfl, rfl⟩
theorem fsqrt (c : Ctl) (o : VOp) : Statement (.fsqrt c o) := ⟨rfl, rfl⟩
theorem fexp2 (c : Ctl) (o : VOp) : Statement (.fexp2 c o) := ⟨rfl, rfl⟩
theorem flog2 (c : Ctl) (o : VOp) : Statement (.flog2 c o) := ⟨rfl, rfl⟩
theorem fsin (c : Ctl) (o : VOp) : Statement (.fsin c o) := ⟨rfl, rfl⟩
theorem fcos (c : Ctl) (o : VOp) : Statement (.fcos c o) := ⟨rfl, rfl⟩
theorem ftanh (c : Ctl) (o : VOp) : Statement (.ftanh c o) := ⟨rfl, rfl⟩
theorem hfma2 (c : Ctl) (o : VOp) : Statement (.hfma2 c o) := ⟨rfl, rfl⟩
theorem bfma2 (c : Ctl) (o : VOp) : Statement (.bfma2 c o) := ⟨rfl, rfl⟩
theorem f2f (c : Ctl) (o : VOp) : Statement (.f2f c o) := ⟨rfl, rfl⟩
theorem cvtfi (c : Ctl) (o : VOp) : Statement (.cvtfi c o) := ⟨rfl, rfl⟩
theorem cvtif (c : Ctl) (o : VOp) : Statement (.cvtif c o) := ⟨rfl, rfl⟩
theorem f2e4 (c : Ctl) (o : VOp) : Statement (.f2e4 c o) := ⟨rfl, rfl⟩
theorem f2e5 (c : Ctl) (o : VOp) : Statement (.f2e5 c o) := ⟨rfl, rfl⟩
theorem e42f (c : Ctl) (o : VOp) : Statement (.e42f c o) := ⟨rfl, rfl⟩
theorem e52f (c : Ctl) (o : VOp) : Statement (.e52f c o) := ⟨rfl, rfl⟩
theorem qhist (c : Ctl) (o : MOp) : Statement (.qhist c o) := ⟨rfl, rfl⟩
theorem qscale (c : Ctl) (o : VOp) : Statement (.qscale c o) := ⟨rfl, rfl⟩
theorem qpack (c : Ctl) (o : VOp) : Statement (.qpack c o) := ⟨rfl, rfl⟩
theorem qunpk (c : Ctl) (o : VOp) : Statement (.qunpk c o) := ⟨rfl, rfl⟩
theorem fclass (c : Ctl) (o : VOp) : Statement (.fclass c o) := ⟨rfl, rfl⟩
theorem fscale (c : Ctl) (o : VOp) : Statement (.fscale c o) := ⟨rfl, rfl⟩
theorem fdot2 (c : Ctl) (o : VOp) : Statement (.fdot2 c o) := ⟨rfl, rfl⟩
theorem idp4 (c : Ctl) (o : VOp) : Statement (.idp4 c o) := ⟨rfl, rfl⟩
theorem fcopysign (c : Ctl) (o : VOp) : Statement (.fcopysign c o) := ⟨rfl, rfl⟩
theorem fredux (c : Ctl) (o : VOp) : Statement (.fredux c o) := ⟨rfl, rfl⟩
theorem dcvt (c : Ctl) (o : VOp) : Statement (.dcvt c o) := ⟨rfl, rfl⟩
theorem ld (c : Ctl) (o : MOp) : Statement (.ld c o) := ⟨rfl, rfl⟩
theorem st (c : Ctl) (o : MOp) : Statement (.st c o) := ⟨rfl, rfl⟩
theorem ldv (c : Ctl) (o : MOp) : Statement (.ldv c o) := ⟨rfl, rfl⟩
theorem stv (c : Ctl) (o : MOp) : Statement (.stv c o) := ⟨rfl, rfl⟩
theorem ldc (c : Ctl) (o : MOp) : Statement (.ldc c o) := ⟨rfl, rfl⟩
theorem pref (c : Ctl) (o : MOp) : Statement (.pref c o) := ⟨rfl, rfl⟩
theorem atom (c : Ctl) (o : MOp) : Statement (.atom c o) := ⟨rfl, rfl⟩
theorem atomcas (c : Ctl) (o : MOp) : Statement (.atomcas c o) := ⟨rfl, rfl⟩
theorem red (c : Ctl) (o : MOp) : Statement (.red c o) := ⟨rfl, rfl⟩
theorem atomv (c : Ctl) (o : MOp) : Statement (.atomv c o) := ⟨rfl, rfl⟩
theorem fence (c : Ctl) (o : FenceOp) : Statement (.fence c o) := ⟨rfl, rfl⟩
theorem mark (c : Ctl) (o : Bool) : Statement (.mark c o) := ⟨rfl, rfl⟩
theorem bar (c : Ctl) (o : BarOp) : Statement (.bar c o) := ⟨rfl, rfl⟩
theorem binit (c : Ctl) (o : MOp) : Statement (.binit c o) := ⟨rfl, rfl⟩
theorem bexp (c : Ctl) (o : MOp) : Statement (.bexp c o) := ⟨rfl, rfl⟩
theorem barv (c : Ctl) (o : MOp) : Statement (.barv c o) := ⟨rfl, rfl⟩
theorem btest (c : Ctl) (o : MOp) : Statement (.btest c o) := ⟨rfl, rfl⟩
theorem bret (c : Ctl) (o : MOp) : Statement (.bret c o) := ⟨rfl, rfl⟩
theorem waitp (c : Ctl) (o : WaitpOp) : Statement (.waitp c o) := ⟨rfl, rfl⟩
theorem tlwait (c : Ctl) (o : TlOp) : Statement (.tlwait c o) := ⟨rfl, rfl⟩
theorem tlread (c : Ctl) (o : TlOp) : Statement (.tlread c o) := ⟨rfl, rfl⟩
theorem cctlInv (c : Ctl) (o : MOp) : Statement (.cctlInv c o) := ⟨rfl, rfl⟩
theorem cctlInvl (c : Ctl) (o : MOp) : Statement (.cctlInvl c o) := ⟨rfl, rfl⟩
theorem cctlEvict (c : Ctl) (o : MOp) : Statement (.cctlEvict c o) := ⟨rfl, rfl⟩
theorem syncm (c : Ctl) (o : MOp) : Statement (.syncm c o) := ⟨rfl, rfl⟩
theorem ldx (c : Ctl) (o : MOp) : Statement (.ldx c o) := ⟨rfl, rfl⟩
theorem cpya (c : Ctl) (o : MOp) : Statement (.cpya c o) := ⟨rfl, rfl⟩
theorem stcw (c : Ctl) (o : MOp) : Statement (.stcw c o) := ⟨rfl, rfl⟩
theorem tladv (c : Ctl) (o : TlOp) : Statement (.tladv c o) := ⟨rfl, rfl⟩
theorem atom64 (c : Ctl) (o : MOp) : Statement (.atom64 c o) := ⟨rfl, rfl⟩
theorem atomf (c : Ctl) (o : MOp) : Statement (.atomf c o) := ⟨rfl, rfl⟩
theorem probe (c : Ctl) (o : MOp) : Statement (.probe c o) := ⟨rfl, rfl⟩
theorem tokq (c : Ctl) (o : MOp) : Statement (.tokq c o) := ⟨rfl, rfl⟩
theorem mcpredRd (c : Ctl) (o : MOp) : Statement (.mcpredRd c o) := ⟨rfl, rfl⟩
theorem mcpredWr (c : Ctl) (o : MOp) : Statement (.mcpredWr c o) := ⟨rfl, rfl⟩
theorem press (c : Ctl) (o : MOp) : Statement (.press c o) := ⟨rfl, rfl⟩
theorem ldnc (c : Ctl) (o : MOp) : Statement (.ldnc c o) := ⟨rfl, rfl⟩
theorem stnc (c : Ctl) (o : MOp) : Statement (.stnc c o) := ⟨rfl, rfl⟩
theorem wbinv (c : Ctl) (o : MOp) : Statement (.wbinv c o) := ⟨rfl, rfl⟩
theorem tload (c : Ctl) (o : CopyOp) : Statement (.tload c o) := ⟨rfl, rfl⟩
theorem tstore (c : Ctl) (o : CopyOp) : Statement (.tstore c o) := ⟨rfl, rfl⟩
theorem tcopy (c : Ctl) (o : CopyOp) : Statement (.tcopy c o) := ⟨rfl, rfl⟩
theorem tgath (c : Ctl) (o : CopyOp) : Statement (.tgath c o) := ⟨rfl, rfl⟩
theorem tscat (c : Ctl) (o : CopyOp) : Statement (.tscat c o) := ⟨rfl, rfl⟩
theorem creduce (c : Ctl) (o : CollOp) : Statement (.creduce c o) := ⟨rfl, rfl⟩
theorem cbcast (c : Ctl) (o : CollOp) : Statement (.cbcast c o) := ⟨rfl, rfl⟩
theorem tfill (c : Ctl) (o : CopyOp) : Statement (.tfill c o) := ⟨rfl, rfl⟩
theorem tlsig (c : Ctl) (o : TlsigOp) : Statement (.tlsig c o) := ⟨rfl, rfl⟩
theorem qadd (c : Ctl) (o : QaddOp) : Statement (.qadd c o) := ⟨rfl, rfl⟩
theorem qmovi (c : Ctl) (o : QmoviOp) : Statement (.qmovi c o) := ⟨rfl, rfl⟩
theorem qld (c : Ctl) (o : MOp) : Statement (.qld c o) := ⟨rfl, rfl⟩
theorem qbra (c : Ctl) (o : CBraOp) : Statement (.qbra c o) := ⟨rfl, rfl⟩
theorem qwaitEnd (c : Ctl) : Statement (.qwaitEnd c) := ⟨rfl, rfl⟩
theorem qwaitUntil (c : Ctl) (o : BitVec 6) : Statement (.qwaitUntil c o) := ⟨rfl, rfl⟩
theorem mma (c : Ctl) (o : MmaOp) : Statement (.mma c o) := ⟨rfl, rfl⟩
theorem mmas (c : Ctl) (o : MmaOp) : Statement (.mmas c o) := ⟨rfl, rfl⟩
theorem mmag (c : Ctl) (o : MmaOp) : Statement (.mmag c o) := ⟨rfl, rfl⟩
theorem mzero (c : Ctl) (o : TileOp) : Statement (.mzero c o) := ⟨rfl, rfl⟩
theorem mloadt (c : Ctl) (o : TileOp) : Statement (.mloadt c o) := ⟨rfl, rfl⟩
theorem mstoret (c : Ctl) (o : TileOp) : Statement (.mstoret c o) := ⟨rfl, rfl⟩
theorem mcvt (c : Ctl) (o : TileOp) : Statement (.mcvt c o) := ⟨rfl, rfl⟩
theorem mcoop (c : Ctl) (o : BitVec 6) : Statement (.mcoop c o) := ⟨rfl, rfl⟩
theorem msync (c : Ctl) (o : TileOp) : Statement (.msync c o) := ⟨rfl, rfl⟩
theorem mtrans (c : Ctl) (o : TileOp) : Statement (.mtrans c o) := ⟨rfl, rfl⟩
theorem maddt (c : Ctl) (o : TileOp) : Statement (.maddt c o) := ⟨rfl, rfl⟩
theorem mscale (c : Ctl) (o : TileOp) : Statement (.mscale c o) := ⟨rfl, rfl⟩
theorem mhist (c : Ctl) (o : TileOp) : Statement (.mhist c o) := ⟨rfl, rfl⟩
theorem mquant (c : Ctl) (o : TileOp) : Statement (.mquant c o) := ⟨rfl, rfl⟩
theorem mact (c : Ctl) (o : TileOp) : Statement (.mact c o) := ⟨rfl, rfl⟩
theorem mrowred (c : Ctl) (o : TileOp) : Statement (.mrowred c o) := ⟨rfl, rfl⟩
theorem mleaveGet (c : Ctl) : Statement (.mleaveGet c) := ⟨rfl, rfl⟩
theorem mleavePut (c : Ctl) : Statement (.mleavePut c) := ⟨rfl, rfl⟩
theorem mfmt (c : Ctl) (o : BitVec 20) : Statement (.mfmt c o) := ⟨rfl, rfl⟩
theorem sendui (c : Ctl) (o : SendOp) : Statement (.sendui c o) := ⟨rfl, rfl⟩
theorem uiret (c : Ctl) : Statement (.uiret c) := ⟨rfl, rfl⟩
theorem uimaskWr (c : Ctl) (o : ZOp) : Statement (.uimaskWr c o) := ⟨rfl, rfl⟩
theorem uimaskSet (c : Ctl) (o : ZOp) : Statement (.uimaskSet c o) := ⟨rfl, rfl⟩
theorem uimaskClr (c : Ctl) (o : ZOp) : Statement (.uimaskClr c o) := ⟨rfl, rfl⟩
theorem uimaskHnd (c : Ctl) (o : BitVec 20) : Statement (.uimaskHnd c o) := ⟨rfl, rfl⟩
theorem uipend (c : Ctl) (o : ZOp) : Statement (.uipend c o) := ⟨rfl, rfl⟩
theorem syscall (c : Ctl) (o : SyscallOp) : Statement (.syscall c o) := ⟨rfl, rfl⟩
theorem sysret (c : Ctl) (o : ZOp) : Statement (.sysret c o) := ⟨rfl, rfl⟩
theorem trapret (c : Ctl) (o : TrapretOp) : Statement (.trapret c o) := ⟨rfl, rfl⟩
theorem trapretFrz (c : Ctl) (o : Bool) : Statement (.trapretFrz c o) := ⟨rfl, rfl⟩
theorem migr (c : Ctl) (o : MigrOp) : Statement (.migr c o) := ⟨rfl, rfl⟩
theorem wlive (c : Ctl) (o : WliveOp) : Statement (.wlive c o) := ⟨rfl, rfl⟩
theorem launch (c : Ctl) (o : ZqOp) : Statement (.launch c o) := ⟨rfl, rfl⟩
theorem emit (c : Ctl) (o : ZqOp) : Statement (.emit c o) := ⟨rfl, rfl⟩
theorem kick (c : Ctl) (o : ZOp) : Statement (.kick c o) := ⟨rfl, rfl⟩
theorem mapctlInv (c : Ctl) (o : ZOp) : Statement (.mapctlInv c o) := ⟨rfl, rfl⟩
theorem mapctlInvall (c : Ctl) (o : ZOp) : Statement (.mapctlInvall c o) := ⟨rfl, rfl⟩
theorem mapctlHost (c : Ctl) (o : ZOp) : Statement (.mapctlHost c o) := ⟨rfl, rfl⟩
theorem mapctlDev (c : Ctl) (o : ZOp) : Statement (.mapctlDev c o) := ⟨rfl, rfl⟩
theorem decld (c : Ctl) (o : ZOp) : Statement (.decld c o) := ⟨rfl, rfl⟩
theorem bkpt (c : Ctl) (o : BitVec 20) : Statement (.bkpt c o) := ⟨rfl, rfl⟩
theorem sleepw (c : Ctl) (o : SleepwOp) : Statement (.sleepw c o) := ⟨rfl, rfl⟩
theorem wheyArrival (core : Nat) : Statement (.wheyArrival core) := trivial
theorem replicaAdvertisement : Statement (.replicaAdvertisement) := trivial
theorem doorbell (host : Bool) (asid : Nat) (v : DWord) : Statement (.doorbell host asid v) := trivial
theorem hqRecordRead (die q : Nat) : Statement (.hqRecordRead die q) := trivial
theorem entryGrant (die q : Nat) : Statement (.entryGrant die q) := trivial
theorem launchPlacement (die : Nat) : Statement (.launchPlacement die) := trivial
theorem unitSave (u : Nat) : Statement (.unitSave u) := trivial
theorem forcedSave (u : Nat) : Statement (.forcedSave u) := trivial
theorem saveDrainTimeout (u : Nat) : Statement (.saveDrainTimeout u) := trivial
theorem unitRestore (u : Nat) : Statement (.unitRestore u) := trivial
theorem slotFiring (i : Nat) : Statement (.slotFiring i) := trivial
theorem nodeFlushTimeout (asid node : Nat) : Statement (.nodeFlushTimeout asid node) := trivial
theorem blockRetirement (b : Nat) : Statement (.blockRetirement b) := trivial
theorem launchCompletion (l : Nat) : Statement (.launchCompletion l) := trivial
theorem accessCompletion (a : Nat) : Statement (.accessCompletion a) := trivial
theorem engineOpBegin (b : Nat) (ctx : Ctx) (n : Nat) : Statement (.engineOpBegin b ctx n) := trivial
theorem engineOpCompletion (b : Nat) (ctx : Ctx) (n : Nat) : Statement (.engineOpCompletion b ctx n) := trivial
theorem leaveGrant (die : Nat) : Statement (.leaveGrant die) := trivial
theorem leaveExpiry (b : Nat) (ctx : Ctx) : Statement (.leaveExpiry b ctx) := trivial
theorem sleepwWake (r : SliceRef) : Statement (.sleepwWake r) := trivial
theorem hostUiSend (port : Nat) (pasid : BitVec 20) (data : BitVec 128) : Statement (.hostUiSend port pasid data) := trivial
theorem uiDelivery (asid : Nat) : Statement (.uiDelivery asid) := trivial
theorem hostSyscallEnd (port : Nat) (pasid : BitVec 20) (data : BitVec 128) : Statement (.hostSyscallEnd port pasid data) := trivial
theorem transientRequest (m : ReqMsg) : Statement (.transientRequest m) := trivial
theorem transientTimeout (die sec : Nat) : Statement (.transientTimeout die sec) := trivial
theorem tokenArrival (m : TokMsg) : Statement (.tokenArrival m) := trivial
theorem writeBack (m : TokMsg) : Statement (.writeBack m) := trivial
theorem pressRequest (m : PressReq) : Statement (.pressRequest m) := trivial
theorem pressActivation (agent : Nat) (m : PressReq) : Statement (.pressActivation agent m) := trivial
theorem pressDeactivation (sec : Nat) (src : Holder) : Statement (.pressDeactivation sec src) := trivial
theorem pressClear (agent sec : Nat) : Statement (.pressClear agent sec) := trivial
theorem hostSnoop (port sec : Nat) (kind : Snoop) : Statement (.hostSnoop port sec kind) := trivial
theorem cxlMemAccess (pa : PortAddr) (req : BarReq) : Statement (.cxlMemAccess pa req) := trivial
theorem kickNoticeArrival (n : Notice) : Statement (.kickNoticeArrival n) := trivial
theorem kickRetry (n : Notice) : Statement (.kickRetry n) := trivial
theorem copyEnginePull (core : Nat) : Statement (.copyEnginePull core) := trivial
theorem markerCopy (m : Marker) : Statement (.markerCopy m) := trivial
theorem markerCompletion (id dev : Nat) : Statement (.markerCompletion id dev) := trivial
theorem vectorRead (p : VPkt) : Statement (.vectorRead p) := trivial
theorem vectorWrite (p : VPkt) : Statement (.vectorWrite p) := trivial
theorem vectorAtomic (p : VPkt) : Statement (.vectorAtomic p) := trivial
theorem readResponse (rid : Nat) (data : List DWord) : Statement (.readResponse rid data) := trivial
theorem writeAcceptance (rid : Nat) (code : BitVec 8) : Statement (.writeAcceptance rid code) := trivial
theorem atomicResponse (rid : Nat) (data : List DWord) : Statement (.atomicResponse rid data) := trivial
theorem collectiveChunk (b : Nat) (n : Nat) : Statement (.collectiveChunk b n) := trivial
theorem fabricRequestTimeout (rid : Nat) : Statement (.fabricRequestTimeout rid) := trivial
theorem turning (die : Nat) : Statement (.turning die) := trivial
theorem linkReplay (l : LinkRef) : Statement (.linkReplay l) := trivial
theorem linkDown (l : LinkRef) : Statement (.linkDown l) := trivial
theorem tokenRecreation (sec : Nat) : Statement (.tokenRecreation sec) := trivial
theorem census (agent sec : Nat) (ser : BitVec 8) : Statement (.census agent sec ser) := trivial
theorem routeWithdrawal (dev : Nat) : Statement (.routeWithdrawal dev) := trivial
theorem hostCompletion (tag : Nat) (st : HStat) (data : BitVec 128) : Statement (.hostCompletion tag st data) := trivial
theorem hostCompletionTimeout (tag : Nat) : Statement (.hostCompletionTimeout tag) := trivial
theorem handlerGangClose (die : Nat) : Statement (.handlerGangClose die) := trivial
theorem blockResume (b : Nat) : Statement (.blockResume b) := trivial
theorem watchdog (b : Nat) (gang : Option Nat) : Statement (.watchdog b gang) := trivial
theorem cxYreq (asid : Nat) (v : DWord) : Statement (.cxYreq asid v) := trivial
theorem cxHalt (asid : Nat) (v : DWord) : Statement (.cxHalt asid v) := trivial
theorem dvGtimeSet (v : DWord) : Statement (.dvGtimeSet v) := trivial
theorem ppsPulse : Statement (.ppsPulse) := trivial
theorem dvLostClr (v : DWord) : Statement (.dvLostClr v) := trivial
theorem ovfClear (r : RingRef) : Statement (.ovfClear r) := trivial
theorem errorCounterClear (r : DvReg) : Statement (.errorCounterClear r) := trivial
theorem registerWrite (r : RegTarget) (v : BitVec 256) : Statement (.registerWrite r v) := trivial
theorem capWrite (cap : BitVec 2) : Statement (.capWrite cap) := trivial
theorem levelRise : Statement (.levelRise) := trivial
theorem boot (image : List Byte) : Statement (.boot image) := trivial
theorem firmwarePush (image : List Byte) : Statement (.firmwarePush image) := trivial
theorem supplyReplan : Statement (.supplyReplan) := trivial
theorem identityRead (off len : Nat) : Statement (.identityRead off len) := trivial
theorem getVersion : Statement (.getVersion) := trivial
theorem getCapabilities : Statement (.getCapabilities) := trivial
theorem negotiateAlgorithms : Statement (.negotiateAlgorithms) := trivial
theorem getDigests : Statement (.getDigests) := trivial
theorem getCertificate : Statement (.getCertificate) := trivial
theorem challenge (nonce : List Byte) : Statement (.challenge nonce) := trivial
theorem getMeasurements : Statement (.getMeasurements) := trivial
theorem evacGo (v : DWord) : Statement (.evacGo v) := trivial
theorem evacCopying : Statement (.evacCopying) := trivial
theorem evacDraining : Statement (.evacDraining) := trivial
theorem evacLatchFree : Statement (.evacLatchFree) := trivial
theorem evacFailure (cause : BitVec 8) : Statement (.evacFailure cause) := trivial
theorem emptyEntryWord (w : DWord) : Statement (.emptyEntryWord w) := trivial
theorem mainSupplyLoss : Statement (.mainSupplyLoss) := trivial
theorem linkUp (l : LinkRef) : Statement (.linkUp l) := trivial
theorem rangeExport (base len t : Nat) (devs : List Nat) : Statement (.rangeExport base len t devs) := trivial
theorem tokenMessageExpiry (m : TokMsg) : Statement (.tokenMessageExpiry m) := trivial
theorem qwaitDeadline (b : Nat) : Statement (.qwaitDeadline b) := trivial
theorem peerSend (dev asid : Nat) (target : Nat) (v : BitVec 6) (p : DWord) : Statement (.peerSend dev asid target v p) := trivial
theorem barMemoryAccess (port pa : Nat) (req : BarReq) : Statement (.barMemoryAccess port pa req) := trivial
theorem goDataResponse (port sec : Nat) (st : CxlState) (data : Option Sector) : Statement (.goDataResponse port sec st data) := trivial
theorem pressAcknowledgement (agent sec : Nat) (act : Bool) : Statement (.pressAcknowledgement agent sec act) := trivial
theorem pageWalkEnd (die asid page : Nat) : Statement (.pageWalkEnd die asid page) := trivial

end Sys2Proof.Laws.Rows
end

