-- ==== Sys2Proof/Laws/Slice.lean ====
section
/-! SUPPORT. What a slice's registers read once queued results have landed (R233, R234): a result is read from its cycle on, and
no other register changes. -/

namespace Sys2Proof.Machine

/-! ### Sorted insertion -/

theorem insertBy_filter_neg {α : Type _} (le : α → α → Bool) (q : α → Bool) (x : α) (l : List α) (h : q x = false) :
    (insertBy le x l).filter q = l.filter q := by
  induction l with
  | nil => simp [insertBy, h]
  | cons y r ih =>
    simp only [insertBy]
    split
    · simp [List.filter_cons, ih]
    · simp [h]

theorem insertBy_last {α : Type _} (le : α → α → Bool) (x : α) (l : List α) (h : ∀ y ∈ l, le y x = true) :
    insertBy le x l = l ++ [x] := by
  induction l with
  | nil => rfl
  | cons y r ih => simp [insertBy, h y (by simp), ih fun z hz => h z (by simp [hz])]

theorem mem_insertBy {α : Type _} {le : α → α → Bool} {x y : α} {l : List α} (h : y ∈ insertBy le x l) : y = x ∨ y ∈ l := by
  induction l with
  | nil => left; simpa [insertBy] using h
  | cons z r ih =>
    simp only [insertBy] at h
    split at h
    · rcases List.mem_cons.mp h with h | h
      · right; simp [h]
      · rcases ih h with h | h
        · exact .inl h
        · right; simp [h]
    · simpa using h

theorem sortBy_append_one {α : Type _} (le : α → α → Bool) (l : List α) (x : α) :
    sortBy le (l ++ [x]) = insertBy le x (sortBy le l) := by simp [sortBy]

theorem mem_foldl_insertBy {α : Type _} {le : α → α → Bool} {y : α} {l acc : List α}
    (h : y ∈ l.foldl (fun acc x => insertBy le x acc) acc) : y ∈ l ∨ y ∈ acc := by
  induction l generalizing acc with
  | nil => exact .inr h
  | cons x r ih =>
    rcases ih h with h | h
    · exact .inl (List.mem_cons_of_mem _ h)
    · rcases mem_insertBy h with h | h
      · left; simp [h]
      · exact .inr h

theorem mem_sortBy {α : Type _} {le : α → α → Bool} {y : α} {l : List α} (h : y ∈ sortBy le l) : y ∈ l := by
  rcases mem_foldl_insertBy h with h | h
  · exact h
  · simp at h

theorem dueBy_append_one (l : List Pend) (p : Pend) (t : Nat) :
    dueBy (l ++ [p]) t = if p.due ≤ t then insertBy (fun x y => decide (x.due ≤ y.due)) p (dueBy l t) else dueBy l t := by
  unfold dueBy
  by_cases h : p.due ≤ t
  · simp [List.filter_append, h, sortBy_append_one]
  · simp [List.filter_append, h]

theorem due_le_of_mem {l : List Pend} {t : Nat} {p : Pend} (h : p ∈ dueBy l t) : p.due ≤ t := by
  have := mem_sortBy h
  simp at this
  exact this.2

/-- Queued results that a property leaves out do not show in what has it. -/
theorem dueBy_append_filter (l news : List Pend) (t : Nat) (q : Pend → Bool) (h : ∀ p ∈ news, p.due ≤ t → q p = false) :
    (dueBy (l ++ news) t).filter q = (dueBy l t).filter q := by
  induction news using List.reverseRecOn with
  | nil => simp
  | append_singleton r p ih =>
    rw [← List.append_assoc, dueBy_append_one]
    split
    · rename_i hp
      rw [insertBy_filter_neg _ _ _ _ (h p (by simp) hp)]
      exact ih fun x hx => h x (by simp [hx])
    · exact ih fun x hx => h x (by simp [hx])

/-- Results queued for one cycle land last at that cycle, in order. -/
theorem dueBy_append_same (l news : List Pend) (t : Nat) (h : ∀ p ∈ news, p.due = t) :
    dueBy (l ++ news) t = dueBy l t ++ news := by
  induction news using List.reverseRecOn with
  | nil => simp
  | append_singleton r p ih =>
    have hp := h p (by simp)
    have ih := ih fun x hx => h x (by simp [hx])
    rw [← List.append_assoc, dueBy_append_one, if_pos (le_of_eq hp), ih, insertBy_last, List.append_assoc]
    intro y hy
    simp only [decide_eq_true_eq, hp]
    rcases List.mem_append.mp hy with hy | hy
    · exact due_le_of_mem hy
    · exact le_of_eq (h y (by simp [hy]))

/-! ### Landing, seen through one register -/

/-- What `f` reads after results have landed: the last that hits it, else what it read before. -/
theorem foldl_read {σ β : Type _} (land : σ → Pend → σ) (f : σ → β) (hit : Pend → Option β) (inv : σ → Prop)
    (hinv : ∀ s p, inv s → inv (land s p)) (h : ∀ s p, inv s → f (land s p) = (hit p).getD (f s)) (s : σ) (hs : inv s) (l : List Pend) :
    f (l.foldl land s) = ((l.filterMap hit).getLast?).getD (f s) := by
  induction l generalizing s with
  | nil => rfl
  | cons p r ih =>
    rw [List.foldl_cons, ih _ (hinv _ _ hs), h _ _ hs]
    cases hp : hit p with
    | none => simp [hp]
    | some v =>
      rw [List.filterMap_cons_some hp]
      cases hr : r.filterMap hit with
      | nil => simp
      | cons y ys => simp [List.getLast?_cons]

@[simp] theorem lo32_setWidth (v : Word) : lo32 (v.setWidth 64) = v := by
  apply BitVec.eq_of_getLsbD_eq; intro i hi; simp [lo32, hi]; intro h; omega

/-- The result that `p` leaves in physical register `q` of lane `j`. -/
def hitV (q j : Nat) (p : Pend) : Option Word := if p.file = .v ∧ 4 * p.idx + p.lane = 4 * q + j then some (lo32 p.val) else none

/-- The result that `p` leaves in scalar `i`. -/
def hitS (i : Nat) (p : Pend) : Option Word := if p.file = .s ∧ p.idx = i then some (lo32 p.val) else none

/-- The result that `p` leaves in predicate `i` of lane `j`. -/
def hitP (i j : Nat) (p : Pend) : Option Bool := if p.file = .p ∧ p.idx = i ∧ p.lane = j ∧ i < 7 then some (p.val.getLsbD 0) else none

theorem Lane.setP_p (l : Lane) (k i : Nat) (v : Bool) : (l.setP k v).p i = if k = i ∧ k < 7 then v else l.p i := by
  unfold Lane.setP Lane.p
  split
  · rename_i hk
    simp only [BitVec.getLsbD_or, BitVec.getLsbD_and, BitVec.getLsbD_not, BitVec.getLsbD_shiftLeft, BitVec.getLsbD_setWidth,
      BitVec.getLsbD_ofBool]
    by_cases hi : i < 7
    · have h7 : (i == 7) = false := by simp; omega
      by_cases e : k = i
      · subst e; simp [hi, h7]
      · by_cases hik : i < k
        · simp [hi, h7, e, hik]
        · have : i - k ≠ 0 := by omega
          have : ¬ (i - k) = 0 := this
          simp [hi, h7, e, hik, BitVec.getLsbD_one, this]
    · have : ¬ k = i := by omega
      have h0 : l.preds.getLsbD i = false := BitVec.getLsbD_of_ge _ _ (by omega)
      simp [hi, this, h0]
  · rename_i hk
    have : ¬ (k = i ∧ k < 7) := fun h => hk h.2
    simp [this]

theorem Slice.vphys_land (sl : Slice) (p : Pend) (q j : Nat) : (sl.land p).vphys q j = (hitV q j p).getD (sl.vphys q j) := by
  unfold Slice.land hitV
  cases hf : p.file <;> simp [Slice.vphys, Slice.setPhys, Slice.setS, Slice.modLane]
  rw [mget_mset]
  by_cases h : 4 * q + j = 4 * p.idx + p.lane
  · simp [h]
  · simp [h, show ¬ (4 * p.idx + p.lane = 4 * q + j) from fun e => h e.symm]

theorem Slice.s_land (sl : Slice) (p : Pend) (i : Nat) : (sl.land p).s i = (hitS i p).getD (sl.s i) := by
  unfold Slice.land hitS
  cases hf : p.file <;> simp [Slice.s, Slice.setPhys, Slice.setS, Slice.modLane]
  rw [mgetD_msetD]
  by_cases h : i = p.idx
  · simp [h]
  · simp [h, show ¬ (p.idx = i) from fun e => h e.symm]

theorem Slice.lanes_length_land (sl : Slice) (p : Pend) : (sl.land p).lanes.length = sl.lanes.length := by
  unfold Slice.land
  cases hf : p.file <;> simp [Slice.setPhys, Slice.setS, Slice.modLane]

theorem Slice.lane_modLane (sl : Slice) (i j : Nat) (f : Lane → Lane) :
    (sl.modLane i f).lane j = if j = i ∧ j < sl.lanes.length then f (sl.lane j) else sl.lane j := by
  unfold Slice.modLane Slice.lane
  simp only [List.getD_eq_getElem?_getD, List.getElem?_mapIdx]
  cases h : sl.lanes[j]? with
  | none =>
    have : ¬ j < sl.lanes.length := by simpa using h
    simp [this]
  | some l =>
    have : j < sl.lanes.length := by
      by_contra hc
      rw [List.getElem?_eq_none (by omega)] at h
      exact absurd h (by simp)
    by_cases e : j = i <;> simp [e, this]
    subst e; simp [this]

theorem Slice.p_land (sl : Slice) (p : Pend) (i j : Nat) (hj : j < sl.lanes.length) :
    ((sl.land p).lane j).p i = (hitP i j p).getD ((sl.lane j).p i) := by
  unfold Slice.land hitP
  by_cases hf : p.file = .p
  case neg => cases h : p.file <;> simp_all [Slice.setPhys, Slice.setS, Slice.lane]
  rw [hf]
  show ((sl.modLane p.lane fun l => l.setP p.idx (p.val.getLsbD 0)).lane j).p i = _
  rw [Slice.lane_modLane]
  by_cases e : j = p.lane
  · subst e
    rw [if_pos ⟨rfl, hj⟩, Lane.setP_p]
    by_cases e : p.idx = i
    · subst e; by_cases h7 : p.idx < 7 <;> simp [h7]
    · simp [e]
  · simp [e, show ¬ p.lane = j from fun h => e h.symm]

theorem Slice.lane_ge (sl : Slice) (j : Nat) (hj : ¬ j < sl.lanes.length) : sl.lane j = {} := by
  simp [Slice.lane, List.getD_eq_getElem?_getD, List.getElem?_eq_none (by omega : sl.lanes.length ≤ j)]

theorem Slice.lanes_length_foldl (l : List Pend) (sl : Slice) : (l.foldl Slice.land sl).lanes.length = sl.lanes.length := by
  induction l generalizing sl with
  | nil => rfl
  | cons p r ih => rw [List.foldl_cons, ih, Slice.lanes_length_land]

/-- What a vector register reads at a cycle. -/
theorem Slice.regAt_eq (sl : Slice) (t p j : Nat) :
    sl.regAt t p j = (((dueBy sl.pend t).filterMap (hitV p j)).getLast?).getD (sl.vphys p j) :=
  foldl_read Slice.land (fun s => s.vphys p j) (hitV p j) (fun _ => True) (fun _ _ _ => trivial)
    (fun s q _ => s.vphys_land q p j) sl trivial _

/-- What a scalar reads at a cycle. -/
theorem Slice.sregAt_eq (sl : Slice) (t i : Nat) :
    sl.sregAt t i = (((dueBy sl.pend t).filterMap (hitS i)).getLast?).getD (sl.s i) :=
  foldl_read Slice.land (fun s => s.s i) (hitS i) (fun _ => True) (fun _ _ _ => trivial)
    (fun s q _ => s.s_land q i) sl trivial _

/-- What a predicate of a lane that the slice has reads at a cycle. -/
theorem Slice.predAt_eq (sl : Slice) (t i j : Nat) (hj : j < sl.lanes.length) :
    sl.predAt t i j = (((dueBy sl.pend t).filterMap (hitP i j)).getLast?).getD ((sl.lane j).p i) :=
  foldl_read Slice.land (fun s => (s.lane j).p i) (hitP i j) (fun s => j < s.lanes.length)
    (fun s q h => by rw [s.lanes_length_land]; exact h) (fun s q h => s.p_land q i j h) sl hj _

theorem Slice.predAt_ge (sl : Slice) (t i j : Nat) (hj : ¬ j < sl.lanes.length) : sl.predAt t i j = (i == 7) := by
  show ((((dueBy sl.pend t).foldl Slice.land sl).lane j).p i) = _
  rw [Slice.lane_ge _ _ (by rw [Slice.lanes_length_foldl]; exact hj)]
  simp [Lane.p]

theorem filterMap_filter_isSome {α β : Type _} (f : α → Option β) (l : List α) :
    (l.filter fun x => (f x).isSome).filterMap f = l.filterMap f := by
  induction l with
  | nil => rfl
  | cons x r ih =>
    cases h : f x with
    | none => simp [h, ih]
    | some v => simp [h, ih]

/-- Results that do not hit a register by cycle `t` leave what it reads then. -/
theorem due_filterMap_append {β : Type _} (l news : List Pend) (t : Nat) (hit : Pend → Option β)
    (h : ∀ p ∈ news, p.due ≤ t → hit p = none) :
    (dueBy (l ++ news) t).filterMap hit = (dueBy l t).filterMap hit := by
  rw [← filterMap_filter_isSome, dueBy_append_filter _ _ _ _ fun p hp hd => by simp [h p hp hd], filterMap_filter_isSome]

/-- A slice with results queued behind those it has. -/
theorem Slice.keepsBut_of_pend (sl sl' : Slice) (news : List Pend) (w : RFile → Nat → Nat → Nat → Prop)
    (hv : sl'.vregs = sl.vregs) (hs : sl'.sregs = sl.sregs) (hl : sl'.lanes = sl.lanes) (hn : sl'.serial = sl.serial)
    (hp : sl'.pend = sl.pend ++ news)
    (hw : ∀ p ∈ news, ∀ t, p.due ≤ t →
      (∀ q j, j < 4 → p.file = .v → 4 * p.idx + p.lane = 4 * q + j → w .v q j t) ∧
      (p.file = .p → w .p p.idx p.lane t) ∧ (p.file = .s → w .s p.idx 0 t)) :
    keepsBut sl sl' w := by
  intro t
  refine ⟨fun q j hj hq => ?_, fun i j hi => ?_, fun i hi => ?_⟩
  · rw [Slice.regAt_eq, Slice.regAt_eq, hp, due_filterMap_append]
    · simp [Slice.vphys, hv, hn]
    · intro p hpn hd
      unfold hitV
      rw [if_neg]
      rintro ⟨hf, he⟩
      exact hq ((hw p hpn t hd).1 q j hj hf he)
  · by_cases hj : j < sl.lanes.length
    · rw [Slice.predAt_eq _ _ _ _ hj, Slice.predAt_eq _ _ _ _ (by rw [hl]; exact hj), hp, due_filterMap_append]
      · simp [Slice.lane, hl]
      · intro p hpn hd
        unfold hitP
        rw [if_neg]
        rintro ⟨hf, rfl, rfl, -⟩
        exact hi ((hw p hpn t hd).2.1 hf)
    · rw [Slice.predAt_ge _ _ _ _ hj, Slice.predAt_ge _ _ _ _ (by rw [hl]; exact hj)]
  · rw [Slice.sregAt_eq, Slice.sregAt_eq, hp, due_filterMap_append]
    · simp [Slice.s, hs]
    · intro p hpn hd
      unfold hitS
      rw [if_neg]
      rintro ⟨hf, rfl⟩
      exact hi ((hw p hpn t hd).2.2 hf)

/-- What a register reads at the cycle of results queued behind all others: the last that hits it. -/
theorem due_getLast_append {β : Type _} (l news : List Pend) (t : Nat) (hit : Pend → Option β) (d v : β)
    (h : ∀ p ∈ news, p.due = t) (hv : (news.filterMap hit).getLast? = some v) :
    (((dueBy (l ++ news) t).filterMap hit).getLast?).getD d = v := by
  rw [dueBy_append_same _ _ _ h, List.filterMap_append]
  have : news.filterMap hit ≠ [] := by intro e; rw [e] at hv; simp at hv
  rw [List.getLast?_append_of_ne_nil _ this, hv]
  rfl

end Sys2Proof.Machine
end

