-- ==== Sys2Proof/Laws/Words.lean ====
section
/-! SUPPORT. Everything that a word of a split can do to the state: its results are queued in the member slices, they go on, and
nothing else changes (R222, R232, R233). -/

namespace Sys2Proof.Machine

/-- `onlyGang` with the slices' change as a function. -/
abbrev onlyGangF (s t : State) (bid gn : Nat) (φ : Slice → Slice) : Prop := onlyGang s t bid gn fun sl sl' => sl' = φ sl

theorem onlyGang_mono {s t : State} {bid gn : Nat} {f f' : Slice → Slice → Prop} (h : onlyGang s t bid gn f)
    (hf : ∀ sl sl', f sl sl' → f' sl sl') : onlyGang s t bid gn f' := by
  obtain ⟨h1, h2, h3, h4⟩ := h
  refine ⟨h1, h2, h3, fun b hb => ?_⟩
  obtain ⟨b', x1, x2, x3, x4⟩ := h4 b hb
  refine ⟨b', x1, x2, x3, fun g hg => ?_⟩
  obtain ⟨g', y1, y2, y3, y4⟩ := x4 g hg
  refine ⟨g', y1, y2, y3, fun k sl hk => ?_⟩
  obtain ⟨sl', z1, z2⟩ := y4 k sl hk
  exact ⟨sl', z1, hf _ _ z2⟩

theorem onlyGang_refl (s : State) (bid gn : Nat) : onlyGangF s s bid gn id :=
  ⟨rfl, fun _ => rfl, fun _ _ => rfl, fun b hb => ⟨b, hb, rfl, fun _ _ => rfl, fun g hg => ⟨g, hg, rfl, fun _ h => h,
    fun _ sl h => ⟨sl, h, rfl⟩⟩⟩⟩

theorem onlyGang_trans {s t u : State} {bid gn : Nat} {f f' : Slice → Slice → Prop} (h : onlyGang s t bid gn f)
    (h' : onlyGang t u bid gn f') : onlyGang s u bid gn fun x z => ∃ y, f x y ∧ f' y z := by
  obtain ⟨h1, h2, h3, h4⟩ := h
  obtain ⟨h1', h2', h3', h4'⟩ := h'
  refine ⟨?_, fun c => ?_, fun i hi => (h3' i hi).trans (h3 i hi), fun b hb => ?_⟩
  · rw [h1', h1]
  · have := h2' c; rw [h2 c] at this; exact this
  · obtain ⟨b', x1, x2, x3, x4⟩ := h4 b hb
    obtain ⟨b'', x1', x2', x3', x4'⟩ := h4' b' x1
    refine ⟨b'', x1', ?_, fun n hn => (x3' n hn).trans (x3 n hn), fun g hg => ?_⟩
    · rw [x2', x2]
    · obtain ⟨g', y1, y2, y3, y4⟩ := x4 g hg
      obtain ⟨g'', y1', y2', y3', y4'⟩ := x4' g' y1
      refine ⟨g'', y1', ?_, fun k hk => y3' k (y3 k hk), fun k sl hk => ?_⟩
      · rw [y2', y2]
      · obtain ⟨sl', z1, z2⟩ := y4 k sl hk
        obtain ⟨sl'', z1', z2'⟩ := y4' k sl' z1
        exact ⟨sl'', z1', sl', z2, z2'⟩

theorem onlyGangF_trans {s t u : State} {bid gn : Nat} {φ ψ : Slice → Slice} (h : onlyGangF s t bid gn φ)
    (h' : onlyGangF t u bid gn ψ) : onlyGangF s u bid gn (ψ ∘ φ) :=
  onlyGang_mono (onlyGang_trans h h') fun _ _ ⟨_, hy, hz⟩ => by subst hy; exact hz

/-- Halting does not come by such a change. -/
theorem onlyGang_halt {s t : State} {bid gn : Nat} {f : Slice → Slice → Prop} (h : onlyGang s t bid gn f) {b b' : Block}
    (hb : s.blk bid = some b) (hb' : t.blk bid = some b') : b'.halt = b.halt := by
  obtain ⟨b'', x1, x2, -⟩ := h.2.2.2 b hb
  rw [hb'] at x1
  cases x1
  rw [x2]

theorem onlyGang_some {s t : State} {bid gn : Nat} {f : Slice → Slice → Prop} (h : onlyGang s t bid gn f) {b : Block}
    (hb : s.blk bid = some b) : ∃ b', t.blk bid = some b' ∧ b' = { b with gangs := b'.gangs } := by
  obtain ⟨b', x1, x2, -⟩ := h.2.2.2 b hb
  exact ⟨b', x1, x2⟩

theorem onlyGang_modGang (s : State) (bid gn : Nat) (f : Gang → Gang) (φ : Slice → Slice)
    (hf : ∀ g, f g = { g with slices := (f g).slices, splits := (f g).splits })
    (hk : ∀ g k, (f g).slice k = (g.slice k).map φ) : onlyGangF s (s.modGang bid gn f) bid gn φ := by
  have hn : ∀ g, (f g).num = g.num := fun g => by rw [hf g]
  refine ⟨rfl, fun _ => rfl, fun i hi => ?_, fun b hb => ?_⟩
  · rw [State.blk_modGang, if_neg hi]
  · refine ⟨b.modGang gn f, ?_, rfl, fun n hn' => ?_, fun g hg => ?_⟩
    · rw [State.blk_modGang, if_pos rfl, hb]; rfl
    · rw [Block.gang_modGang _ _ _ _ hn, if_neg hn']
    · refine ⟨f g, ?_, hf g, fun k h => ?_, fun k sl h => ⟨φ sl, ?_, rfl⟩⟩
      · rw [Block.gang_modGang _ _ _ _ hn, if_pos rfl, hg]; rfl
      · rw [hk, h]; rfl
      · rw [hk, h]; rfl

theorem onlyGang_modSplit (s : State) (bid gn k : Nat) (f : Split → Split) : onlyGangF s (s.modSplit bid gn k f) bid gn id :=
  onlyGang_modGang s bid gn _ id (fun _ => rfl) fun _ _ => by rw [Option.map_id]; rfl

theorem onlyGang_modCore (s : State) (bid gn c : Nat) (f : Core → Core) (hf : ∀ x, f x = { x with ports := (f x).ports }) :
    onlyGangF s (s.modCore c f) bid gn id := by
  refine ⟨rfl, fun c' => ?_, fun _ _ => rfl, fun b hb => ⟨b, hb, rfl, fun _ _ => rfl, fun g hg => ⟨g, hg, rfl, fun _ h => h,
    fun _ sl h => ⟨sl, h, rfl⟩⟩⟩⟩
  rw [State.core_modCore]
  split
  · subst c'; exact hf _
  · rfl

/-- The slices of a gang changed by number. -/
theorem onlyGang_slices (s : State) (bid gn : Nat) (f : Slice → Slice) (hn : ∀ sl, (f sl).num = sl.num) :
    onlyGangF s (s.modGang bid gn fun gg => { gg with slices := gg.slices.map f }) bid gn f :=
  onlyGang_modGang s bid gn _ f (fun _ => rfl) fun _ _ => find_map_key Slice.num f hn _ _

theorem onlyGang_endRun (s : State) (bid gn k : Nat) (h : ∀ b, s.blk bid = some b → b.halt = none) :
    onlyGangF s (s.endRun bid gn k) bid gn id := by
  unfold State.endRun
  cases hb : s.blk bid with
  | none => exact onlyGang_refl ..
  | some b =>
    simp only [h b hb]
    cases hg : b.gang gn with
    | none => exact onlyGang_refl ..
    | some g =>
      exact onlyGangF_trans (onlyGangF_trans (onlyGang_modCore s bid gn b.core _ fun _ => rfl)
        (onlyGang_modGang _ bid gn (fun g => { g with splits := g.splits.map fun sp => { sp with owed := false } }) id (fun _ => rfl)
          fun _ _ => by rw [Option.map_id]; rfl)) (onlyGang_modSplit _ bid gn k _)

theorem halt_none_of_onlyGang {s t : State} {bid gn : Nat} {f : Slice → Slice → Prop} (h : onlyGang s t bid gn f)
    (hs : ∀ b, s.blk bid = some b → b.halt = none) (he : ∃ b, s.blk bid = some b) : ∀ b, t.blk bid = some b → b.halt = none := by
  intro b' hb'
  obtain ⟨b, hb⟩ := he
  rw [onlyGang_halt h hb hb', hs b hb]

theorem onlyGang_endRuns (l : List (List Nat)) (s : State) (bid gn : Nat) (h : ∀ b, s.blk bid = some b → b.halt = none)
    (he : ∃ b, s.blk bid = some b) :
    onlyGangF s (l.foldl (fun s grp => match grp with | k :: _ => s.endRun bid gn k | [] => s) s) bid gn id := by
  induction l generalizing s with
  | nil => exact onlyGang_refl ..
  | cons x r ih =>
    have one : onlyGangF s ((fun (s : State) (grp : List Nat) => match grp with | k :: _ => s.endRun bid gn k | [] => s) s x) bid gn id := by
      cases x with
      | nil => exact onlyGang_refl ..
      | cons k _ => exact onlyGang_endRun s bid gn k h
    obtain ⟨b, hb⟩ := he
    obtain ⟨b', hb', -⟩ := onlyGang_some one hb
    exact onlyGangF_trans one (ih _ (halt_none_of_onlyGang one h ⟨b, hb⟩) ⟨b', hb'⟩)

/-! ### Going on -/

/-- Where a member slice goes: the target that its number has among the movers. -/
def advTo (tgt : List (Nat × BitVec 48)) (sl : Slice) : Slice :=
  match tgt.find? fun x => x.1 == sl.num with
  | some x => { sl with pc := x.2, execMask := none }
  | none => sl

theorem advTo_num (tgt : List (Nat × BitVec 48)) (sl : Slice) : (advTo tgt sl).num = sl.num := by
  unfold advTo; split <;> rfl

/-- Those of a split that move, with their targets. -/
def movers (g : Gang) (sp : Split) (target : Slice → BitVec 48) (stay : List Nat) : List (Nat × BitVec 48) :=
  ((memberSlices g sp).filter fun sl => !stay.contains sl.num).map fun sl => (sl.num, target sl)

theorem ite_onlyGang {s a b : State} {bid gn : Nat} {φ : Slice → Slice} {p : Prop} (d : Decidable p) (ha : onlyGangF s a bid gn φ)
    (hb : onlyGangF s b bid gn φ) : onlyGangF s (@ite _ p d a b) bid gn φ := by
  split
  · exact ha
  · exact hb

theorem ite_ends {s v : State} {bid gn : Nat} {φ : Slice → Slice} {p : Prop} (d : Decidable p) (l : List (List Nat))
    (ok : ∀ {u : State}, onlyGangF s u bid gn φ → (∀ b', u.blk bid = some b' → b'.halt = none) ∧ ∃ b', u.blk bid = some b')
    (step : ∀ {u v : State}, onlyGangF s u bid gn φ → onlyGangF u v bid gn id → onlyGangF s v bid gn φ)
    (hv : onlyGangF s v bid gn φ) :
    onlyGangF s (@ite _ p d (l.foldl (fun s grp => match grp with | k :: _ => s.endRun bid gn k | [] => s) v) v) bid gn φ := by
  obtain ⟨o1, o2⟩ := ok hv
  exact ite_onlyGang d (step hv (onlyGang_endRuns _ _ _ _ o1 o2)) hv

theorem onlyGang_moveSplit (s : State) (b : Block) (g : Gang) (sp : Split) (c : Ctl) (target : Slice → BitVec 48) (e : Bool)
    (stay : List Nat) (h : ∀ b', s.blk b.id = some b' → b'.halt = none) (he : ∃ b', s.blk b.id = some b') :
    onlyGangF s (moveSplit s b g sp c target e stay) b.id g.num (advTo (movers g sp target stay)) := by
  have h1 : onlyGangF s (s.modGang b.id g.num fun gg => { gg with slices := gg.slices.map (advTo (movers g sp target stay)) })
      b.id g.num (advTo (movers g sp target stay)) := onlyGang_slices s b.id g.num _ (advTo_num _)
  -- every state that follows differs by splits and ports alone
  have step : ∀ {u v : State}, onlyGangF s u b.id g.num (advTo (movers g sp target stay)) → onlyGangF u v b.id g.num id →
      onlyGangF s v b.id g.num (advTo (movers g sp target stay)) := fun hu hv => by
    have := onlyGangF_trans hu hv; simpa using this
  have ok : ∀ {u : State}, onlyGangF s u b.id g.num (advTo (movers g sp target stay)) →
      (∀ b', u.blk b.id = some b' → b'.halt = none) ∧ ∃ b', u.blk b.id = some b' := fun hu =>
    ⟨halt_none_of_onlyGang hu h he, by obtain ⟨x, hx⟩ := he; obtain ⟨y, hy, -⟩ := onlyGang_some hu hx; exact ⟨y, hy⟩⟩
  unfold moveSplit
  cases hsl : sp.slices with
  | nil => exact h1
  | cons k r =>
    dsimp only
    have h1 : onlyGangF s (s.modGang b.id g.num fun gg => { gg with slices := gg.slices.map (advTo (movers g sp target stay)) })
      b.id g.num (advTo (movers g sp target stay)) := h1
    refine ite_ends _ _ ok step ?_
    refine ite_onlyGang _ (step ?_ (onlyGang_modSplit _ b.id g.num k _)) ?_ <;>
    refine ite_onlyGang _ (step h1 ?_) (step h1 (onlyGang_modSplit _ b.id g.num k _)) <;>
    exact onlyGang_modGang _ b.id g.num _ id (fun _ => rfl) fun _ _ => by rw [Option.map_id]; rfl

/-- A slice after the normal end of a word. -/
def went (c : Ctl) (pc : BitVec 48) (sl : Slice) : Slice := if c.slot == .x then sl else { sl with pc, execMask := none }

@[simp] theorem went_num (c : Ctl) (pc : BitVec 48) (sl : Slice) : (went c pc sl).num = sl.num := by unfold went; split <;> rfl
@[simp] theorem went_pend (c : Ctl) (pc : BitVec 48) (sl : Slice) : (went c pc sl).pend = sl.pend := by unfold went; split <;> rfl
@[simp] theorem went_vregs (c : Ctl) (pc : BitVec 48) (sl : Slice) : (went c pc sl).vregs = sl.vregs := by unfold went; split <;> rfl
@[simp] theorem went_sregs (c : Ctl) (pc : BitVec 48) (sl : Slice) : (went c pc sl).sregs = sl.sregs := by unfold went; split <;> rfl
@[simp] theorem went_lanes (c : Ctl) (pc : BitVec 48) (sl : Slice) : (went c pc sl).lanes = sl.lanes := by unfold went; split <;> rfl
@[simp] theorem went_serial (c : Ctl) (pc : BitVec 48) (sl : Slice) : (went c pc sl).serial = sl.serial := by unfold went; split <;> rfl

theorem find_member (g : Gang) (sp : Split) (k : Nat) (hk : sp.slices.contains k = true) :
    (memberSlices g sp).find? (fun sl => sl.num == k) = g.slice k := by
  unfold memberSlices Gang.slice
  rw [List.find?_filter]
  congr 1
  funext sl
  by_cases h : sl.num = k
  · subst h; simpa using hk
  · simp [h]

theorem find_movers (g : Gang) (sp : Split) (target : Slice → BitVec 48) (k : Nat) :
    (movers g sp target []).find? (fun x => x.1 == k) =
      if sp.slices.contains k then (g.slice k).map fun sl => (sl.num, target sl) else none := by
  unfold movers
  rw [show ((memberSlices g sp).filter fun sl => !([] : List Nat).contains sl.num) = memberSlices g sp by simp]
  rw [List.find?_map]
  split
  · rename_i h
    rw [← find_member g sp k h]; rfl
  · rename_i h
    rw [Option.map_eq_none_iff, List.find?_eq_none]
    intro sl hsl
    simp only [memberSlices, List.mem_filter] at hsl
    simp only [Function.comp, beq_iff_eq]
    intro e; subst e; exact h hsl.2

theorem advTo_movers (g : Gang) (sp : Split) (target : Slice → BitVec 48) {k : Nat} {sl sl' : Slice} (h : g.slice k = some sl)
    (hn : sl'.num = k) :
    advTo (movers g sp target []) sl' = if sp.slices.contains k then { sl' with pc := target sl, execMask := none } else sl' := by
  unfold advTo
  rw [hn, find_movers, h]
  by_cases hc : sp.slices.contains k = true
  · simp only [hc, if_true]; rfl
  · simp only [hc]; rfl

/-- A word that changes its member slices by `f` and ends normally. -/
theorem wordDone_finish {s : State} {b : Block} {g : Gang} {sp : Split} (hi : Issues s b g sp) (hh : b.halt = none) (c : Ctl)
    (e : Bool) (f : Slice → Slice) (hn : ∀ sl, (f sl).num = sl.num) :
    wordDone s (finish (onMembers s b g sp f) b g sp c e) b g sp fun sl sl' => sl' = went c (nextPc sl.pc) (f sl) := by
  have hm : onlyGangF s (onMembers s b g sp f) b.id g.num fun sl => if sp.slices.contains sl.num then f sl else sl :=
    onlyGang_slices s b.id g.num _ fun sl => by split <;> simp [hn]
  have hs : ∀ b', s.blk b.id = some b' → b'.halt = none := fun b' h => by rw [hi.blk] at h; cases h; exact hh
  unfold finish
  split
  · rename_i hx
    refine onlyGang_mono hm fun sl sl' h => ?_
    simp only [went, hx, if_true]
    subst h; split <;> simp_all
  · rename_i hx
    obtain ⟨b1, hb1, -⟩ := onlyGang_some hm hi.blk
    have hmv := onlyGang_moveSplit (onMembers s b g sp f) b g sp c (fun sl => nextPc sl.pc) e []
      (halt_none_of_onlyGang hm hs ⟨b, hi.blk⟩) ⟨b1, hb1⟩
    obtain ⟨h1, h2, h3, h4⟩ := onlyGangF_trans hm hmv
    refine ⟨h1, h2, h3, fun b' hb' => ?_⟩
    rw [hi.blk] at hb'
    cases hb'
    obtain ⟨b', x1, x2, x3, x4⟩ := h4 b hi.blk
    refine ⟨b', x1, x2, x3, fun g' hg' => ?_⟩
    rw [hi.gang] at hg'
    cases hg'
    obtain ⟨g', y1, y2, y3, y4⟩ := x4 g hi.gang
    refine ⟨g', y1, y2, y3, fun k sl hk => ?_⟩
    obtain ⟨sl', z1, rfl⟩ := y4 k sl hk
    refine ⟨_, z1, ?_⟩
    have hnum := Gang.slice_num hk
    simp only [Function.comp]
    rw [advTo_movers g sp _ hk (by split <;> simp [hn, hnum])]
    rw [hnum]
    by_cases hc : sp.slices.contains k = true
    · simp only [hc, if_true, went, hx]; rfl
    · simp only [hc]; rfl

/-! ### Words that compute -/

/-- A result of a lane as it is queued. -/
def pendOf (sl : Slice) (budget due j : Nat) (r : Result) : Pend :=
  { due, file := r.1, idx := match r.1 with | .v => sl.phys budget r.2.1 | _ => r.2.1, lane := j, val := r.2.2 }

theorem queueResults_eq (budget now lat j : Nat) (rs : List Result) (sl : Slice) :
    queueResults budget now lat j rs sl = { sl with pend := sl.pend ++ rs.map (pendOf sl budget (now + lat) j) } := by
  induction rs generalizing sl with
  | nil => simp [queueResults]
  | cons r rs ih =>
    unfold queueResults at ih ⊢
    rw [List.foldl_cons, ih]
    simp only [List.map_cons, List.append_assoc, List.singleton_append]
    rfl

/-- The results that a slice's lanes queue. -/
def laneResults (sl0 : Slice) (budget due : Nat) (f : Nat → List Result) (lanes : List Nat) : List Pend :=
  lanes.flatMap fun j => (f j).map (pendOf sl0 budget due j)

theorem foldl_queueResults (budget now lat : Nat) (f : Nat → List Result) (lanes : List Nat) (sl : Slice) :
    lanes.foldl (fun sl' j => queueResults budget now lat j (f j) sl') sl =
      { sl with pend := sl.pend ++ laneResults sl budget (now + lat) f lanes } := by
  induction lanes generalizing sl with
  | nil => simp [laneResults]
  | cons j r ih =>
    rw [List.foldl_cons, ih, queueResults_eq]
    simp only [laneResults, List.flatMap_cons, List.append_assoc]
    rfl

/-- What a split's word answers when the split issues. -/
theorem withSplit_of {s : State} {b : Block} {g : Gang} {sp : Split} (hi : Issues s b g sp) (f : Block → Gang → Split → State) :
    withSplit s f = .next (f b g sp) := by
  obtain ⟨k, hc, hsp⟩ := hi.cur
  unfold withSplit
  simp only [hc, hi.blk, hi.gang, hsp]

theorem withSeq_of {s : State} {b : Block} (hi : SeqIssues s b) (f : Block → State) : withSeq s f = .next (f b) := by
  unfold withSeq
  simp only [hi.cur, hi.blk]

theorem wordDone_mono {s t : State} {b : Block} {g : Gang} {sp : Split} {f f' : Slice → Slice → Prop} (h : wordDone s t b g sp f)
    (hf : ∀ sl sl', f sl sl' → f' sl sl') : wordDone s t b g sp f' :=
  onlyGang_mono h fun sl sl' h => by
    by_cases hc : sp.slices.contains sl.num = true
    · simp only [hc, if_true] at h ⊢; exact hf _ _ h
    · simp only [hc] at h ⊢; exact h

/-- A vector word: its results are queued in the lanes in which it takes effect, and its slices go on. -/
theorem vecWord_done {s : State} {b : Block} {g : Gang} {sp : Split} (hi : Issues s b g sp) (hh : b.halt = none) (c : Ctl)
    (lat : Nat) (f : Nat → Slice → Nat → List Result) :
    ∃ t, vecWord c lat f s = .next t ∧ wordDone s t b g sp fun sl sl' =>
      sl' = went c (nextPc sl.pc)
        { sl with pend := sl.pend ++ laneResults sl g.budget (s.now + lat) (f g.budget sl) (effLanes c sl) } := by
  refine ⟨_, withSplit_of hi _, ?_⟩
  have := wordDone_finish hi hh c false (fun sl => (effLanes c sl).foldl (fun sl' j =>
    queueResults g.budget s.now lat j (f g.budget sl j) sl') sl) (fun sl => by rw [foldl_queueResults])
  exact wordDone_mono this fun sl sl' h => by rw [h, foldl_queueResults]

/-- A scalar word: once in each slice in which it takes effect. -/
theorem sliceWord_done {s : State} {b : Block} {g : Gang} {sp : Split} (hi : Issues s b g sp) (hh : b.halt = none) (c : Ctl)
    (lat : Nat) (f : Slice → List Result) :
    ∃ t, sliceWord c lat f s = .next t ∧ wordDone s t b g sp fun sl sl' =>
      sl' = went c (nextPc sl.pc) (if takes c sl then { sl with pend := sl.pend ++ (f sl).map (pendOf sl g.budget (s.now + lat) 0) } else sl) := by
  refine ⟨_, withSplit_of hi _, ?_⟩
  have := wordDone_finish hi hh c false (fun sl => if takes c sl then queueResults g.budget s.now lat 0 (f sl) sl else sl)
    (fun sl => by split <;> simp [queueResults_eq])
  exact wordDone_mono this fun sl sl' h => by rw [h]; split <;> simp [queueResults_eq]

/-! ### The shapes of results -/

theorem effLanes_lt {c : Ctl} {sl : Slice} {j : Nat} (h : j ∈ effLanes c sl) : j < 4 := by
  unfold effLanes at h
  have h1 := (List.mem_filter.mp h).1
  unfold Slice.active at h1
  split at h1
  · simp at h1
  · have h2 := (List.mem_filter.mp h1).1
    unfold Slice.live at h2
    simpa using (List.mem_filter.mp h2).1

theorem effLanes_lane {c : Ctl} {sl : Slice} {j : Nat} (h : j ∈ effLanes c sl) : j < sl.lanes.length := by
  unfold effLanes at h
  have h1 := (List.mem_filter.mp h).1
  unfold Slice.active at h1
  split at h1
  · simp at h1
  · have h2 := (List.mem_filter.mp h1).1
    unfold Slice.live at h2
    have h3 := (List.mem_filter.mp h2).2
    by_contra hc
    rw [List.getElem?_eq_none (by omega)] at h3
    simp at h3

theorem effLanes_nodup (c : Ctl) (sl : Slice) : (effLanes c sl).Nodup := by
  unfold effLanes
  refine List.Nodup.filter _ ?_
  unfold Slice.active
  split
  · exact List.nodup_nil
  · exact (List.nodup_range.filter _).filter _

theorem wentOn_went (c : Ctl) (pc : BitVec 48) (sl : Slice) (l : List Pend) : wentOn c pc sl (went c pc { sl with pend := l }) := by
  unfold wentOn went
  split <;> rfl

/-- The last of the queued results that a register of lane `j` takes, when every lane leaves one result in it. -/
theorem getLast_laneResults {β : Type _} {sl : Slice} {budget due j : Nat} {f : Nat → List Result} {lanes : List Nat} (hj : j ∈ lanes)
    (hd : lanes.Nodup) (hit : Pend → Option β) (v : β)
    (hne : ∀ k ∈ lanes, k ≠ j → ∀ r ∈ f k, hit (pendOf sl budget due k r) = none)
    (hv : ((f j).map (pendOf sl budget due j)).filterMap hit = [v]) :
    ((laneResults sl budget due f lanes).filterMap hit).getLast? = some v := by
  suffices h : (laneResults sl budget due f lanes).filterMap hit = [v] by simp [h]
  unfold laneResults
  induction lanes with
  | nil => simp at hj
  | cons k r ih =>
    rw [List.flatMap_cons, List.filterMap_append]
    obtain ⟨hk, hd⟩ := List.nodup_cons.mp hd
    have off : ∀ l : List Nat, j ∉ l → (∀ k ∈ l, k ≠ j → ∀ r ∈ f k, hit (pendOf sl budget due k r) = none) →
        (l.flatMap fun j => (f j).map (pendOf sl budget due j)).filterMap hit = [] := by
      intro l hl hz
      rw [List.filterMap_eq_nil_iff]
      intro p hp
      obtain ⟨k, hk, hp⟩ := List.mem_flatMap.mp hp
      obtain ⟨r, hr, rfl⟩ := List.mem_map.mp hp
      exact hz k hk (fun e => hl (e ▸ hk)) r hr
    rcases List.mem_cons.mp hj with rfl | hj
    · rw [hv, off r hk fun k hk => hne k (List.mem_cons_of_mem _ hk)]; rfl
    · have : ((f k).map (pendOf sl budget due k)).filterMap hit = [] := by
        rw [List.filterMap_eq_nil_iff]
        intro p hp
        obtain ⟨x, hx, rfl⟩ := List.mem_map.mp hp
        exact hne k (by simp) (fun e => hk (e ▸ hj)) x hx
      rw [this, List.nil_append]
      exact ih hj hd fun k hk => hne k (List.mem_cons_of_mem _ hk)

theorem due_of_mem_laneResults {sl : Slice} {budget due : Nat} {f : Nat → List Result} {lanes : List Nat} {p : Pend}
    (h : p ∈ laneResults sl budget due f lanes) : ∃ j ∈ lanes, ∃ r ∈ f j, p = pendOf sl budget due j r := by
  obtain ⟨j, hj, hp⟩ := List.mem_flatMap.mp h
  obtain ⟨r, hr, rfl⟩ := List.mem_map.mp hp
  exact ⟨j, hj, r, hr, rfl⟩

theorem regAt_laneResults {c : Ctl} {sl sl' : Slice} {budget due j d : Nat} {f : Nat → List Result}
    (hp : sl'.pend = sl.pend ++ laneResults sl budget due f (effLanes c sl)) (hj : j ∈ effLanes c sl) (v : Word)
    (hv : ((f j).map (pendOf sl budget due j)).filterMap (hitV d j) = [v])
    (hne : ∀ k ∈ effLanes c sl, k ≠ j → ∀ r ∈ f k, hitV d j (pendOf sl budget due k r) = none) : sl'.regAt due d j = v := by
  rw [Slice.regAt_eq, hp]
  refine due_getLast_append _ _ _ _ _ _ (fun p h => ?_) (getLast_laneResults hj (effLanes_nodup c sl) _ v hne hv)
  obtain ⟨j, -, r, -, rfl⟩ := due_of_mem_laneResults h
  rfl

/-- A vector register of another lane is not hit. -/
theorem hitV_other {sl : Slice} {budget due j k d : Nat} (hj : j < 4) (hk : k < 4) (h : k ≠ j) (r : Result) :
    hitV d j (pendOf sl budget due k r) = none := by
  unfold hitV
  rw [if_neg]
  rintro ⟨-, e⟩
  simp only [pendOf] at e
  omega

theorem vecDone_of {c : Ctl} {lat now budget : Nat} {d : BitVec 8} {val : Slice → Nat → Word} {f : Nat → Slice → Nat → List Result}
    {sl sl' : Slice} (hf : ∀ j, f budget sl j = rv d (val sl j))
    (h : sl' = went c (nextPc sl.pc) { sl with pend := sl.pend ++ laneResults sl budget (now + lat) (f budget sl) (effLanes c sl) }) :
    vecDone c lat now budget d val sl sl' := by
  subst h
  refine ⟨wentOn_went .., fun j hj => ?_, ?_⟩
  · refine regAt_laneResults (c := c) (f := f budget sl) (budget := budget) (by simp) hj _ ?_ fun k hk hne r _ =>
      hitV_other (effLanes_lt hj) (effLanes_lt hk) hne r
    rw [hf]
    simp [rv, pendOf, hitV]
  · refine Slice.keepsBut_of_pend sl _ (laneResults sl budget (now + lat) (f budget sl) (effLanes c sl)) _ (by simp) (by simp)
      (by simp) (by simp) (by simp) fun p hp t ht => ?_
    obtain ⟨k, hk, r, hr, rfl⟩ := due_of_mem_laneResults hp
    rw [hf] at hr
    simp only [rv, List.mem_singleton] at hr
    subst hr
    refine ⟨fun q j hj _ he => ?_, fun h => by simp [pendOf] at h, fun h => by simp [pendOf] at h⟩
    have hk4 := effLanes_lt hk
    simp only [pendOf] at he ht
    have e1 : k = j := by omega
    have e2 : sl.phys budget d.toNat = q := by omega
    subst e1 e2
    exact ⟨rfl, rfl, hk, ht⟩

/-- Everything that a vector word with one 32-bit result does. -/
theorem vecWord_rv {s : State} {b : Block} {g : Gang} {sp : Split} (hi : Issues s b g sp) (hh : b.halt = none) (c : Ctl)
    (lat : Nat) (d : BitVec 8) (f : Nat → Slice → Nat → List Result) (val : Slice → Nat → Word)
    (hf : ∀ sl j, f g.budget sl j = rv d (val sl j)) :
    ∃ t, vecWord c lat f s = .next t ∧ wordDone s t b g sp (vecDone c lat s.now g.budget d val) := by
  obtain ⟨t, h1, h2⟩ := vecWord_done hi hh c lat f
  exact ⟨t, h1, wordDone_mono h2 fun sl sl' h => vecDone_of (fun j => hf sl j) h⟩

theorem phys_succ_ne {sl : Slice} {budget i : Nat} (h : budget ≠ 1) : sl.phys budget i ≠ sl.phys budget (i + 1) := by
  unfold Slice.phys
  intro e
  have := Nat.sub_mod_eq_zero_of_mod_eq e.symm
  rw [show sl.base + (i + 1) - (sl.base + i) = 1 by omega] at this
  rcases Nat.lt_or_ge budget 2 with hb | hb
  · interval_cases budget
    · omega
    · exact h rfl
  · rw [Nat.mod_eq_of_lt (by omega)] at this; omega

theorem pairDone_of {c : Ctl} {lat now budget : Nat} (hb : budget ≠ 1) {d : BitVec 8} {val : Slice → Nat → DWord}
    {f : Nat → Slice → Nat → List Result} {sl sl' : Slice} (hf : ∀ j, f budget sl j = rv64 d (val sl j))
    (h : sl' = went c (nextPc sl.pc) { sl with pend := sl.pend ++ laneResults sl budget (now + lat) (f budget sl) (effLanes c sl) }) :
    pairDone c lat now budget d val sl sl' := by
  subst h
  have hne := phys_succ_ne (sl := sl) (i := d.toNat) hb
  refine ⟨wentOn_went .., fun j hj => ?_, ?_⟩
  · have key : ∀ (q : Nat) (v : Word), ((f budget sl j).map (pendOf sl budget (now + lat) j)).filterMap (hitV q j) = [v] →
        (went c (nextPc sl.pc) { sl with pend := sl.pend ++ laneResults sl budget (now + lat) (f budget sl) (effLanes c sl) }).regAt
          (now + lat) q j = v := fun q v hv =>
      regAt_laneResults (c := c) (f := f budget sl) (budget := budget) (by simp) hj _ hv fun k hk hne r _ =>
        hitV_other (effLanes_lt hj) (effLanes_lt hk) hne r
    have hp : pair64 (lo32 (val sl j)) (hi32 (val sl j)) = val sl j := by
      apply BitVec.eq_of_getLsbD_eq; intro i hi
      rw [getLsbD_pair64]
      split
      · simp [lo32, *]
      · simp only [hi32, BitVec.getLsbD_extractLsb']
        rw [show 32 + (i - 32) = i by omega]
        simp; omega
    rw [key _ (lo32 (val sl j)), key _ (hi32 (val sl j)), hp]
    · rw [hf]
      simp [rv64, pendOf, hitV, hne]
    · rw [hf]
      simp [rv64, pendOf, hitV, hne.symm]
  · refine Slice.keepsBut_of_pend sl _ (laneResults sl budget (now + lat) (f budget sl) (effLanes c sl)) _ (by simp) (by simp)
      (by simp) (by simp) (by simp) fun p hp t ht => ?_
    obtain ⟨k, hk, r, hr, rfl⟩ := due_of_mem_laneResults hp
    rw [hf] at hr
    simp only [rv64, List.mem_cons, List.not_mem_nil, or_false] at hr
    have hk4 := effLanes_lt hk
    rcases hr with rfl | rfl
    all_goals
      refine ⟨fun q j hj _ he => ?_, fun h => by simp [pendOf] at h, fun h => by simp [pendOf] at h⟩
      simp only [pendOf] at he ht
      have e1 : k = j := by omega
      subst e1
    · exact ⟨rfl, .inl (by omega), hk, ht⟩
    · exact ⟨rfl, .inr (by omega), hk, ht⟩

/-- Everything that a vector word with one 64-bit result does. -/
theorem vecWord_rv64 {s : State} {b : Block} {g : Gang} {sp : Split} (hi : Issues s b g sp) (hh : b.halt = none)
    (hb : g.budget ≠ 1) (c : Ctl) (lat : Nat) (d : BitVec 8) (f : Nat → Slice → Nat → List Result) (val : Slice → Nat → DWord)
    (hf : ∀ sl j, f g.budget sl j = rv64 d (val sl j)) :
    ∃ t, vecWord c lat f s = .next t ∧ wordDone s t b g sp (pairDone c lat s.now g.budget d val) := by
  obtain ⟨t, h1, h2⟩ := vecWord_done hi hh c lat f
  exact ⟨t, h1, wordDone_mono h2 fun sl sl' h => pairDone_of hb (fun j => hf sl j) h⟩

theorem predAt_laneResults {c : Ctl} {sl sl' : Slice} {budget due j i : Nat} {f : Nat → List Result} (hl : sl'.lanes = sl.lanes)
    (hp : sl'.pend = sl.pend ++ laneResults sl budget due f (effLanes c sl)) (hj : j ∈ effLanes c sl) (v : Bool)
    (hv : ((f j).map (pendOf sl budget due j)).filterMap (hitP i j) = [v])
    (hne : ∀ k ∈ effLanes c sl, k ≠ j → ∀ r ∈ f k, hitP i j (pendOf sl budget due k r) = none) : sl'.predAt due i j = v := by
  rw [Slice.predAt_eq _ _ _ _ (by rw [hl]; exact effLanes_lane hj), hp]
  refine due_getLast_append _ _ _ _ _ _ (fun p h => ?_) (getLast_laneResults hj (effLanes_nodup c sl) _ v hne hv)
  obtain ⟨j, -, r, -, rfl⟩ := due_of_mem_laneResults h
  rfl

theorem Slice.predAt_seven (sl : Slice) (t j : Nat) : sl.predAt t 7 j = true := by
  unfold Slice.predAt Lane.p; simp

theorem predDone_of {c : Ctl} {lat now budget : Nat} {pd : BitVec 3} {val : Slice → Nat → Bool}
    {f : Nat → Slice → Nat → List Result} {sl sl' : Slice} (hf : ∀ j, f budget sl j = rp pd.toNat (val sl j))
    (h : sl' = went c (nextPc sl.pc) { sl with pend := sl.pend ++ laneResults sl budget (now + lat) (f budget sl) (effLanes c sl) }) :
    predDone c lat now pd val sl sl' := by
  subst h
  refine ⟨wentOn_went .., fun j hj => ?_, ?_⟩
  · by_cases h7 : pd = 7
    · subst h7; simp [Slice.predAt_seven]
    · have h7' : (pd == 7) = false := by simpa using h7
      have hlt : pd.toNat < 7 := by
        have := pd.isLt
        rcases Nat.lt_or_ge pd.toNat 7 with h | h
        · exact h
        · exact absurd (BitVec.eq_of_toNat_eq (by simp; omega)) h7
      rw [h7', Bool.false_or]
      refine predAt_laneResults (c := c) (f := f budget sl) (budget := budget) (by simp) (by simp) hj _ ?_ fun k hk hne r hr => ?_
      · rw [hf]
        cases val sl j <;> simp [rp, pendOf, hitP, hlt]
      · unfold hitP
        rw [if_neg]
        rintro ⟨-, -, e, -⟩
        exact hne e
  · refine Slice.keepsBut_of_pend sl _ (laneResults sl budget (now + lat) (f budget sl) (effLanes c sl)) _ (by simp) (by simp)
      (by simp) (by simp) (by simp) fun p hp t ht => ?_
    obtain ⟨k, hk, r, hr, rfl⟩ := due_of_mem_laneResults hp
    rw [hf] at hr
    simp only [rp, List.mem_singleton] at hr
    subst hr
    exact ⟨fun q j hj hfile _ => by simp [pendOf] at hfile, fun _ => ⟨rfl, rfl, hk, ht⟩, fun h => by simp [pendOf] at h⟩

/-- Everything that a vector word with one predicate result does. -/
theorem vecWord_rp {s : State} {b : Block} {g : Gang} {sp : Split} (hi : Issues s b g sp) (hh : b.halt = none) (c : Ctl)
    (lat : Nat) (pd : BitVec 3) (f : Nat → Slice → Nat → List Result) (val : Slice → Nat → Bool)
    (hf : ∀ sl j, f g.budget sl j = rp pd.toNat (val sl j)) :
    ∃ t, vecWord c lat f s = .next t ∧ wordDone s t b g sp (predDone c lat s.now pd val) := by
  obtain ⟨t, h1, h2⟩ := vecWord_done hi hh c lat f
  exact ⟨t, h1, wordDone_mono h2 fun sl sl' h => predDone_of (fun j => hf sl j) h⟩

theorem scalarDone_of {c : Ctl} {lat now budget : Nat} {d : BitVec 8} {val : Slice → Word} {sl sl' : Slice}
    (h : sl' = went c (nextPc sl.pc)
      (if takes c sl then { sl with pend := sl.pend ++ (rs d.toNat (val sl)).map (pendOf sl budget (now + lat) 0) } else sl)) :
    scalarDone c lat now d val sl sl' := by
  subst h
  by_cases ht : takes c sl = true
  · simp only [ht, if_true]
    refine ⟨wentOn_went .., fun _ => ?_, ?_⟩
    · rw [Slice.sregAt_eq, went_pend]
      refine due_getLast_append _ _ _ _ _ _ (fun p h => ?_) ?_
      · simp only [rs, List.map_cons, List.map_nil, List.mem_singleton] at h
        subst h; rfl
      · simp [rs, pendOf, hitS]
    · refine Slice.keepsBut_of_pend sl _ ((rs d.toNat (val sl)).map (pendOf sl budget (now + lat) 0)) _ (by simp) (by simp)
        (by simp) (by simp) (by simp) fun p hp t ht' => ?_
      simp only [rs, List.map_cons, List.map_nil, List.mem_singleton] at hp
      subst hp
      exact ⟨fun q j hj hfile _ => by simp [pendOf] at hfile, fun h => by simp [pendOf] at h, fun _ => ⟨rfl, rfl, ht, ht'⟩⟩
  · simp only [ht]
    refine ⟨?_, fun h => absurd h ht, ?_⟩
    · exact wentOn_went c (nextPc sl.pc) sl sl.pend
    · exact Slice.keepsBut_of_pend sl _ [] _ (by simp) (by simp) (by simp) (by simp) (by simp) fun p hp => by simp at hp

/-- Everything that a scalar word with one 32-bit result does. -/
theorem sliceWord_rs {s : State} {b : Block} {g : Gang} {sp : Split} (hi : Issues s b g sp) (hh : b.halt = none) (c : Ctl)
    (lat : Nat) (d : BitVec 8) (f : Slice → List Result) (val : Slice → Word) (hf : ∀ sl, f sl = rs d.toNat (val sl)) :
    ∃ t, sliceWord c lat f s = .next t ∧ wordDone s t b g sp (scalarDone c lat s.now d val) := by
  obtain ⟨t, h1, h2⟩ := sliceWord_done hi hh c lat f
  refine ⟨t, h1, wordDone_mono h2 fun sl sl' h => ?_⟩
  simp only [hf] at h
  exact scalarDone_of h

end Sys2Proof.Machine
end

