-- ==== Sys2Proof/Tests/Slice0.lean ====
section
/-! SUPPORT. Tests: terms that well-formedness refuses, words written out from the encoding tables, single steps on a small state, and
witnesses that meet the hypotheses of the statements. Expected values come from the tables and examples of the spec. -/

namespace Sys2Proof.Tests

open Sys2Proof Sys2Proof.Machine

/-! ### Ill-formed terms: one for each check of well-formedness -/

theorem test_wf_type : Instr.wf (.iadd {} { ty := .f16 }) = false := by decide
theorem test_wf_one_source : Instr.wf (.mov {} { a := 3 }) = false := by decide
theorem test_wf_predicate_field : Instr.wf (.sel {} { c := 9 }) = false := by decide
theorem test_wf_immediate : Instr.wf (.iadd {} { b := .imm 0x123456789 }) = false := by decide
theorem test_wf_half_register : Instr.wf (.iadd { slot := .x } { d := 64, a := 64 }) = false := by decide
theorem test_wf_half_dest : Instr.wf (.iadd { slot := .x } { d := 1, a := 2 }) = false := by decide
theorem test_wf_half_guard : Instr.wf (.iadd { slot := .x, pred := 1 } {}) = false := by decide
theorem test_wf_half_stall : Instr.wf (.iadd { slot := .x, stall := 1 } {}) = false := by decide
theorem test_wf_half_opcode : Instr.wf (.ld { slot := .y } {}) = false := by decide
theorem test_wf_compare_type : Instr.wf (.isetp {} { ty := .f32 }) = false := by decide
theorem test_wf_compare_half : Instr.wf (.isetp { slot := .y } { u := true, b := .imm 0 }) = false := by decide
theorem test_wf_pred_imm : Instr.wf (.pand {} { b := .inr true }) = false := by decide
theorem test_wf_pred_half : Instr.wf (.pand { slot := .y } { d := 1, a := 2 }) = false := by decide
theorem test_wf_memory : Instr.wf (.ld {} { off := .bytes 8, ty := .w64 }) = false := by decide
theorem test_wf_call : Instr.wf (.call {} { size := 0 }) = false := by decide
theorem test_wf_accepts : Instr.wf (.sysret {} { a := 300 }) = true := by decide
theorem test_wf_fence : Instr.wf (.fence {} { ord := .rlx }) = false := by decide
theorem test_wf_wlive : Instr.wf (.wlive {} { nv := 33 }) = false := by decide
theorem test_wf_uniform_register : Instr.wf (.rdsr {} { t := 5 }) = false := by decide

/-! ### Words written out from the encoding tables, one family of the opcode map after the other -/

/-- A full word from its fields, as R221 lays them out, with guard p7 and no stall. -/
def word (op : BitVec 10) (d a b : BitVec 8) (m : BitVec 21) : DWord := 0#1 ++ op ++ 0#3 ++ 0#1 ++ 0#1 ++ 7#3 ++ d ++ a ++ b ++ m

/-- `ISETP.lt.u p3, v4, v5`, the example of R227: D = U, COND = 2, PD = 3. -/
theorem test_decode_isetp : decodeWord .map3 (word 0x016 0b01010011 4 5 0) =
    .instr 0x016 (.isetp {} { cond := .lt, u := true, pd := 3, a := 4, b := .reg 5 }) := by decide
/-- `FADD.sat v1, v2, s3` (R225): SB is M[19], SAT is M[9]. -/
theorem test_decode_fadd : decodeWord .map3 (word 0x018 1 2 3 0x80200) =
    .instr 0x018 (.fadd {} { d := 1, a := 2, b := .sreg 3, sat := true }) := by decide
/-- `FMUL v1, v2, 1.0` (R223): the immediate holds bits 31 to 12 of 0x3F800000. -/
theorem test_decode_fmul : decodeWord .map3 (word 0x01A 1 2 0 0x13F800) =
    .instr 0x01A (.fmul {} { d := 1, a := 2, b := .imm 0x3F800000 }) := by decide
/-- `PXOR p1, p2, p3` (R267). -/
theorem test_decode_pxor : decodeWord .map3 (word 0x028 1 2 3 0) = .instr 0x028 (.pxor {} { d := 1, a := 2, b := .inl 3 }) := by decide
/-- `SADD s1, s2, -1` (R223, R248). -/
theorem test_decode_sadd : decodeWord .map3 (word 0x02B 1 2 0 0x1FFFFF) =
    .instr 0x02B (.sadd {} { d := 1, a := 2, b := .imm 0xFFFFFFFFFFFFFFFF }) := by decide
/-- `I2F.u32 v1, v2` (R225, R226): TYPE 2 in M[16:13]; the source of a one-source operation stands in A (R261). -/
theorem test_decode_i2f : decodeWord .map3 (word 0x032 1 2 0 0x4000) = .instr 0x032 (.i2f {} { d := 1, b := .reg 2, ty := .u32 }) := by decide
/-- `IMAD v1, v2, v3, v4` (R223): the third source stands in M[7:0]. -/
theorem test_decode_imad : decodeWord .map3 (word 0x080 1 2 3 4) = .instr 0x080 (.imad {} { d := 1, a := 2, b := .reg 3, c := 4 }) := by decide
/-- `SHFL.back v1, v2, v3` (R270): the mode stands in M[12:10]. -/
theorem test_decode_shfl : decodeWord .map3 (word 0x09D 1 2 3 0x800) = .instr 0x09D (.shfl {} { d := 1, a := 2, b := .reg 3, k := 2 }) := by decide
/-- `CALL`, advance 16, size 32, to the word itself (R271). -/
theorem test_decode_call : decodeWord .map3 (word 0x092 2 4 0 0x1FFFFF) = .instr 0x092 (.call {} { adv := 2, size := 4, off := 0xFFFFF }) := by decide
/-- `FRCP v1, v2` (R261, R288). -/
theorem test_decode_frcp : decodeWord .map3 (word 0x108 1 2 0 0) = .instr 0x108 (.frcp {} { d := 1, b := .reg 2 }) := by decide
/-- `ST.w64.rel.dev [v2 + 8·3], v4` (R228): SCOPE 3, TYPE 3, ORDER 2. -/
theorem test_decode_st : decodeWord .map3 (word 0x181 4 2 3 0x67000) =
    .instr 0x181 (.st {} { d := 4, a := 2, off := .elems 3, ty := .w64, ord := .rel, scope := .dev }) := by decide
/-- `BAR.arv 5` (R316). -/
theorem test_decode_bar : decodeWord .map3 (word 0x18C 0 0 5 0x100) = .instr 0x18C (.bar {} { b := 5, arv := true }) := by decide
/-- `WAITP.all s3` (R319). -/
theorem test_decode_waitp : decodeWord .map3 (word 0x192 8 3 0 0) = .instr 0x192 (.waitp {} { path := 0, all := true, a := 3 }) := by decide
/-- `TLADV.dev p1, host, s4` (R301, R320): SCOPE 3 with ORDER .acq. -/
theorem test_decode_tladv : decodeWord .map3 (word 0x19A 0b00011001 4 0 0x60800) =
    .instr 0x19A (.tladv {} { d := 1, ctx := .host, n := 4, scope := .dev }) := by decide
/-- `CREDUCE.max.f32.lv2 q3, q4` (R339). -/
theorem test_decode_creduce : decodeWord .map3 (word 0x205 0 3 4 0x48800) =
    .instr 0x205 (.creduce {} { a := 3, b := 4, op := 2, ty := .f32, lv := 2 }) := by decide
/-- A word whose opcode names an entry with V = 0 (R242, R258). -/
theorem test_decode_empty : decodeWord .map3 (word 0x3FF 0 0 0 0) = .empty := by decide
/-- A pair word of `IADD v1, v2, 5` and `NOP` (R229): OP7, D, A, IM and MX of each half. -/
theorem test_decode_pair : decodeWord .map3 (1#1 ++ 2#3 ++ 1#1 ++ 0#1 ++ (0x00#7 ++ 1#6 ++ 2#6 ++ 1#1 ++ 5#9 : BitVec 29) ++ (0x38#7 ++ 0#6 ++ 0#6 ++ 0#1 ++ 0#9 : BitVec 29)) =
    .pair 0x000 0x038 (.iadd { slot := .x } { d := 1, a := 2, b := .imm 5 }) (.nop { slot := .y, stall := 2, brk := true }) := by decide


/-! ### The spec's own worked words -/

/-- `IADD v8, v8, v1 ‖ FADD v13, v13, v6 stall=1`, the pair of the encoding chapter. -/
theorem test_worked_pair : decodeWord .map3 0x90010080060D1800 =
    .pair 0x000 0x018 (.iadd { slot := .x } { d := 8, a := 8, b := .reg 1 }) (.fadd { slot := .y, stall := 1 } { d := 13, a := 13, b := .reg 6 }) := by decide
/-- `?p1 IADD v2, v2, 1 stall=3 brk`. -/
theorem test_worked_iadd : decodeWord .map3 0x000E204040100001 =
    .instr 0x000 (.iadd { pred := 1, stall := 3, brk := true } { d := 2, a := 2, b := .imm 1 }) := by decide
/-- `CALL f, 48, 32` with the target 40 words on. -/
theorem test_worked_call : decodeWord .map3 0x1240E0C080100028 = .instr 0x092 (.call {} { adv := 6, size := 4, off := 40 }) := by decide
/-- `FFMA.rz v10, v11, v12, v13 stall=3`. -/
theorem test_worked_ffma : decodeWord .map3 0x200CE1416180080D =
    .instr 0x100 (.ffma { stall := 3 } { d := 10, a := 11, b := .reg 12, c := 13, rnd := .rz }) := by decide
/-- `LD.acq.dev v4, [v2 + 16 elements]`. -/
theorem test_worked_ld : decodeWord .map3 0x3000E08042060800 =
    .instr 0x180 (.ld {} { d := 4, a := 2, off := .elems 16, ord := .acq, scope := .dev }) := by decide
/-- `ST.64 v10, [v6]`. -/
theorem test_worked_st : decodeWord .map3 0x3020E140C0006000 = .instr 0x181 (.st {} { d := 10, a := 6, off := .elems 0, ty := .w64 }) := by decide
/-- `MMA.pin t2, q4, q5, q6`. -/
theorem test_worked_mma : decodeWord .map3 0x4800E04080A80006 = .instr 0x240 (.mma {} { d := 2, a := 4, b := 5, l := 6, pin := true }) := by decide
/-- `SENDUI.peer s4, 5, v10`. -/
theorem test_worked_sendui : decodeWord .map3 0x5000E14080A00100 = .instr 0x280 (.sendui {} { d := 10, a := 4, v := 5, peer := true }) := by decide
/-- `REGROUP 3, v12, 1`. -/
theorem test_worked_regroup : decodeWord .map3 0x1360E18000100003 = .instr 0x09B (.regroup {} { g := 3, k := 12, m1 := 0 }) := by decide
/-- `TCOPY q4, q2, q10, q3`. -/
theorem test_worked_tcopy : decodeWord .map3 0x4040E08041400003 = .instr 0x202 (.tcopy {} { d := 4, a := 2, b := 10, x := 3 }) := by decide
/-- `?p3 MIGR 1`, `WLIVE 16, 8`, `TRAPRET v4, 2` and `TRAPRET.frz`. -/
theorem test_worked_system : decodeWord .map3 0x50E0600000100009 = .instr 0x287 (.migr { pred := 3 } { named := true, rep := 1 }) ∧
    decodeWord .map3 0x5100E00000100102 = .instr 0x288 (.wlive {} { nv := 2, ns := 1 }) ∧
    decodeWord .map3 0x50C0E08020000000 = .instr 0x286 (.trapret {} { k := 4, m1 := 1 }) ∧
    decodeWord .map3 0x50C0E00000000002 = .instr 0x286 (.trapretFrz {} false) := by decide
/-- `LD.sx v4, [v2.64]` of a 4-byte element names no operation (R299; the example of the exceptions chapter). -/
theorem test_worked_illegal : decodeWord .map3 0x3000E08040000100 = .illegal 0x180 := by decide

/-! ### A small machine: one block on core 0, of one gang with one slice of four lanes -/

/-- The slice. -/
def sl0 : Slice := { num := 0, lanes := List.replicate 4 { present := true }, pc := 0x1000, vregs := [(4 * 2, 0x100), (4 * 3, 5)], sregs := [(2, 7)] }
def sp0 : Split := { slices := [0] }
def gangOf (sl : Slice) : Gang := { num := 0, slices := [sl], splits := [sp0] }
/-- The block, in context 1; its part of the vault of die 0 is the first 64 KiB. -/
def blockOf (g : Gang) : Block :=
  { id := 5, asid := 1, launch := 7, num := 0, core := 0, firstCore := 0, gangs := [g], region := { prog := 65536, nslices := 1 } }
/-- The machine whose block issues a word; context 1 maps the first GiB of addresses onto itself by one leaf. -/
def machine (b : Block) : State :=
  { State.reset with blocks := [b], cur := some (.split 5 0 0), bound := [1], cx := [(512 + 0x101, 0x1000)], mem := [(0x1000, 1), (0x1001, 0x20), (0x2000, 0x1F)], now := 40, gtime := 50000,
                     nextId := 9 }
def b0 : Block := blockOf (gangOf sl0)
def s0 : State := machine b0
def guard1 : Ctl := { pred := 1 }

theorem issues_of {s : State} {b : Block} {g : Gang} {sp : Split} (h : s.cur = some (.split b.id g.num 0) ∧ g.splitOf 0 = some sp ∧ s.blk b.id = some b ∧
    b.gang g.num = some g) : Issues s b g sp := ⟨⟨0, h.1, h.2.1⟩, h.2.2.1, h.2.2.2⟩

theorem seqIssues_of {s : State} {b : Block} (h : s.cur = some (.seq b.id) ∧ s.blk b.id = some b) : SeqIssues s b := ⟨h.1, h.2⟩

/-- A press message on its way from a base die to an L2 slice. -/
def pktN : NetPkt := { ev := .pressClear 0 1, src := .base 0, dst := .leaf 0 65, plane := 0, flits := 1, bridge := 0 }

/-! ### The networks and links, by the examples of the fabric chapter -/

/-- The load of core 25 at L2 slice 11: leaf 25 enters S1 switch 4; S2 switch 5 reaches S3 switch 1; that one sends to S2 switch 12, whose port 0 leads to S1
switch 12, which delivers to leaf 75 (R132, R134). -/
theorem test_route : let s := State.reset
    s.netNext 0 { pktN with src := .leaf 0 25, dst := .leaf 0 75 } = .buf 0 (.s1 4) 1 ∧ (linkEnd (.s2 5) 9).1 = .s3 1 ∧
    ((s.outPort 0 0 (.s3 1) 75).map fun p => (linkEnd (.s3 1) p).1) = some (.s2 12) ∧ s.outPort 0 0 (.s2 12) 75 = some 0 ∧
    (linkEnd (.s2 12) 0).1 = .s1 12 ∧ s.outPort 0 0 (.s1 12) 75 = none ∧ leafAt 12 3 = 75 := by decide
/-- A cave packet goes along its row before its column (R138). -/
theorem test_mesh : meshNext 0 63 = 1 ∧ meshNext 7 63 = 15 ∧ meshNext 63 0 = 62 := by decide
/-- The packets of R145: a scatter of 32 values of 8 bytes takes 336 bytes, and 326 with a compressed header; a gather of 32 values of 4 bytes 80 and 70. -/
def scatter : VPkt := { kind := 2, esz := 8, dst := 1, src := 0, ctx := 1, page := 0, rid := 3, aop := 0, offs := List.replicate 32 0, data := List.replicate 32 0 }
theorem test_packets : (pktBytes scatter).length = 336 ∧ (pktBytes { scatter with compressed := true }).length = 326 ∧
    (let g := { scatter with kind := 1, esz := 4, data := [] }
     (pktBytes g).length = 80 ∧ (pktBytes { g with compressed := true }).length = 70) := by decide +kernel

/-! ### States and operands that meet the hypotheses of the statements -/

/-- IntegerWords, FloatWords, Conversions, SelectMaskDot, PairWords, ConversionsByType, PredicateWords, CompareWords, AddWithCarry,
SpecialFunctions, ScalarWords, ScalarCompareNop, CrossLaneWords, ReduceAndPack: a split issues, its block runs. -/
theorem test_meets_words : Issues s0 b0 (gangOf sl0) sp0 ∧ b0.halt = none ∧ (gangOf sl0).budget ≠ 1 :=
  ⟨issues_of (by decide), by decide⟩

/-- DivergenceWords at its boundary: BRK 253 sets the counters of the active lanes to 255. -/
theorem test_meets_divergence : Issues s0 b0 (gangOf sl0) sp0 ∧ b0.halt = none ∧ ∀ r ∈ Terms.nestRows {} 0 false 253,
    ∀ sl ∈ memberSlices (gangOf sl0) sp0, ∀ j, Terms.counted sl j → r.2 (sl.lane j) ≤ 255 := by
  refine ⟨issues_of (by decide), by decide, fun r hr sl hs j hj => ?_⟩
  have hs : sl = sl0 := by simpa [memberSlices, gangOf, sp0, sl0] using hs
  subst hs
  have hl : j ∈ [0, 1, 2, 3] := hj.2.1
  clear hj
  revert r hr j
  decide

/-- BranchWords: the slices agree under .uni; outside a whey launch every target stays, in one an address of the segment. -/
theorem test_meets_branches : Issues s0 b0 (gangOf sl0) sp0 ∧ b0.halt = none ∧ s0.wheyGo b0 (Terms.target 0x1000 0x80000) = none ∧
    (let b := { b0 with whey := some (7, 0) }
     ({ machine b with wheys := [{ launch := 7, segs := [(0x1000, 2, [(0, 0, 0)])] }] } : State).wheyGo b 0x1008 = none) ∧
    ∀ x ∈ memberSlices (gangOf sl0) sp0, ∀ y ∈ memberSlices (gangOf sl0) sp0, x.pc = y.pc := ⟨issues_of (by decide), by decide⟩

/-- IndirectWords: v2 and v3 of the taking lane hold an address that is a multiple of 8; a frame of 16 registers fits, and one of 32 fits with
a spill. -/
def slX : Slice := { sl0 with lanes := { present := true } :: List.replicate 3 {} }
theorem test_meets_indirect : let g := gangOf slX
    let b := blockOf g
    Issues (machine b) b g sp0 ∧ b.halt = none ∧ ∀ sl ∈ memberSlices g sp0, Terms.agrees (machine b) b {} g.budget 2 sl ∧ Terms.staysAt (machine b) b 0x1008 ∧
      sl.ret.length < 16 ∧ sl.spill = [] ∧ sl.base + 8 * 2 + 8 * 2 - sl.low ≤ g.budget ∧ Terms.frame (machine b) b g 2 4 sl ≠ none :=
  ⟨issues_of (by decide), by decide, fun sl h => by
    have h : sl = slX := by simpa [memberSlices, gangOf, sp0, slX, sl0] using h
    subst h; exact ⟨⟨by decide, by decide, rfl, by decide⟩, rfl, by decide, by decide, by decide, by decide⟩⟩

/-- ReturnWord: two return entries are left. -/
def slR : Slice := { sl0 with ret := [{ addr := 0x2000, adv := 8, n := 16 }, { addr := 0x3000, adv := 0, n := 32 }] }
theorem test_meets_return : let g := gangOf slR
    Issues (machine (blockOf g)) (blockOf g) g sp0 ∧ (blockOf g).halt = none ∧ (machine (blockOf g)).wheyGo (blockOf g) 0x2000 = none ∧
    ∀ sl ∈ memberSlices g sp0, Terms.branches {} sl → sl.spill = [] ∧ ∃ e f r, sl.ret = e :: f :: r :=
  ⟨issues_of (by decide), by decide, by decide, fun sl h _ => by
    have h : sl = slR := by simpa [memberSlices, gangOf, sp0, slR, sl0] using h
    subst h; exact ⟨rfl, _, _, _, rfl⟩⟩

/-- RoundTripVector, RoundTripMemory, RoundTripControl, RoundTripPair: well-formed words with an encoding. -/
theorem test_meets_encoding :
    (let i : Instr := .iadd {} { d := 255, a := 1, b := .imm 0xFFFFFFFFFFF80000 }; i.ctl.slot = .full ∧ i.wf ∧ (encode i).isSome = true) ∧
    (let i : Instr := .ld {} { d := 1, a := 2, off := .elems 255, ty := .u32 }; i.ctl.slot = .full ∧ i.wf ∧ (encode i).isSome = true) ∧
    (let i : Instr := .bra { pred := 0 } { off := 0x80000 }; i.ctl.slot = .full ∧ i.wf ∧ (encode i).isSome = true) ∧
    let x : Instr := .iadd { slot := .x } { d := 63, a := 2, b := .imm 0xFFFFFFFFFFFFFF00 }
    let y : Instr := .nop { slot := .y, stall := 2, brk := true }
    x.ctl.slot = .x ∧ y.ctl.slot = .y ∧ x.wf ∧ y.wf ∧ (encodePair x y).isSome = true := by decide

/-- VaultReadWrite at the last bytes of a die's vaults, and MemoryReadWrite. -/
theorem test_meets_read_write : (2 ^ 28 - 4) % 2 ^ 28 + 4 ≤ 2 ^ 28 ∧ ∀ d < 8, ∀ x, mget (s0.die d).l2 7 = some x → x.tokn ≠ 0 :=
  ⟨by decide, fun _ _ _ h => nomatch (show (none : Option L2Sector) = _ from h)⟩

/-- StepKeepsMemory and StepRunsEvent: the machine with one due step, the turning of a die; with the message `pktN`, which crosses
its first link. -/
theorem test_meets_step : (let s := { State.reset with work := [.turning 7] }
     s.memWf = true ∧ s.plan = [] ∧ s.arrived (.turning 7) = true ∧ ∃ t, step s = .next t) ∧
    let s := { State.reset with work := [.pressClear 0 1], net := [pktN] }
    s.dueStep = none ∧ s.canHop 0 = true ∧ s.net[0]? = some pktN := ⟨⟨by decide, rfl, by decide, _, rfl⟩, by decide⟩

/-- A slice with one lane. -/
def slV (regs : List (Nat × Word)) (sregs : List (Nat × Word)) : Slice :=
  { num := 0, lanes := { present := true } :: List.replicate 3 {}, pc := 0x1000, vregs := regs.map fun x => (4 * x.1, x.2), sregs }
def mach (sl : Slice) : State := machine (blockOf (gangOf sl))

theorem issues_mach (sl : Slice) (_ : sl.num = 0) : Issues (mach sl) (blockOf (gangOf sl)) (gangOf sl) sp0 :=
  ⟨⟨0, rfl, rfl⟩, rfl, rfl⟩

theorem member_mach (sl : Slice) (h : sl.num = 0) : memberSlices (gangOf sl) sp0 = [sl] := by simp [memberSlices, gangOf, sp0, h]

/-- MemoryWords: the first row, a releasing LD of an aligned address, and its part STV at the last word of the block's own vault. -/
theorem test_meets_memory : let sl := slV [(2, 65532), (3, 5)] []
    let s := mach sl
    Issues s (blockOf (gangOf sl)) (gangOf sl) sp0 ∧ (∀ p, accCount sl.acc p < 63) ∧
    (∃ r ∈ Terms.memRows {} { d := 1, a := 2, ord := .rel } 32, r.ctl = false ∧ (r.part sl 0).addr % r.esz = 0 ∧
      relAll s (blockOf (gangOf sl)) (gangOf sl) sp0 [sl] r.scope = none) ∧
    s.vaultOk (blockOf (gangOf sl)) 65532 4 = true ∧ s.vaultOk (blockOf (gangOf sl)) 65536 4 = false ∧ s.hitsArmed 0 65532 4 = false :=
  ⟨issues_mach _ rfl, fun _ => Nat.zero_lt_succ _, ⟨_, List.Mem.head _, rfl, rfl, rfl⟩, by decide⟩

/-- VaultAccess at the last word of the block's vault: a load and a store. -/
def acc0 (k : AccKind) (st : PartSt) (p : Nat) : Access :=
  { id := 3, who := ⟨5, 0, 0⟩, path := p, kind := k, esz := 4, asid := 1, pc := 0x1000, parts := [{ lane := 0, addr := 65532, dst := 6, data := 0x99, st }], grp := 3 }
theorem test_meets_vault_access : ∀ k ∈ [AccKind.vload true, .vstore], let a := acc0 k .todo 0
    let sl := { sl0 with acc := [a] }
    let s := mach sl
    s.slice ⟨5, 0, 0⟩ = some sl ∧ s.blk 5 = some (blockOf (gangOf sl)) ∧ s.accOf 3 = some a ∧ s.siblings a = [] ∧ s.order a = [a] ∧ s.upsets = [] ∧
    (∀ x ∈ s.allAccs, ∀ q ∈ x.parts, q.st = .todo) ∧ 65532 % 2 ^ 28 + 4 ≤ 2 ^ 28 ∧ s.badVaultAt 0 65532 4 = false := by decide

/-- ReadSpecial and WriteSpecial: one slice that is not frozen; each register of the table of WRSR has a row. -/
theorem test_meets_special : let sl := slV [] []
    Issues (mach sl) (blockOf (gangOf sl)) (gangOf sl) sp0 ∧ memberSlices (gangOf sl) sp0 = [sl] ∧ sl.frozen = false ∧ effLanes {} sl ≠ [] ∧
    (0x100, 1) ∈ Terms.cxRows ∧ (0x11E, 0x80000FFF00000000) ∈ Terms.cxRows := ⟨issues_mach _ rfl, by decide⟩

/-- FenceWord, WaitWords, RunWords: nothing is in flight, so every release is complete; a lane stays when the others exit. -/
theorem test_meets_waits : let sl := sl0
    let s := mach sl
    let b := blockOf (gangOf sl)
    Issues s b (gangOf sl) sp0 ∧ takes {} sl = true ∧ (∀ sc, relAll s b (gangOf sl) sp0 [sl] sc = none) ∧
    (∀ k < 8, accCount sl.acc k ≤ min (sl.s 2).toNat 63) ∧ (sl.s64 4).toNat ≤ (b.tlOf .copy).counter ∧ b.yreq = false ∧ b.isHandler = false ∧
    b.bars = [] ∧ sl.syncm = [] ∧ (3 ∈ sl.live ∧ 3 ∉ effLanes { pred := 1 } sl) ∧ ∀ sc, (s.tlRelease b sc).1 = true :=
  ⟨issues_mach _ rfl, by decide, fun sc => by cases sc <;> rfl, by decide, by decide, by decide, by decide, by decide, by decide, by decide,
   fun sc => by cases sc <;> rfl⟩

/-- JoinWords: two slices at one REGANG; the last arrival at a barrier; a SYNCM that names the lanes that take it. -/
theorem test_meets_joins :
    (let x := sl0
     let y := { sl0 with num := 7 }
     let g : Gang := { num := 0, slices := [x, y], splits := [sp0, { slices := [7], wait := .regang 0x81 }] }
     Issues (machine (blockOf g)) (blockOf g) g sp0 ∧ (0x81 : BitVec 8).getLsbD x.num = true ∧ (0x81 : BitVec 8).getLsbD y.num = true ∧ x.pc = y.pc ∧
     x.live ≠ [] ∧ y.live ≠ []) ∧
    (let g := gangOf sl0
     let b := { blockOf g with bars := [{ declared := true, expected := 1 }] }
     Issues (machine b) b g sp0 ∧ b.barSettle = b ∧ relAll (machine b) b g sp0 [sl0] .blk = none ∧ b.bars[0]? = some { declared := true, expected := 1 }) ∧
    (let sl := { sl0 with vregs := [(20, 0xF), (21, 0xF), (22, 0xF), (23, 0xF)] }
     (∀ j ∈ effLanes {} sl, sl.v 32 5 j = 0xF ∧ (0xF : Word).getLsbD (4 * sl.num + j) = true) ∧
     ∀ k < 32, (0xF : Word).getLsbD k = true → ∃ j ∈ effLanes {} sl, k = 4 * sl.num + j) :=
  ⟨⟨issues_of (by decide), by decide⟩, ⟨issues_of (by decide), by decide, rfl, rfl⟩, by decide⟩

/-- BarrierWords: an unarmed slot at the last 16 bytes of the block's vault, and an armed one at 0x100 with PEND at its greatest value but one. -/
def slotVault : List Host.Cell := [(0x10A, 2), (0x10C, 0xFE), (0x10D, 0xFF), (0x10E, 0xFF), (0x10F, 0x41)]
theorem test_meets_barriers : let sl := slV [(2, 65520), (4, 0x100), (6, 1)] []
    let s := { mach sl with vault := slotVault }
    let b := blockOf (gangOf sl)
    let slot := s.vlRd 0 0x100 16
    Issues s b (gangOf sl) sp0 ∧ takes {} sl = true ∧ (∀ sc, relAll s b (gangOf sl) sp0 [sl] sc = none) ∧ (∀ p < 2, accCount sl.acc p < 63) ∧
    s.vaultOk b 65520 16 = true ∧ s.vlRd 0 65520 16 / 2 ^ 126 ≠ 1 ∧ (sl.v 32 6 0).toNat % 2 ^ 16 ≠ 0 ∧
    s.vaultOk b 0x100 16 = true ∧ slot / 2 ^ 126 % 4 = 1 ∧ slot / 2 ^ 96 % 2 ^ 26 = 2 ^ 25 - 2 :=
  ⟨⟨⟨0, rfl, rfl⟩, rfl, rfl⟩, by decide, fun sc => by cases sc <;> rfl, by decide⟩

/-- CopyWords: a tensor of two rows of 32-bit elements in the vault; the element at its last position; an aligned source and destination. -/
def descVault : List Host.Cell := [(0x201, 1), (0x208, 4), (0x20C, 2), (0x210, 16), (0x233, 0x18)]
theorem test_meets_copies : let sl := slV [(2, 0x200), (4, 3), (5, 1), (6, 0x80), (8, 0x100), (9, 0)] []
    let s := { mach sl with vault := descVault }
    let b := blockOf (gangOf sl)
    let d := s.descAt 0 0x200
    Issues s b (gangOf sl) sp0 ∧ effLanes {} sl = [0] ∧ descBusy sl 0x200 = false ∧ s.vaultOk b 0x200 64 = true ∧ d.ok true false = true ∧ d.vault = true ∧ etypeSize d.etype = 4 ∧
    (0 ≤ (sl.v 32 4 0).toInt ∧ (sl.v 32 4 0).toInt < d.dim0 ∧ 0 ≤ (sl.v 32 5 0).toInt ∧ (sl.v 32 5 0).toInt < d.dim1) ∧
    (d.base + 1 * d.stride + 3 * 4) % 4 = 0 ∧ s.vaultOk b (d.base + 1 * d.stride + 3 * 4) 4 = true ∧
    s.vaultOk b 0x80 16 = true ∧ s.hitsArmed 0 0x80 16 = false ∧ (sl.v64 32 8 0).toNat % 16 = 0 ∧ (∀ sc, relAll s b (gangOf sl) sp0 [sl] sc = none) :=
  ⟨⟨⟨0, rfl, rfl⟩, rfl, rfl⟩, by decide +kernel, by decide +kernel, by decide +kernel, by decide +kernel, by decide +kernel, by decide +kernel, by decide +kernel, by decide +kernel, by decide +kernel, by decide +kernel, by decide +kernel, by decide +kernel,
   fun sc => by cases sc <;> rfl⟩

/-- CacheWords and MarkWords: a context in use; a watched word that differs; map 1 for DECLD; one tracked device. -/
theorem test_meets_caches_marks : let sl := { slV [(2, 65532), (4, 1)] [(2, 1), (4, 1)] with devs := [3] }
    let s := mach sl
    let b := blockOf (gangOf sl)
    Issues s b (gangOf sl) sp0 ∧ takes {} sl = true ∧ s.inUse ((sl.s 2).toNat % 4096) = true ∧ 65532 % 4 = 0 ∧ s.vaultOk b 65532 4 = true ∧
    BitVec.ofNat 32 (s.vlRd 0 65532 4) ≠ sl.v 32 4 0 ∧ (sl.s64 4).toNat % 4 = 1 ∧ (sl.s64 4).toNat / 4 % 512 = 0 ∧ accCount sl.acc 3 < 63 ∧ sl.devOvf = false ∧ sl.unposted = false :=
  ⟨issues_mach _ rfl, by decide⟩

/-- QueueWords: queue 511 of die 0 takes launches, queue 1 the node's entries, and a notice at 0x40 of the vault passes its checks. -/
def qdie : Die := { qbind := [(1, 0xC0000001), (511, 0xA0000001)], qctl := [(1, 0x100100), (511, 0x100)] }
def noticeVault : List Host.Cell := [(0x41, 2), (0x49, 3), (0x4C, 0x10), (0x58, 1), (0x57, 0x80)]
theorem test_meets_queues : let sl := slV [(2, 0x40), (4, 0x40)] []
    let s := { mach sl with dies := [(0, qdie)], cx := [(512 + 0x101, 0x1000), (512 + 0x10D, 0x3000)], mem := s0.mem ++ [(0x3008, 1)], vault := noticeVault }
    let b := blockOf (gangOf sl)
    Issues s b (gangOf sl) sp0 ∧ effLanes {} sl = [0] ∧ relAll s b (gangOf sl) sp0 [sl] .dev = none ∧
    s.launchQueue 0 511 1 = true ∧ s.grants 0 511 = true ∧ (s.readRecord 1 0x40).isLeft = true ∧
    s.nodeOf 1 0 = some (0, 1, 0, 0) ∧ s.emitFull 0 1 1 = false ∧ s.grants 0 1 = true ∧ s.vaultOk b 0x40 64 = true ∧
    s.kickChk b 0x40 = none ∧ (s.noticeAt b 0x40).tdev = s.devNum ∧ (s.noticeAt b 0x40).tasid = s.accAsid b sl ∧ (s.noticeAt b 0x40).sv = true :=
  ⟨⟨⟨0, rfl, rfl⟩, rfl, rfl⟩, by decide, rfl, by decide +kernel⟩

/-! ### Interrupts, system calls, traps -/

/-- Context 1 with an interrupt block at 0x4000, a permission table of one entry at 0x5000 and rings of system calls. -/
def uiCx : List (Nat × DWord) := [(512 + 0x101, 0x1000), (512 + 0x113, 0x4000), (512 + 0x114, 0x5000), (512 + 0x115, 1), (512 + 0x118, 0x8000)] ++
  [(512 + 0x119, 1), (512 + 0x11B, 0x10000), (512 + 0x11C, 1)]
/-- The entry permits context 1 to send vector 63. -/
def uiMem : List Host.Cell := s0.mem ++ [(0x5000, 1), (0x5007, 0x40), (0x500F, 0x80), (0x8002, 1)]

/-- InterruptWords: the addresses of the interrupt block translate; vector 63 may be sent; device 4 is a peer. -/
theorem test_meets_interrupts : let sl := slV [(2, 5)] [(2, 1), (4, 4 * 4096 + 1)]
    let s := { mach sl with cx := uiCx, mem := uiMem, members := [4] }
    let b := blockOf (gangOf sl)
    Issues s b (gangOf sl) sp0 ∧ (∀ sc, relAll s b (gangOf sl) sp0 [sl] sc = none) ∧ takes {} sl = true ∧ s.uiBase 1 ≠ 0 ∧
    (s.xlat 1 0x4000 .any).isLeft = true ∧ (s.xlat 1 0x4008 .any).isLeft = true ∧ (s.uiSend 1 63 7 (.loc 1)).isLeft = true ∧
    (sl.s 4).toNat / 4096 % 512 ≠ s.devNum ∧ 4 ∈ s.members :=
  ⟨⟨⟨0, rfl, rfl⟩, rfl, rfl⟩, fun sc => by cases sc <;> rfl, by decide +kernel⟩

/-- SystemCall and SystemReturn, each with one lane and the lowest or the only slot. -/
theorem test_meets_calls : let sl := slX
    let s := { machine (blockOf (gangOf sl)) with cx := uiCx, mem := uiMem }
    let b := blockOf (gangOf sl)
    let r : ScRec := { id := 4, asid := 1, host := false, who := ⟨5, 0, 0⟩, lanes := [(0, 9, [])], posted := true, num := 3 }
    let t := { mach (slV [] [(2, 1)]) with cx := uiCx, mem := uiMem, sc := [r] }
    Issues s b (gangOf sl) sp0 ∧ sp0.made = false ∧ effLanes {} sl = [0] ∧ s.callOk 1 0x800 = true ∧ relAll s b (gangOf sl) sp0 [sl] .sys = none ∧ s.sc = [] ∧
    t.inUse 1 = true ∧ t.scRing 1 false = (0x8000, 1, 0) ∧ t.vrd 1 0x8002 1 = some 1 ∧ (t.slice ⟨5, 0, 0⟩).isSome = true :=
  ⟨⟨⟨0, rfl, rfl⟩, rfl, rfl⟩, by decide +kernel⟩

/-- TrapReturn: a handler lane whose origin's entry ends where the die's vaults end; a frozen slice with nothing in flight. -/
def org0 : Origin := { blk := 5, gang := 0, slice := 0, lane := 0, seq := false, code := 0x0D, entry := 2 ^ 28 - 160 }
theorem test_meets_trap_return :
    (let b := { blockOf (gangOf slX) with isHandler := true, handlerOf := [org0] }
     Issues (machine b) b (gangOf slX) sp0 ∧ effLanes {} slX = [0] ∧ b.handlerOf[4 * slX.num + 0]? = some org0 ∧ (machine b).blk org0.blk = some b ∧
     (0 : Nat) + 31 + 1 ≤ 32 ∧ org0.entry % 2 ^ 28 + 160 ≤ 2 ^ 28) ∧
    (let sl := { sl0 with frozen := true }
     Issues (mach sl) (blockOf (gangOf sl)) (gangOf sl) sp0 ∧ takes {} sl = true ∧ sl.acc = [] ∧ sl.num ≠ seqSlice) :=
  ⟨⟨⟨⟨0, rfl, rfl⟩, rfl, rfl⟩, by decide⟩, ⟨⟨0, rfl, rfl⟩, rfl, rfl⟩, by decide⟩

/-- InterruptReturn: the gang runs as the handler, and nothing is pending. -/
theorem test_meets_interrupt_return : let s := { s0 with ui := [{ asid := 1, hnd := some (5, 0), running := some (5, 0) }] }
    Issues s b0 (gangOf sl0) sp0 ∧ takes {} sl0 = true ∧ sl0.live ≠ [] ∧ (s.uiOf 1).running = some (5, 0) ∧ s.uiVector 1 = none :=
  ⟨⟨⟨0, rfl, rfl⟩, rfl, rfl⟩, by decide +kernel⟩

/-- MigrateWord in a whey launch: replica 3 of segment 0 stands on core 511, which has its last backing slot free. -/
theorem test_meets_migrate : let b := { b0 with whey := some (7, 0) }
    let s := { machine b with wheys := [{ launch := 7, segs := [(0, 1, [(0, 0, 0), (3, 511, 0)])] }], cores := [(511, { backing := 2, backUsed := 1 })] }
    Issues s b (gangOf sl0) sp0 ∧ takes {} sl0 = true ∧ b.halt = none ∧ sl0.acc = [] ∧
    ((s.segs 7)[0]?.bind fun x => x.2.2.find? fun r => r.1 == 3) = some (3, 511, 0) ∧ 511 ≠ b.core ∧ (s.core 511).inService = true ∧ (s.core 511).backUsed < (s.core 511).backing :=
  ⟨⟨⟨0, rfl, rfl⟩, rfl, rfl⟩, by decide⟩

/-- Breakpoint: trap control is valid. -/
theorem test_meets_breakpoint : let b := { b0 with seq := { stop := true } }
    let s := { machine b with cx := [(512 + 0x11E, 0x8000000000000000)] }
    Issues s b (gangOf sl0) sp0 ∧ sl0.frozen = false ∧ effLanes {} sl0 ≠ [] ∧ sl0.acc = [] ∧ s.sup 1 = false ∧ (s.cxr 1 0x11E).getLsbD 63 = true ∧
    (∀ j < 4, b.entryAddr 0 (4 * sl0.num + j) + 160 ≤ 2 ^ 28) ∧ sl0.num < 8 := ⟨⟨⟨0, rfl, rfl⟩, rfl, rfl⟩, by decide⟩

/-- RegroupWord: the partner gang 1 has retired; all 32 registers are named. -/
theorem test_meets_regroup : let h : Gang := { num := 1, retired := true }
    let b := { b0 with gangs := [gangOf sl0, h] }
    Issues (machine b) b (gangOf sl0) sp0 ∧ b.gang 1 = some h ∧ (∀ sl ∈ (gangOf sl0).slices, sl.live ≠ [] → sl.ret = [] ∧ sl.active = sl.live) ∧
    (∀ sl ∈ (gangOf sl0).slices, ∀ a ∈ sl.acc, a.kind.loads = true → a.complete = true) ∧ 0 + 31 + 1 ≤ (gangOf sl0).budget :=
  ⟨⟨⟨0, rfl, rfl⟩, rfl, rfl⟩, by decide⟩

/-- UniformWords, EngineIssue and UniformModes: a sequencer issues; QLD of the last 8 bytes of the block's vault; a leave is held. -/
def bq : Block := { b0 with seq := { qregs := [(2, 65528), (3, 5)] }, leaveHeld := true, levels := [(2, .blk, 0)], bars := [{ expected := 2 }] }
def sq : State := { machine bq with cur := some (.seq 5) }
theorem test_meets_uniform : SeqIssues sq bq ∧ bq.halt = none ∧ (∀ p < 8, accCount bq.seq.acc p < 63) ∧ (bq.seq.q 4).toNat ≤ sq.gtime ∧
    (lo32 (bq.seq.q 2) + lo32 (offOf 8 (.bytes 0))).toNat % 8 = 0 ∧ sq.vaultOk bq 65528 8 = true :=
  ⟨⟨rfl, rfl⟩, rfl, fun _ _ => Nat.zero_lt_succ _, by decide⟩
theorem test_meets_engine_issue : SeqIssues sq bq ∧ bq.leaveHeld = true ∧ (∀ k, (bq.ops.filter fun x => x.ctx == k && !x.done).length < 16) ∧
    (fmtGroup bq.fmt).isSome = true ∧ { sq with level := 3 }.level ≠ 1 ∧ coopOk 0 = true ∧ (∃ i, bq.levels.findIdx? (fun x => x.1 == 2) = some i ∧ i ≤ 0) :=
  ⟨⟨rfl, rfl⟩, rfl, fun _ => Nat.zero_lt_succ _, by decide, by decide, by decide, 0, by decide⟩
theorem test_meets_uniform_modes : SeqIssues sq bq ∧ bq.sigs = [] ∧ (bq.tlOf .copy).counter < (bq.seq.q 3).toNat ∧ (bq.seq.q 0).toNat ≤ (bq.tlOf .copy).counter ∧
    bq.barSettle = bq ∧ (∃ x, bq.bars[0]? = some x ∧ (x.seqArrived ≠ 0 ∨ x.expected ≠ x.arrived.length + 1)) ∧
    (∀ sc, (sq.release ⟨5, 16, seqSlice⟩ sc).1 = true ∧ (sq.tlRelease bq sc).1 = true) :=
  by
  have h : ∀ sc, (sq.release ⟨5, 16, seqSlice⟩ sc).1 = true ∧ (sq.tlRelease bq sc).1 = true := fun sc => by cases sc <;> exact ⟨rfl, rfl⟩
  exact
  ⟨⟨rfl, rfl⟩, by decide, by decide, by decide, by decide, ⟨_, rfl, by decide⟩, h⟩

/-! ### The device's own steps: states that meet the hypotheses of each clause -/

/-- StepRunsWord: the schedule's turn is the split's, at a word of zeros, `IADD v0, v0, v0` under guard p0. -/
def slP : Slice := { sl0 with pc := 0x3000 }
def die0 : Die := { tlb := [{ asid := 1, vpage := 0, size := 30, entry := 0x1F, unit := tlbUnit 1 0x3000 }] }
def sRun : State := { mach slP with plan := [.issue (.split 5 0 0)], now := 100, level := 3, dies := [(0, die0)] }
def runs0 : Bool :=
  match sRun.mayIssue (.split 5 0 0) with
  | some (.inl x) => (match State.fetch { sRun with plan := [] } x.b (x.g.splitPc x.sp) with
    | .word w sf => (match decodeWord x.b.table w with
      | .instr _ i => sf.upsets.isEmpty &&
        let s1 := sf.startRun x
        (match ((s1.core x.b.core).ports.getD x.g.port {}).take s1.now (.instr 0 i) with
        | some p =>
          let s2 := (s1.modCore x.b.core fun c =>
            { c with ports := c.ports.mapIdx fun n q => if n == x.g.port then { p with last := some s1.now } else q }).beginSplit x w
          ((s2.blk 5).bind fun b => b.gang 0).any fun g => (g.splitOf 0).any fun sp => (s2.wordFault b0 false g sp w).isNone
        | none => false)
      | _ => false)
    | _ => false)
  | _ => false
theorem test_meets_step_word : runs0 = true := by decide +kernel
/-- The sequencer's turn, at the word `QADD s3, s4, 16` (R332). -/
def bSeq : Block := { b0 with unif := true, seq := { pc := 0x3000 } }
def sSeq : State := { machine bSeq with plan := [.issue (.seq 5)], level := 3, dies := [(0, die0)], mem := s0.mem ++ [(0x3000, 0x10), (0x3002, 0x10), (0x3003, 0x80), (0x3004, 0x60), (0x3005, 0xE0), (0x3006, 0x20), (0x3007, 0x41)] }

def runsSeq : Bool :=
  match sSeq.mayIssue (.seq 5) with
  | some (.inr b) => (match State.fetch { sSeq with plan := [] } b b.seq.pc with
    | .word w sf => sf.upsets.isEmpty && (match decodeWord b.table w with
      | .instr _ i => let s2 := sf.beginSeq b.id w
        (s2.blk 5).any fun b' => (s2.wordFault b' true { num := 16 } { slices := [] } w).isNone && (heldBy b'.seq i).isNone
      | _ => false)
    | _ => false)
  | _ => false
theorem test_meets_step_seq : runsSeq = true := by decide +kernel
/-- A step of the machine runs the word: the program counter advances by 8 (R232), and `QADD` adds 16 to s4 (R332). -/
theorem test_step_split : (match step sRun with | .next t => (t.slice ⟨5, 0, 0⟩).map fun x => x.pc | _ => none) = some 0x3008 := by decide +kernel
theorem test_step_seq : (match step sSeq with | .next t => (t.blk 5).map fun b => (b.seq.pc, b.seq.qAt 1000 3) | _ => none) = some (0x3008, 16) := by decide +kernel

/-- PlatformSteps: the level may rise; firmware has booted, or its image has failed; a home at this device. -/
theorem test_meets_platform : let s := { State.reset with fwState := 1, level := 2 }
    s.powered = true ∧ s.noUnits = true ∧ s.fwFlash = [] ∧ s.level.toNat < s.cap.toNat ∧ s.homeHere 0 = true ∧ State.reset.level = 0 ∧ State.reset.fwState = 0 ∧
    (0x11E, 0x80000FFF00000000) ∈ Terms.cxRows ∧ errKey (.errLnk 47) = some 111 := by decide

/-- EvacuationLinks: each phase of an evacuation, a home with all its tokens, a range of two devices. -/
theorem test_meets_evacuation : let s := { State.reset with homes := [(0, {})], members := [1] }
    (0x8001000000000000 : DWord).getLsbD 63 = true ∧ (∀ x ∈ s.homes, s.homeHere x.1 = true → (s.home x.1).tokn = (s.home x.1).t) ∧
    (∀ x ∈ s.homes, s.homeHere x.1 = true → s.allHome x.1 = true) ∧ (∀ x ∈ s.homes, s.inRange 0 64 x.1 = true → s.allHome x.1 = true) ∧
    ([2, 3, 4, 5, 6, 7, 8, 9] : List Nat).length ≤ 64 / 8 ∧ (∀ m ∈ s.markersOut, m.who ≠ evacWho) ∧ s.noUnits = true ∧ linkOk (.kazath 47) = true ∧ linkOk (.kazath 48) = false ∧ ∀ d < 8, (s.die d).heldActs = [] := by decide

/-- A launch record of one block of four lanes: level 0 is the block, level 1 the device. -/
def record : List Byte := leBytes 4 (2 ^ 24 + 2 * 2 ^ 20) ++ leBytes 4 32 ++ leBytes 8 0 ++ leBytes 4 (2 * 2 ^ 29 + 4) ++ leBytes 4 (6 * 2 ^ 29 + 4 * 2 ^ 26 + 1) ++
  List.replicate 24 0 ++ leBytes 8 0x1000 ++ leBytes 8 0 ++ leBytes 8 77 ++ leBytes 8 0x3000 ++ leBytes 8 9 ++ List.replicate 40 0
/-- Die 0 with queue 511 of the context's doorbell ring, queue 1 of slots; a ring of one free and one filled entry. -/
def qd : Die := { qbind := [(1, 0xE0000001), (511, 0x80000001)], qctl := [(1, 0x100), (511, 0x100)] }
def qs0 : State := { State.reset with bound := [1], dies := [(0, qd)], level := 3, cx := [(512 + 0x101, 0x1000), (512 + 0x109, 0x4000), (512 + 0x10A, 2), (512 + 0x10C, 1)], mem := s0.mem }
def slotE : BitVec 256 := BitVec.ofNat 256 (0x4000 + 10 * 2 ^ 128 + 2 ^ 160 + 2 ^ 183)

theorem test_meets_queue_steps :
    qs0.inUse 1 = true ∧ qs0.qbindOf 0 511 = some (0, 1) ∧ qs0.grants 0 511 = true ∧ (qs0.cxr 1 0x10A).toNat % 2 ^ 17 ≠ 0 ∧
    0 % 2 ≠ (qs0.cxr 1 0x10C).toNat % 2 ^ 16 % 2 ∧
    (let s := { qs0 with slots := [(504, slotE)], slotHeld := [(504, 6)] }
     s.qbindOf 0 1 = some (3, 1) ∧ 504 % 8 = 0 ∧ (s.slotOf 504).toNat / 2 ^ 160 % 2 ^ 16 = 1 ∧ mget s.slotPrev 504 = none ∧ s.grants 0 1 = true) ∧
    (let e := slotE.toNat
     e / 2 ^ 183 % 2 = 1 ∧ e / 2 ^ 64 % 2 ^ 64 ≤ qs0.gtime ∧ e / 2 ^ 181 % 4 = 0) ∧
    ({ qs0 with launches := [{ id := 7, asid := 1, die := 0, queue := 1, lrec := parseRec [], addr := 0, nblocks := 1, slot := some (504, 6) }] } : State).slotLive 504 6 = true ∧
    (let s := { qs0 with dies := [(0, { qd with queues := [(511, [.launch record 0x4000 1 0 none none []])] })] }
     let r := parseRec record
     s.choose 0 = some (511, 0, .launch record 0x4000 1 0 none none []) ∧ recordBad record 0x4000 = none ∧ r.whey = false ∧ r.has 3 = false ∧ r.has 4 = false ∧
     r.blocks = 1 ∧ s.coreRuns 511 = true ∧ s.fits r 511 = true) := by decide +kernel

/-- QueueSteps: a block that has ended; a launch that is complete; leaves; waits that end; words that name no operation. -/
def launch0 : Launch := { id := 7, asid := 1, die := 0, queue := 511, lrec := parseRec record, addr := 0x4000, nblocks := 1 }
theorem test_meets_ends :
    (let b := { b0 with gangs := [{ gangOf sl0 with retired := true }], seq := { ended := true } }
     (machine b).blk 5 = some b ∧ b.ended = true) ∧
    (let l := { launch0 with retired := 1, phase := 1 }
     let s := { qs0 with launches := [l] }
     s.launches.find? (fun x => x.id == 7) = some l ∧ l.nblocks ≤ l.retired ∧ s.complWaits 7 = false ∧ s.complRoom l = true ∧ paClass 0x3000 ≠ some .host ∧ (s.xlat 1 0x3000 .store).isLeft = true ∧ s.place 0x3000 = .tokens) ∧
    (let s := { s0 with dies := [(0, { gov := { queue := [(5, some .copy)], grants := [0] } })] }
     s.leavesHeld 0 < (s.die 0).gov.limit ∧ ((s.die 0).gov.grants.filter fun x => s.gtime < x + 100).length < 8) ∧
    (let b := { b0 with leaves := [.copy] }
     b.open' .copy = [] ∧ .copy ∈ b.leaves) ∧
    (let g := { gangOf sl0 with splits := [{ sp0 with wait := .sleepw [(0, 65532, true, 1)] }] }
     let b := blockOf g
     ∃ x ∈ [((0 : Nat), (65532 : Nat), true, (1 : Word))], (machine b).sleepDone b x = true) ∧
    decodeWord .map3 (word 0x3FF 0 0 0 0) = .empty ∧ sl0.active ≠ [] ∧ s0.sup 1 = false := by decide +kernel

/-- SaveAndTrapSteps: a block that has yielded; one within a run; a copy that has written nothing; a unit that fits again. -/
def yb : Block := { b0 with gangs := [{ gangOf sl0 with splits := [{ sp0 with wait := .syncm }] }], yreq := true }
theorem test_meets_save :
    (let s := { machine yb with launches := [launch0] }
     s.launches.find? (fun x => x.id == yb.launch) = some launch0 ∧ s.unit 7 = [yb] ∧ launch0.lrec.whey = false ∧ yb.halt = none ∧ s.ctxHalted 1 = false ∧
     yb.yieldDone = true ∧ yb.quiet false = true ∧ s.recs = [] ∧ (s.core 0).pullDone = 0) ∧
    (let b := { yb with gangs := [{ gangOf sl0 with splits := [{ sp0 with inRun := true }] }], yspent := 50000 }
     (machine b).unit 7 = [b] ∧ ((machine b).cxr 1 0x104).toNat % 2 ^ 32 ≤ b.yspent ∧ b.yieldDone = false ∧ b.saving = false) ∧
    (let op : EngOp := { ctx := .copy, num := 1, kind := .copy 0x200 {}, q := [], pc := 0, fmt := 0, begun := true }
     let b := { yb with ops := [op], saving := true }
     (machine b).unit 7 = [b] ∧ op.fault = none ∧ op.written = 0) ∧
    (let x : SavedUnit := { launch := 7, asid := 1, pri := 0, blocks := [yb], vault := [], causes := [], dies := [0] }
     let s := { qs0 with saved := [x], launches := [launch0] }
     s.mayRestore x = true ∧ s.unit 7 = [] ∧ yb.launch = 7 ∧ launch0.lrec.has 3 = false ∧ mwf x.vault = true ∧ dieOf 63 = dieOf yb.core ∧ s.refits yb 63 = true) := by decide +kernel

/-- SaveAndTrapSteps: a gathered lane; a halted block whose handler has returned; the watchdog; travelling slices. -/
def hb : Block := { b0 with gangs := [{ gangOf sl0 with splits := [{ sp0 with stop := true }] }], seq := { stop := true },
                            halt := some { code := 0x0D, time := 0, origins := [{ org0 with entry := 0x3000 }], faulted := [(0, 0, 0x1000)] } }
theorem test_meets_traps :
    (let s := { qs0 with dies := [(0, { gather := [{ asid := 1, code := 0x0D, first := 0, lanes := [org0] }] })], gtime := 1000, blocks := [{ b0 with core := 511 }] }
     (∀ x ∈ s.blocks, x.launch ≠ s.nextId) ∧ s.ctxHalted 1 = false ∧ ∃ k < 64, s.fits (handlerLaunch 0 0 0 1).lrec (64 * 0 + k) = true) ∧
    (let s := { machine hb with vault := [(0x3001, 0x10), (0x3009, 2)] }
     s.ctxHalted 1 = false ∧ hb.stopped = true ∧ 0 ∈ sl0.live ∧ 32 ≤ (gangOf sl0).budget ∧ s.vlRd 0 0x3000 8 = sl0.pc.toNat ∧ s.vlRd 0 0x3009 1 / 2 % 8 = 1) ∧
    (let b := { b0 with unif := true, seq := { wait := .leave } }
     let s := { machine b with now := 2 ^ 24 }
     s.sup 1 = false ∧ 2 ^ 24 ≤ s.now - 0 ∧ b.seq.wait.counted = true ∧ 2 ^ 24 ≤ s.now + 1 - b.seq.readyAt) ∧
    (let r : WheyRec := { blk := { b0 with whey := some (0, 0), launch := 8 }, seg := 2 }
     let s := { s0 with cores := [(3, { arrivals := [(r, 4)] })], wheys := [{ launch := 8, segs := [(0, 1, [(0, 3, 0)])] }] }
     s.launchSaving 8 = false ∧ (s.freeSlot 3 8).isSome = true ∧ ∃ x ∈ ([(0, 1, [(0, 3, 0)])] : List (Nat × Nat × List (Nat × Nat × Nat))), x.2.2 ≠ []) := by decide +kernel

/-- CoherenceSteps at sector 1 and die 0: an owner of two tokens, a home that is idle, requests that have run out before and after the last retry, tokens that
arrive, presses that begin and end, a census. -/
def cst (x : L2Sector) (r : List TokReq) (h : HomeSector) : State :=
  { State.reset with dies := [(0, { l2 := [(1, x)], reqs := r })], homes := [(1, h)], gtime := 20000 }
def req1 (n : Nat) : TokReq := { sec := 1, write := false, t := 8, sends := n, asids := [1] }
theorem test_meets_coherence : let s := cst { own := true, dv := true, tokn := 2 } [] {}
    let h := s.home 1
    s.pendReq 0 1 true = false ∧ s.pact 0 1 = none ∧ (s.l2 0 1).own = true ∧ 2 ≤ (s.l2 0 1).tokn ∧ (s.l2 0 1).t = s.sectorT 1 ∧ s.l2Room 0 1 = true ∧
    h.active = none ∧ h.recalled = false ∧ s.hostPage 1 = false ∧ h.lost = false ∧ h.tokn ≠ 0 ∧ s.cxlPort 1 = none ∧ h.cxl = none ∧
    (∀ r ∈ [req1 2, req1 3], r.sec = 1 ∧ r.pressed = false ∧ r.timeout ≤ s.gtime ∧ r.asids = [1]) ∧ 2 ≤ s.retryOf 1 ∧ s.retryOf 1 < 3 ∧
    s.serialOk 0 { sec := 1, dst := .l2 0, src := .home, n := 1, own := false, ser := 0, t := 8, data := none, dirty := false } = true ∧ Terms.noWaiters s ∧
    h.deacting = false ∧ h.census = none ∧ h.round = [] ∧ h.pending = [] ∧ s.activeAt (homeClass 1) < 8 ∧ (s.die 0).heldActs = [] ∧ (s.die 0).pact = [] ∧ h.req = none ∧ noAgent ∉ h.deacks ∧ s.pressQueue = [] ∧
    (let t := cst {} [] { active := some ⟨1, .l2 3, true, 8, []⟩ }
     (t.home 1).active = some ⟨1, .l2 3, true, 8, []⟩ ∧ (t.home 1).acksDue = [] ∧ (t.home 1).census = none ∧ (t.home 1).activeAt + t.tokrcTimeout.toNat ≤ t.gtime ∧
     (t.home 1).lastCensus = none) := by
  refine ⟨?_, ?_, ?_, ?_, ?_, ?_, ?_, ?_, ?_, ?_, ?_, ?_, ?_, ?_, ?_, ?_, ?_, ⟨rfl, rfl, rfl, rfl⟩, ?_⟩ <;> decide +kernel

/-- FabricHostSteps: a packet for the last elements of a sector at this home; a request that is out for an access; its answers. -/
def pk : VPkt := { kind := 2, esz := 4, dst := 0, src := 1, ctx := 1, page := 0, rid := 3, aop := 0, offs := [60], data := [5] }
def accOut (k : AccKind) : Access := { id := 3, who := ⟨5, 0, 0⟩, path := 3, kind := k, esz := 8, asid := 1, pc := 0x1000, parts := [{ lane := 3, addr := 8, dst := 6, st := .sent 9 }] }
def slOut (k : AccKind) : Slice := { sl0 with acc := [accOut k] }
def fr : FabReq := { rid := 9, acc := 3, lanes := [3], parts := [(3, 3)], pkt := pk, time := 0, sends := 3 }
theorem test_meets_packets :
    (let s : State := { State.reset with dies := [(homeDie (2 ^ 51 + 60), { l2 := [(2 ^ 45, { tokn := 64, own := true, dv := true })] })],
                                         exports := [{ base := 0, len := 65536, t := 64, devs := [1] }] }
     pk.vault = false ∧ pk.compressed = false ∧ pk.dst = s.devNum ∧ s.answerOf 1 3 = none ∧ s.pktRefused pk = none ∧ pktAddrs pk = [2 ^ 51 + 60] ∧
     (s.l2 (homeDie (2 ^ 51 + 60)) (2 ^ 45)).tokn = s.sectorT (2 ^ 45)) ∧
    (∀ k ∈ [AccKind.load false, .atomic 0, .store, .mark], let s := { mach (slOut k) with fabReqs := [fr] }
      Terms.waits s ⟨5, 0, 0⟩ (slOut k) (blockOf (gangOf (slOut k))) (accOut k) { lane := 3, addr := 8, dst := 6, st := .sent 9 } 9 ∧ fr.time + 8000 ≤ s.gtime) ∧ s0.sup 1 = false ∧
    (0 : Nat) + 50000000 ≤ { mach (slOut (.load false)) with gtime := 50000000 }.gtime := by
  refine ⟨by decide +kernel, fun k hk => ⟨⟨rfl, rfl, by decide, rfl, rfl, rfl, rfl, rfl, by decide, (show (3 : Nat) < 8 by decide), rfl⟩, (show (0 : Nat) + 8000 ≤ 50000 by decide)⟩, by decide, by decide⟩

/-- FabricHostSteps: hosts, walks, notices and interrupts. -/
def note0 : Notice := { src := 0x100, sv := true, dst := 65520, len := 16, tcore := 0, tdev := 0, tasid := 1, bar := false, slot := 0, sasid := 1, sdie := 0, sdev := 0, sender := 77 }
theorem test_meets_hosts :
    (let s := { State.reset with cxlPorts := [0] }
     s.cxlPort (2 ^ 42) = some 0 ∧ s.allHome (2 ^ 42) = true ∧ (s.home (2 ^ 42)).active = none) ∧
    (let s := { State.reset with cxlPorts := [0], bars := [(1, 0xBFFFFFF000, 4096)], hdm := [(0, 0, 4096)] }
     s.barHolds 1 0xBFFFFFFFFF 1 = true ∧ s.cxlPorts.contains 0 = true ∧ s.hdmHolds 0 63 1 = true ∧ s.allHome 0 = true) ∧ 63 % 64 + 1 ≤ 64 ∧ s0.hostRoom 1 2 = true ∧ s0.homeOps = [] ∧
    ((s0.die 0).tlb.filter fun x => x.unit == tlbUnit 1 0).length < 4096 ∧ (∀ b ∈ s0.blocks, b.ops = []) ∧ s0.cores = [] ∧
    (match ({ s0 with dies := [(0, { walks := [(1, 0)] })] } : State).walk 1 0 with | .ok _ n => n | _ => 0) = 30 ∧
    noticeLenOk note0 = true ∧ (s0.dstBlock note0).isSome = true ∧
    (let s := { s0 with cx := uiCx, mem := s0.mem ++ [(0x5000, 1), (0x5006, 0x40), (0x5007, 0x80), (0x500F, 0x80)] }
     s.uiEntry 1 (.peer 4 1) = some (0, 2 ^ 63)) ∧
    (let s := { s0 with cx := uiCx, mem := s0.mem ++ [(0x5007, 0xC0), (0x500F, 0x80)] }
     s.uiEntry 1 (.host 0 0) = some (0, 2 ^ 63) ∧ s.inUse 1 = true ∧ (s.scRing 1 true).2.2 = 0) ∧
    (let s := { s0 with cx := [(512 + 0x101, 0x1000), (512 + 0x110, 0x8000000000003000), (512 + 0x113, 0x4000)],
                        mem := s0.mem ++ [(0x4000, 4), (0x4008, 4)], ui := [{ asid := 1, hnd := some (5, 0) }] }
     s.uiTaker 1 = some (2, 5, 0) ∧
     (let y := sl0.landTo (s.now + 16); y.grow b0.spillCap 32 b0.whey.isSome y.n 32 none s.fresh).isLeft = true) := by decide +kernel

/-- EngineSteps: a fill of one element, a sum of one word, an operation whose bytes are accepted, a pull within the die; two members on two dies. -/
def fill : EngOp := { ctx := .copy, num := 1, kind := .copy 0x207 {}, q := [0x100, 7, 0, 0x10001, 0], pc := 0, fmt := 0 }
def coll (code : Nat) (begun : Bool) : EngOp := { ctx := .coll, num := 1, kind := .coll code { ty := .u32, lv := 1 } 0, q := [0, 0x100, 4, 0, 0], pc := 0, fmt := 0, begun }
def member (n : Nat) (op : EngOp) : Block := { b0 with id := 5 + n, num := n, core := 64 * n, firstCore := 64 * n, ops := [op], levels := [(2, .blk, 4), (6, .dev, 2)] }
def pair (op : EngOp) : State := { s0 with blocks := [member 0 op, member 1 op] }
theorem test_meets_engines :
    (let b := member 0 fill
     let s := machine b
     Terms.oneOp s 5 b .copy fill ∧ (s.copyPlan b 0x207 {} fill.q).isLeft = true ∧ b.issueHeld fill = false ∧ b.halt = none ∧ b.saving = false) ∧
    (let b := member 0 (coll 0x205 false)
     Terms.oneOp (machine b) 5 b .coll (coll 0x205 false) ∧ (machine b).collChk b (coll 0x205 false) = none) ∧
    (let b := member 0 { fill with begun := true, step := 1 }
     (1 : Nat) = (b.tlOf .copy).counter + 1 ∧ ((machine b).engRelease b { fill with begun := true, step := 1 }).1 = true ∧ (machine b).cores = [] ∧ (b.tlOf .copy).extra = [] ∧ b.sigs = [] ∧ b.leaves = [] ∧ b.seq.ended = false) ∧
    (let s := { s0 with cores := [(0, { kicks := [note0] })] }
     (s.core 0).pullIn = [] ∧ (s.core 0).staged = [] ∧ (s.core 0).pullDone < note0.len ∧ s.copiesReady 0 = [] ∧ s.dstBlock note0 = some b0 ∧ s.pullChk 0 b0 note0 = none ∧ s.kickWait = [] ∧ s.accOf 77 = none ∧
     note0.src + note0.len ≤ 2 ^ 28) ∧
    (∀ code ∈ [0x205, 0x206], let op := coll code true
     let s := pair op
     let b := member 0 op
     let y := member 1 op
     s.blk 5 = some b ∧ b.opOf .coll 1 = some op ∧ s.collMembers b 1 = some [b, y] ∧ collOps [b, y] 1 0 = some [(b, op), (y, op)] ∧
     collBad [(b, op), (y, op)] = false ∧ y.id ≠ 5 ∧ op.written = 0 ∧ op.step = 0 ∧ op.fault = none ∧ 0x100 + op.inbox.length ≤ 2 ^ 28) := by
  refine ⟨⟨⟨rfl, rfl, rfl, rfl⟩, by decide +kernel⟩, ⟨⟨rfl, rfl, rfl, rfl⟩, by decide +kernel⟩, by decide, by decide +kernel, by decide +kernel⟩

end Sys2Proof.Tests
end

/-! ## Every step keeps the memories canonical, and the vault reads back what was written

`State.memWf` is `Memory.wf` of package memory and of the vault (entry 1: the cells ascend, and none holds the default
byte). Seven functions of the model write cells: `setMemSector`, `wr1`, `vlWr`, `vlWrBytes`, `wipeVault`, `takeVault` and
`putVault`. Each goes through `Memory.setByte`, `writeN` or `writeBytes`, or drops cells, and so keeps the form. Every other
function puts these and updates of other fields together: its lemma follows its branches and names, in the order of the
calls, the lemmas of the functions it calls. The lemmas stand in the order in which the functions call one another, from
the updates of one field up to `step`. -/

namespace Sys2Proof.Memory

theorem wf_filter {m : Memory} (h : m.wf = true) (p : Host.Cell → Bool) : Memory.wf (m.filter p) = true := by
  simp only [Memory.wf, Bool.and_eq_true, List.all_eq_true] at h ⊢
  obtain ⟨hm, hz⟩ := h
  refine ⟨?_, fun c hc => hz c (List.mem_of_mem_filter hc)⟩
  clear hz
  induction m with
  | nil => rfl
  | cons c r ih =>
    obtain ⟨hc, hr⟩ := (mwf_cons ..).mp hm
    rw [List.filter_cons]
    split
    · exact (mwf_cons ..).mpr ⟨fun x hx => hc x (List.mem_of_mem_filter hx), ih hr⟩
    · exact ih hr

theorem wf_foldl_msetD {m : Memory} (h : m.wf = true) (l : List Host.Cell) :
    Memory.wf (l.foldl (fun m x => msetD m x.1 x.2 0) m) = true := by
  induction l generalizing m with
  | nil => exact h
  | cons c r ih => exact ih (wf_setByte h c.1 c.2)

end Sys2Proof.Memory

namespace Sys2Proof.Machine

/-! ### The invariant, over each of the shapes in which a function of the model answers a state -/

/-- Both memories of a state are in canonical form (entry 1). -/
def State.Canon (s : State) : Prop := s.memWf = true

/-- The next state of an outcome, if it is one, is canonical. -/
def NextCanon (o : Host.Outcome State Fault Refusal) : Prop := ∀ t, o = .next t → t.Canon

/-- The state of an option, if it holds one, is canonical. -/
def SomeCanon (o : Option State) : Prop := ∀ t, o = some t → t.Canon

/-- The state on the left of a sum with a reason for a refusal is canonical. -/
def LeftCanon {α : Type} (x : Sum State α) : Prop := ∀ t, x = .inl t → t.Canon

/-- The state on either side of a sum is canonical: one to go on with, or one that waits. -/
def BothCanon (x : Sum State State) : Prop := (∀ t, x = .inl t → t.Canon) ∧ ∀ t, x = .inr t → t.Canon

/-- As `BothCanon`, where the state to go on with comes with a value. -/
def PairCanon {α : Type} (x : Sum (State × α) State) : Prop :=
  (∀ t a, x = .inl (t, a) → t.Canon) ∧ ∀ t, x = .inr t → t.Canon

/-- As `LeftCanon`, where the state comes with a value. -/
def LeftPairCanon {α β : Type} (x : Sum (State × α) β) : Prop := ∀ t a, x = .inl (t, a) → t.Canon

/-- The state that a fetch leaves is canonical. -/
def Fetched.Canon : Fetched → Prop
  | .word _ s | .wait s | .bad _ _ _ s => s.Canon
  | .away => True

/-- The state of a lane's enqueue, where it is done, is canonical. -/
def EnqRes.Canon : EnqRes → Prop
  | .done s => s.Canon
  | _ => True

variable {s t : State} {α β : Type}

/-- The rule for a write of fields: a state that differs from a canonical one in other fields than the two memories is
canonical. It has a binder for each of these fields, so that unification finds their new values, and with them the state
that was updated, at every update that names neither memory. -/
theorem State.Canon.update
    {plan work net planes seqs timers cur curWord fresh now gtime net7 gfrac slew slewAcc gtimeTod badMem badVault armed
      blocks launches saved wheys nextId cores dies homes homeWait pressQueue hostOwned owningHost exports devNum members
      routes linksDown streams sendCtx fabReqs answers vecJobs markersOut markersIn hostReqs cxlPorts bars hdm outs outPast
      kickWait bound cx ui sc scFill nodes slots slotHeld slotPrev slotDone saveDrain level cap capFw evacCtl evacErr
      evacPhase evacStart latch fltBase fltCtl errs tokrcTimeout tokrcCnt tokrcStale platFail fwState fwTries fwImage
      fwFlash supply upsets powered boots}
    (h : s.Canon) :
    State.Canon { s with
      plan, work, net, planes, seqs, timers, cur, curWord, fresh, now, gtime, net7, gfrac, slew, slewAcc, gtimeTod, badMem,
      badVault, armed, blocks, launches, saved, wheys, nextId, cores, dies, homes, homeWait, pressQueue, hostOwned,
      owningHost, exports, devNum, members, routes, linksDown, streams, sendCtx, fabReqs, answers, vecJobs, markersOut,
      markersIn, hostReqs, cxlPorts, bars, hdm, outs, outPast, kickWait, bound, cx, ui, sc, scFill, nodes, slots, slotHeld,
      slotPrev, slotDone, saveDrain, level, cap, capFw, evacCtl, evacErr, evacPhase, evacStart, latch, fltBase, fltCtl,
      errs, tokrcTimeout, tokrcCnt, tokrcStale, platFail, fwState, fwTries, fwImage, fwFlash, supply, upsets, powered,
      boots } :=
  h

theorem State.Canon.reset : State.reset.Canon := rfl

/-! ### Conditionals -/

theorem State.Canon.ite {c : Prop} [Decidable c] (h : s.Canon) (h' : t.Canon) : State.Canon (if c then s else t) := by
  split <;> assumption

theorem State.Canon.ite_fst {c : Prop} [Decidable c] {p q : State × α} (h : p.1.Canon) (h' : q.1.Canon) :
    (if c then p else q).1.Canon := by
  split <;> assumption

theorem State.Canon.ite_snd {c : Prop} [Decidable c] {p q : α × State} (h : p.2.Canon) (h' : q.2.Canon) :
    (if c then p else q).2.Canon := by
  split <;> assumption

theorem NextCanon.ite {c : Prop} [Decidable c] {o o' : Host.Outcome State Fault Refusal} (h : NextCanon o)
    (h' : NextCanon o') : NextCanon (if c then o else o') := by split <;> assumption

theorem SomeCanon.ite {c : Prop} [Decidable c] {o o' : Option State} (h : SomeCanon o) (h' : SomeCanon o') :
    SomeCanon (if c then o else o') := by split <;> assumption

theorem LeftCanon.ite {c : Prop} [Decidable c] {o o' : Sum State α} (h : LeftCanon o) (h' : LeftCanon o') :
    LeftCanon (if c then o else o') := by split <;> assumption

theorem BothCanon.ite {c : Prop} [Decidable c] {o o' : Sum State State} (h : BothCanon o) (h' : BothCanon o') :
    BothCanon (if c then o else o') := by split <;> assumption

theorem LeftPairCanon.ite {c : Prop} [Decidable c] {o o' : Sum (State × α) β} (h : LeftPairCanon o)
    (h' : LeftPairCanon o') : LeftPairCanon (if c then o else o') := by split <;> assumption

theorem Fetched.Canon.ite {c : Prop} [Decidable c] {o o' : Fetched} (h : o.Canon) (h' : o'.Canon) :
    Fetched.Canon (if c then o else o') := by split <;> assumption

theorem EnqRes.Canon.ite {c : Prop} [Decidable c] {o o' : EnqRes} (h : o.Canon) (h' : o'.Canon) :
    EnqRes.Canon (if c then o else o') := by split <;> assumption

/-! ### Folds -/

theorem State.Canon.foldl {f : State → α → State} {l : List α} (h : s.Canon)
    (hf : ∀ t x, t.Canon → (f t x).Canon) : (l.foldl f s).Canon := by
  induction l generalizing s with
  | nil => exact h
  | cons x l ih => exact ih (hf _ _ h)

theorem State.Canon.foldl_fst {f : State × α → β → State × α} {l : List β} {p : State × α} (h : p.1.Canon)
    (hf : ∀ p x, p.1.Canon → (f p x).1.Canon) : (l.foldl f p).1.Canon := by
  induction l generalizing p with
  | nil => exact h
  | cons x l ih => exact ih (hf _ _ h)

theorem State.Canon.foldl_snd {f : α × State → β → α × State} {l : List β} {p : α × State} (h : p.2.Canon)
    (hf : ∀ p x, p.2.Canon → (f p x).2.Canon) : (l.foldl f p).2.Canon := by
  induction l generalizing p with
  | nil => exact h
  | cons x l ih => exact ih (hf _ _ h)

theorem State.Canon.foldl_enq {f : EnqAcc → β → EnqAcc} {l : List β} {r : EnqAcc} (h : r.s.Canon)
    (hf : ∀ r x, r.s.Canon → (f r x).s.Canon) : (l.foldl f r).s.Canon := by
  induction l generalizing r with
  | nil => exact h
  | cons x l ih => exact ih (hf _ _ h)

theorem SomeCanon.foldl {o : Option State} {f : Option State → α → Option State} {l : List α} (h : SomeCanon o)
    (hf : ∀ o x, SomeCanon o → SomeCanon (f o x)) : SomeCanon (l.foldl f o) := by
  induction l generalizing o with
  | nil => exact h
  | cons x l ih => exact ih (hf _ _ h)

/-! ### Answers made from a canonical state -/

theorem State.Canon.next (h : s.Canon) : NextCanon (.next s) := by rintro _ ⟨⟩; exact h
theorem NextCanon.fault {r : Fault} : NextCanon (.fault r) := nofun
theorem State.Canon.some (h : s.Canon) : SomeCanon (some s) := by rintro _ ⟨⟩; exact h
theorem SomeCanon.none : SomeCanon none := nofun
theorem State.Canon.left (h : s.Canon) : LeftCanon (.inl s : Sum State α) := by rintro _ ⟨⟩; exact h
theorem LeftCanon.right {a : α} : LeftCanon (.inr a) := nofun
theorem State.Canon.inl (h : s.Canon) : BothCanon (.inl s) := ⟨by rintro _ ⟨⟩; exact h, nofun⟩
theorem State.Canon.inr (h : s.Canon) : BothCanon (.inr s) := ⟨nofun, by rintro _ ⟨⟩; exact h⟩
theorem State.Canon.inlPair {a : α} (h : s.Canon) : PairCanon (.inl (s, a)) := ⟨by rintro _ _ ⟨⟩; exact h, nofun⟩

theorem State.Canon.inrPair (h : s.Canon) : PairCanon (.inr s : Sum (State × α) State) :=
  ⟨nofun, by rintro _ ⟨⟩; exact h⟩

theorem State.Canon.leftPair {a : α} (h : s.Canon) : LeftPairCanon (.inl (s, a) : Sum (State × α) β) := by
  rintro _ _ ⟨⟩; exact h

theorem LeftPairCanon.right {b : β} : LeftPairCanon (.inr b : Sum (State × α) β) := nofun
theorem State.Canon.word {w} (h : s.Canon) : (Fetched.word w s).Canon := h
theorem State.Canon.wait (h : s.Canon) : (Fetched.wait s).Canon := h
theorem State.Canon.bad {c l e} (h : s.Canon) : (Fetched.bad c l e s).Canon := h
theorem Fetched.Canon.away : Fetched.away.Canon := trivial
theorem State.Canon.done (h : s.Canon) : (EnqRes.done s).Canon := h
theorem EnqRes.Canon.wait {q} : (EnqRes.wait q).Canon := trivial
theorem EnqRes.Canon.bad {c a d} : (EnqRes.bad c a d).Canon := trivial

/-! ### The state taken out of an answer -/

theorem State.Canon.of_fst {p : State × α} {a : α} (e : p = (t, a)) (h : p.1.Canon) : t.Canon := by subst e; exact h
theorem State.Canon.of_snd {p : α × State} {a : α} (e : p = (a, t)) (h : p.2.Canon) : t.Canon := by subst e; exact h
theorem State.Canon.of_some {o : Option State} (e : o = Option.some t) (h : SomeCanon o) : t.Canon := h t e
theorem State.Canon.of_left {o : Sum State α} (e : o = .inl t) (h : LeftCanon o) : t.Canon := h t e

theorem State.Canon.of_leftPair {o : Sum (State × α) β} {a : α} (e : o = .inl (t, a)) (h : LeftPairCanon o) :
    t.Canon := h t a e

theorem State.Canon.of_word {f : Fetched} {w : DWord} (e : f = .word w t) (h : f.Canon) : t.Canon := by subst e; exact h

theorem State.Canon.of_wait {f : Fetched} (e : f = .wait t) (h : f.Canon) : t.Canon := by subst e; exact h

theorem State.Canon.of_bad {f : Fetched} {c : BitVec 8} {l : Nat} {w : DWord} (e : f = .bad c l w t) (h : f.Canon) :
    t.Canon := by
  subst e
  exact h

theorem State.Canon.of_done {r : EnqRes} (e : r = .done t) (h : r.Canon) : t.Canon := by subst e; exact h

/-! ### Options -/

theorem SomeCanon.getD {o : Option State} (h : SomeCanon o) (h' : s.Canon) : (o.getD s).Canon := by
  cases o with
  | none => exact h'
  | some t => exact h t rfl

theorem SomeCanon.map {o : Option State} {f : State → State} (h : SomeCanon o)
    (hf : ∀ t, t.Canon → (f t).Canon) : SomeCanon (o.map f) := by
  cases o with
  | none => exact .none
  | some t => exact (hf t (h t rfl)).some

theorem SomeCanon.bind {o : Option State} {f : State → Option State} (h : SomeCanon o)
    (hf : ∀ t, t.Canon → SomeCanon (f t)) : SomeCanon (o.bind f) := by
  cases o with
  | none => exact .none
  | some t => exact hf t (h t rfl)

theorem SomeCanon.of_map {o : Option α} {f : α → State} (hf : ∀ a, (f a).Canon) : SomeCanon (o.map f) := by
  cases o with
  | none => exact .none
  | some a => exact (hf a).some

theorem SomeCanon.of_bind {o : Option α} {f : α → Option State}
    (hf : ∀ a, SomeCanon (f a)) : SomeCanon (o.bind f) := by
  cases o with
  | none => exact .none
  | some a => exact hf a

theorem State.Canon.of_findSome {f : β → Option State} {l : List β} {b : β} (hf : ∀ b, SomeCanon (f b))
    (e : l.findSome? (fun b => (f b).map fun s' => (b, s')) = Option.some (b, t)) : t.Canon := by
  obtain ⟨c, -, hc⟩ := List.exists_of_findSome?_eq_some e
  obtain ⟨u, hu, he⟩ := Option.map_eq_some_iff.mp hc
  cases he
  exact hf _ _ hu

/-! ### Blocks, memory, records and traps -/

theorem State.Canon.modBlk {b f} (h : s.Canon) : (s.modBlk b f).Canon := h.update
theorem State.Canon.modGang {b g f} (h : s.Canon) : (s.modGang b g f).Canon := h.modBlk
theorem State.Canon.modSplit {b g k f} (h : s.Canon) : (s.modSplit b g k f).Canon := h.modGang
theorem State.Canon.modSlice {r f} (h : s.Canon) : (s.modSlice r f).Canon := h.modGang
theorem State.Canon.modSeq {b f} (h : s.Canon) : (s.modSeq b f).Canon := h.modBlk
theorem State.Canon.modCore {c f} (h : s.Canon) : (s.modCore c f).Canon := h.update
theorem State.Canon.modDie {d f} (h : s.Canon) : (s.modDie d f).Canon := h.update
theorem State.Canon.modHome {sec f} (h : s.Canon) : (s.modHome sec f).Canon := h.update
theorem State.Canon.setCx {asid i v} (h : s.Canon) : (s.setCx asid i v).Canon := h.update
theorem State.Canon.push {l} (h : s.Canon) : (s.push l).Canon := h.update
theorem State.Canon.timer {t' i} (h : s.Canon) : (s.timer t' i).Canon := h.update
theorem State.Canon.send {m} (h : s.Canon) : (s.send m).Canon := h.update
theorem State.Canon.newId (h : s.Canon) : s.newId.2.Canon := h.update
theorem State.Canon.draw (h : s.Canon) : s.draw.2.Canon := h.update
theorem State.Canon.setL2 {d sec x} (h : s.Canon) : (s.setL2 d sec x).Canon := h.modDie

theorem State.Canon.setMemSector {m d} (h : s.Canon) : (s.setMemSector m d).Canon := by
  simp only [State.Canon, State.memWf, Bool.and_eq_true] at h ⊢
  exact ⟨Memory.wf_writeN h.1 _ _ _, h.2⟩

theorem State.Canon.wr1 {pa v} (h : s.Canon) : (s.wr1 pa v).Canon := by
  unfold State.wr1
  extract_lets sec f s1
  have hs1 : s1.Canon := by
    simp only [State.Canon, State.memWf, Bool.and_eq_true] at h ⊢
    exact ⟨Memory.wf_setByte h.1 _ _, h.2⟩
  refine hs1.foldl fun _ _ ht => ?_
  split
  · exact ht.setL2
  · exact ht

theorem State.Canon.wrBytes {pa l} (h : s.Canon) : (s.wrBytes pa l).Canon := by
  induction l generalizing s pa with
  | nil => exact h
  | cons b r ih =>
    unfold State.wrBytes
    exact ih h.wr1

theorem State.Canon.vwr {asid va l} (h : s.Canon) : (s.vwr asid va l).Canon := by
  unfold State.vwr
  split
  · exact h.wrBytes
  · exact h

theorem State.Canon.vlWr {die addr n v} (h : s.Canon) : (s.vlWr die addr n v).Canon := by
  simp only [State.Canon, State.memWf, Bool.and_eq_true] at h ⊢
  exact ⟨h.1, Memory.wf_writeN h.2 _ _ _⟩

theorem State.Canon.vlWrBytes {die addr l} (h : s.Canon) : (s.vlWrBytes die addr l).Canon := by
  simp only [State.Canon, State.memWf, Bool.and_eq_true] at h ⊢
  exact ⟨h.1, Memory.wf_writeBytes h.2 _ _⟩

theorem State.Canon.modRecs {f} (h : s.Canon) : (s.modRecs f).Canon := h.update

theorem State.Canon.chargeErr {r} (h : s.Canon) : (s.chargeErr r).Canon := by
  unfold State.chargeErr
  split
  · exact h.update
  · exact h

theorem State.Canon.meet {arr at'} (h : s.Canon) : (s.meet arr at').2.Canon :=
  (h.foldl fun _ _ h1 => h1.chargeErr).update

theorem State.Canon.meetIssue {core} (h : s.Canon) : (s.meetIssue core).2.Canon :=
  .ite_snd h (.meet (.ite h.meet.modCore h.meet))

theorem State.Canon.putRecord {asid r} (h : s.Canon) : (s.putRecord asid r).Canon := by
  unfold State.putRecord
  split
  · split
    · exact h.setCx.vwr
    · exact h.setCx

theorem State.Canon.putDevice {r} (h : s.Canon) : (s.putDevice r).Canon := by
  unfold State.putDevice
  split
  · extract_lets _ _ s3
    have hs3 : s3.Canon := by
      unfold s3
      split
      · exact .wrBytes (.ite h.update h.update.push)
      · exact .ite h.update h.update.push
    exact hs3.send.send

theorem State.Canon.record {b gang f smask lmask orig} (h : s.Canon) : (s.record b gang f smask lmask orig).Canon :=
  .putRecord (.ite h.putDevice h)

theorem State.Canon.writeEntries {b g sl lanes code rpc} (h : s.Canon) :
    (s.writeEntries b g sl lanes code rpc).Canon :=
  h.modSlice.foldl fun _ _ h1 => h1.vlWrBytes

theorem State.Canon.gatherLanes {d asid code l} (h : s.Canon) : (s.gatherLanes d asid code l).Canon := h.modDie.timer

theorem State.Canon.recordParts {b g code l} (h : s.Canon) : (s.recordParts b g code l).Canon := by
  unfold State.recordParts
  split
  · exact h
  · exact h.record

theorem State.Canon.stopHeld {b g found} (h : s.Canon) : (s.stopHeld b g found).Canon := by
  unfold State.stopHeld
  extract_lets _ _ _ s2 _ _ _
  have hs2 : s2.Canon := (h.foldl fun _ _ h1 => h1.recordParts).modBlk
  exact .ite hs2 (hs2.foldl fun _ _ h1 => h1.writeEntries.modBlk.gatherLanes)

theorem State.Canon.stopRecord {b g sp h'} (h : s.Canon) : (s.stopRecord b g sp h').Canon :=
  .ite h.stopHeld (.ite h h.record)

theorem State.Canon.stopIdle {bid} (h : s.Canon) : (s.stopIdle bid).Canon := by
  unfold State.stopIdle
  split
  · exact h
  · split
    · exact h
    · extract_lets _ _ _ _ _ _ s2
      have hs2 : s2.Canon := (h.foldl fun _ _ h1 => h1.stopRecord).modBlk
      exact .ite (.modSeq (.ite hs2 hs2.record)) hs2

theorem State.Canon.haltBlock {bid code faulted} (h : s.Canon) : (s.haltBlock bid code faulted).Canon := h.modBlk

theorem State.Canon.haltContext {asid code} (h : s.Canon) : (s.haltContext asid code).Canon :=
  (h.foldl fun _ _ h1 => h1.haltBlock.stopIdle).setCx.push

theorem State.Canon.freeze {r lanes f rpc} (h : s.Canon) : (s.freeze r lanes f rpc).Canon := by
  unfold State.freeze
  split
  · exact .ite h.haltContext h.vlWrBytes.modSlice.modGang
  · exact h

theorem State.Canon.setFcode {r lanes code} (h : s.Canon) : (s.setFcode r lanes code).Canon := h.modSlice
theorem State.Canon.recordLanes {b g who f} (h : s.Canon) : (s.recordLanes b g who f).Canon := h.record

theorem State.Canon.trapOne {b g who f} (h : s.Canon) : (s.trapOne b g who f).Canon := by
  unfold State.trapOne
  extract_lets _ _ _ s4 _ _
  have hs4 : s4.Canon := by
    unfold s4
    refine (h.recordLanes.haltBlock.foldl fun _ _ h1 => h1.modSplit).foldl fun _ _ ht => ?_
    split
    · exact ht.writeEntries
    · exact ht
  split
  · exact h.recordLanes
  · exact .ite (h.recordLanes.haltBlock.foldl fun _ _ h1 => h1.modSplit) hs4.modBlk.gatherLanes

theorem State.Canon.trapGangs {bid gs} (h : s.Canon) : (s.trapGangs bid gs).Canon := by
  unfold State.trapGangs
  split
  · exact h
  · extract_lets fs _ _ s2
    refine .ite ((h.foldl fun _ _ h1 => h1.recordLanes).foldl fun _ _ h1 => .ite ?_ (.ite h1.haltContext ?_)) ?_
    · exact h1.foldl fun _ _ h2 => h2.setFcode
    · exact h1.foldl fun _ _ h2 => h2.freeze
    · have hs2 : s2.Canon := (h.foldl fun _ _ h1 => h1.trapOne).stopIdle
      clear_value fs
      split
      · exact h
      · exact .ite hs2.haltContext hs2

theorem State.Canon.trap {bid gang fs} (h : s.Canon) : (s.trap bid gang fs).Canon := h.trapGangs

theorem State.Canon.trapSeq {bid f} (h : s.Canon) : (s.trapSeq bid f).Canon := by
  unfold State.trapSeq
  split
  · exact h
  · extract_lets
    split
    · exact h.record.haltContext
    · split
      · exact h.record.haltBlock.modSeq.stopIdle.haltContext
      · split
        · next e => exact .gatherLanes (.stopIdle (.modBlk (.of_snd e h.record.haltBlock.modSeq.newId)))

theorem State.Canon.markEntry {o bits} (h : s.Canon) : (s.markEntry o bits).Canon := by
  unfold State.markEntry
  split
  · exact h
  · exact .push (.ite h.modBlk h.vlWr)

theorem State.Canon.trapReturn {o k regs skip} (h : s.Canon) : (s.trapReturn o k regs skip).Canon := by
  unfold State.trapReturn
  split
  · exact h
  · exact .markEntry (.ite h h.vlWrBytes)

theorem State.Canon.unfreeze {r skip} (h : s.Canon) : (s.unfreeze r skip).Canon := by
  unfold State.unfreeze
  split
  · exact h
  · exact h.modSlice

/-! ### Issuing agents and the end of a word -/

theorem NextCanon.withSplit {f} (hf : ∀ b g sp, (f b g sp).Canon) : NextCanon (withSplit s f) := by
  unfold Machine.withSplit
  split
  · split
    · split
      · split
        · exact (hf _ _ _).next
        · exact .fault
      · exact .fault
    · exact .fault
  · exact .fault

theorem NextCanon.withSeq {f} (hf : ∀ b, (f b).Canon) : NextCanon (withSeq s f) := by
  unfold Machine.withSeq
  split
  · split
    · exact (hf _).next
    · exact .fault
  · exact .fault

theorem State.Canon.onMembers {b g sp f} (h : s.Canon) : (onMembers s b g sp f).Canon := h.modGang

theorem State.Canon.endRun {bid gang k} (h : s.Canon) : (s.endRun bid gang k).Canon := by
  unfold State.endRun
  split
  · exact h
  · split
    · exact h
    · exact .ite h.modCore.modGang.modSplit.stopIdle h.modCore.modGang.modSplit

theorem State.Canon.moveSplit {b g sp c target endRun stay} (h : s.Canon) :
    (moveSplit s b g sp c target endRun stay).Canon := by
  unfold Machine.moveSplit
  extract_lets
  split
  · exact h.modGang
  · extract_lets s2 _ s3
    have hs3 : s3.Canon := by
      unfold s3
      have hs2 : s2.Canon := .ite h.modGang.modGang h.modGang.modSplit
      exact .ite hs2.modSplit hs2
    split
    · refine hs3.foldl fun _ _ ht => ?_
      split
      · exact ht.endRun
      · exact ht
    · exact hs3

theorem State.Canon.finish {b g sp c endRun} (h : s.Canon) : (finish s b g sp c endRun).Canon := .ite h h.moveSplit

theorem State.Canon.vecWord {c lat f} (h : s.Canon) : NextCanon (vecWord c lat f s) :=
  .withSplit fun _ _ _ => h.onMembers.finish

theorem State.Canon.sliceWord {c lat f} (h : s.Canon) : NextCanon (sliceWord c lat f s) :=
  .withSplit fun _ _ _ => h.onMembers.finish

theorem State.Canon.waitAt {b g sp w made} (h : s.Canon) : (waitAt s b g sp w made).Canon := by
  unfold Machine.waitAt
  split
  · exact h
  · exact h.modSplit.endRun

theorem State.Canon.keepStall {b g sp c} (h : s.Canon) : (s.keepStall b g sp c).Canon := h.modSplit
theorem State.Canon.finishSeqTo {b c pc} (h : s.Canon) : (finishSeqTo s b c pc).Canon := h.modSeq
theorem State.Canon.finishSeq {b c} (h : s.Canon) : (finishSeq s b c).Canon := h.finishSeqTo
theorem State.Canon.waitSeq {b w made} (h : s.Canon) : (waitSeq s b w made).Canon := h.modSeq
theorem State.Canon.seqWord {c f} (h : s.Canon) : NextCanon (seqWord c f s) := .withSeq fun _ => h.modSeq.finishSeq

theorem State.Canon.trapMany {b g sp c target fs} (h : s.Canon) : (trapMany s b g sp c target fs).Canon := by
  unfold Machine.trapMany
  extract_lets _ _ _ _ _ s1
  have hs1 : s1.Canon := by
    unfold s1
    split
    · exact h
    · split
      · split
        · exact h.endRun
        · exact h
      · exact .ite h.moveSplit h.moveSplit
  exact .ite hs1 hs1.trap

theorem State.Canon.trapWord {b g sp c code who addr extra} (h : s.Canon) :
    (trapWord s b g sp c code who addr extra).Canon :=
  h.trapMany

theorem State.Canon.trapSeqWord {b code addr extra} (h : s.Canon) : (trapSeqWord s b code addr extra).Canon :=
  h.trapSeq

/-! ### Cross-lane words -/

theorem State.Canon.crossWord {c lat f} (h : s.Canon) : NextCanon (crossWord c lat f s) :=
  .withSplit fun _ _ _ => h.onMembers.finish

/-! ### Frames, acquires and spills -/

theorem State.Canon.writeSpill {b gang old new} (h : s.Canon) : (s.writeSpill b gang old new).Canon :=
  .ite h.vlWrBytes h

/-! ### Interrupts and system calls -/

theorem State.Canon.acquire {core asids sc} (h : s.Canon) : (s.acquire core asids sc).Canon := by
  unfold State.acquire
  split
  · exact h
  · exact h
  · exact h.modCore

theorem State.Canon.uiWr {asid off n v} (h : s.Canon) : (s.uiWr asid off n v).Canon := .ite h h.vwr
theorem State.Canon.setUi {u} (h : s.Canon) : (s.setUi u).Canon := h.update
theorem State.Canon.uiPoke {asid} (h : s.Canon) : (s.uiPoke asid).Canon := .ite h.push h

theorem State.Canon.uiMark {was asid} (h : s.Canon) : (s.uiMark was asid).Canon := by
  unfold State.uiMark
  split
  · exact h
  · split
    · exact h.modGang
    · exact h

theorem State.Canon.uiApply {asid v p src} (h : s.Canon) : (s.uiApply asid v p src).Canon :=
  h.uiWr.uiWr.uiWr.uiWr.uiMark.uiPoke

theorem State.Canon.uiSend {asid v p who} (h : s.Canon) : LeftCanon (s.uiSend asid v p who) := by
  unfold State.uiSend
  split
  · exact .right
  · split
    · exact .right
    · exact .ite h.uiApply.left .right

theorem State.Canon.uiEnter {asid v bid gang again} (h : s.Canon) : (s.uiEnter asid v bid gang again).Canon := by
  unfold State.uiEnter
  split
  · exact h
  · split
    · exact h
    · extract_lets _ _ _ _ _ _ _ bad _ _ _ _ _ s5 s6
      have hs6 : s6.Canon := by
        unfold s6
        have hs5 : s5.Canon := by
          unfold s5
          exact .setUi (.ite h.uiWr.update.acquire (h.uiWr.update.acquire.foldl fun _ _ h1 => h1.vlWrBytes))
        split
        · exact hs5
        · refine hs5.foldl fun _ _ ht => ?_
          split
          · exact ht.writeSpill
          · exact ht
      clear_value bad
      split
      · exact h.trap
      · exact hs6.modGang

theorem State.Canon.uiLeave {asid bid gang} (h : s.Canon) : (s.uiLeave asid bid gang).Canon := by
  unfold State.uiLeave
  split
  · exact h
  · split
    · exact h
    · exact h.setUi.modGang.uiPoke

theorem State.Canon.modSliceAny {r f} (h : s.Canon) : (s.modSliceAny r f).Canon := h.modSlice.update

theorem State.Canon.scPost {asid host} (h : s.Canon) : (s.scPost asid host).Canon := by
  unfold State.scPost
  split
  · exact h
  · extract_lets
    split
    · exact h
    · split
      · exact h.update.send.send
      · split
        · split
          · next e => exact h.update.vwr.uiSend _ e
          · exact h.update.vwr
        · exact h.update.vwr

theorem State.Canon.scPosts {asid} (h : s.Canon) : (s.scPosts asid).Canon := h.foldl fun _ _ h1 => h1.scPost.scPost
theorem State.Canon.scAdd {r} (h : s.Canon) : (s.scAdd r).Canon := h.update.scPosts

/-! ### Token coherence -/

theorem State.Canon.setPred {d sec e} (h : s.Canon) : (s.setPred d sec e).Canon := h.modDie

theorem State.Canon.train {d r} (h : s.Canon) : (s.train d r).Canon := by
  unfold State.train
  split
  · extract_lets who
    clear_value who
    split
    · exact h.setPred
    · exact h.setPred
    · exact h
  · exact h.setPred

theorem State.Canon.trainSent {d sec a} (h : s.Canon) : (s.trainSent d sec a).Canon := h.setPred

theorem State.Canon.sendTok {m} (h : s.Canon) : (s.sendTok m).Canon := by
  unfold State.sendTok
  split
  · split
    · exact h.push
    · exact h.send
  · exact .ite h.push h.send

theorem State.Canon.sendReq {m} (h : s.Canon) : (s.sendReq m).Canon := by
  unfold State.sendReq
  split
  · split
    · exact h.push
    · exact h.send
  · exact .ite h.push h.send

theorem State.Canon.sendPress {m} (h : s.Canon) : (s.sendPress m).Canon := .ite h.push h.send

theorem State.Canon.sendRound {d r broadcast} (h : s.Canon) : (s.sendRound d r broadcast).Canon :=
  (h.foldl fun _ _ h1 => h1.sendReq).timer

theorem State.Canon.need {d sec write t' asid} (h : s.Canon) : (s.need d sec write t' asid).Canon :=
  .ite h.modDie h.modDie.sendRound

theorem State.Canon.homeRound {r} (h : s.Canon) : (s.homeRound r).Canon := (h.foldl fun _ _ h1 => h1.sendReq).timer

theorem State.Canon.homeWant {sec asid} (h : s.Canon) : (s.homeWant sec asid).Canon := by
  unfold State.homeWant
  split
  · exact h.modHome
  · exact h.modHome.homeRound

theorem State.Canon.refuseTo {sec a code} (h : s.Canon) : (s.refuseTo sec a code).Canon := by
  unfold State.refuseTo
  split
  · exact h.push
  · exact h.send

theorem State.Canon.takeL2 {d sec n own} (h : s.Canon) : (s.takeL2 d sec n own).Canon := h.setL2

theorem State.Canon.giveAll {d sec dst grant} (h : s.Canon) : (s.giveAll d sec dst grant).Canon := by
  unfold State.giveAll
  extract_lets
  split
  · exact h
  · split
    · exact .ite h.takeL2.sendTok.trainSent h.takeL2.sendTok
    · exact h.takeL2.sendTok

theorem State.Canon.sendBack {m} (h : s.Canon) : (s.sendBack m).Canon := .ite h.push h.send
theorem State.Canon.evict {d sec} (h : s.Canon) : (s.evict d sec).Canon := h.takeL2.sendBack

theorem State.Canon.makeRoom {d sec} (h : s.Canon) : (s.makeRoom d sec).Canon := by
  unfold State.makeRoom
  split
  · exact h
  · split
    · exact h.evict
    · exact h

theorem State.Canon.homeGive {sec dst grant} (h : s.Canon) : (s.homeGive sec dst grant).Canon :=
  .ite h h.modHome.sendTok

theorem State.Canon.answerL2 {d m} (h : s.Canon) : (s.answerL2 d m).Canon := by
  unfold State.answerL2
  extract_lets
  split
  · exact h
  · exact .ite h.refuseTo (.ite h (.ite (.ite h (.ite h.takeL2.sendTok h.giveAll)) h.giveAll))

theorem State.Canon.biSnoop {sec} (h : s.Canon) : (s.biSnoop sec).Canon :=
  .ite (h.modHome.foldl fun _ _ h1 => h1.send) h

theorem State.Canon.cxlAsk {sec all} (h : s.Canon) : (s.cxlAsk sec all).Canon := by
  unfold State.cxlAsk
  split
  · split
    · exact h.send
    · exact h.send
    · exact h.modHome.send.send
    · exact h.send
  · exact h

theorem State.Canon.pressAll {sec on m} (h : s.Canon) : (s.pressAll sec on m).Canon := by
  unfold State.pressAll
  refine h.foldl fun _ _ ht => ?_
  split
  · exact ht.push
  · exact ht.send

theorem State.Canon.pressServe {sec m grant} (h : s.Canon) : (s.pressServe sec m grant).Canon := by
  unfold State.pressServe
  split
  · exact .ite h.modHome h
  · exact .ite h.modHome (.ite h.modHome.refuseTo (.ite h.biSnoop.homeGive h.cxlAsk))

theorem State.Canon.pressNext {sec} (h : s.Canon) : (s.pressNext sec).Canon := by
  unfold State.pressNext
  extract_lets
  split
  · exact h
  · split
    · exact h.modHome.update
    · exact .ite h.modHome.update h.update.modHome.timer.pressAll.pressServe

theorem State.Canon.pressAdd {m} (h : s.Canon) : (s.pressAdd m).Canon := .ite h.modHome h.modHome.push
theorem State.Canon.recall {sec} (h : s.Canon) : (s.recall sec).Canon := .ite h h.pressAdd

theorem State.Canon.answerHome {m} (h : s.Canon) : (s.answerHome m).Canon := by
  unfold State.answerHome
  extract_lets
  split
  · exact h
  · split
    · exact h.refuseTo
    · exact .ite h (.ite (.ite h.recall h.cxlAsk) (.ite h.biSnoop.modHome.sendTok h.biSnoop.homeGive))

theorem State.Canon.pressEnd {sec} (h : s.Canon) : (s.pressEnd sec).Canon := by
  unfold State.pressEnd
  extract_lets
  split
  · exact .ite h.modHome.pressAll h
  · exact h

theorem State.Canon.homeRise {sec turns} (h : s.Canon) : (s.homeRise sec turns).Canon :=
  .ite (.push (.update (.ite h.modHome h))) h

theorem State.Canon.homeTake {m} (h : s.Canon) : (s.homeTake m).Canon := by
  unfold State.homeTake
  extract_lets
  split
  · exact h.update
  · next s1 s2 _ _ =>
      have h1 : s1.Canon := by
        unfold s1
        cases m.own
        · exact h
        · cases m.dirty
          · exact h
          · cases m.data
            · exact h.modHome
            · exact .ite h.setMemSector h.modHome
      have h2 : s2.Canon := h1.modHome
      split
      · exact h2
      · split
        · exact .ite h2 h2.homeGive
        · exact .ite h2.modHome.pressEnd h2
        · exact h2

/-! ### Accesses in flight -/

theorem State.Canon.modAccs {w f} (h : s.Canon) : (s.modAccs w f).Canon := .ite h.modSeq h.modSlice
theorem State.Canon.modAcc {w id f} (h : s.Canon) : (s.modAcc w id f).Canon := h.modAccs
theorem State.Canon.modPart {a lane f} (h : s.Canon) : (s.modPart a lane f).Canon := h.modAcc
theorem State.Canon.modOp {bid k n f} (h : s.Canon) : (s.modOp bid k n f).Canon := h.modBlk
theorem State.Canon.leavePath {a lane} (h : s.Canon) : (s.leavePath a lane).Canon := h.modCore
theorem State.Canon.drain {w} (h : s.Canon) : (s.drain w).Canon := .ite h.modAccs h.modAccs.push
theorem State.Canon.deliver {a p v} (h : s.Canon) : (s.deliver a p v).Canon := .ite h (.ite h.modSeq h.modSlice)

theorem State.Canon.donePart {a p v} (h : s.Canon) : (s.donePart a p v).Canon := by
  unfold State.donePart
  extract_lets s1
  have hs1 : s1.Canon := by
    unfold s1
    split
    · exact h.leavePath
    · exact h.leavePath
    · exact h.leavePath
    · exact h.modCore
    · exact h.modCore
    · exact h.modCore
    · exact h
  exact hs1.deliver.modPart

theorem State.Canon.chargeWord {b g found} (h : s.Canon) : (s.chargeWord b g found).Canon :=
  h.foldl fun _ _ h1 => .ite h1.recordParts h1.stopHeld

theorem State.Canon.raiseWord {bid gang grp} (h : s.Canon) : (s.raiseWord bid gang grp).Canon := by
  unfold State.raiseWord
  split
  · exact h
  · split
    · exact h
    · extract_lets _ _ _ _ _ _ codes charged s2
      have hs2 : s2.Canon := by
        unfold s2
        clear_value codes
        split
        · exact .ite h.modGang h.modGang.chargeWord
        · split
          · refine h.modGang.chargeWord.foldl fun _ _ ht => ?_
            extract_lets l
            clear_value l
            split
            · exact ht
            · exact ht.freeze
          · extract_lets _ s4
            have hs4 : s4.Canon := .stopIdle (.ite h.modGang.haltBlock h.modGang.haltBlock.chargeWord)
            exact .ite hs4.haltContext hs4
      split
      · exact h
      · clear_value charged
        split
        · exact hs2
        · exact hs2.haltContext

theorem State.Canon.machineFault {a p code} (h : s.Canon) : (s.machineFault a p code).Canon := by
  unfold State.machineFault
  split
  · exact h
  · exact .ite h.record.modPart.haltContext h.modPart.raiseWord

theorem State.Canon.failPart {a p code lvl info} (h : s.Canon) : (s.failPart a p code lvl info).Canon := by
  unfold State.failPart
  split
  · exact h
  · extract_lets
    split
    · exact h.modAcc.modPart.machineFault
    · split
      · exact h.modAcc.modPart.modPart.setFcode.raiseWord
      · exact .ite h.modAcc.modPart.modPart.modAccs.trapSeq h.modAcc.modPart.modPart.modAccs.raiseWord

theorem State.Canon.startWalk {d asid va} (h : s.Canon) : (s.startWalk d asid va).Canon :=
  .ite h (.ite h.modDie.push h.modDie)

theorem State.Canon.healMem {pa n} (h : s.Canon) : (s.healMem pa n).Canon := h.update

theorem State.Canon.holdOwner {a p} (h : s.Canon) : (s.holdOwner a p).Canon := by
  unfold State.holdOwner
  split
  · exact h
  · exact .ite h.modAcc.modPart.leavePath.push.record h.modAcc.modPart.leavePath.push

theorem State.Canon.tokensFor {a p d pa t' write} (h : s.Canon) : BothCanon (s.tokensFor a p d pa t' write) := by
  unfold State.tokensFor
  extract_lets
  split
  · exact h.leavePath.failPart.inr
  · split
    · exact h.inl
    · exact .ite h.holdOwner.inr h.modPart.need.inr

theorem State.Canon.l2Write {d pa n v} (h : s.Canon) : (s.l2Write d pa n v).Canon := h.setL2.healMem

theorem State.Canon.sendMarker {w acc dev} (h : s.Canon) : (s.sendMarker w acc dev).Canon := by
  unfold State.sendMarker
  split
  · next e => exact .update (.foldl (.of_snd e h.newId) fun _ _ h1 => h1.send)

theorem State.Canon.relSend {w sc} (h : s.Canon) : (s.relSend w sc).Canon := by
  unfold State.relSend
  extract_lets _ _ _ _ s2
  have hs2 : s2.Canon := by
    unfold s2
    split
    · exact (h.foldl fun _ _ h1 => h1.sendMarker).foldl fun _ _ h1 => h1.send.update
    · exact h.foldl fun _ _ h1 => h1.sendMarker
  exact .ite hs2.modSeq hs2.modSlice

theorem State.Canon.releaseTo {w sc upto} (h : s.Canon) : (s.releaseTo w sc upto).2.Canon :=
  .ite_snd h (.ite_snd (.ite h h.relSend) (.ite_snd h h))

theorem State.Canon.release {w sc} (h : s.Canon) : (s.release w sc).2.Canon := h.releaseTo
theorem State.Canon.track {w d} (h : s.Canon) : (s.track w d).Canon := .ite h.modSeq h.modSlice

theorem State.Canon.trackHost {w port addr} (h : s.Canon) : (s.trackHost w port addr).Canon :=
  .ite h.modSeq h.modSlice

theorem State.Canon.keepPaths (h : s.Canon) : s.keepPaths.Canon := h.update

theorem State.Canon.compress {p} (h : s.Canon) : (s.compress p).2.Canon := by
  unfold State.compress
  extract_lets
  split <;> exact h.update

theorem State.Canon.sendPkt {p} (h : s.Canon) : (s.sendPkt p).Canon := h.compress.send

theorem State.Canon.sendVec {a kind aop t' l} (h : s.Canon) : (s.sendVec a kind aop t' l).Canon := by
  unfold State.sendVec
  split
  · exact h
  · split
    · next e =>
        refine .foldl (.timer (.update (.sendPkt (.of_snd e h.newId)))) fun _ _ h1 => .modPart
            (.ite (.evict (.ite h1.track.modCore h1)) (.ite h1.track.modCore h1))

theorem State.Canon.askHost {a p port pa atomic} (h : s.Canon) : (s.askHost a p port pa atomic).Canon :=
  .ite h.modPart h.send.update.timer.modPart

theorem State.Canon.proxyAtomic {a p pa l} (h : s.Canon) : (s.proxyAtomic a p pa l).Canon := by
  unfold State.proxyAtomic
  extract_lets
  split
  · exact .modPart (.foldl_snd h (fun _ _ h1 => h1.releaseTo))
  · split
    · next e => exact .scAdd (.foldl (.of_snd e (.newId (.foldl_snd h (fun _ _ h1 => h1.releaseTo))))
            fun _ _ h1 => h1.modPart)

theorem State.Canon.tryRead {a p n fresh keep} (h : s.Canon) : PairCanon (s.tryRead a p n fresh keep) := by
  unfold State.tryRead
  extract_lets
  split
  · exact h.failPart.inrPair
  · split
    · exact h.inlPair
    · split
      · exact h.inlPair
      · split
        · exact h.startWalk.inrPair
        · next e _ =>
            extract_lets
            split
            · exact h.failPart.inrPair
            · split
              · refine State.Canon.inrPair ?_
                split
                · exact h.donePart
                · exact h.askHost
              · split
                · exact h.failPart.inrPair
                · split
                  · next e => exact (h.tokensFor.2 _ e).inrPair
                  · next e =>
                      split
                      · exact (h.tokensFor.1 _ e).machineFault.inrPair
                      · exact State.Canon.inlPair (.ite (h.tokensFor.1 _ e).modCore (h.tokensFor.1 _ e))

theorem State.Canon.stcwMsix {a pa} (h : s.Canon) : (s.stcwMsix a pa).Canon := by
  unfold State.stcwMsix
  split
  · exact h.send
  · exact h

theorem State.Canon.nextInPath {l sec} (h : s.Canon) : (s.nextInPath l sec).Canon := by
  unfold State.nextInPath
  split
  · exact h.push
  · exact h

theorem State.Canon.spAccept {core e before} (h : s.Canon) : (s.spAccept core e before).2.Canon := by
  unfold State.spAccept
  extract_lets
  split
  · exact h
  · split
    · exact h
    · dsimp only
      split
      · exact h.modCore.push
      · exact h.modCore

theorem State.Canon.homeGather {sec asid} (h : s.Canon) : BothCanon (s.homeGather sec asid) := by
  unfold State.homeGather
  extract_lets
  split
  · exact h.homeWant.inr
  · exact .ite h.cxlAsk.inr h.biSnoop.inl

theorem State.Canon.homeReady {a p pa} (h : s.Canon) : BothCanon (s.homeReady a p pa) := h.modPart.homeGather

theorem State.Canon.homeWrite {pa n v} (h : s.Canon) : (s.homeWrite pa n v).Canon :=
  .ite h.setMemSector.healMem.modHome h.setMemSector.healMem

theorem State.Canon.performNc {a p} (h : s.Canon) : (s.performNc a p).Canon := by
  unfold State.performNc
  extract_lets
  split
  · next e _ _ =>
      extract_lets
      split
      · exact h.spAccept
      · split
        · exact h.spAccept.holdOwner
        · split
          · next e => exact h.spAccept.homeReady.2 _ e
          · next e => exact (h.spAccept.homeReady.1 _ e).homeWrite.leavePath.stcwMsix.donePart.nextInPath
  · exact h

theorem State.Canon.performStore {a p} (h : s.Canon) : (s.performStore a p).Canon := by
  unfold State.performStore
  extract_lets
  split
  · next e _ _ =>
      split
      · exact h.performNc
      · extract_lets
        split
        · exact h.spAccept
        · split
          · next e => exact h.spAccept.tokensFor.2 _ e
          · next e => exact (h.spAccept.tokensFor.1 _ e).l2Write.leavePath.stcwMsix.donePart.nextInPath
  · exact h

theorem State.Canon.performEng {core e} (h : s.Canon) : (s.performEng core e).Canon := by
  unfold State.performEng
  extract_lets
  split
  · extract_lets _ _ _ gone
    split
    · exact h.spAccept
    · split
      · split
        · next e => exact h.spAccept.homeGather.2 _ e
        · next e =>
            unfold gone
            exact (h.spAccept.homeGather.1 _ e).homeWrite.modCore.modOp.push.nextInPath
      · split
        · exact h.spAccept
        · exact .ite h.spAccept.l2Write.modCore.modOp.push.nextInPath (.ite h.spAccept h.spAccept.need)
  · exact h

theorem State.Canon.joinPath {core e} (h : s.Canon) : (s.joinPath core e).Canon := h.modCore
theorem State.Canon.enterPath {a p pa t'} (h : s.Canon) : (s.enterPath a p pa t').Canon := h.joinPath.modPart

theorem State.Canon.hostStore {a p port pa} (h : s.Canon) : (s.hostStore a p port pa).Canon :=
  .ite h.modPart (.ite h.send.send.update.timer.modPart h.send.trackHost.stcwMsix.donePart)

theorem State.Canon.stepStore {a p nc} (h : s.Canon) : (s.stepStore a p nc).Canon := by
  unfold State.stepStore
  split
  · exact h.failPart
  · split
    · exact h.startWalk
    · extract_lets
      split
      · exact h.failPart
      · split
        · exact h.hostStore
        · exact h.sendVec
        · split
          · exact h.failPart
          · exact .ite h.enterPath.performNc h.enterPath.performStore

theorem State.Canon.stepAtomic {a p} (h : s.Canon) : (s.stepAtomic a p).Canon := by
  unfold State.stepAtomic
  split
  · exact h.failPart
  · split
    · exact h.startWalk
    · next e _ =>
        extract_lets
        split
        · exact h.failPart
        · split
          · exact .ite h.modCore.failPart h.modCore.proxyAtomic
          · split
            · exact h.modCore.askHost
            · exact h.modCore.sendVec
            · split
              · exact h.modCore.failPart
              · split
                · split
                  · next e => exact h.modCore.homeReady.2 _ e
                  · next e =>
                      exact (h.modCore.homeReady.1 _ e).homeWrite.donePart
                · split
                  · next e => exact h.modCore.tokensFor.2 _ e
                  · next e =>
                      split
                      · exact (h.modCore.tokensFor.1 _ e).machineFault
                      · exact (h.modCore.tokensFor.1 _ e).l2Write.donePart

theorem State.Canon.post {die slot n} (h : s.Canon) : LeftCanon (s.post die slot n) :=
  .ite .right (.ite .right h.vlWr.left)

theorem State.Canon.vaultPut {die addr n v} (h : s.Canon) : (s.vaultPut die addr n v).Canon := h.vlWr.update

theorem State.Canon.stepVault {a p} (h : s.Canon) : (s.stepVault a p).Canon := by
  refine .ite h.machineFault ?_
  split
  · exact h.vaultPut.donePart
  · exact h.vaultPut.donePart
  · exact h.vaultPut.donePart
  · exact h.donePart
  · exact h.donePart

theorem State.Canon.cpyaPut {a p size slot v} (h : s.Canon) : (s.cpyaPut a p size slot v).Canon := by
  unfold State.cpyaPut
  extract_lets
  split
  · exact h.vaultPut.donePart
  · split
    · next e => exact (h.vaultPut.post _ e).modPart.donePart
    · exact .failPart (.modAcc (.ite h.vaultPut.vlWr h.vaultPut))

theorem State.Canon.stepCpya {a p size slot} (h : s.Canon) : (s.stepCpya a p size slot).Canon := by
  unfold State.stepCpya
  split
  · next e => exact h.tryRead.2 _ e
  · next e => exact (h.tryRead.1 _ _ e).cpyaPut

theorem State.Canon.stepNc {a p} (h : s.Canon) : (s.stepNc a p).Canon := by
  unfold State.stepNc
  extract_lets
  split
  · exact h.failPart
  · split
    · exact h.donePart
    · split
      · exact h.startWalk
      · extract_lets
        split
        · exact h.failPart
        · split
          · exact h.modCore.askHost
          · exact h.modCore.sendVec
          · split
            · exact h.modCore.failPart
            · exact .ite h.modCore.machineFault (.ite h.modCore.modPart.cxlAsk h.modCore.donePart)

theorem State.Canon.dropPage {asid va size all} (h : s.Canon) : (s.dropPage asid va size all).Canon :=
  (h.foldl fun _ _ h1 => h1.modDie).foldl fun _ _ h1 => h1.modCore

theorem State.Canon.dropPhys {pa size} (h : s.Canon) : (s.dropPhys pa size).Canon :=
  (h.foldl fun _ _ h1 => h1.modDie).foldl fun _ _ h1 => h1.modCore

theorem State.Canon.l1DropPage {pa size} (h : s.Canon) : (s.l1DropPage pa size).Canon :=
  h.foldl fun _ _ h1 => h1.modCore

theorem State.Canon.dropLines {pa size} (h : s.Canon) : (s.dropLines pa size).Canon := by
  unfold State.dropLines
  refine h.foldl fun _ _ ht => ?_
  split
  · exact ht.send.modHome
  · exact ht

theorem State.Canon.stepWbinv {a p} (h : s.Canon) : (s.stepWbinv a p).Canon := by
  unfold State.stepWbinv
  extract_lets
  split
  · exact .ite h.failPart h.startWalk
  · extract_lets _ _ s2 _
    have hs2 : s2.Canon := .foldl (.ite h.l1DropPage h) fun _ _ h1 => h1.evict
    split
    · exact h.failPart
    · split
      · exact .donePart (.ite h.l1DropPage h)
      · exact .ite hs2.donePart hs2.modPart
      · split
        · exact .donePart (.dropLines (.ite h.l1DropPage h))
        · split
          · exact .foldl (.modPart (.ite h.l1DropPage h)) fun _ _ h1 => h1.recall
          · exact .ite h.l1DropPage h

theorem State.Canon.replayEng (h : s.Canon) : s.replayEng.Canon :=
  h.push.foldl fun _ _ h1 => h1.foldl fun _ _ h2 => .ite h2.modOp.push h2

theorem State.Canon.replayHeld (h : s.Canon) : s.replayHeld.Canon := h.push.replayEng
theorem State.Canon.askAgain {pa size} (h : s.Canon) : (s.askAgain pa size).Canon := h.push

theorem State.Canon.stepMapctl {a p op asid} (h : s.Canon) : (s.stepMapctl a p op asid).Canon := by
  unfold State.stepMapctl
  split
  · exact .ite (.ite h.dropPage.modPart h) (.donePart (.ite h.dropPage.modPart h))
  · exact .ite (.ite h.dropPage.modPart h) (.donePart (.ite h.dropPage.modPart h))
  · split
    · split
      · exact h.failPart
      · exact h.update.dropPhys.modPart.askAgain
    · exact .ite h h.update.donePart.replayHeld
  · split
    · split
      · exact h.failPart
      · exact h.modPart.push
    · exact .ite h h.update.donePart.replayHeld

theorem State.Canon.stepCtl {a p} (h : s.Canon) : (s.stepCtl a p).Canon := by
  unfold State.stepCtl
  split
  · split
    · exact h.donePart
    · split
      · exact h.startWalk
      · exact h.donePart
  · split
    · exact h.failPart
    · split
      · exact h.startWalk
      · split
        · exact h.failPart
        · split
          · exact .ite h.donePart h.evict.modPart
          · exact h.donePart
          · exact h.donePart
          · exact h.setPred.donePart
          · exact .ite h.donePart (.ite h.holdOwner (.ite h.modPart h.modPart.modDie.sendPress))
          · exact h.donePart

theorem State.Canon.sendKick {n acc lanes eng} (h : s.Canon) : (s.sendKick n acc lanes eng).Canon :=
  .ite h.push h.sendPkt.update.timer

theorem State.Canon.stepKick {a p n} (h : s.Canon) : (s.stepKick a p n).Canon := by
  unfold State.stepKick
  extract_lets
  split
  · exact h.startWalk
  · split
    · exact h.failPart
    · exact h.modPart.sendKick

theorem State.Canon.stepPart {a p} (h : s.Canon) : (s.stepPart a p).Canon := by
  unfold State.stepPart
  extract_lets
  split
  · split
    · next e => exact h.tryRead.2 _ e
    · next e => exact (h.tryRead.1 _ _ e).donePart
  · split
    · next e => exact h.tryRead.2 _ e
    · next e => exact (h.tryRead.1 _ _ e).donePart
  · split
    · next e => exact h.tryRead.2 _ e
    · next e => exact (h.tryRead.1 _ _ e).donePart
  · split
    · exact h.stepVault
    · split
      · next e => exact h.tryRead.2 _ e
      · next e => exact (h.tryRead.1 _ _ e).donePart
  · split
    · next e => exact h.tryRead.2 _ e
    · next e => exact (h.tryRead.1 _ _ e).donePart
  · exact h.stepCpya
  · exact h.stepStore
  · exact h.stepStore
  · exact h.stepAtomic
  · exact h.stepAtomic
  · exact h.stepNc
  · exact h.stepStore
  · exact h.stepVault
  · exact h.stepVault
  · exact h.stepVault
  · exact h.stepVault
  · exact h.stepVault
  · exact h.stepVault
  · exact h.stepWbinv
  · exact h.stepMapctl
  · exact h.stepKick
  · exact h
  · exact h
  · exact h.stepCtl

theorem State.Canon.keepTr {a p} (h : s.Canon) : (s.keepTr a p).1.Canon := by
  unfold State.keepTr
  extract_lets
  split
  · exact h.modPart
  · exact h

theorem State.Canon.advancePart {id lane} (h : s.Canon) : (s.advancePart id lane).Canon := by
  unfold State.advancePart
  split
  · exact h
  · split
    · exact h
    · split
      · exact .ite h h.keepTr.stepPart
      · exact .ite h.performNc h.performStore
      · split
        · exact h.stepPart
        · exact h.stepPart
        · exact h
      · exact h

theorem State.Canon.accAcquire {a} (h : s.Canon) : (s.accAcquire a).Canon := by
  unfold State.accAcquire
  split
  · split
    · exact h.acquire
    · exact h
  · exact h

theorem State.Canon.settle {w id} (h : s.Canon) : (s.settle w id).Canon := by
  unfold State.settle
  split
  · exact h
  · exact .raiseWord (.push (.drain (.ite h.accAcquire.push h.accAcquire)))

theorem State.Canon.settleOn {w id} (h : s.Canon) : (s.settleOn w id).Canon := by
  unfold State.settleOn
  extract_lets
  split
  · exact .ite h.settle.push h.settle
  · exact h.settle

theorem State.Canon.failOn {a p code lvl info} (h : s.Canon) : (s.failOn a p code lvl info).Canon :=
  h.failPart.settleOn

theorem State.Canon.advance {id} (h : s.Canon) : (s.advance id).Canon := by
  unfold State.advance
  split
  · exact h
  · exact .ite h (h.foldl fun _ _ h1 => h1.advancePart).settle

theorem State.Canon.noteAnswer {src rid resp} (h : s.Canon) : (s.noteAnswer src rid resp).Canon := h.update
theorem State.Canon.respond {src rid m} (h : s.Canon) : (s.respond src rid m).Canon := h.noteAnswer.send
theorem State.Canon.markersGo (h : s.Canon) : s.markersGo.Canon := h.update.foldl fun _ _ h1 => h1.send
theorem State.Canon.jobElem {j acc e} (h : acc.1.Canon) : (jobElem j acc e).1.Canon := .ite_fst h.l2Write h.need

theorem State.Canon.runJob {id} (h : s.Canon) : (s.runJob id).Canon := by
  unfold State.runJob
  split
  · exact h
  · extract_lets r s1
    have hs1 : s1.Canon := .foldl_fst h fun _ _ h1 => .jobElem h1
    exact .ite (.markersGo (.ite hs1.update.respond hs1.update)) hs1.update

theorem State.Canon.performWaiting {d sec} (h : s.Canon) : (s.performWaiting d sec).Canon :=
  ((h.foldl fun _ _ h1 => .ite h1.performEng h1.advance).foldl fun _ _ h1 => h1.advance).foldl fun _ _ h1 => h1.runJob

/-! ### Memory words -/

theorem State.Canon.relAll {b g sp sls sc} (h : s.Canon) : SomeCanon (relAll s b g sp sls sc) :=
  .ite .none (.some (.waitAt (.foldl_snd h (fun _ _ h1 => h1.release))))

theorem State.Canon.issueAccs {b g sp c ord sc l} (h : s.Canon) : (issueAccs s b g sp c ord sc l).Canon := by
  unfold Machine.issueAccs
  extract_lets _ _ _ r
  have hr : r.1.Canon := by
    refine .foldl_fst h fun _ _ ht => .ite_fst ht ?_
    split
    next e => exact (State.Canon.of_snd e ht.newId).modSlice.push
  exact .ite h.waitAt (.ite hr.finish hr.trapMany)

theorem State.Canon.memWord {c kind esz ord sc once path lane named} (h : s.Canon) :
    NextCanon (memWord c kind esz ord sc once path lane s named) := by
  unfold Machine.memWord
  refine .withSplit fun _ _ _ => ?_
  extract_lets
  split
  · next e => exact .of_some e (.ite h.relAll .none)
  · exact h.issueAccs

theorem State.Canon.execLd {c o} (h : s.Canon) : NextCanon (execLd c o s) := by
  unfold Machine.execLd
  exact h.memWord

theorem State.Canon.execSt {c o} (h : s.Canon) : NextCanon (execSt c o s) := by
  unfold Machine.execSt
  exact h.memWord

theorem State.Canon.execLdv {c o} (h : s.Canon) : NextCanon (execLdv c o s) := by
  unfold Machine.execLdv
  exact h.memWord

theorem State.Canon.execStv {c o} (h : s.Canon) : NextCanon (execStv c o s) := by
  unfold Machine.execStv
  exact h.memWord

theorem State.Canon.execLdnc {c o} (h : s.Canon) : NextCanon (execLdnc c o s) := by
  unfold Machine.execLdnc
  exact h.memWord

theorem State.Canon.execStnc {c o} (h : s.Canon) : NextCanon (execStnc c o s) := by
  unfold Machine.execStnc
  exact h.memWord

theorem State.Canon.execLdc {c o} (h : s.Canon) : NextCanon (execLdc c o s) := by
  unfold Machine.execLdc
  exact h.memWord

theorem State.Canon.execLdx {c o} (h : s.Canon) : NextCanon (execLdx c o s) :=
  .withSplit fun _ _ _ => .ite h.waitAt (.issueAccs (.ite h (h.foldl fun _ _ h1 => h1.modSlice)))

theorem State.Canon.execRed {c o} (h : s.Canon) : NextCanon (execRed c o s) := by
  unfold Machine.execRed
  exact h.memWord

theorem State.Canon.execAtomcas {c o} (h : s.Canon) : NextCanon (execAtomcas c o s) := .ite h.memWord h.memWord

theorem State.Canon.execAtomf {c o} (h : s.Canon) : NextCanon (execAtomf c o s) := by
  unfold Machine.execAtomf
  exact h.memWord

theorem State.Canon.barWord {c o sc upd} (h : s.Canon)
    (hupd : ∀ t die sl g a, t.Canon → LeftPairCanon (upd t die sl g a)) : NextCanon (barWord c o sc upd s) := by
  unfold Machine.barWord
  refine .withSplit fun _ _ _ => ?_
  extract_lets
  split
  · next e => exact h.relAll _ e
  · split
    · exact h.waitAt
    · refine .issueAccs (.foldl_fst h fun _ _ ht => ?_)
      extract_lets
      split
      · exact ht
      · split
        · exact ht
        · split
          · exact ht
          · next e => exact .of_leftPair e (hupd _ _ _ _ _ ht)

theorem State.Canon.execBinit {c o} (h : s.Canon) : NextCanon (execBinit c o s) := by
  unfold Machine.execBinit
  refine h.barWord fun _ _ _ _ _ ht => ?_
  extract_lets
  split
  · exact .right
  · exact .ite .right ht.vaultPut.update.leftPair

theorem State.Canon.execBexp {c o} (h : s.Canon) : NextCanon (execBexp c o s) := by
  unfold Machine.execBexp
  refine h.barWord fun _ _ _ _ _ ht => ?_
  extract_lets
  split
  · exact .right
  · exact .ite .right ht.vaultPut.leftPair

theorem State.Canon.execBarv {c o} (h : s.Canon) : NextCanon (execBarv c o s) :=
  h.barWord (fun _ _ _ _ _ h1 => .ite .right h1.vaultPut.leftPair)

theorem State.Canon.execBret {c o} (h : s.Canon) : NextCanon (execBret c o s) :=
  h.barWord (fun _ _ _ _ _ h1 => .ite .right h1.vaultPut.update.leftPair)

theorem State.Canon.execBtest {c o} (h : s.Canon) : NextCanon (execBtest c o s) := by
  unfold Machine.execBtest
  refine .withSplit fun _ _ _ => ?_
  extract_lets _ open'
  clear_value open'
  split
  · exact h.waitAt
  · split
    · next e => exact h.barWord (fun _ _ _ _ _ h1 => .ite .right (.leftPair (.ite h1.acquire h1))) _ e
    · exact h

theorem State.Canon.execCpya {c o} (h : s.Canon) : NextCanon (execCpya c o s) := .withSplit fun _ _ _ => h.issueAccs

theorem State.Canon.stcwSeq {c o b} (h : s.Canon) : (stcwSeq c o b s).Canon := by
  unfold Machine.stcwSeq
  extract_lets
  split
  · exact h.waitSeq
  · split
    · exact h.release.waitSeq
    · split
      · exact h.waitSeq
      · split
        · exact h.trapSeq
        · split
          · next e => exact .finishSeq (.push (.modSeq (.of_snd e h.newId)))

theorem State.Canon.execStcw {c o} (h : s.Canon) : NextCanon (execStcw c o s) := by
  unfold Machine.execStcw
  split
  · exact .withSeq (fun _ => h.stcwSeq)
  · refine .withSplit fun _ _ _ => ?_
    extract_lets
    split
    · next e => exact h.relAll _ e
    · exact h.issueAccs

theorem State.Canon.execCctlInv {c _o} (h : s.Canon) : NextCanon (execCctlInv c _o s) :=
  .withSplit fun _ _ _ => .finish (.ite h h.acquire)

theorem State.Canon.execCctlInvl {c o} (h : s.Canon) : NextCanon (execCctlInvl c o s) :=
  .withSplit fun _ _ _ => (h.foldl fun _ _ h1 => h1.modCore).finish

theorem State.Canon.ctlWord {c k o part} (h : s.Canon) : NextCanon (ctlWord c k o part s) := h.memWord

/-! ### Regrouping, barriers and exits -/

theorem State.Canon.barLane {c o b g sp} (h : s.Canon) : (barLane c o b g sp s).Canon := by
  unfold Machine.barLane
  split
  · exact .ite h.finish h.waitAt
  · split
    · next e => exact h.relAll _ e
    · exact .ite h.modBlk.finish (.ite h.modBlk.finish h.modBlk.waitAt)

theorem State.Canon.barSeq {c o b} (h : s.Canon) : (barSeq c o b s).Canon := by
  unfold Machine.barSeq
  split
  · exact .ite h.finishSeq h.waitSeq
  · exact .ite h.waitSeq (.ite h.release.waitSeq (.ite h.modBlk.finishSeq h.modBlk.waitSeq))

theorem State.Canon.execBar {c o} (h : s.Canon) : NextCanon (execBar c o s) := by
  unfold Machine.execBar
  split
  · exact .withSeq (fun _ => h.barSeq)
  · exact .withSplit (fun _ _ _ => h.barLane)

theorem State.Canon.tryRegang {bid gang} (h : s.Canon) : (s.tryRegang bid gang).Canon := by
  unfold State.tryRegang
  split
  · exact h
  · exact .ite h h.modGang

theorem State.Canon.execRegang {c o} (h : s.Canon) : NextCanon (execRegang c o s) :=
  .withSplit fun _ _ _ => .ite h.finish h.keepStall.waitAt.tryRegang

theorem State.Canon.afterExit {bid gang} (h : s.Canon) : (s.afterExit bid gang).Canon := by
  unfold State.afterExit
  extract_lets _ s2
  have hs2 : s2.Canon := h.modGang.tryRegang
  split
  · exact hs2
  · split
    · exact hs2
    · extract_lets _ s4
      have hs4 : s4.Canon := .ite hs2.modBlk.setUi.setCx hs2.modBlk
      exact .ite hs2.modBlk (.push (.ite hs4.setUi hs4))

theorem State.Canon.follow {core l} (h : s.Canon) : (s.follow core l).Canon := h.update.modCore

theorem State.Canon.regroup {b g partner k m stall} (h : s.Canon) : (s.regroup b g partner k m stall).Canon := by
  unfold State.regroup
  extract_lets s1 _ _ _ _ _ other _ _ _ _ _ _ _ _ _ _ _ _
  have hs1 : s1.Canon := by
    unfold s1
    refine h.foldl fun _ _ ht => ?_
    split
    · exact ht.endRun
    · exact ht
  clear_value other
  split
  · exact hs1.update.update.modGang.follow.push.modBlk
  · exact hs1.update.update.modGang.follow.push.modGang.afterExit

theorem State.Canon.regroupFault {b g p other} (h : s.Canon) : (s.regroupFault b g p other).Canon := h.trapGangs

theorem State.Canon.execRegroup {c o} (h : s.Canon) : NextCanon (execRegroup c o s) := by
  unfold Machine.execRegroup
  refine .withSplit fun _ _ _ => ?_
  extract_lets
  split
  · exact h.regroupFault
  · split
    · exact h.regroupFault
    · split
      · exact .ite h.keepStall.waitAt h.regroup
      · split
        · exact h.keepStall.waitAt
        · exact .ite h.regroupFault (.ite h.keepStall.waitAt h.regroup)

theorem State.Canon.execSyncm {c o} (h : s.Canon) : NextCanon (execSyncm c o s) := by
  unfold Machine.execSyncm
  refine .withSplit fun _ _ _ => ?_
  split
  · next e => exact h.relAll _ e
  · split
    · exact h.modGang.waitAt.trap
    · exact .ite h.modGang.waitAt h.modGang.onMembers.finish

/-! ### Whey mode -/

theorem State.Canon.queueRec {r target holder} (h : s.Canon) : (s.queueRec r target holder).Canon := by
  unfold State.queueRec
  extract_lets _ _ _ back link s'1 s'2
  have hs'1 : s'1.Canon := by
    unfold s'1
    split
    · unfold link
      exact h.vlWrBytes.vlWr
    · exact h.vlWrBytes
  have hs'2 : s'2.Canon := by
    unfold s'2
    clear_value back
    split
    · unfold link
      exact hs'1.vlWr
    · exact hs'1
  exact hs'2.modCore

theorem State.Canon.depart {bid seg target stage} (h : s.Canon) : (s.depart bid seg target stage).Canon := by
  unfold State.depart
  split
  · exact h
  · exact h.update.modCore.push

theorem State.Canon.pullRec {core} (h : s.Canon) : (s.pullRec core).1.Canon := by
  unfold State.pullRec
  split
  · exact h
  · exact .ite_fst h.modCore h.modCore.queueRec.push

theorem State.Canon.departNow {bid} (h : s.Canon) : (s.departNow bid).Canon := by
  unfold State.departNow
  split
  · exact h
  · split
    · exact h
    · split
      · exact h
      · split
        · exact h.modSplit
        · exact h.depart
        · exact h.trap

theorem State.Canon.handlerAt {b} (h : s.Canon) : (s.handlerAt b).Canon := by
  unfold State.handlerAt
  split
  · exact .ite h.setCx h
  · exact h

theorem State.Canon.execWheyArrival {core} (h : s.Canon) : NextCanon (execWheyArrival core s) := by
  unfold Machine.execWheyArrival
  refine .next ?_
  split
  · exact h
  · split
    · exact h
    · extract_lets _ _ _ _ _ _ _ _ s4
      have hs4 : s4.Canon := h.modCore.modCore.acquire.update.handlerAt
      exact .ite hs4 hs4.push

theorem State.Canon.execReplicaAdvertisement (h : s.Canon) : NextCanon (execReplicaAdvertisement s) :=
  .next (.ite (h.foldl fun _ _ h1 => h1.modCore) (h.foldl fun _ _ h1 => h1.modCore).timer)

/-! ### Context registers -/

theorem State.Canon.raiseYield {p cause} (h : s.Canon) : (s.raiseYield p cause).Canon := h.update.modRecs.push
theorem State.Canon.dropCause {asid cause} (h : s.Canon) : (s.dropCause asid cause).Canon := h.update.modRecs
theorem State.Canon.ringBell {asid v} (h : s.Canon) : (s.ringBell asid v).Canon := h.setCx.push
theorem State.Canon.haltUnits {asid} (h : s.Canon) : (s.haltUnits asid).Canon := h.raiseYield.push

theorem State.Canon.writeYreq {asid v} (h : s.Canon) : (s.writeYreq asid v).Canon :=
  .ite h.setCx.raiseYield h.setCx.dropCause.push

theorem State.Canon.writeHalt {asid v} (h : s.Canon) : (s.writeHalt asid v).Canon :=
  .ite h.setCx.haltUnits h.setCx.dropCause.push

theorem State.Canon.cxWrite {asid i v} (h : s.Canon) : (s.cxWrite asid i v).Canon := by
  unfold State.cxWrite
  split
  · exact h.update.writeYreq
  · exact h.update.ringBell
  · exact .ite h.update h.update.setUi.setCx
  · exact h.update.setCx
  · exact h.update.writeHalt
  · exact h.update.setCx

theorem State.Canon.frozenWrite {b g sl i v} (h : s.Canon) : (s.frozenWrite b g sl i v).Canon :=
  .ite h.modSlice (.ite h.modSlice h.vlWr)

theorem State.Canon.execRdsr {c o} (h : s.Canon) : NextCanon (execRdsr c o s) :=
  .withSplit fun _ _ _ => h.onMembers.finish

theorem State.Canon.execWrsr {c o} (h : s.Canon) : NextCanon (execWrsr c o s) := by
  unfold Machine.execWrsr
  refine .withSplit fun _ _ _ => ?_
  extract_lets i s1
  have hs1 : s1.Canon := by
    unfold s1
    refine h.foldl fun _ _ ht => ?_
    split
    · exact ht
    · extract_lets
      split
      · exact ht.frozenWrite
      · clear_value i
        split
        · exact ht.modSlice
        · exact ht.modSlice
        · exact ht.cxWrite
  split
  · next e => exact .of_some e (.ite h.relAll .none)
  · exact hs1.finish

/-! ### Control words -/

theorem State.Canon.jumpSplit {b g sp c f} (h : s.Canon) : (jumpSplit s b g sp c f).Canon := by
  unfold Machine.jumpSplit
  extract_lets outs _ _ _ _ owe _ go
  have hgo : (go s).Canon := by
    unfold go
    extract_lets _ s2
    have hs2 : s2.Canon := by
      refine h.modGang.foldl fun _ _ ht => ?_
      split
      · exact ht.writeSpill
      · exact ht
    refine .ite (.ite (hs2.moveSplit.foldl fun _ _ ht => ?_) hs2.moveSplit) hs2.trapMany
    split
    · exact ht.modSplit
    · exact ht
  clear_value outs go
  split
  · split
    · exact hgo
    · exact h.trapWord
    · exact .ite hgo.departNow h.waitAt
  · exact hgo

theorem State.Canon.execBra {c o} (h : s.Canon) : NextCanon (execBra c o s) :=
  .withSplit fun _ _ _ => .ite h.trapWord h.jumpSplit

theorem State.Canon.execBrx {c o} (h : s.Canon) : NextCanon (execBrx c o s) :=
  .withSplit fun _ _ _ => .ite h.update.trapWord h.update.jumpSplit

theorem State.Canon.execCall {c o} (h : s.Canon) : NextCanon (execCall c o s) :=
  .withSplit fun _ _ _ => h.update.jumpSplit

theorem State.Canon.execCallx {c o} (h : s.Canon) : NextCanon (execCallx c o s) :=
  .withSplit fun _ _ _ => h.update.jumpSplit

theorem State.Canon.execRet {c o} (h : s.Canon) : NextCanon (execRet c o s) :=
  .withSplit fun _ _ _ => h.update.jumpSplit

theorem State.Canon.execScbra {c o} (h : s.Canon) : NextCanon (execScbra c o s) :=
  .withSplit fun _ _ _ => h.jumpSplit

theorem State.Canon.divWord {c f} (h : s.Canon) : NextCanon (divWord c f s) :=
  .withSplit fun _ _ _ => .ite h.onMembers.finish h.onMembers.trapWord

theorem State.Canon.markExits {b lanes} (h : s.Canon) : (s.markExits b lanes).Canon := by
  unfold State.markExits
  split
  · exact h
  · refine h.foldl fun _ _ ht => ?_
    split
    · exact ht.markEntry
    · exact ht

theorem State.Canon.execExit {c} (h : s.Canon) : NextCanon (execExit c s) :=
  .withSplit fun _ _ _ => h.onMembers.finish.markExits.afterExit

theorem State.Canon.execYield {c} (h : s.Canon) : NextCanon (execYield c s) :=
  .withSplit fun _ _ _ => .ite (.finish (.ite h.onMembers.push h)) h.finish

theorem State.Canon.execSpinh {c} (h : s.Canon) : NextCanon (execSpinh c s) := .withSplit fun _ _ _ => h.finish

/-! ### Synchronisation words -/

theorem State.Canon.execFence {c o} (h : s.Canon) : NextCanon (execFence c o s) := by
  unfold Machine.execFence
  split
  · exact .withSeq (fun _ => .ite h.release.waitSeq (.finishSeq (.ite h.release.acquire h.release)))
  · refine .withSplit fun _ _ _ => ?_
    extract_lets
    split
    · next e => exact h.relAll _ e
    · exact .finish (.ite (h.foldl fun _ _ h1 => h1.acquire) h)

theorem State.Canon.markSlice {b g sl all} (h : s.Canon) : (s.markSlice b g sl all).Canon := by
  unfold State.markSlice
  extract_lets
  split
  · exact h.modSlice
  · split
    · next e => exact .foldl (.modSlice (.of_snd e h.modSlice.newId)) fun _ _ h1 => h1.sendMarker

theorem State.Canon.execMark {c o} (h : s.Canon) : NextCanon (execMark c o s) :=
  .withSplit fun _ _ _ => .ite h.waitAt (.ite h.waitAt (h.foldl fun _ _ h1 => h1.markSlice).finish)

theorem State.Canon.execWaitp {c o} (h : s.Canon) : NextCanon (execWaitp c o s) := by
  unfold Machine.execWaitp
  refine .withSplit fun _ _ _ => ?_
  extract_lets
  split
  · exact h.waitAt
  · exact h.finish

theorem State.Canon.tlRelease {b sc} (h : s.Canon) : (s.tlRelease b sc).2.Canon := .ite_snd h.releaseTo h

theorem State.Canon.execTlwait {c o} (h : s.Canon) : NextCanon (execTlwait c o s) := by
  unfold Machine.execTlwait
  split
  · exact .withSeq (fun _ => .ite h.waitSeq (.ite h.tlRelease.waitSeq h.tlRelease.acquire.finishSeq))
  · refine .withSplit fun _ _ _ => ?_
    extract_lets
    split
    · exact h.waitAt
    · exact .ite h.finish (.ite h.tlRelease.waitAt h.tlRelease.acquire.finish)

theorem State.Canon.execTlread {c o} (h : s.Canon) : NextCanon (execTlread c o s) := by
  unfold Machine.execTlread
  split
  · exact .withSeq (fun _ => h.modSeq.finishSeq)
  · exact .withSplit (fun _ _ _ => h.onMembers.finish)

theorem State.Canon.execTladv {c o} (h : s.Canon) : NextCanon (execTladv c o s) :=
  .withSplit fun _ _ _ => .finish (.ite h.onMembers.acquire h.onMembers)

/-! ### Words of the uniform stream -/

theorem State.Canon.trapSeqAddr {b code kind path a info} (h : s.Canon) :
    (trapSeqAddr s b code kind path a info).Canon :=
  h.trapSeq

theorem State.Canon.execQld {c o} (h : s.Canon) : NextCanon (execQld c o s) := by
  unfold Machine.execQld
  refine .withSeq fun _ => ?_
  extract_lets
  split
  · exact h.waitSeq
  · split
    · exact h.trapSeqAddr
    · split
      · exact h.trapSeqAddr
      · split
        · next e => exact .finishSeq (.push (.modSeq (.of_snd e h.newId)))

theorem State.Canon.execQbra {c o} (h : s.Canon) : NextCanon (execQbra c o s) :=
  .withSeq fun _ => .ite h.finishSeqTo h.finishSeq

theorem State.Canon.execQwaitEnd {_c} (h : s.Canon) : NextCanon (execQwaitEnd _c s) :=
  .withSeq fun _ => h.modSeq.push

theorem State.Canon.execQwaitUntil {c o} (h : s.Canon) : NextCanon (execQwaitUntil c o s) :=
  .withSeq fun _ => .ite h.finishSeq (.waitSeq (.ite h h.timer))

theorem State.Canon.askLeave {b k} (h : s.Canon) : (s.askLeave b k).Canon := .waitSeq (.ite h h.modDie.push)

theorem State.Canon.execMleaveGet {c} (h : s.Canon) : NextCanon (execMleaveGet c s) :=
  .withSeq fun _ => .ite h.finishSeq h.askLeave

theorem State.Canon.execMleavePut {c} (h : s.Canon) : NextCanon (execMleavePut c s) :=
  .withSeq fun _ => .finishSeq (.ite h.modDie.modBlk.push h.modDie)

theorem State.Canon.issueEng {c k leave kind q b} (h : s.Canon) : (issueEng c k leave kind q b s).Canon :=
  .ite h.waitSeq (.ite h.askLeave h.modBlk.push.finishSeq)

theorem State.Canon.copyWord {code c o} (h : s.Canon) : NextCanon (copyWord code c o s) :=
  .withSeq fun _ => h.issueEng

theorem State.Canon.execTlsig {c o} (h : s.Canon) : NextCanon (execTlsig c o s) :=
  .withSeq fun _ => .ite h.waitSeq h.modBlk.finishSeq

theorem State.Canon.collWord {code c o} (h : s.Canon) : NextCanon (collWord code c o s) :=
  .withSeq fun _ => .ite h.trapSeqWord (.ite h.issueEng h.issueEng.modBlk)

/-! ### Matrix words -/

theorem State.Canon.execMfmt {c o} (h : s.Canon) : NextCanon (execMfmt c o s) := .withSeq fun _ => h.modBlk.finishSeq

theorem State.Canon.mmaWord {c o sparse gs} (h : s.Canon) : NextCanon (mmaWord c o sparse gs s) :=
  .withSeq fun _ => .ite h.trapSeqWord (.ite h.trapSeqWord h.issueEng)

theorem State.Canon.execMcoop {c o} (h : s.Canon) : NextCanon (execMcoop c o s) :=
  .withSeq fun _ => .ite h.trapSeqWord h.issueEng

theorem State.Canon.tileWord {code c o} (h : s.Canon) : NextCanon (tileWord code c o s) :=
  .withSeq fun _ => h.issueEng

/-! ### Engine operations -/

theorem State.Canon.engFault {b op code addr lvl info kind prog} (h : s.Canon) :
    (s.engFault b op code addr lvl info kind prog).Canon :=
  h.modOp.trapSeq

theorem State.Canon.engDone {bid k n} (h : s.Canon) : (s.engDone bid k n).Canon := by
  unfold State.engDone
  extract_lets
  split
  · exact h.modBlk
  · exact .push (.ite h.modBlk.timer h.modBlk)

theorem State.Canon.engWalk {b op va} (h : s.Canon) : (s.engWalk b op va).Canon := h.modOp.startWalk

theorem State.Canon.engHold {b op va} (h : s.Canon) : (s.engHold b op va).Canon :=
  .ite h (.ite h.modOp.push.record h.modOp.push)

theorem State.Canon.hostRead8 {port addr key eng pull} (h : s.Canon) : (s.hostRead8 port addr key eng pull).Canon :=
  h.send.update.timer

theorem State.Canon.engAsk {b op va pa e} (h : s.Canon) : (s.engAsk b op va pa e).Canon := by
  unfold State.engAsk
  split
  · exact .ite h.modOp.engHold h
  · split
    · exact .ite h.modOp.hostRead8 h
    · exact .ite h.engHold h.modOp.need

theorem State.Canon.engGather {b op prog l} (h : s.Canon) : SomeCanon (s.engGather b op prog l) := by
  unfold State.engGather
  extract_lets
  split
  · exact h.engFault.some
  · split
    · exact .none
    · exact ((h.foldl fun _ _ h1 => h1.engWalk).foldl fun _ _ h1 => h1.engAsk).some

theorem State.Canon.engPost {b op va pa n v t'} (h : s.Canon) : (s.engPost b op va pa n v t').Canon := by
  unfold State.engPost
  split
  · next e => exact .modOp (.joinPath (.track (.timer (.update (.sendPkt (.of_snd e h.newId))))))

theorem State.Canon.engWrite {b op sp a n v} (h : s.Canon) : LeftCanon (s.engWrite b op sp a n v) := by
  unfold State.engWrite
  split
  · exact h.modBlk.left
  · exact .ite .right (.ite .right h.vaultPut.left)
  · split
    · exact .right
    · split
      · exact .right
      · next e _ =>
          split
          · exact h.send.trackHost.left
          · exact h.engPost.left
          · split
            · exact .right
            · split
              · next e => exact .left (.performEng (.modOp (.joinPath (.of_snd e h.newId))))

theorem State.Canon.engLeave {core e} (h : s.Canon) : (s.engLeave core e).Canon := by
  unfold State.engLeave
  split
  · exact h.modCore.modOp
  · exact h.modCore

theorem State.Canon.engRetry {b op e} (h : s.Canon) : (s.engRetry b op e).Canon := by
  unfold State.engRetry
  extract_lets
  split
  · exact h
  · split
    · exact h.engLeave.engFault
    · split
      · exact h.performEng
      · split
        · exact h.engLeave.engFault
        · split
          · exact h.engHold
          · split
            · next e => exact h.engLeave.engWrite _ e
            · exact h.engLeave.engFault

theorem State.Canon.engPath {bid k n} (h : s.Canon) : (s.engPath bid k n).Canon := by
  unfold State.engPath
  refine h.foldl fun _ _ ht => ?_
  split
  · exact ht.engRetry
  · exact .ite ht.engLeave ht.performEng

theorem State.Canon.engDrop {bid k n} (h : s.Canon) : (s.engDrop bid k n).Canon := h.update

theorem State.Canon.engWrites {b op l} (h : s.Canon) : (s.engWrites b op l).1.Canon := by
  unfold State.engWrites
  refine .foldl_fst h fun _ _ ht => ?_
  split
  · exact ht
  · split
    · next e => exact ht.engWrite _ e
    · exact ht

theorem State.Canon.engWalks {b op l} (h : s.Canon) : SomeCanon (s.engWalks b op l) := by
  unfold State.engWalks
  split
  · exact .none
  · exact (h.foldl fun _ _ h1 => h1.engWalk).some

theorem State.Canon.engFinish {b op r} (h : r.1.Canon) : (State.engFinish b op r).Canon := by
  unfold State.engFinish
  split
  · exact h.engFault
  · exact h.modOp.push

theorem State.Canon.engPosting {b op slot n} (h : s.Canon) : LeftCanon (s.engPosting b op slot n) := by
  unfold State.engPosting
  split
  · exact h.left
  · split
    · exact .right
    · split
      · next e => exact (h.post _ e).modOp.left
      · exact .right

theorem State.Canon.engWithdraw {b op} (h : s.Canon) : (s.engWithdraw b op).Canon := by
  unfold State.engWithdraw
  split
  · exact .modOp (.ite h h.vlWr)
  · exact h

theorem State.Canon.copyBegin {b op code o} (h : s.Canon) : (s.copyBegin b op code o).Canon := by
  unfold State.copyBegin
  split
  · exact h.engFault
  · split
    · exact h.engFault
    · next e => exact .push (.modOp (.of_left e (.ite h.engPosting h.left)))

theorem State.Canon.copyPost {b op p} (h : s.Canon) : (s.copyPost b op p).Canon := by
  unfold State.copyPost
  split
  · exact h
  · split
    · exact h.engWithdraw.engFault
    · next e => exact .ite (h.engPosting _ e).modOp (.engFinish (h.engPosting _ e).modOp)

theorem State.Canon.copyMove {b op code o} (h : s.Canon) : (s.copyMove b op code o).Canon := by
  unfold State.copyMove
  split
  · exact h.engFault
  · split
    · exact h.copyPost
    · extract_lets
      split
      · next e => exact h.engGather _ e
      · split
        · next e => exact h.engWalks _ e
        · split
          · exact .engFinish h.engWrites.engWithdraw
          · split
            · exact .ite h.engWrites.modOp.copyPost (.ite h.engWrites.modOp (.engFinish h.engWrites.modOp))
            · exact h.engWrites.modOp

/-! ### Kicks and pulls -/

theorem State.Canon.relEach {b g sp l} (h : s.Canon) : SomeCanon (relEach s b g sp l) :=
  SomeCanon.of_map (fun _ => .waitAt (.foldl_snd h (fun _ _ h1 => h1.release)))

theorem State.Canon.pullBegin {b op n} (h : s.Canon) : (s.pullBegin b op n).Canon := by
  unfold State.pullBegin
  split
  · exact h.engWalk
  · split
    · exact h.engFault
    · split
      · next e => exact .sendKick (.update (.modOp (.of_snd e h.newId)))

theorem State.Canon.kickSeq {c o b} (h : s.Canon) : (kickSeq c o b s).Canon := by
  unfold Machine.kickSeq
  extract_lets
  split
  · exact h.waitSeq
  · split
    · exact h.release.waitSeq
    · split
      · exact h.trapSeqAddr
      · split
        · exact h.issueEng.pullBegin
        · exact h.issueEng

theorem State.Canon.execKick {c o} (h : s.Canon) : NextCanon (execKick c o s) := by
  unfold Machine.execKick
  split
  · exact .withSeq (fun _ => h.kickSeq)
  · refine .withSplit fun _ _ _ => ?_
    extract_lets
    split
    · next e => exact h.relEach _ e
    · exact h.issueAccs.foldl fun _ _ h1 => h1.advance

theorem State.Canon.kickDone {n} (h : s.Canon) : (s.kickDone n).Canon := by
  unfold State.kickDone
  split
  · exact h.respond
  · split
    · exact h.update.push.modOp
    · split
      · exact (h.foldl fun _ _ h1 => h1.donePart).settle
      · exact h

theorem State.Canon.kickFail {n code addr info done} (h : s.Canon) : (s.kickFail n code addr info done).Canon := by
  unfold State.kickFail
  split
  · exact h.respond
  · split
    · extract_lets
      split
      · split
        · exact h.update.engFault
        · exact h.update
      · exact h.update
    · split
      · split
        · exact h.modPart.failOn
        · exact h
      · exact h

theorem State.Canon.kickAgain {n} (h : s.Canon) : (s.kickAgain n).Canon := .ite h.timer h.send

theorem State.Canon.kickEnter {n} (h : s.Canon) : (s.kickEnter n).Canon := by
  unfold State.kickEnter
  split
  · exact h.kickFail
  · split
    · exact h.kickFail
    · split
      · exact .ite h.kickAgain h.kickFail
      · exact .ite h.kickAgain (.push (.modCore (.ite h h.noteAnswer)))

theorem State.Canon.unpackKick {n} (h : s.Canon) : (s.unpackKick n).Canon := .ite h h.update

theorem State.Canon.execKickNoticeArrival {n} (h : s.Canon) : NextCanon (execKickNoticeArrival n s) := by
  unfold Machine.execKickNoticeArrival
  refine .next (.ite h.unpackKick ?_)
  split
  · split
    · exact h.unpackKick.send
    · exact h.unpackKick
  · exact h.unpackKick.kickEnter

theorem State.Canon.execKickRetry {n} (h : s.Canon) : NextCanon (execKickRetry n s) := by
  unfold Machine.execKickRetry
  refine .next (.ite h.push ?_)
  split
  · exact h.sendPkt.timer
  · exact h

theorem State.Canon.pullWithdraw {core n} (h : s.Canon) : (s.pullWithdraw core n).Canon := .ite h.vlWr h

theorem State.Canon.pullHeld {core n} (h : s.Canon) : (s.pullHeld core n).Canon := by
  unfold State.pullHeld
  split
  · exact .ite h h.modCore.push
  · exact h.pullWithdraw.modCore.kickFail

theorem State.Canon.pullAsk {core n a} (h : s.Canon) : (s.pullAsk core n a).Canon := by
  unfold State.pullAsk
  split
  · exact h
  · extract_lets
    split
    · split
      · next e => exact .timer (.update (.sendPkt (.of_snd e h.modCore.newId)))
    · split
      · exact .ite h.modCore.hostRead8 h
      · exact .ite h.pullHeld h.modCore.need

theorem State.Canon.pullStop {b} (h : s.Canon) : (s.pullStop b).Canon := by
  unfold State.pullStop
  split
  · exact .ite h.pullWithdraw.modCore h
  · exact h

theorem State.Canon.pullGo {core} (h : s.Canon) : (s.pullGo core).1.Canon := by
  unfold State.pullGo
  split
  · exact h
  · split
    · exact .ite h.pullWithdraw.modCore.kickAgain h.pullWithdraw.modCore.kickFail
    · extract_lets
      split
      · exact h.foldl fun _ _ h1 => h1.pullAsk
      · split
        · exact h.pullWithdraw.modCore.kickFail
        · split
          · next e =>
              split
              · exact .modCore (.of_left e (.ite h.vaultPut.post h.vaultPut.left))
              · exact .kickDone (.modCore (.of_left e (.ite h.vaultPut.post h.vaultPut.left)))
          · exact h.vaultPut.pullWithdraw.modCore.kickFail

theorem State.Canon.copyGo {core} (h : s.Canon) : (s.copyGo core).1.Canon := by
  unfold State.copyGo
  refine .foldl_fst h fun _ _ ht => ?_
  split
  · exact ht
  · split
    · exact ht.copyMove
    · exact ht

theorem State.Canon.execCopyEnginePull {core} (h : s.Canon) : NextCanon (execCopyEnginePull core s) := by
  unfold Machine.execCopyEnginePull
  refine .next ?_
  extract_lets turn more pull a b
  have hmore (next t) (ht : State.Canon t) : (more next t).Canon := .ite ht.modCore.push ht.modCore
  have hpull (t) (ht : State.Canon t) : (pull t).1.Canon := .ite_fst ht.pullRec ht.pullGo
  have ha : a.1.Canon := .ite_fst (hpull s h) h.copyGo
  have hb : b.1.Canon := .ite_fst ha.copyGo (hpull a.1 ha)
  exact .ite (hmore _ _ ha) (.ite (hmore _ _ hb) hb)

/-! ### The matrix engine -/

theorem State.Canon.setPin {b p} (h : s.Canon) : (s.setPin b p).Canon := h.modCore

theorem State.Canon.runProds {l} (h : s.Canon) : (s.runProds l).Canon := by
  unfold State.runProds
  extract_lets _ _ _ chk _
  split
  · exact h
  · split
    · exact (h.foldl fun _ _ h1 => h1.modBlk.modOp).foldl fun _ _ h1 => h1.setPin.modOp.push
    · clear_value chk
      split
      · refine ((h.foldl fun _ _ h1 => h1.modBlk.modOp).foldl fun _ _ h1 => h1.setPin).foldl fun _ _ ht => ?_
        extract_lets own
        clear_value own
        split <;> exact ht.engFault
      · exact (h.foldl fun _ _ h1 => h1.modBlk.modOp).foldl fun _ _ h1 => h1.engGather.getD h1

theorem State.Canon.callMembers {l} (h : s.Canon) : (s.callMembers l).Canon := h.push

theorem State.Canon.coopJoin {b op w} (h : s.Canon) : (s.coopJoin b op w).Canon := by
  unfold State.coopJoin
  split
  · exact h.modBlk.modOp.push
  · extract_lets
    split
    · split
      · exact h.modOp
      · split
        · exact h.modOp.callMembers
        · refine h.modOp.foldl fun _ _ ht => ?_
          split
          · exact ht.modBlk.modOp.push
          · exact ht.modBlk

theorem State.Canon.tileOp {b op code o} (h : s.Canon) : (s.tileOp b op code o).Canon := by
  unfold State.tileOp
  split
  · exact h.engFault
  · extract_lets
    split
    · next e => exact h.engWalks _ e
    · exact .engFinish h.modBlk.engWrites

theorem State.Canon.matProducts {l} (h : s.Canon) : (s.matProducts l).Canon := by
  unfold State.matProducts
  split
  · exact h.foldl fun _ _ h1 => h1.engFault
  · extract_lets
    split
    · exact h.foldl fun _ _ h1 => h1.engFault
    · exact (h.foldl fun _ _ h1 => h1.modOp).runProds

theorem State.Canon.matGo {b op m} (h : s.Canon) : (s.matGo b op m).Canon := by
  unfold State.matGo
  split
  · split
    · split
      exact .ite h.modOp (.ite h.modOp.callMembers h.modOp.matProducts)
    · exact h.matProducts
  · exact h.coopJoin
  · split
    · exact .ite (.engFinish h.setPin) h
    · split
      · exact h.engFault
      · exact h.modOp.tileOp

/-! ### Collectives -/

theorem State.Canon.collPull {b op l} (h : s.Canon) : (s.collPull b op l).Canon :=
  .ite h.modOp.push (.ite (h.modOp.foldl fun _ _ h1 => h1.modOp.push) h.modOp)

theorem State.Canon.collWrite {b op} (h : s.Canon) : (s.collWrite b op).Canon := h.vlWrBytes.modOp.push

theorem State.Canon.execCollectiveChunk {bid n} (h : s.Canon) : NextCanon (execCollectiveChunk bid n s) := by
  unfold Machine.execCollectiveChunk
  refine .next ?_
  split
  · exact h
  · split
    · exact h
    · split
      · split
        · exact .ite h.collWrite h
        · split
          · exact h
          · exact .ite h (.ite (h.foldl fun _ _ h1 => h1.engFault) h.collPull)
      · exact h

theorem State.Canon.collBegin {b op o} (h : s.Canon) : (s.collBegin b op o).Canon := h.modOp.push

theorem State.Canon.matTurn {core} (h : s.Canon) : (s.matTurn core).Canon := by
  unfold State.matTurn
  split
  · split
    · exact h.modCore.matGo
    · exact h.modCore
  · exact h

theorem State.Canon.execEngineOpBegin {bid k n} (h : s.Canon) : NextCanon (execEngineOpBegin bid k n s) := by
  unfold Machine.execEngineOpBegin
  refine .next ?_
  split
  · exact h
  · split
    · exact h
    · split
      · exact h
      · split
        · exact .ite h h.copyBegin
        · split
          · exact h.engFault
          · exact h.collBegin
        · split
          · exact h.matGo
          · split
            · next e => exact .engFault (.of_snd e (.ite_snd h h.meet))
            · next e =>
                extract_lets _ s2
                have hs2 : s2.Canon := .matTurn (.of_snd e (.ite_snd h h.meet))
                exact .ite hs2.push hs2
        · exact .ite h h.pullBegin

theorem State.Canon.engRelease {b op} (h : s.Canon) : (s.engRelease b op).2.Canon := by
  unfold State.engRelease
  split
  · exact h.tlRelease
  · exact h

theorem State.Canon.execEngineOpCompletion {bid k n} (h : s.Canon) :
    NextCanon (execEngineOpCompletion bid k n s) := by
  unfold Machine.execEngineOpCompletion
  refine .next ?_
  split
  · exact h.engPath
  · split
    · exact h.engPath
    · split
      · exact h.engPath
      · split
        · exact .ite (.ite h.engPath.engRelease.engDone h.engPath.engRelease) h.engPath
        · split
          · exact .ite h.engPath.push h.engPath
          · exact .ite h.engPath.matGo h.engPath
          · exact .ite h.engPath.push h.engPath
          · exact .ite h.engPath h.engPath.pullBegin

theorem State.Canon.execLeaveGrant {die} (h : s.Canon) : NextCanon (execLeaveGrant die s) := by
  unfold Machine.execLeaveGrant
  refine .next ?_
  extract_lets
  split
  · exact h
  · split
    · exact .ite h.modDie h.modDie.push
    · exact .ite h (.ite h.timer (.ite h.modDie.modBlk h.modDie.modBlk.push))

theorem State.Canon.execLeaveExpiry {bid k} (h : s.Canon) : NextCanon (execLeaveExpiry bid k s) := by
  unfold Machine.execLeaveExpiry
  refine .next ?_
  split
  · exact h
  · exact .ite h h.modBlk.push

/-! ### Queues -/

theorem State.Canon.enqueue {d q x} (h : s.Canon) : (s.enqueue d q x).Canon := h.modDie.push

theorem State.Canon.emitPut {d q asid node tmo data} (h : s.Canon) : (s.emitPut d q asid node tmo data).Canon :=
  .ite h.enqueue h.enqueue.timer

/-! ### System words -/

theorem State.Canon.refuseSends {bid gang pc skid l} (h : s.Canon) : (s.refuseSends bid gang pc skid l).Canon :=
  .ite h h.trap

theorem State.Canon.sendPeer {b g sl c dev asid v p} (h : s.Canon) : (s.sendPeer b g sl c dev asid v p).Canon := by
  unfold State.sendPeer
  split
  · next e => exact .send (.update (.modSlice (.of_snd e h.newId)))

theorem State.Canon.execSendui {c o} (h : s.Canon) : NextCanon (execSendui c o s) := by
  unfold Machine.execSendui
  refine .withSplit fun _ _ _ => ?_
  extract_lets
  split
  · next e => exact h.relAll _ e
  · split
    · exact h.waitAt
    · refine .refuseSends (.finish (.foldl_fst h fun _ _ ht => ?_))
      extract_lets _ _ _ _ bad
      split
      · exact .ite_fst ht.sendPeer ht
      · split
        · next e => exact ht.uiSend _ e
        · unfold bad
          exact ht

theorem State.Canon.uiretGo {bid gang} (h : s.Canon) : (s.uiretGo bid gang).Canon := by
  unfold State.uiretGo
  split
  · exact h
  · split
    · exact h
    · split
      · exact h
      · extract_lets
        split
        · exact h.uiEnter
        · exact h.uiLeave

theorem State.Canon.execUiret {c} (h : s.Canon) : NextCanon (execUiret c s) :=
  .withSplit fun _ _ _ => .ite h.finish (.ite h.trapWord (.uiretGo (.ite h.waitAt.keepStall h.moveSplit.modSplit)))

theorem State.Canon.uiWord {c f} (h : s.Canon) (hf : ∀ t b g sl, t.Canon → (f t b g sl).Canon) :
    NextCanon (uiWord c f s) :=
  .withSplit fun _ _ _ => .ite h.finish (.ite h.trapWord (h.foldl fun _ _ h1 => hf _ _ _ _ h1).uiMark.finish.uiPoke)

theorem State.Canon.maskWord {c o f} (h : s.Canon) : NextCanon (maskWord c o f s) :=
  h.uiWord (fun _ _ _ _ h1 => h1.uiWr)

theorem State.Canon.execUimaskHnd {c o} (h : s.Canon) : NextCanon (execUimaskHnd c o s) :=
  h.uiWord (fun _ _ _ _ h1 => h1.setUi.setCx)

theorem State.Canon.execUipend {c o} (h : s.Canon) : NextCanon (execUipend c o s) :=
  h.uiWord (fun _ _ _ _ h1 => h1.modSlice)

theorem State.Canon.execSyscall {c o} (h : s.Canon) : NextCanon (execSyscall c o s) := by
  unfold Machine.execSyscall
  refine .withSplit fun _ _ _ => ?_
  split
  · exact .ite h.waitAt h.finish
  · extract_lets
    split
    · exact h.finish
    · split
      · exact h.trapWord
      · split
        · next e => exact h.relAll _ e
        · refine .waitAt (.foldl_fst h fun _ _ ht => ?_)
          split
          · next e => exact .scAdd (.of_snd e ht.newId)

theorem State.Canon.scFinish {r rets} (h : s.Canon) : (s.scFinish r rets).Canon := by
  unfold State.scFinish
  extract_lets _ _ _ s3 s4 _ s5
  have hs3 : s3.Canon := by
    unfold s3
    split
    · exact .acquire (.ite h.update h.update.vwr)
    · exact .ite h.update h.update.vwr
  have hs4 : s4.Canon := by
    unfold s4
    refine hs3.foldl fun _ _ ht => ?_
    split
    · exact ht.donePart
    · exact ht
  have hs5 : s5.Canon := by
    unfold s5
    split
    · refine hs4.foldl fun _ _ ht => ?_
      split
      · exact ht.settleOn
      · exact ht
    · exact hs3.foldl fun _ _ h1 => h1.modSliceAny
  exact hs5.scPosts

theorem State.Canon.execSysret {c o} (h : s.Canon) : NextCanon (execSysret c o s) := by
  refine .withSplit fun _ _ _ => ?_
  extract_lets _ r
  split
  · next e => exact h.relAll _ e
  · have hr : r.1.Canon := by
      refine .foldl_fst h fun _ _ ht => .ite_fst ht ?_
      extract_lets
      split
      · exact ht.vwr.scFinish
      · exact ht.vwr.vwr.scPosts
    exact .ite hr.finish hr.trapWord

theorem State.Canon.execTrapret {c o} (h : s.Canon) : NextCanon (execTrapret c o s) := by
  unfold Machine.execTrapret
  refine .withSplit fun _ _ _ => ?_
  extract_lets _ _ _ _ _ _ s1 _ _ _
  have hs1 : s1.Canon := by
    unfold s1
    refine h.foldl fun _ _ ht => ?_
    refine ht.foldl fun _ _ ht1 => ?_
    split
    · exact ht1.trapReturn
    · exact ht1
  exact .afterExit (.ite hs1.onMembers.finish hs1.onMembers.trapWord)

theorem State.Canon.reissue {w drop} (h : s.Canon) : (s.reissue w drop).Canon := h.modAccs.drain.push

theorem State.Canon.execTrapretFrz {c o} (h : s.Canon) : NextCanon (execTrapretFrz c o s) := by
  unfold Machine.execTrapretFrz
  refine .withSplit fun _ _ _ => ?_
  extract_lets _ _ _ s1 _ _
  have hs1 : s1.Canon := h.foldl fun _ _ h1 => h1.unfreeze.reissue
  exact .ite hs1.moveSplit hs1.trapMany

theorem State.Canon.execMigr {c o} (h : s.Canon) : NextCanon (execMigr c o s) := by
  unfold Machine.execMigr
  refine .withSplit fun _ _ _ => ?_
  split
  · split
    · exact h.finish
    · split
      · exact h.finish
      · split
        · exact h.trapWord
        · exact .ite h.waitAt h.finish.depart
  · exact h.finish

theorem State.Canon.execWlive {c o} (h : s.Canon) : NextCanon (execWlive c o s) :=
  .withSplit fun _ _ _ => .finish (.ite h h.onMembers)

theorem State.Canon.launchOne {b q a} (h : s.Canon) : (s.launchOne b q a).Canon := by
  unfold State.launchOne
  extract_lets
  split
  · exact .bad
  · split
    · exact .wait
    · split
      · exact .bad
      · exact h.enqueue.done

theorem State.Canon.emitOne {b node a} (h : s.Canon) : (s.emitOne b node a).Canon := by
  unfold State.emitOne
  extract_lets _ bad
  split
  · unfold bad
    exact .bad
  · split
    · unfold bad
      exact .bad
    · split
      · exact .bad
      · split
        · exact .bad
        · exact .ite .wait h.emitPut.done

theorem State.Canon.enqAll {b g f l} (h : s.Canon) (hf : ∀ t x, t.Canon → (f t x).Canon) :
    (enqAll b g f l s).s.Canon := by
  unfold Machine.enqAll
  refine foldl_enq h fun acc x ha => ?_
  extract_lets
  split
  · exact ha
  · split
    · next e =>
        split
        · exact ha
        · exact .modSlice (.of_done e (hf _ _ ha))
    · split <;> exact ha
    · exact ha

theorem State.Canon.enqEnd {c b g sp w all r} (h : r.s.Canon) : (enqEnd c b g sp w all r).Canon := by
  unfold Machine.enqEnd
  split
  · exact h.waitAt
  · exact .ite h.onMembers.finish h.onMembers.trapMany

theorem State.Canon.enqSeq {c b w r} (h : s.Canon) (hr : ∀ t, t.Canon → (r t).Canon) :
    (enqSeq c b w r s).Canon := by
  unfold Machine.enqSeq
  extract_lets
  split
  · exact h.release.waitSeq
  · split
    · next e => exact .finishSeq (.of_done e (hr _ h.release))
    · exact h.release.waitSeq
    · exact h.release.trapSeq

theorem State.Canon.execLaunch {c o} (h : s.Canon) : NextCanon (execLaunch c o s) := by
  unfold Machine.execLaunch
  split
  · exact .withSeq (fun _ => h.enqSeq (fun _ h1 => h1.launchOne))
  · refine .withSplit fun _ _ _ => ?_
    extract_lets
    split
    · next e => exact h.relAll _ e
    · exact .enqEnd (h.enqAll (fun _ _ h1 => h1.launchOne))

theorem State.Canon.execEmit {c o} (h : s.Canon) : NextCanon (execEmit c o s) := by
  unfold Machine.execEmit
  split
  · exact .withSeq (fun _ => h.enqSeq (fun _ h1 => h1.emitOne))
  · refine .withSplit fun _ _ _ => ?_
    extract_lets
    split
    · next e => exact h.relAll _ e
    · exact .enqEnd (h.enqAll (fun _ _ h1 => h1.emitOne))

theorem State.Canon.unboundFcode {c b g l} (h : s.Canon) : (unboundFcode c b g l s).Canon :=
  h.foldl fun _ _ h1 => h1.setFcode

theorem State.Canon.mapctlWord {op c o} (h : s.Canon) : NextCanon (mapctlWord op c o s) :=
  .withSplit fun _ _ _ => h.unboundFcode.issueAccs

theorem State.Canon.execDecld {c o} (h : s.Canon) : NextCanon (execDecld c o s) := by
  unfold Machine.execDecld
  refine .withSplit fun _ _ _ => ?_
  extract_lets _ _ _ _ _ _ _ _ s2
  have hs2 : s2.Canon := h.unboundFcode.foldl fun _ _ h1 => .ite h1.setFcode h1.setCx
  exact .ite hs2.finish hs2.trapWord

theorem State.Canon.execBkpt {c o} (h : s.Canon) : NextCanon (execBkpt c o s) := .withSplit fun _ _ _ => h.trapWord

theorem State.Canon.execSleepw {c o} (h : s.Canon) : NextCanon (execSleepw c o s) :=
  .withSplit fun _ _ _ => .ite h.trapMany (.ite h.finish (h.foldl fun _ _ h1 => .ite h1 h1.timer).keepStall.waitAt)

/-! ### Placement -/

theorem State.Canon.wipeVault {key size} (h : s.Canon) : (s.wipeVault key size).Canon := by
  simp only [State.Canon, State.memWf, Bool.and_eq_true] at h ⊢
  exact ⟨h.1, Memory.wf_filter h.2 _⟩

theorem State.Canon.putBlock {l num c} (h : s.Canon) : (s.putBlock l num c).Canon := by
  unfold State.putBlock
  split
  · next e => exact .acquire (.foldl (.wipeVault (.update (.of_snd e h.newId))) fun _ _ h1 => h1.vlWrBytes)

theorem State.Canon.putBlocks {l cores nums} (h : s.Canon) : SomeCanon (s.putBlocks l cores nums) := by
  induction nums generalizing s with
  | nil => exact h.some
  | cons k r ih =>
    unfold State.putBlocks
    split
    · exact .none
    · exact ih h.putBlock

theorem State.Canon.putCoreUnits {l per k cores n} (h : s.Canon) : SomeCanon (s.putCoreUnits l per k cores n) := by
  induction n generalizing s k cores with
  | zero => exact h.some
  | succ n ih =>
    unfold State.putCoreUnits
    extract_lets
    split
    · exact .none
    · next e => exact ih (.of_findSome (fun _ => h.putBlocks) e)

theorem State.Canon.putRange {l first n cores} (h : s.Canon) : SomeCanon (s.putRange l first n cores) :=
  .ite h.putCoreUnits h.putBlocks

theorem State.Canon.putDieUnits {l per k dies n} (h : s.Canon) : SomeCanon (s.putDieUnits l per k dies n) := by
  induction n generalizing s k dies with
  | zero => exact h.some
  | succ n ih =>
    unfold State.putDieUnits
    extract_lets
    split
    · exact .none
    · next e => exact ih (.of_findSome (fun _ => h.putRange) e)

theorem State.Canon.putWhey {l seg i num g k} (h : s.Canon) : (s.putWhey l seg i num g k).Canon := by
  unfold State.putWhey
  extract_lets _ _ order
  split
  · next e =>
      extract_lets
      split
      · exact .acquire (.update (.update (.of_snd e h.newId)))
      · clear_value order
        split
        · exact .update (.of_snd e h.newId)
        · exact .push (.queueRec (.modCore (.update (.of_snd e h.newId))))

theorem State.Canon.pinSeg {asid x} (h : s.Canon) : (s.pinSeg asid x).Canon := h.foldl fun _ _ h1 => h1.modCore

theorem State.Canon.putWheyLaunch {l segs} (h : s.Canon) : SomeCanon (s.putWheyLaunch l segs) := by
  unfold State.putWheyLaunch
  split
  · exact .none
  · refine ((((h.update.foldl fun _ _ h1 => h1.pinSeg).foldl fun _ _ h1 => h1.wipeVault.foldl
        fun _ _ h2 => h2.vlWrBytes).foldl fun _ _ h1 => h1.putWhey).push).some

theorem State.Canon.placeUnit {l segs} (h : s.Canon) : SomeCanon (s.placeUnit l segs) := by
  unfold State.placeUnit
  extract_lets
  split
  · exact h.putWheyLaunch
  · exact (SomeCanon.ite h.putDieUnits h.putRange).map fun _ h1 => h1.update

/-! ### Scheduling -/

theorem State.Canon.execDoorbell {_host asid v} (h : s.Canon) : NextCanon (execDoorbell _host asid v s) :=
  .next (.ite h.ringBell h)

theorem State.Canon.execHqRecordRead {die q} (h : s.Canon) : NextCanon (execHqRecordRead die q s) := by
  unfold Machine.execHqRecordRead
  refine .next ?_
  split
  · exact .ite h h.enqueue.setCx.push
  · exact h

theorem State.Canon.freed {die} (h : s.Canon) : (s.freed die).Canon := h.push

theorem State.Canon.slotQueue {i k} (h : s.Canon) : SomeCanon (s.slotQueue i k) := by
  unfold State.slotQueue
  extract_lets
  split
  · exact .ite .none h.enqueue.update.some
  · exact .none

theorem State.Canon.execSlotFiring {i} (h : s.Canon) : NextCanon (execSlotFiring i s) := by
  unfold Machine.execSlotFiring
  refine .next (.ite h (.timer (.update (.ite ?_ (.ite ?_ (.ite (.ite h h.update) h))))))
  · split
    · next e => exact h.slotQueue _ e
    · exact .ite (.ite h h.update) h
  · extract_lets
    split
    · next e => exact h.raiseYield.update.slotQueue _ e
    · exact .ite (.ite h.raiseYield.update h.raiseYield.update.update) h.raiseYield.update

theorem State.Canon.slotRelease {i} (h : s.Canon) : (s.slotRelease i).Canon := by
  unfold State.slotRelease
  split
  · exact h
  · split
    · next e => exact (h.slotQueue _ e).update
    · exact h

theorem State.Canon.execEntryGrant {die q} (h : s.Canon) : NextCanon (execEntryGrant die q s) := by
  unfold Machine.execEntryGrant
  refine .next ?_
  split
  · exact h.push
  · exact h.foldl fun _ _ h1 => .ite h1.slotRelease h1
  · exact h

theorem State.Canon.execNodeFlushTimeout {asid node} (h : s.Canon) : NextCanon (execNodeFlushTimeout asid node s) :=
  h.push.next

theorem State.Canon.notBefores {d} (h : s.Canon) : (s.notBefores d).Canon := by
  unfold State.notBefores
  refine h.foldl fun _ _ ht => ?_
  split
  · exact .ite ht.timer ht
  · exact ht

theorem State.Canon.dequeue {d x} (h : s.Canon) : (s.dequeue d x).Canon := by
  unfold State.dequeue
  extract_lets _ _ _ s2
  have hs2 : s2.Canon := by
    unfold s2
    split
    · exact h.modDie.update
    · exact h.modDie
  exact hs2.freed

/-! ### Saves and restores -/

theorem State.Canon.modUnit {l f} (h : s.Canon) : (s.modUnit l f).Canon := h.update

theorem State.Canon.vwrPages {asid va l} (h : s.Canon) : (s.vwrPages asid va l).Canon :=
  h.foldl fun _ _ h1 => .ite h1 h1.vwr

theorem State.Canon.putImage {u} (h : s.Canon) : (s.putImage u).1.Canon := .ite_fst h h.vwrPages

theorem State.Canon.takeVault {ranges} (h : s.Canon) : (s.takeVault ranges).2.2.Canon := by
  simp only [State.Canon, State.memWf, Bool.and_eq_true] at h ⊢
  exact ⟨h.1, Memory.wf_filter h.2 _⟩

theorem State.Canon.unpin {l} (h : s.Canon) : (s.unpin l).Canon := (h.foldl fun _ _ h1 => h1.modCore).update

theorem State.Canon.takeUnit {l} (h : s.Canon) : (s.takeUnit l).Canon := by
  unfold State.takeUnit
  extract_lets
  split
  · next e =>
      refine .push (.unpin (.foldl (.update (.of_fst e
          ((h.foldl fun _ _ h1 => h1.pullStop).foldl fun _ _ h1 => h1.setPin).takeVault.putImage))
              fun _ _ h1 => h1.modDie))

theorem State.Canon.execUnitSave {u} (h : s.Canon) : NextCanon (execUnitSave u s) := by
  unfold Machine.execUnitSave
  refine .next ?_
  split
  · exact h
  · extract_lets _ halted _ _ s1 s2
    have hs2 : s2.Canon := .ite h.modUnit.timer h.modUnit
    exact .ite h (.ite h.modUnit (.ite h (.ite hs2.takeUnit hs2)))

theorem State.Canon.record47 {b gangs} (h : s.Canon) : (s.record47 b gangs).Canon := h.record

theorem State.Canon.execForcedSave {u} (h : s.Canon) : NextCanon (execForcedSave u s) := by
  unfold Machine.execForcedSave
  refine .next ?_
  split
  · exact h
  · extract_lets
    split
    · exact h
    · split
      · exact h.push
      · exact (h.foldl fun _ _ h1 => .ite h1.modBlk.modCore h1.modBlk.modCore.record47).push

theorem State.Canon.dropPull {bid num} (h : s.Canon) : (s.dropPull bid num).Canon := by
  unfold State.dropPull
  refine h.update.foldl fun _ _ ht => ?_
  split
  · exact .modCore (.ite ht.pullWithdraw.modCore ht)
  · exact ht

theorem State.Canon.stopOp {b op} (h : s.Canon) : (s.stopOp b op).Canon := by
  unfold State.stopOp
  extract_lets s1 _
  have hs1 : s1.Canon := by
    unfold s1
    split
    · exact h.dropPull
    · exact h.engWithdraw
  exact hs1.update.engDrop.modOp

theorem State.Canon.execSaveDrainTimeout {u} (h : s.Canon) : NextCanon (execSaveDrainTimeout u s) := by
  unfold Machine.execSaveDrainTimeout
  refine .next ?_
  split
  · exact h
  · extract_lets _ _ s1
    have hs1 : s1.Canon := h.foldl fun _ _ h1 => .ite h1 h1.stopOp
    exact .ite h (.push (.ite hs1.haltContext hs1))

theorem State.Canon.leaveBack {b d} (h : s.Canon) : (s.leaveBack b d).Canon := .ite h.modDie.push h
theorem State.Canon.putSaved {b c} (h : s.Canon) : (s.putSaved b c).Canon := h.update.acquire.handlerAt.leaveBack

theorem State.Canon.putGroups {apart used gs} (h : s.Canon) : SomeCanon (s.putGroups apart used gs) := by
  induction gs generalizing s used with
  | nil => exact h.some
  | cons g r ih =>
    unfold State.putGroups
    split
    · exact ih h
    · next b g =>
      extract_lets cores put
      have hput (c : Nat) : SomeCanon (put c) :=
        SomeCanon.foldl h.some fun _ _ h => h.bind fun _ h => .ite h.putSaved.some .none
      split
      · exact .none
      · next e => exact ih (.of_findSome hput e)

theorem State.Canon.putWheySaved {l u} (h : s.Canon) : SomeCanon (s.putWheySaved l u) := by
  unfold State.putWheySaved
  split
  · exact .none
  · refine ((((h.update.foldl fun _ _ h1 => h1.pinSeg).foldl fun _ _ h1 => h1.update.acquire).foldl
        fun _ _ h1 => h1.modCore.modCore).push).some

theorem State.Canon.putVault {u ranges} (h : s.Canon) : (s.putVault u ranges).Canon := by
  have h1 : (ranges.foldl (fun s r => s.wipeVault r.1 r.2) s).Canon := h.foldl fun _ _ h1 => h1.wipeVault
  simp only [State.Canon, State.memWf, Bool.and_eq_true] at h1 ⊢
  exact ⟨h1.1, Memory.wf_foldl_msetD h1.2 _⟩

theorem State.Canon.restore {u} (h : s.Canon) : SomeCanon (s.restore u) := by
  unfold State.restore
  split
  · exact .none
  · split
    · exact .none
    · exact (SomeCanon.ite h.putWheySaved h.putGroups).map fun _ h1 => h1.putVault.update.update.push.uiPoke

theorem State.Canon.execUnitRestore {u} (h : s.Canon) : NextCanon (execUnitRestore u s) := by
  unfold Machine.execUnitRestore
  refine .next ?_
  split
  · exact h
  · exact h.restore.getD h

theorem State.Canon.wakeSched (h : s.Canon) : s.wakeSched.Canon := h.push

/-! ### Completion of accesses -/

theorem State.Canon.meetAccess {id} (h : s.Canon) : (s.meetAccess id).Canon := by
  unfold State.meetAccess
  split
  · exact h
  · split
    · exact h
    · refine h.foldl fun _ _ ht => ?_
      refine ht.foldl fun _ _ ht1 => ?_
      split
      · next e => exact .ite (.modCore (.of_snd e ht1.meet)) (.of_snd e ht1.meet)
      · next e => exact .of_snd e ht1.meet

theorem State.Canon.execAccessCompletion {a} (h : s.Canon) : NextCanon (execAccessCompletion a s) :=
  h.meetAccess.advance.next

theorem State.Canon.walkOps {die asid page bad} (h : s.Canon) : (s.walkOps die asid page bad).Canon :=
  h.foldl fun _ _ h1 => h1.modOp.push

theorem State.Canon.walkFetches {die asid page bad} (h : s.Canon) : (s.walkFetches die asid page bad).Canon :=
  h.foldl fun _ _ h1 => h1.modCore

theorem State.Canon.walkFail {a p c lvl e} (h : s.Canon) : (s.walkFail a p c lvl e).Canon :=
  .ite h.donePart.settle h.failOn

theorem State.Canon.nextWalk {die} (h : s.Canon) : (s.nextWalk die).Canon := by
  unfold State.nextWalk
  split
  · exact h
  · exact h.modDie.push

theorem State.Canon.execPageWalkEnd {die asid page} (h : s.Canon) : NextCanon (execPageWalkEnd die asid page s) := by
  unfold Machine.execPageWalkEnd
  refine .next (.ite h ?_)
  extract_lets
  split
  · exact h.modDie.nextWalk.modDie.walkOps.walkFetches.push
  · refine h.modDie.nextWalk.walkOps.walkFetches.foldl fun _ _ ht => ?_
    split
    · exact .ite ht.walkFail ht
    · exact ht

theorem State.Canon.execSleepwWake {r} (h : s.Canon) : NextCanon (execSleepwWake r s) := by
  unfold Machine.execSleepwWake
  refine .next ?_
  split
  · exact h
  · split
    · exact h
    · split
      · exact h
      · split
        · exact .ite h h.moveSplit
        · exact h

theorem State.Canon.execQwaitDeadline {b} (h : s.Canon) : NextCanon (execQwaitDeadline b s) := by
  unfold Machine.execQwaitDeadline
  refine .next ?_
  split
  · exact h
  · split
    · exact .ite h.modSeq h
    · exact h

theorem State.Canon.refuseHost {asid port pasid v} (h : s.Canon) : (s.refuseHost asid port pasid v).Canon :=
  .ite h h.putRecord

theorem State.Canon.execHostUiSend {port pasid data} (h : s.Canon) :
    NextCanon (execHostUiSend port pasid data s) := by
  unfold Machine.execHostUiSend
  refine .next ?_
  split
  · next e => exact h.uiSend _ e
  · exact h.refuseHost

theorem State.Canon.execPeerSend {dev asid target v p} (h : s.Canon) :
    NextCanon (execPeerSend dev asid target v p s) := by
  unfold Machine.execPeerSend
  refine .next ?_
  split
  · next e => exact (h.uiSend _ e).send
  · exact h.send

theorem State.Canon.execUiDelivery {asid} (h : s.Canon) : NextCanon (execUiDelivery asid s) := by
  unfold Machine.execUiDelivery
  refine .next ?_
  split
  · exact h.uiEnter
  · exact h

theorem State.Canon.scAsk {r ring} (h : s.Canon) : (s.scAsk r ring).Canon :=
  h.update.foldl fun _ _ h1 => h1.send.update.timer

theorem State.Canon.execHostSyscallEnd {port pasid data} (h : s.Canon) :
    NextCanon (execHostSyscallEnd port pasid data s) := by
  unfold Machine.execHostSyscallEnd
  refine .next (.ite ?_ h.refuseHost)
  split
  · exact .ite h.scAsk h.push
  · exact h

theorem State.Canon.execEmptyEntryWord {w} (h : s.Canon) : NextCanon (execEmptyEntryWord w s) := by
  unfold Machine.execEmptyEntryWord
  extract_lets
  split
  · exact .withSplit fun _ _ _ => .ite h.update.trapWord h.update
  · exact .withSeq fun _ => .ite h.update.trapSeqWord (.ite h.update.trapSeqWord h.update)
  · exact h.update.next

/-! ### Steps of the token protocol -/

theorem State.Canon.feed {d sec data} (h : s.Canon) : (s.feed d sec data).Canon :=
  (h.foldl fun _ _ h1 => h1.modOp.push).foldl fun _ _ h1 => h1.modCore.push

theorem State.Canon.failHeld {a p code info} (h : s.Canon) : (s.failHeld a p code info).Canon := h.leavePath.failOn

theorem State.Canon.failWaiting {d sec code} (h : s.Canon) : (s.failWaiting d sec code).Canon := by
  unfold State.failWaiting
  extract_lets _ _ _ _ _ _ _ s4
  have hs4 : s4.Canon := by
    unfold s4
    refine ((h.modDie.foldl fun _ _ h1 => h1.failHeld).foldl fun _ _ h1 => h1.engFault).foldl fun _ _ ht => ?_
    split
    · exact ht.pullWithdraw.modCore.kickFail
    · exact ht
  exact hs4.foldl fun _ _ h1 => h1.modCore

theorem State.Canon.execTransientRequest {m} (h : s.Canon) : NextCanon (execTransientRequest m s) := by
  unfold Machine.execTransientRequest
  refine .next ?_
  split
  · split
    · exact h.answerL2
    · exact h
  · exact .ite h.answerHome h

theorem State.Canon.requestTimeout {d r} (h : s.Canon) : (s.requestTimeout d r).Canon :=
  .ite h.modDie.sendRound h.modDie.sendPress

theorem State.Canon.homeTimeout {sec} (h : s.Canon) : (s.homeTimeout sec).Canon := by
  unfold State.homeTimeout
  split
  · exact h
  · exact .ite h (.ite h.modHome.homeRound h.modHome.recall)

theorem State.Canon.execTransientTimeout {die sec} (h : s.Canon) : NextCanon (execTransientTimeout die sec s) :=
  .next (.ite h.homeTimeout (h.foldl fun _ _ h1 => h1.requestTimeout))

theorem State.Canon.sendPressEnd {d sec} (h : s.Canon) : (s.sendPressEnd d sec).Canon := .ite h.push h.send

theorem State.Canon.requestsDone {d sec} (h : s.Canon) : (s.requestsDone d sec).Canon := by
  unfold State.requestsDone
  extract_lets _ _ _ _ _ s3
  have hs3 : s3.Canon := (h.modDie.foldl fun _ _ h1 => h1.train).performWaiting
  exact .ite hs3.sendPressEnd hs3

theorem State.Canon.takeTokens {d m} (h : s.Canon) : (s.takeTokens d m).Canon := by
  unfold State.takeTokens
  split
  · exact h.failWaiting
  · split
    · exact h.update
    · extract_lets _ _ _ _ _ _ _ s5
      have hs5 : s5.Canon := .requestsDone (.ite h.makeRoom.setL2.modDie.feed h.makeRoom.setL2.modDie)
      split
      · exact h.makeRoom.sendBack
      · split
        · exact .ite hs5 hs5.giveAll
        · exact hs5

theorem State.Canon.evictDone {m} (h : s.Canon) : (s.evictDone m).Canon := h.foldl fun _ _ h1 => h1.donePart.settle

theorem State.Canon.execWriteBack {m} (h : s.Canon) : NextCanon (execWriteBack m s) :=
  .next (.ite h.evictDone h.homeTake.evictDone.homeRise)

theorem State.Canon.execPressRequest {m} (h : s.Canon) : NextCanon (execPressRequest m s) := by
  unfold Machine.execPressRequest
  refine .next (.ite h ?_)
  split
  · exact h.refuseTo
  · exact h.pressAdd

theorem State.Canon.pressAck {agent sec act} (h : s.Canon) : (s.pressAck agent sec act).Canon := .ite h.push h.send

theorem State.Canon.pressRecord {d agent m} (h : s.Canon) : (s.pressRecord d agent m).Canon := by
  unfold State.pressRecord
  extract_lets _ _ s3
  have hs3 : s3.Canon := .ite h.modDie.performWaiting.modDie h.modDie.performWaiting
  exact .pressAck (.ite hs3.giveAll (.ite hs3.requestsDone hs3.sendPressEnd))

theorem State.Canon.takeHeld {d} (h : s.Canon) : (s.takeHeld d).Canon :=
  h.foldl fun _ _ h1 => .ite h1.modDie.pressRecord h1

theorem State.Canon.execPressActivation {agent m} (h : s.Canon) : NextCanon (execPressActivation agent m s) := by
  unfold Machine.execPressActivation
  refine .next ?_
  split
  · exact h
  · exact .ite h.modDie h.pressRecord

theorem State.Canon.pressOn {sec} (h : s.Canon) : (s.pressOn sec).Canon := by
  unfold State.pressOn
  extract_lets
  split
  · exact h.pressEnd
  · split
    · exact h.pressEnd.pressNext
    · exact .ite h.pressEnd (h.pressEnd.modHome.pressNext.homeRise.foldl fun _ _ h2 => h2.pressNext)

theorem State.Canon.execPressAcknowledgement {agent sec act} (h : s.Canon) :
    NextCanon (execPressAcknowledgement agent sec act s) :=
  .next (.ite h h.modHome.pressOn)

theorem State.Canon.execPressDeactivation {sec src} (h : s.Canon) : NextCanon (execPressDeactivation sec src s) := by
  unfold Machine.execPressDeactivation
  refine .next (.ite h ?_)
  split
  · exact .ite h.modHome.pressOn h
  · exact h

theorem State.Canon.pressOps {d m} (h : s.Canon) : (s.pressOps d m).Canon := h.foldl fun _ _ h1 => h1.donePart.settle

theorem State.Canon.pressDrop {d agent sec} (h : s.Canon) : (s.pressDrop d agent sec).Canon :=
  (h.modDie.foldl fun _ _ h1 => h1.pressOps).takeHeld

theorem State.Canon.execPressClear {agent sec} (h : s.Canon) : NextCanon (execPressClear agent sec s) := by
  unfold Machine.execPressClear
  refine .next ?_
  split
  · exact h
  · exact h.pressDrop.pressAck

theorem State.Canon.execCensus {agent sec ser} (h : s.Canon) : NextCanon (execCensus agent sec ser s) := by
  unfold Machine.execCensus
  refine .next ?_
  split
  · exact h
  · exact h.setL2.modDie.sendTok.takeHeld

theorem State.Canon.chargeLost {sec} (h : s.Canon) : (s.chargeLost sec).Canon := h.foldl fun _ _ h1 => h1.failOn

theorem State.Canon.censusEnd {sec} (h : s.Canon) : (s.censusEnd sec).Canon := by
  unfold State.censusEnd
  extract_lets
  split
  · extract_lets _ _ _ s5
    have hs5 : s5.Canon := .timer (.update (.ite h.modHome.chargeLost h.modHome))
    split
    · exact .ite hs5.pressOn hs5.pressAll.pressServe
    · exact .pressOn (.update (.ite h.modHome.chargeLost h.modHome))
  · exact h

theorem State.Canon.sendCensus {sec s2 l} (h : s.Canon) : (s.sendCensus sec s2 l).Canon := by
  unfold State.sendCensus
  refine h.foldl fun _ _ ht => ?_
  split
  · exact ht.push
  · exact ht.send

theorem State.Canon.execTokenRecreation {sec} (h : s.Canon) : NextCanon (execTokenRecreation sec s) := by
  unfold Machine.execTokenRecreation
  refine .next ?_
  extract_lets
  split
  · exact h.sendCensus.timer
  · exact .ite h (.ite h.timer (.ite h.modHome.censusEnd h.modHome.sendCensus.timer))

theorem State.Canon.censusAnswer {m} (h : s.Canon) : (s.censusAnswer m).Canon := by
  unfold State.censusAnswer
  extract_lets
  split
  · exact .censusEnd (.modHome (.ite h h.homeTake))
  · exact .ite h h.homeTake

theorem State.Canon.execTokenArrival {m} (h : s.Canon) : NextCanon (execTokenArrival m s) := by
  unfold Machine.execTokenArrival
  refine .next ?_
  split
  · split
    · exact h.takeTokens
    · exact h
  · exact .ite (.homeRise (.ite h.censusAnswer h.homeTake)) h

theorem State.Canon.execTokenMessageExpiry {m} (h : s.Canon) : NextCanon (execTokenMessageExpiry m s) := h.update.next
theorem State.Canon.agentGone {sec dev} (h : s.Canon) : (s.agentGone sec dev).Canon := h.modHome.censusEnd.pressOn

theorem State.Canon.execRouteWithdrawal {dev} (h : s.Canon) : NextCanon (execRouteWithdrawal dev s) :=
  .next (.ite h ((h.keepPaths.update.foldl fun _ _ h1 => h1.modDie.takeHeld).foldl fun _ _ h1 => h1.agentGone))

theorem State.Canon.execDvLostClr {v} (h : s.Canon) : NextCanon (execDvLostClr v s) :=
  .next (.ite h (.healMem (.setMemSector (.ite h.modHome h))))

theorem State.Canon.execRangeExport {base len t' devs} (h : s.Canon) :
    NextCanon (execRangeExport base len t' devs s) :=
  .next (.ite h (h.update.foldl fun _ _ h1 => h1.modHome))

/-! ### The fabric -/

theorem State.Canon.unpack {p} (h : s.Canon) : (s.unpack p).2.Canon := by
  unfold State.unpack
  extract_lets
  split
  · split
    · exact h.update
    · exact h.chargeErr
  · exact h.update

theorem State.Canon.servePkt {p f} (h : s.Canon) (hf : ∀ t x, t.Canon → (f t x).Canon) :
    (s.servePkt p f).Canon := by
  unfold State.servePkt
  extract_lets
  split
  · exact h.unpack
  · split
    · exact h.unpack
    · split
      · split
        · exact h.unpack.send
        · exact h.unpack
      · split
        · exact h.unpack.send
        · exact hf _ _ h.unpack

theorem State.Canon.serveVault {p} (h : s.Canon) : (s.serveVault p).Canon := by
  unfold State.serveVault
  split <;> exact h.send

theorem State.Canon.execVectorRead {p} (h : s.Canon) : NextCanon (execVectorRead p s) := by
  unfold Machine.execVectorRead
  refine .next (.ite ?_ (h.servePkt (fun _ _ h1 => h1.respond)))
  split
  · next e =>
      have hu := State.Canon.of_snd e h.unpack
      exact .ite hu.serveVault hu
  · next e => exact .of_snd e h.unpack

theorem State.Canon.takeJob {p} (h : s.Canon) : (s.takeJob p).Canon := by
  unfold State.takeJob
  split
  · next e => exact .runJob (.update (.of_snd e h.newId))

theorem State.Canon.execVectorWrite {p} (h : s.Canon) : NextCanon (execVectorWrite p s) :=
  (h.servePkt (fun _ _ h1 => h1.respond.takeJob)).next

theorem State.Canon.execVectorAtomic {p} (h : s.Canon) : NextCanon (execVectorAtomic p s) :=
  (h.servePkt (fun _ _ h1 => h1.noteAnswer.takeJob)).next

theorem State.Canon.takeReq {rid} (h : s.Canon) : (s.takeReq rid).2.Canon := by
  unfold State.takeReq
  split
  · exact h.update
  · exact h

theorem State.Canon.partsDone {rid l} (h : s.Canon) : (s.partsDone rid l).Canon := by
  unfold State.partsDone
  extract_lets s1
  have hs1 : s1.Canon := by
    unfold s1
    refine h.foldl fun _ _ ht => ?_
    split
    · exact ht.stcwMsix.donePart
    · exact ht
  refine hs1.foldl fun _ _ ht => ?_
  split
  · exact ht.settleOn
  · exact ht

theorem State.Canon.partsFail {rid ids code tries info} (h : s.Canon) :
    (s.partsFail rid ids code tries info).Canon := by
  unfold State.partsFail
  refine h.foldl fun _ _ ht => ?_
  split
  · exact ht
  · exact ht.modAcc.foldl fun _ _ h1 => h1.leavePath.failOn

theorem State.Canon.pullFail {core dev code addr info} (h : s.Canon) :
    (s.pullFail core dev code addr info).Canon := by
  unfold State.pullFail
  split
  · exact h.pullWithdraw.modCore.kickFail
  · exact h

theorem State.Canon.engFail {e code addr info kind} (h : s.Canon) : (s.engFail e code addr info kind).Canon := by
  unfold State.engFail
  split
  · exact .ite h h.engFault
  · exact h

theorem State.Canon.reqFail {r code tries info} (h : s.Canon) : (s.reqFail r code tries info).Canon := by
  unfold State.reqFail
  split
  · exact .engFail (.ite h.update h)
  · exact h.pullFail
  · split
    · exact h
    · split
      · exact (h.foldl fun _ _ h1 => h1.donePart).settle.refuseSends
      · exact h.foldl fun _ _ h1 => h1.failOn
      · exact h.partsFail

theorem State.Canon.execReadResponse {rid data} (h : s.Canon) : NextCanon (execReadResponse rid data s) := by
  unfold Machine.execReadResponse
  refine .next ?_
  split
  · next e => exact .of_snd e h.takeReq
  · next e =>
      have ht := State.Canon.of_snd e h.takeReq
      split
      · exact ht.reqFail
      · split
        · exact .ite ht ht.modCore.push
        · exact ht.partsDone

theorem State.Canon.execWriteAcceptance {rid code} (h : s.Canon) : NextCanon (execWriteAcceptance rid code s) := by
  unfold Machine.execWriteAcceptance
  refine .next ?_
  split
  · next e => exact .of_snd e h.takeReq
  · next e =>
      have ht := State.Canon.of_snd e h.takeReq
      split
      · split
        · exact h.timer
        · split
          · exact h.timer
          · exact ht
        · exact ht
      · split
        · exact ht.reqFail
        · split
          · exact .push (.modOp (.ite ht.update ht.update))
          · split
            · split
              · exact (ht.foldl fun _ _ h1 => h1.donePart).settle
              · exact ht
            · split
              · exact (ht.foldl fun _ _ h1 => h1.donePart).settle
              · exact ht
            · exact ht.partsDone

theorem State.Canon.execAtomicResponse {rid data} (h : s.Canon) : NextCanon (execAtomicResponse rid data s) := by
  unfold Machine.execAtomicResponse
  refine .next ?_
  split
  · next e => exact .of_snd e h.takeReq
  · next e =>
      have ht := State.Canon.of_snd e h.takeReq
      exact .ite ht.reqFail ht.partsDone

theorem State.Canon.execFabricRequestTimeout {rid} (h : s.Canon) : NextCanon (execFabricRequestTimeout rid s) := by
  unfold Machine.execFabricRequestTimeout
  refine .next ?_
  split
  · exact h
  · exact .ite h (.ite h.sendPkt.update.timer h.update.reqFail)

theorem State.Canon.execMarkerCopy {m} (h : s.Canon) : NextCanon (execMarkerCopy m s) := h.update.markersGo.next

theorem State.Canon.execMarkerCompletion {id dev} (h : s.Canon) : NextCanon (execMarkerCompletion id dev s) := by
  unfold Machine.execMarkerCompletion
  refine .next ?_
  split
  · exact h
  · extract_lets
    split
    · exact .ite h.update.push h.update
    · split
      · exact .settle (.foldl (.ite h.update.push h.update) fun _ _ h1 => h1.donePart)
      · exact .ite h.update.push h.update

theorem State.Canon.execLinkReplay {l} (h : s.Canon) : NextCanon (execLinkReplay l s) := by
  unfold Machine.execLinkReplay
  refine .next ?_
  split <;> exact h.chargeErr

theorem State.Canon.clearStreams {l} (h : s.Canon) : (s.clearStreams l).Canon := by
  unfold State.clearStreams
  split
  · exact h.update
  · exact h

theorem State.Canon.execLinkDown {l} (h : s.Canon) : NextCanon (execLinkDown l s) :=
  .next (.ite h h.keepPaths.clearStreams.update.putDevice)

theorem State.Canon.execLinkUp {l} (h : s.Canon) : NextCanon (execLinkUp l s) :=
  .next (.ite h h.keepPaths.clearStreams.update)

/-! ### Host ports -/

theorem State.Canon.scResult {id lane v} (h : s.Canon) : (s.scResult id lane v).Canon := by
  unfold State.scResult
  extract_lets _ r _ s1 _ s2
  have hr : r.2.Canon := by
    unfold r
    split
    · exact h
    · exact h.draw
  have h2 : s2.Canon := hr.update
  split
  · exact h2
  · exact .ite h2.send.scFinish h2

theorem State.Canon.hostData {a p v} (h : s.Canon) : (s.hostData a p v).Canon := by
  unfold State.hostData
  split
  · exact h.cpyaPut
  · exact h.trackHost.stcwMsix.donePart
  · exact h.donePart

theorem State.Canon.zeroFail {w code info} (h : s.Canon) : (s.zeroFail w code info).Canon := by
  unfold State.zeroFail
  split
  · split
    · exact h.trapSeq
    · exact h
  · split
    · exact h.trap
    · exact h

theorem State.Canon.hostFail {r code info} (h : s.Canon) : (s.hostFail r code info).Canon := by
  unfold State.hostFail
  split
  · exact h.engFail
  · exact .ite h.modCore h.pullFail
  · exact h.scResult
  · split
    · exact h.zeroFail
    · split
      · split
        · exact h.failOn
        · exact h
      · exact h

theorem State.Canon.hostDone {r data} (h : s.Canon) : (s.hostDone r data).Canon := by
  unfold State.hostDone
  split
  · exact h.modOp.push
  · exact .ite h.modCore (.ite h h.modCore.push)
  · exact h.scResult
  · split
    · exact h.push
    · split
      · split
        · exact h.hostData.settleOn
        · exact h
      · exact h

theorem State.Canon.hostFree {r} (h : s.Canon) : (s.hostFree r).Canon := .ite h h.push

theorem State.Canon.execHostCompletion {tag st data} (h : s.Canon) :
    NextCanon (execHostCompletion tag st data s) := by
  unfold Machine.execHostCompletion
  refine .next ?_
  split
  · exact h
  · split
    · exact h.update.hostFree.hostDone
    · exact h.update.hostFree.hostFail
    · exact h.update.hostFree.hostFail
    · exact h.update.hostFree.hostFail

theorem State.Canon.execHostCompletionTimeout {tag} (h : s.Canon) : NextCanon (execHostCompletionTimeout tag s) := by
  unfold Machine.execHostCompletionTimeout
  refine .next ?_
  split
  · exact h
  · exact .ite h h.update.hostFree.hostFail

theorem State.Canon.execGoDataResponse {port sec st data} (h : s.Canon) :
    NextCanon (execGoDataResponse port sec st data s) := by
  unfold Machine.execGoDataResponse
  refine .next (.ite h ?_)
  extract_lets s1 _ _
  have hs1 : s1.Canon := by
    unfold s1
    split
    · exact h.setMemSector
    · exact h
  split
  · exact .ite hs1.modHome.push hs1.modHome.push.pressServe
  · exact hs1.modHome.push.foldl fun _ _ h1 => h1.foldl fun _ _ h2 => h2.answerHome

theorem State.Canon.execHostSnoop {port sec kind} (h : s.Canon) : NextCanon (execHostSnoop port sec kind s) := by
  unfold Machine.execHostSnoop
  refine .next (.ite h (.ite h.update.recall ?_))
  split <;> exact .send (.modHome (.ite h.send h))

theorem State.Canon.barDo {port pa req} (h : s.Canon) : (s.barDo port pa req).Canon := by
  unfold State.barDo
  extract_lets rmw
  split
  · exact h.send
  · exact h.wrBytes.healMem
  · unfold rmw
    exact h.wrBytes.healMem.send
  · unfold rmw
    exact h.wrBytes.healMem.send
  · unfold rmw
    exact h.wrBytes.healMem.send

theorem State.Canon.execBarMemoryAccess {port pa req} (h : s.Canon) : NextCanon (execBarMemoryAccess port pa req s) :=
  .next (.ite h.barDo h)

theorem State.Canon.execCxlMemAccess {pa req} (h : s.Canon) : NextCanon (execCxlMemAccess pa req s) := by
  unfold Machine.execCxlMemAccess
  refine .next (.ite h ?_)
  split
  · exact h.update.recall
  · exact (h.barDo.foldl fun _ _ h1 => h1.modHome).push

/-! ### Launches -/

theorem State.Canon.postWord {asid pa t' v} (h : s.Canon) : (s.postWord asid pa t' v).Canon := by
  unfold State.postWord
  split
  · next e => exact .timer (.update (.sendPkt (.of_snd e h.newId)))

theorem State.Canon.storeWord {asid va v} (h : s.Canon) : (s.storeWord asid va v).1.Canon := by
  unfold State.storeWord
  split
  · exact h
  · exact .ite_fst h.send (.ite_fst h.postWord h.wrBytes.healMem)

theorem State.Canon.launchFail {asid addr r off mapOff} (h : s.Canon) : (s.launchFail asid addr r off mapOff).Canon :=
  .ite h.putRecord h.putRecord.storeWord

theorem State.Canon.askRoom {l segs cause vs} (h : s.Canon) : (s.askRoom l segs cause vs).Canon := by
  unfold State.askRoom
  split
  · exact h
  · exact h.raiseYield

theorem State.Canon.execLaunchPlacement {die} (h : s.Canon) : NextCanon (execLaunchPlacement die s) := by
  unfold Machine.execLaunchPlacement
  refine .next (.ite h ?_)
  extract_lets
  split
  · exact h.notBefores
  · split
    · split
      · next e => exact (h.notBefores.restore _ e).push
      · exact h.notBefores
    · split
      · split
        · exact h.notBefores.dequeue.launchFail.push
        · exact h.notBefores
      · split
        · next e => exact (h.notBefores.update.placeUnit _ e).dequeue.modDie.push
        · exact h.notBefores.modDie.askRoom

theorem State.Canon.execBlockRetirement {bid} (h : s.Canon) : NextCanon (execBlockRetirement bid s) := by
  unfold Machine.execBlockRetirement
  refine .next ?_
  split
  · exact h
  · extract_lets _ s1 s2 s3 s4
    have hs2 : s2.Canon := .ite h.update.push h.update
    have hs3 : s3.Canon := .ite hs2.push hs2
    have hs4 : s4.Canon := .ite hs3.push hs3
    exact .ite h hs4.push.wakeSched

theorem State.Canon.complSend {l} (h : s.Canon) : (s.complSend l).Canon := by
  unfold State.complSend
  extract_lets _ _ s1
  have hs1 : s1.Canon := .ite (h.foldl fun _ _ h1 => h1.sendMarker) h
  exact .ite hs1 (hs1.foldl fun _ _ h1 => h1.send.update)

theorem State.Canon.complPhase {l n} (h : s.Canon) : (s.complPhase l n).Canon := h.update

theorem State.Canon.slotStored {l} (h : s.Canon) : (s.slotStored l).Canon := by
  unfold State.slotStored
  split
  · exact h.update.slotRelease
  · exact h

theorem State.Canon.complEnd {l} (h : s.Canon) : (s.complEnd l).Canon := h.update.unpin.wakeSched
theorem State.Canon.complMsix {l port} (h : s.Canon) : (s.complMsix l port).Canon := .ite h.send h

theorem State.Canon.execLaunchCompletion {n} (h : s.Canon) : NextCanon (execLaunchCompletion n s) := by
  unfold Machine.execLaunchCompletion
  refine .next ?_
  split
  · exact h
  · extract_lets s1 r r'
    have hs1 : s1.Canon := .ite h.complSend.complPhase h
    have hr : r'.1.Canon := hs1.storeWord.slotStored
    refine .ite h (.ite h.complEnd (.ite hs1 (.ite hs1.complMsix.complEnd ?_)))
    split
    · exact hr.complMsix.complEnd
    · exact .ite hr.complMsix.complEnd hr.update.send.update

/-! ### The networks -/

theorem State.Canon.hop {k} (h : s.Canon) : (s.hop k).Canon := .ite h.update h
theorem State.Canon.setOutOn {e x} (h : s.Canon) : (s.setOutOn e x).Canon := h.update
theorem State.Canon.setOut {e} (h : s.Canon) : (s.setOut e).Canon := h.foldl fun _ _ h1 => h1.setOutOn

theorem State.Canon.syncNet (h : s.Canon) : s.syncNet.Canon :=
  .foldl (.ite h h.update) fun _ _ h1 => .ite h1 h1.setOut

theorem State.Canon.execTurning {die} (h : s.Canon) : NextCanon (execTurning die s) := h.update.modDie.next

/-! ### The platform -/

theorem State.Canon.execCxYreq {asid v} (h : s.Canon) : NextCanon (execCxYreq asid v s) := h.cxWrite.next
theorem State.Canon.execCxHalt {asid v} (h : s.Canon) : NextCanon (execCxHalt asid v s) := h.cxWrite.next

theorem State.Canon.execDvGtimeSet {v} (h : s.Canon) : NextCanon (execDvGtimeSet v s) :=
  .next (.ite h.update h.update)

theorem State.Canon.execPpsPulse (h : s.Canon) : NextCanon (execPpsPulse s) := h.update.next

theorem State.Canon.execOvfClear {r} (h : s.Canon) : NextCanon (execOvfClear r s) := by
  unfold Machine.execOvfClear
  refine .next ?_
  split
  · exact h.setCx
  · exact h.update

theorem State.Canon.execErrorCounterClear {r} (h : s.Canon) : NextCanon (execErrorCounterClear r s) := by
  unfold Machine.execErrorCounterClear
  refine .next ?_
  split
  · exact h.update
  · exact h

theorem State.Canon.evacBegin {v} (h : s.Canon) : (s.evacBegin v).Canon :=
  .ite (.ite h (.ite h.update.push h.update.push)) (.ite h.update h)

theorem State.Canon.execEvacGo {v} (h : s.Canon) : NextCanon (execEvacGo v s) := h.evacBegin.next

theorem State.Canon.dvWrite {r v} (h : s.Canon) : (s.dvWrite r v).Canon := by
  unfold State.dvWrite
  split
  · exact .ite h.modDie.push h
  · exact .ite h.modDie.push h
  · exact .ite (.ite h.update.timer h.update) h
  · exact h.update
  · exact .ite h.modDie.push h
  · exact h.update
  · exact h.update
  · exact h.update
  · exact h.update
  · exact h.evacBegin
  · split
    · exact .ite h.update h
    · exact h

theorem State.Canon.execRegisterWrite {r v} (h : s.Canon) : NextCanon (execRegisterWrite r v s) := by
  unfold Machine.execRegisterWrite
  refine .next ?_
  split
  · exact .ite h.cxWrite h
  · exact h.dvWrite

theorem State.Canon.platEvent (h : s.Canon) : s.platEvent.Canon := h.send

theorem State.Canon.settleLevel (h : s.Canon) : s.settleLevel.Canon :=
  .ite h (.ite (.update (.ite h.update h)) (.ite h.update h))

theorem State.Canon.execCapWrite {cap} (h : s.Canon) : NextCanon (execCapWrite cap s) := h.update.settleLevel.next
theorem State.Canon.execLevelRise (h : s.Canon) : NextCanon (execLevelRise s) := .next (.ite h h.update.wakeSched)
theorem State.Canon.raiseSupply {serial dies} (h : s.Canon) : (s.raiseSupply serial dies).Canon := h.update.timer

theorem State.Canon.tryImage {image} (h : s.Canon) : (s.tryImage image).Canon :=
  .ite h.update.update.raiseSupply.platEvent h.update.update.platEvent

theorem State.Canon.joinFabric (h : s.Canon) : s.joinFabric.Canon := h.update

theorem State.Canon.execBoot {image} (h : s.Canon) : NextCanon (execBoot image s) :=
  .next (.ite h h.joinFabric.update.tryImage)

theorem State.Canon.execFirmwarePush {image} (h : s.Canon) : NextCanon (execFirmwarePush image s) :=
  .next (.ite h.tryImage h)

theorem State.Canon.execSupplyReplan (h : s.Canon) : NextCanon (execSupplyReplan s) :=
  .next (.ite h h.draw.update.raiseSupply.settleLevel.platEvent)

theorem State.Canon.execIdentityRead {off len} (h : s.Canon) : NextCanon (execIdentityRead off len s) := h.send.next
theorem State.Canon.answerMgmt {kind body} (h : s.Canon) : (s.answerMgmt kind body).Canon := .ite h.send h
theorem State.Canon.execGetVersion (h : s.Canon) : NextCanon (execGetVersion s) := h.answerMgmt.next
theorem State.Canon.execGetCapabilities (h : s.Canon) : NextCanon (execGetCapabilities s) := h.answerMgmt.next
theorem State.Canon.execNegotiateAlgorithms (h : s.Canon) : NextCanon (execNegotiateAlgorithms s) := h.answerMgmt.next
theorem State.Canon.execGetDigests (h : s.Canon) : NextCanon (execGetDigests s) := h.answerMgmt.next
theorem State.Canon.execGetCertificate (h : s.Canon) : NextCanon (execGetCertificate s) := h.answerMgmt.next
theorem State.Canon.execChallenge {nonce} (h : s.Canon) : NextCanon (execChallenge nonce s) := h.answerMgmt.next
theorem State.Canon.execGetMeasurements (h : s.Canon) : NextCanon (execGetMeasurements s) := h.answerMgmt.next

theorem State.Canon.execEvacCopying (h : s.Canon) : NextCanon (execEvacCopying s) :=
  .next (.ite h.update.raiseYield (.ite h (.ite h.update.push (h.update.foldl fun _ _ h1 => .ite h1.recall h1).send)))

theorem State.Canon.execEvacDraining (h : s.Canon) : NextCanon (execEvacDraining s) :=
  .next (.ite h (h.update.send.foldl fun _ _ h1 => h1.sendMarker))

theorem State.Canon.execEvacLatchFree (h : s.Canon) : NextCanon (execEvacLatchFree s) :=
  .next (.ite h (h.foldl fun _ _ h1 => h1.modDie).update.platEvent)

theorem State.Canon.skipFirings (h : s.Canon) : s.skipFirings.Canon := h.update.foldl fun _ _ h1 => .ite h1.timer h1

theorem State.Canon.execEvacFailure {cause} (h : s.Canon) : NextCanon (execEvacFailure cause s) :=
  .next (.ite h (h.update.foldl fun _ _ h1 => h1.dropCause).skipFirings.push.wakeSched.platEvent)

theorem NextCanon.execMainSupplyLoss : NextCanon (execMainSupplyLoss s) := .next (.update .reset)

/-! ### Handlers and resumption -/

theorem State.Canon.startHandler {l core g os} (h : s.Canon) : (s.startHandler l core g os).Canon :=
  h.putBlock.acquire.modUnit.update

theorem State.Canon.execHandlerGangClose {die} (h : s.Canon) : NextCanon (execHandlerGangClose die s) := by
  unfold Machine.execHandlerGangClose
  refine (h.foldl ?_).next
  intro _ _ ht
  split
  · exact ht
  · exact ht.modDie
  · extract_lets
    split
    · next e =>
        extract_lets _ _ cores _ _ _
        clear_value cores
        split
        · extract_lets s3
          have hs3 : s3.Canon := .startHandler (.modDie (.of_snd e ht.newId))
          exact .ite hs3 hs3.push
        · split
          · exact .of_snd e ht.newId
          · exact .raiseYield (.of_snd e ht.newId)

theorem State.Canon.resumeSeq {b h'} (h : s.Canon) : (s.resumeSeq b h').Canon := by
  unfold State.resumeSeq
  refine h.foldl fun _ _ ht => ?_
  split
  · exact .ite ht.engDone ht.engDrop.modOp
  · exact .ite ht.modSeq (.ite ht.reissue (.ite ht.modSeq ht.modSeq))

theorem State.Canon.reissueAll {b skips} (h : s.Canon) : (s.reissueAll b skips).Canon :=
  h.foldl fun _ _ h1 => h1.foldl fun _ _ h2 => .ite h2.reissue h2

theorem State.Canon.execBlockResume {bid} (h : s.Canon) : NextCanon (execBlockResume bid s) := by
  unfold Machine.execBlockResume
  refine .next ?_
  split
  · exact h
  · split
    · exact h
    · split
      · exact h
      · exact (((h.modBlk.resumeSeq.foldl fun _ _ h2 => h2.vlWr).reissueAll.foldl
            fun _ _ h2 => h2.afterExit).push).uiPoke

theorem State.Canon.haltAll {code} (h : s.Canon) : (s.haltAll code).Canon := h.foldl fun _ _ h1 => h1.haltContext

theorem State.Canon.execWatchdog {bid gang} (h : s.Canon) : NextCanon (execWatchdog bid gang s) := by
  unfold Machine.execWatchdog
  refine .next ?_
  split
  · exact h
  · split
    · exact .ite h (.ite h.record.haltAll h.trapSeq)
    · split
      · exact h
      · split
        · exact h
        · exact .ite h.record.haltAll h.trap

/-! ### Events -/

theorem State.Canon.runEvent {e} (h : s.Canon) : NextCanon (runEvent e s) := by
  unfold Machine.runEvent
  cases e with
  | wheyArrival => exact h.execWheyArrival
  | replicaAdvertisement => exact h.execReplicaAdvertisement
  | doorbell => exact h.execDoorbell
  | hqRecordRead => exact h.execHqRecordRead
  | entryGrant => exact h.execEntryGrant
  | launchPlacement => exact h.execLaunchPlacement
  | unitSave => exact h.execUnitSave
  | forcedSave => exact h.execForcedSave
  | saveDrainTimeout => exact h.execSaveDrainTimeout
  | unitRestore => exact h.execUnitRestore
  | slotFiring => exact h.execSlotFiring
  | nodeFlushTimeout => exact h.execNodeFlushTimeout
  | blockRetirement => exact h.execBlockRetirement
  | launchCompletion => exact h.execLaunchCompletion
  | accessCompletion => exact h.execAccessCompletion
  | engineOpBegin => exact h.execEngineOpBegin
  | engineOpCompletion => exact h.execEngineOpCompletion
  | leaveGrant => exact h.execLeaveGrant
  | leaveExpiry => exact h.execLeaveExpiry
  | sleepwWake => exact h.execSleepwWake
  | hostUiSend => exact h.execHostUiSend
  | uiDelivery => exact h.execUiDelivery
  | hostSyscallEnd => exact h.execHostSyscallEnd
  | transientRequest => exact h.execTransientRequest
  | transientTimeout => exact h.execTransientTimeout
  | tokenArrival => exact h.execTokenArrival
  | writeBack => exact h.execWriteBack
  | pressRequest => exact h.execPressRequest
  | pressActivation => exact h.execPressActivation
  | pressDeactivation => exact h.execPressDeactivation
  | pressClear => exact h.execPressClear
  | hostSnoop => exact h.execHostSnoop
  | cxlMemAccess => exact h.execCxlMemAccess
  | kickNoticeArrival => exact h.execKickNoticeArrival
  | kickRetry => exact h.execKickRetry
  | copyEnginePull => exact h.execCopyEnginePull
  | markerCopy => exact h.execMarkerCopy
  | markerCompletion => exact h.execMarkerCompletion
  | vectorRead => exact h.execVectorRead
  | vectorWrite => exact h.execVectorWrite
  | vectorAtomic => exact h.execVectorAtomic
  | readResponse => exact h.execReadResponse
  | writeAcceptance => exact h.execWriteAcceptance
  | atomicResponse => exact h.execAtomicResponse
  | collectiveChunk => exact h.execCollectiveChunk
  | fabricRequestTimeout => exact h.execFabricRequestTimeout
  | turning => exact h.execTurning
  | linkReplay => exact h.execLinkReplay
  | linkDown => exact h.execLinkDown
  | tokenRecreation => exact h.execTokenRecreation
  | census => exact h.execCensus
  | routeWithdrawal => exact h.execRouteWithdrawal
  | hostCompletion => exact h.execHostCompletion
  | hostCompletionTimeout => exact h.execHostCompletionTimeout
  | handlerGangClose => exact h.execHandlerGangClose
  | blockResume => exact h.execBlockResume
  | watchdog => exact h.execWatchdog
  | cxYreq => exact h.execCxYreq
  | cxHalt => exact h.execCxHalt
  | dvGtimeSet => exact h.execDvGtimeSet
  | ppsPulse => exact h.execPpsPulse
  | dvLostClr => exact h.execDvLostClr
  | ovfClear => exact h.execOvfClear
  | errorCounterClear => exact h.execErrorCounterClear
  | registerWrite => exact h.execRegisterWrite
  | capWrite => exact h.execCapWrite
  | levelRise => exact h.execLevelRise
  | boot => exact h.execBoot
  | firmwarePush => exact h.execFirmwarePush
  | supplyReplan => exact h.execSupplyReplan
  | identityRead => exact h.execIdentityRead
  | getVersion => exact h.execGetVersion
  | getCapabilities => exact h.execGetCapabilities
  | negotiateAlgorithms => exact h.execNegotiateAlgorithms
  | getDigests => exact h.execGetDigests
  | getCertificate => exact h.execGetCertificate
  | challenge => exact h.execChallenge
  | getMeasurements => exact h.execGetMeasurements
  | evacGo => exact h.execEvacGo
  | evacCopying => exact h.execEvacCopying
  | evacDraining => exact h.execEvacDraining
  | evacLatchFree => exact h.execEvacLatchFree
  | evacFailure => exact h.execEvacFailure
  | emptyEntryWord => exact h.execEmptyEntryWord
  | mainSupplyLoss => exact .execMainSupplyLoss
  | linkUp => exact h.execLinkUp
  | rangeExport => exact h.execRangeExport
  | tokenMessageExpiry => exact h.execTokenMessageExpiry
  | qwaitDeadline => exact h.execQwaitDeadline
  | peerSend => exact h.execPeerSend
  | barMemoryAccess => exact h.execBarMemoryAccess
  | goDataResponse => exact h.execGoDataResponse
  | pressAcknowledgement => exact h.execPressAcknowledgement
  | pageWalkEnd => exact h.execPageWalkEnd

/-! ### Scalar words -/

theorem State.Canon.execScmp {c o} (h : s.Canon) : NextCanon (execScmp c o s) :=
  .withSplit fun _ _ _ => h.onMembers.finish

theorem State.Canon.execNop {c} (h : s.Canon) : NextCanon (execNop c s) := .withSplit fun _ _ _ => h.finish

/-! ### Dispatch -/

theorem State.Canon.exec {i} (h : s.Canon) : NextCanon (exec i s) := by
  unfold Machine.exec
  cases i with
  | iadd | isub | imul | iminS | iminU | imaxS | imaxU | iabs | andB | orB | xorB | andn | shl | shr | sar | rotl
  | popc | clz | brev | mov | movi | sel | isetp | iaddc | fadd | fsub | fmul | fmin | fmax | fsetp | fabs | fneg
  | hadd2 | hmul2 | badd2 | bmul2 | hmin2 | hmax2 | pand | por | pxor | pnot | pmov | i2f | f2i | f2h | h2f | f2b
  | b2f | sext | zext | bfe | bfi | fsat | frnd | lmask | imad | imulhiS | imulhiU | iadd3 | lut3 | lea | iadd64
  | imad64 | ishf | prmt | ffma | dadd | dmul | dfma | dmin | dmax | dsetp | frnd64 | frcp | frsq | fsqrt | fexp2
  | flog2 | fsin | fcos | ftanh | hfma2 | bfma2 | f2f | cvtfi | cvtif | f2e4 | f2e5 | e42f | e52f | qunpk | fclass
  | fscale | fdot2 | idp4 | fcopysign | dcvt => exact h.vecWord
  | sadd | ssub | smov | smovi | smul | sshl | sshr | sand | sor | sbfe | smax | smin => exact h.sliceWord
  | shflx | bcast | vote | shfl | redux | matchL | qscale | qpack | fredux => exact h.crossWord
  | ifp | elsep | endifp | brk | cont => exact h.divWord
  | qhist | pref | atom | atomv | atom64 | probe | press => exact h.memWord
  | cctlEvict | tokq | mcpredRd | mcpredWr | wbinv => exact h.ctlWord
  | mapctlInv | mapctlInvall | mapctlHost | mapctlDev => exact h.mapctlWord
  | tload | tstore | tcopy | tgath | tscat | tfill => exact h.copyWord
  | creduce | cbcast => exact h.collWord
  | mma | mmas | mmag => exact h.mmaWord
  | mzero | mloadt | mstoret | mcvt | msync | mtrans | maddt | mscale | mhist | mquant | mact | mrowred =>
    exact h.tileWord
  | qadd | qmovi => exact h.seqWord
  | uimaskWr | uimaskSet | uimaskClr => exact h.maskWord
  | scmp => exact h.execScmp
  | nop => exact h.execNop
  | bra => exact h.execBra
  | brx => exact h.execBrx
  | call => exact h.execCall
  | callx => exact h.execCallx
  | ret => exact h.execRet
  | regang => exact h.execRegang
  | regroup => exact h.execRegroup
  | exit => exact h.execExit
  | yield => exact h.execYield
  | spinh => exact h.execSpinh
  | rdsr => exact h.execRdsr
  | wrsr => exact h.execWrsr
  | scbra => exact h.execScbra
  | ld => exact h.execLd
  | st => exact h.execSt
  | ldv => exact h.execLdv
  | stv => exact h.execStv
  | ldc => exact h.execLdc
  | atomcas => exact h.execAtomcas
  | red => exact h.execRed
  | fence => exact h.execFence
  | mark => exact h.execMark
  | bar => exact h.execBar
  | binit => exact h.execBinit
  | bexp => exact h.execBexp
  | barv => exact h.execBarv
  | btest => exact h.execBtest
  | bret => exact h.execBret
  | waitp => exact h.execWaitp
  | tlwait => exact h.execTlwait
  | tlread => exact h.execTlread
  | cctlInv => exact h.execCctlInv
  | cctlInvl => exact h.execCctlInvl
  | syncm => exact h.execSyncm
  | ldx => exact h.execLdx
  | cpya => exact h.execCpya
  | stcw => exact h.execStcw
  | tladv => exact h.execTladv
  | atomf => exact h.execAtomf
  | ldnc => exact h.execLdnc
  | stnc => exact h.execStnc
  | tlsig => exact h.execTlsig
  | qld => exact h.execQld
  | qbra => exact h.execQbra
  | qwaitEnd => exact h.execQwaitEnd
  | qwaitUntil => exact h.execQwaitUntil
  | mcoop => exact h.execMcoop
  | mleaveGet => exact h.execMleaveGet
  | mleavePut => exact h.execMleavePut
  | mfmt => exact h.execMfmt
  | sendui => exact h.execSendui
  | uiret => exact h.execUiret
  | uimaskHnd => exact h.execUimaskHnd
  | uipend => exact h.execUipend
  | syscall => exact h.execSyscall
  | sysret => exact h.execSysret
  | trapret => exact h.execTrapret
  | trapretFrz => exact h.execTrapretFrz
  | migr => exact h.execMigr
  | wlive => exact h.execWlive
  | launch => exact h.execLaunch
  | emit => exact h.execEmit
  | kick => exact h.execKick
  | decld => exact h.execDecld
  | bkpt => exact h.execBkpt
  | sleepw => exact h.execSleepw
  | wheyArrival => exact h.execWheyArrival
  | replicaAdvertisement => exact h.execReplicaAdvertisement
  | doorbell => exact h.execDoorbell
  | hqRecordRead => exact h.execHqRecordRead
  | entryGrant => exact h.execEntryGrant
  | launchPlacement => exact h.execLaunchPlacement
  | unitSave => exact h.execUnitSave
  | forcedSave => exact h.execForcedSave
  | saveDrainTimeout => exact h.execSaveDrainTimeout
  | unitRestore => exact h.execUnitRestore
  | slotFiring => exact h.execSlotFiring
  | nodeFlushTimeout => exact h.execNodeFlushTimeout
  | blockRetirement => exact h.execBlockRetirement
  | launchCompletion => exact h.execLaunchCompletion
  | accessCompletion => exact h.execAccessCompletion
  | engineOpBegin => exact h.execEngineOpBegin
  | engineOpCompletion => exact h.execEngineOpCompletion
  | leaveGrant => exact h.execLeaveGrant
  | leaveExpiry => exact h.execLeaveExpiry
  | sleepwWake => exact h.execSleepwWake
  | hostUiSend => exact h.execHostUiSend
  | uiDelivery => exact h.execUiDelivery
  | hostSyscallEnd => exact h.execHostSyscallEnd
  | transientRequest => exact h.execTransientRequest
  | transientTimeout => exact h.execTransientTimeout
  | tokenArrival => exact h.execTokenArrival
  | writeBack => exact h.execWriteBack
  | pressRequest => exact h.execPressRequest
  | pressActivation => exact h.execPressActivation
  | pressDeactivation => exact h.execPressDeactivation
  | pressClear => exact h.execPressClear
  | hostSnoop => exact h.execHostSnoop
  | cxlMemAccess => exact h.execCxlMemAccess
  | kickNoticeArrival => exact h.execKickNoticeArrival
  | kickRetry => exact h.execKickRetry
  | copyEnginePull => exact h.execCopyEnginePull
  | markerCopy => exact h.execMarkerCopy
  | markerCompletion => exact h.execMarkerCompletion
  | vectorRead => exact h.execVectorRead
  | vectorWrite => exact h.execVectorWrite
  | vectorAtomic => exact h.execVectorAtomic
  | readResponse => exact h.execReadResponse
  | writeAcceptance => exact h.execWriteAcceptance
  | atomicResponse => exact h.execAtomicResponse
  | collectiveChunk => exact h.execCollectiveChunk
  | fabricRequestTimeout => exact h.execFabricRequestTimeout
  | turning => exact h.execTurning
  | linkReplay => exact h.execLinkReplay
  | linkDown => exact h.execLinkDown
  | tokenRecreation => exact h.execTokenRecreation
  | census => exact h.execCensus
  | routeWithdrawal => exact h.execRouteWithdrawal
  | hostCompletion => exact h.execHostCompletion
  | hostCompletionTimeout => exact h.execHostCompletionTimeout
  | handlerGangClose => exact h.execHandlerGangClose
  | blockResume => exact h.execBlockResume
  | watchdog => exact h.execWatchdog
  | cxYreq => exact h.execCxYreq
  | cxHalt => exact h.execCxHalt
  | dvGtimeSet => exact h.execDvGtimeSet
  | ppsPulse => exact h.execPpsPulse
  | dvLostClr => exact h.execDvLostClr
  | ovfClear => exact h.execOvfClear
  | errorCounterClear => exact h.execErrorCounterClear
  | registerWrite => exact h.execRegisterWrite
  | capWrite => exact h.execCapWrite
  | levelRise => exact h.execLevelRise
  | boot => exact h.execBoot
  | firmwarePush => exact h.execFirmwarePush
  | supplyReplan => exact h.execSupplyReplan
  | identityRead => exact h.execIdentityRead
  | getVersion => exact h.execGetVersion
  | getCapabilities => exact h.execGetCapabilities
  | negotiateAlgorithms => exact h.execNegotiateAlgorithms
  | getDigests => exact h.execGetDigests
  | getCertificate => exact h.execGetCertificate
  | challenge => exact h.execChallenge
  | getMeasurements => exact h.execGetMeasurements
  | evacGo => exact h.execEvacGo
  | evacCopying => exact h.execEvacCopying
  | evacDraining => exact h.execEvacDraining
  | evacLatchFree => exact h.execEvacLatchFree
  | evacFailure => exact h.execEvacFailure
  | emptyEntryWord => exact h.execEmptyEntryWord
  | mainSupplyLoss => exact .execMainSupplyLoss
  | linkUp => exact h.execLinkUp
  | rangeExport => exact h.execRangeExport
  | tokenMessageExpiry => exact h.execTokenMessageExpiry
  | qwaitDeadline => exact h.execQwaitDeadline
  | peerSend => exact h.execPeerSend
  | barMemoryAccess => exact h.execBarMemoryAccess
  | goDataResponse => exact h.execGoDataResponse
  | pressAcknowledgement => exact h.execPressAcknowledgement
  | pageWalkEnd => exact h.execPageWalkEnd

/-! ### Issue, due steps and the turn -/

theorem State.Canon.fetchHost {core asid va port addr} (h : s.Canon) :
    (s.fetchHost core asid va port addr).Canon := by
  unfold State.fetchHost
  extract_lets
  split
  · exact h.modCore.word
  · split
    · exact h.modCore.bad
    · split
      · exact h.wait
      · exact .ite h.wait h.modCore.hostRead8.wait

theorem State.Canon.fetchSec {core asid va pa e d} (h : s.Canon) : (s.fetchSec core asid va pa e d).Canon :=
  .word (.ite h h.modCore)

theorem State.Canon.fetchWait {core asid va} (h : s.Canon) : (s.fetchWait core asid va).Canon := h.modCore.startWalk
theorem State.Canon.fetchSeen {core asid va} (h : s.Canon) : (s.fetchSeen core asid va).Canon := .ite h.modCore h

theorem State.Canon.fetchVa {core asid pc} (h : s.Canon) : (s.fetchVa core asid pc).Canon := by
  unfold State.fetchVa
  extract_lets
  split
  · exact h.word
  · split
    · exact h.fetchWait.wait
    · split
      · exact h.fetchSeen.bad
      · split
        · exact h.fetchSeen.fetchHost
        · extract_lets
          split
          · exact h.fetchSeen.fetchSec
          · split
            · exact h.fetchSeen.modCore.bad
            · exact h.fetchSeen.need.wait
        · split
          · exact h.fetchSeen.bad
          · split
            · exact h.fetchSeen.bad
            · exact .ite h.fetchSeen.need.wait h.fetchSeen.fetchSec

theorem State.Canon.fetch {b pc} (h : s.Canon) : (s.fetch b pc).Canon := by
  unfold State.fetch
  split
  · exact h.fetchVa
  · split
    · exact .ite h.word .away
    · exact .away

theorem State.Canon.takeWordFault {b g sp c f} (h : s.Canon) : SomeCanon (s.takeWordFault b g sp c f) :=
  .ite .none h.trapWord.some

theorem State.Canon.startRun {x} (h : s.Canon) : (s.startRun x).Canon :=
  .ite h (h.foldl fun _ _ h1 => h1.modSplit).modSplit.modCore

theorem State.Canon.beginSplit {x w} (h : s.Canon) : (s.beginSplit x w).Canon := h.modGang.modSplit.update

theorem State.Canon.runWord {d} (h : s.Canon) : NextCanon (runWord d s) := by
  unfold Machine.runWord
  split
  · exact h.exec
  · split
    · next e => exact (h.exec _ e).exec
    · exact h.exec
  · exact h.next

theorem State.Canon.issueWord {x w} (h : s.Canon) : NextCanon (s.issueWord x w) := by
  unfold State.issueWord
  extract_lets
  split
  · exact h.startRun.modSplit.next
  · extract_lets
    split
    · exact h.startRun.modCore.beginSplit.next
    · split
      · exact h.startRun.modCore.beginSplit.next
      · split
        · exact h.startRun.modCore.beginSplit.next
        · split
          · next e => exact .next (.of_some e (SomeCanon.of_bind
                (fun _ => h.startRun.modCore.beginSplit.takeWordFault)))
          · exact h.startRun.modCore.beginSplit.runWord

theorem State.Canon.issueSplit {x} (h : s.Canon) : NextCanon (s.issueSplit x) := by
  unfold State.issueSplit
  extract_lets
  split
  · next e1 =>
      split
      · next e => exact .issueWord (.of_snd e (.meetIssue (.of_word e1 h.fetch)))
      · next e => exact .next (.trapMany (.of_snd e (.meetIssue (.of_word e1 h.fetch))))
  · next e => exact .next (.modSplit (.of_wait e h.fetch))
  · exact .next (.ite h.departNow h.modSplit)
  · next e _ e => exact .next (.trapMany (.of_bad e h.fetch))

theorem State.Canon.beginSeq {bid w} (h : s.Canon) : (s.beginSeq bid w).Canon := h.modSeq.update

theorem State.Canon.issueSeq {b} (h : s.Canon) : NextCanon (s.issueSeq b) := by
  unfold State.issueSeq
  split
  · exact h.next
  · next e => exact .next (.modSeq (.of_wait e h.fetch))
  · next e _ e => exact .next (.trapSeq (.of_bad e h.fetch))
  · next e1 =>
      split
      · next e => exact .next (.trapSeq (.of_snd e (.meetIssue (.of_word e1 h.fetch))))
      · next e =>
          extract_lets s2
          have hs2 : s2.Canon := .beginSeq (.of_snd e (.meetIssue (.of_word e1 h.fetch)))
          split
          · exact hs2.next
          · split
            · exact hs2.trapSeqWord.next
            · extract_lets
              split
              · exact hs2.waitSeq.next
              · exact hs2.runWord

theorem State.Canon.calmSplits (h : s.Canon) : s.calmSplits.Canon := .ite h.update h
theorem State.Canon.poke (h : s.Canon) : s.poke.Canon := h.update.settleLevel.calmSplits.syncNet
theorem State.Canon.countYield (h : s.Canon) : s.countYield.Canon := .ite h.update h
theorem State.Canon.tick (h : s.Canon) : s.tick.Canon := h.countYield.update

theorem State.Canon.issue {x} (h : s.Canon) : NextCanon (s.issue x) := by
  unfold State.issue
  split
  · exact h.issueSplit
  · exact h.issueSeq

theorem State.Canon.turnFree (h : s.Canon) : NextCanon s.turnFree := by
  unfold State.turnFree
  split
  · exact h.update.runEvent
  · split
    · exact h.hop.next
    · split
      · exact h.update.runEvent
      · split
        · exact h.issue
        · exact h.tick.next

theorem State.Canon.turn (h : s.Canon) : NextCanon s.turn := by
  unfold State.turn
  split
  · exact h.turnFree
  · split
    · split
      · exact h.update.issue
      · exact h.update.next
    · split
      · exact .ite h.update.update.runEvent h.update.next
      · exact h.update.next
    · exact h.update.hop.next
    · exact .ite h.update.runEvent h.update.next
    · split
      · exact h.issue
      · exact .ite h.update.next h.tick.update.next

/-! ### The step -/

theorem State.Canon.step (h : s.Canon) : NextCanon (step s) := by
  unfold Machine.step
  split
  · next e => exact (h.turn _ e).poke.next
  · exact h.turn

end Sys2Proof.Machine

/-! ## The obligations -/

namespace Sys2Proof.Machine

/-- The address of every byte outside a written range lies below it or from its end on. -/
theorem outside_of_ne_add {x a n : Nat} (h : ∀ k < n, x ≠ a + k) : x < a ∨ a + n ≤ x := by
  by_contra hc
  have hx := h (x - a) (by omega)
  omega

theorem vlRd_vlWr (s : State) (die addr n v : Nat) : (s.vlWr die addr n v).vlRd die addr n = v % 256 ^ n :=
  Memory.readN_writeN s.vault (s.vkey die addr) n v

theorem byte_vault_vlWr_of_ne (s : State) (die addr n v : Nat) {x : Nat} (hx : ∀ k < n, x ≠ s.vkey die addr + k) :
    Memory.byte (s.vlWr die addr n v).vault x = Memory.byte s.vault x :=
  Memory.byte_writeN_ne s.vault _ n v x (outside_of_ne_add hx)

/-- Settles O28: R74, R80, by the read and the frame of `Memory.writeN` at the vault's key. -/
theorem vaultReadWrite : Obligations.VaultReadWrite :=
  fun s die addr n v _ => ⟨vlRd_vlWr s die addr n v, fun _ hx => byte_vault_vlWr_of_ne s die addr n v hx⟩

/-- Settles O27: entry 1, by the lemmas on the functions that `step` calls. -/
theorem stepKeepsMemory : Obligations.StepKeepsMemory :=
  fun s t h hst => State.Canon.step (s := s) h t hst

end Sys2Proof.Machine

/-! ## Engine operations begin, move bytes and complete

First what lists, memories and `State.modOp` give; then, for each of the steps `engineOpBegin`, `engineOpCompletion`, `copyEnginePull` and
`collectiveChunk`, which of its branches an operation takes that nothing holds, and the state that this branch leaves. A collective's
result (`State.collResult`) is brought to the form of a list of its bytes by place, of which a turn pulls the next piece. -/

namespace Sys2Proof.Machine

/-! ### Lists, memories and vaults -/

/-- Finding by what an update leaves as it was. -/
theorem find?_modWhere {α : Type _} (p q : α → Bool) (f : α → α) (hf : ∀ x, q (f x) = q x) (l : List α) :
    (modWhere p f l).find? q = (l.find? q).map fun x => if p x then f x else x := by
  have hq : (q ∘ fun x => if p x then f x else x) = q := by
    funext x
    simp only [Function.comp_apply]
    split
    · exact hf x
    · rfl
  rw [modWhere, List.find?_map, hq]

/-- A piece of a list given by its positions, each element with its position in the whole. -/
theorem positions_of_piece {α : Type _} (f : Nat → α) {total i m : Nat} (h : m ≤ total - i) :
    (((((List.range total).map f).drop i).take m).zipIdx).map (fun x => (i + x.2, x.1)) =
      (List.range m).map fun k => (i + k, f (i + k)) := by
  apply List.ext_getElem
  · simp; omega
  · intro k h1 h2
    simp

theorem bytesLE_bytes (m : Memory) (a n : Nat) : bytesLE (m.bytes a n) = m.readN a n := by
  induction n generalizing a with
  | zero => rfl
  | succ n ih =>
    have hshift : (List.range n).map ((fun k => m.byte (a + k)) ∘ Nat.succ) = m.bytes (a + 1) n :=
      List.map_congr_left fun k _ => by simp [Nat.add_comm, Nat.add_left_comm]
    rw [Memory.bytes, List.range_succ_eq_map, List.map_cons, List.map_map, hshift]
    simp [bytesLE, ih, Memory.readN]

theorem readN_lt (m : Memory) (a n : Nat) : m.readN a n < 256 ^ n := by
  induction n generalizing a with
  | zero => simp [Memory.readN]
  | succ n ih =>
    have h := ih (a + 1)
    have hb := (m.byte a).isLt
    simp only [Memory.readN, pow_succ]
    omega

theorem readN_div_mod (m : Memory) (a : Nat) {n k : Nat} (h : k < n) : m.readN a n / 256 ^ k % 256 = (m.byte (a + k)).toNat := by
  induction n generalizing a k with
  | zero => omega
  | succ n ih =>
    have hb := (m.byte a).isLt
    simp only [Memory.readN]
    cases k with
    | zero => simp; omega
    | succ k =>
      rw [pow_succ', ← Nat.div_div_eq_div_mul, show ((m.byte a).toNat + 256 * m.readN (a + 1) n) / 256 = m.readN (a + 1) n by omega,
        ih (a + 1) (by omega), Nat.add_right_comm, Nat.add_assoc]

theorem vkey_add (s : State) (die : Nat) {a n k : Nat} (h : a + n ≤ 2 ^ 28) (hk : k < n) : s.vkey die (a + k) = s.vkey die a + k := by
  simp only [State.vkey]
  omega

theorem vlRd_one (s : State) (die a : Nat) : s.vlRd die a 1 = (Memory.byte s.vault (s.vkey die a)).toNat := by
  simp [State.vlRd, Memory.readN]

theorem ofNat_vlRd_one (s : State) (die : Nat) {a n k : Nat} (h : a + n ≤ 2 ^ 28) (hk : k < n) :
    BitVec.ofNat 8 (s.vlRd die (a + k) 1) = Memory.byte s.vault (s.vkey die a + k) := by
  rw [vlRd_one, vkey_add s die h hk, BitVec.ofNat_toNat, BitVec.setWidth_eq]

/-- Vault bytes read one at a time make the number that they hold together. -/
theorem ofBytes_vlRd_one (s : State) (die : Nat) {a n : Nat} (h : a + n ≤ 2 ^ 28) :
    ofBytes ((List.range n).map fun k => BitVec.ofNat 8 (s.vlRd die (a + k) 1)) = s.vlRd die a n := by
  have hbytes : ((List.range n).map fun k => BitVec.ofNat 8 (s.vlRd die (a + k) 1)) = Memory.bytes s.vault (s.vkey die a) n :=
    List.map_congr_left fun k hk => ofNat_vlRd_one s die h (List.mem_range.mp hk)
  rw [hbytes, ofBytes, bytesLE_bytes, State.vlRd]

theorem leBytes_vlRd (s : State) (die : Nat) {a n : Nat} (h : a + n ≤ 2 ^ 28) :
    leBytes n (s.vlRd die a n) = (List.range n).map fun k => BitVec.ofNat 8 (s.vlRd die (a + k) 1) :=
  List.map_congr_left fun k hk => by
    have hk := List.mem_range.mp hk
    rw [State.vlRd, readN_div_mod _ _ hk, vlRd_one, vkey_add s die h hk]

/-- Numbers of one width laid out one after the other, by the place of each byte. -/
theorem flatMap_leBytes {e : Nat} (he : 0 < e) (g : Nat → Nat) (n : Nat) :
    (List.range n).flatMap (fun i => leBytes e (g i)) =
      (List.range (e * n)).map fun k => BitVec.ofNat 8 (g (k / e) / 256 ^ (k % e) % 256) := by
  induction n with
  | zero => rfl
  | succ n ih =>
    have hlast : (List.range e).map ((fun k => BitVec.ofNat 8 (g (k / e) / 256 ^ (k % e) % 256)) ∘ (e * n + ·)) = leBytes e (g n) :=
      List.map_congr_left fun k hk => by
        have hk := List.mem_range.mp hk
        simp [Nat.mul_add_div he, Nat.div_eq_of_lt hk, Nat.mod_eq_of_lt hk]
    rw [List.range_succ, List.flatMap_append, ih, Nat.mul_succ, List.range_add, List.map_append, List.map_map, hlast]
    simp

theorem vlRd_vaultPut (s : State) (die addr n v : Nat) : (s.vaultPut die addr n v).vlRd die addr n = v % 256 ^ n :=
  vlRd_vlWr s die addr n v

/-! ### The operations of a block -/

/-- What `State.modOp` makes of its block. -/
def Block.modOp (b : Block) (k : Ctx) (n : Nat) (f : EngOp → EngOp) : Block :=
  { b with ops := modWhere (fun x => x.ctx == k && x.num == n) f b.ops }

theorem State.modOp_eq (s : State) (i : Nat) (k : Ctx) (n : Nat) (f : EngOp → EngOp) :
    s.modOp i k n f = s.modBlk i fun b => b.modOp k n f := rfl

theorem State.blk_modOp (s : State) (i j : Nat) (k : Ctx) (n : Nat) (f : EngOp → EngOp) :
    (s.modOp i k n f).blk j = if j = i then (s.blk j).map fun b => b.modOp k n f else s.blk j :=
  s.blk_modBlk i j _ fun _ => rfl

@[simp] theorem State.modOp_mem (s : State) (i : Nat) (k : Ctx) (n : Nat) (f : EngOp → EngOp) : (s.modOp i k n f).mem = s.mem := rfl
@[simp] theorem State.modOp_vault (s : State) (i : Nat) (k : Ctx) (n : Nat) (f : EngOp → EngOp) : (s.modOp i k n f).vault = s.vault := rfl
@[simp] theorem State.modOp_work (s : State) (i : Nat) (k : Ctx) (n : Nat) (f : EngOp → EngOp) : (s.modOp i k n f).work = s.work := rfl

theorem Block.opOf_key {b : Block} {k : Ctx} {n : Nat} {op : EngOp} (h : b.opOf k n = some op) : op.ctx = k ∧ op.num = n := by
  simpa using List.find?_some h

theorem Block.opOf_modOp {b : Block} {k : Ctx} {n : Nat} {op : EngOp} (h : b.opOf k n = some op) (f : EngOp → EngOp)
    (hf : ∀ x, (f x).ctx = x.ctx ∧ (f x).num = x.num) : (b.modOp k n f).opOf k n = some (f op) := by
  obtain ⟨hk, hn⟩ := Block.opOf_key h
  rw [Block.opOf] at h
  rw [Block.opOf, Block.modOp, find?_modWhere _ _ f (fun x => by rw [(hf x).1, (hf x).2]), h]
  simp [hk, hn]

/-- The operation of a block with an identity. -/
def State.opAt (s : State) (i : Nat) (k : Ctx) (n : Nat) : Option EngOp := (s.blk i).bind fun b => b.opOf k n

theorem opAt_eq_some_iff {s : State} {i : Nat} {k : Ctx} {n : Nat} {op : EngOp} :
    s.opAt i k n = some op ↔ ∃ b, s.blk i = some b ∧ b.opOf k n = some op := Option.bind_eq_some_iff

theorem opAt_modOp {s : State} {i : Nat} {k : Ctx} {n : Nat} {op : EngOp} (h : s.opAt i k n = some op) (f : EngOp → EngOp)
    (hf : ∀ x, (f x).ctx = x.ctx ∧ (f x).num = x.num) : (s.modOp i k n f).opAt i k n = some (f op) := by
  obtain ⟨b, hb, hop⟩ := opAt_eq_some_iff.mp h
  exact opAt_eq_some_iff.mpr ⟨_, by rw [State.blk_modOp, if_pos rfl, hb]; rfl, Block.opOf_modOp hop f hf⟩

theorem opAt_modOp_ne (s : State) {i j : Nat} (h : j ≠ i) (k k' : Ctx) (n n' : Nat) (f : EngOp → EngOp) :
    (s.modOp i k n f).opAt j k' n' = s.opAt j k' n' := by
  rw [State.opAt, State.blk_modOp, if_neg h]; rfl

@[simp] theorem State.push_opAt (s : State) (l : List Event) (i : Nat) (k : Ctx) (n : Nat) : (s.push l).opAt i k n = s.opAt i k n := rfl

theorem opOf_of_oneOp {s : State} {i : Nat} {b : Block} {k : Ctx} {op : EngOp} (h : Terms.oneOp s i b k op) :
    b.opOf k op.num = some op := by
  obtain ⟨-, hops, hk, -⟩ := h
  simp [Block.opOf, hops, hk]

theorem modOp_of_oneOp {s : State} {i : Nat} {b : Block} {k : Ctx} {op : EngOp} (h : Terms.oneOp s i b k op) (f : EngOp → EngOp) :
    b.modOp k op.num f = { b with ops := [f op] } := by
  obtain ⟨-, hops, hk, -⟩ := h
  simp [Block.modOp, modWhere, hops, hk]

/-- The only operation of a block has none before it. -/
theorem not_orderHeld_of_oneOp {s : State} {i : Nat} {b : Block} {k : Ctx} {op : EngOp} (h : Terms.oneOp s i b k op) :
    b.orderHeld k op.num = false := by
  obtain ⟨-, hops, -, -⟩ := h
  simp [Block.orderHeld, hops]

/-- An update of one block that pushes steps of the device changes that block and the steps that are due. -/
theorem blockTo_modBlk_push {s : State} {i : Nat} {b : Block} (h : s.blk i = some b) (f : Block → Block) (hf : ∀ x, (f x).id = x.id)
    (l : List Event) : Terms.blockTo { s with work := s.work ++ l } ((s.modBlk b.id f).push l) b (f b) := by
  obtain rfl := State.blk_id h
  refine ⟨rfl, fun j hj => ?_, ?_⟩
  · show (s.modBlk b.id f).blk j = s.blk j
    rw [State.blk_modBlk s _ _ f hf, if_neg hj]
  · show (s.modBlk b.id f).blk b.id = some (f b)
    rw [State.blk_modBlk s _ _ f hf, if_pos rfl, h]; rfl

/-! ### Operations begin (R330) -/

/-- What an operation that nothing holds begins with, by its kind. -/
theorem execEngineOpBegin_copy {s : State} {i : Nat} {b : Block} {k : Ctx} {op : EngOp} {code : Nat} {o : CopyOp}
    (h : Terms.oneOp s i b k op) (hkind : op.kind = .copy code o) (hbegun : op.begun = false) (hstep : op.step = 0)
    (hhalt : b.halt = none) (hsaving : b.saving = false) (hheld : b.issueHeld op = false) :
    exec (.engineOpBegin i k op.num) s = .next (s.copyBegin b op code o) := by
  rw [exec_engineOpBegin, execEngineOpBegin]
  simp [h.1, opOf_of_oneOp h, not_orderHeld_of_oneOp h, h.2.2.2, hkind, hbegun, hstep, hhalt, hsaving, hheld]

theorem execEngineOpBegin_coll {s : State} {i : Nat} {b : Block} {op : EngOp} {code j : Nat} {o : CollOp}
    (h : Terms.oneOp s i b .coll op) (hkind : op.kind = .coll code o j) (hstep : op.step = 0)
    (hhalt : b.halt = none) (hsaving : b.saving = false) (hheld : b.issueHeld op = false) (hchk : s.collChk b op = none) :
    exec (.engineOpBegin i .coll op.num) s = .next (s.collBegin b op o) := by
  rw [exec_engineOpBegin, execEngineOpBegin]
  simp [h.1, opOf_of_oneOp h, not_orderHeld_of_oneOp h, h.2.2.2, hkind, hstep, hhalt, hsaving, hheld, hchk]

theorem copyBegin_of_plan {s : State} {b : Block} {op : EngOp} {code : Nat} {o : CopyOp} {p : CopyPlan}
    (hplan : s.copyPlan b code o op.q = .inl p) (hbar : o.bar = false) :
    s.copyBegin b op code o = (s.modOp b.id op.ctx op.num fun x => { x with begun := true }).push [.copyEnginePull b.core] := by
  simp [State.copyBegin, hplan, hbar]

theorem copy_begins {s : State} {i : Nat} {b : Block} {k : Ctx} {op : EngOp} {code : Nat} {o : CopyOp} {p : CopyPlan}
    (h : Terms.oneOp s i b k op) (hkind : op.kind = .copy code o) (hbegun : op.begun = false) (hstep : op.step = 0)
    (hhalt : b.halt = none) (hsaving : b.saving = false) (hheld : b.issueHeld op = false)
    (hplan : s.copyPlan b code o op.q = .inl p) (hbar : o.bar = false) :
    ∃ t, exec (.engineOpBegin i k op.num) s = .next t ∧
      Terms.blockTo { s with work := s.work ++ [.copyEnginePull b.core] } t b { b with ops := [{ op with begun := true }] } := by
  refine ⟨_, execEngineOpBegin_copy h hkind hbegun hstep hhalt hsaving hheld, ?_⟩
  rw [copyBegin_of_plan hplan hbar, ← modOp_of_oneOp h fun x => { x with begun := true }, h.2.2.1]
  exact blockTo_modBlk_push h.1 (fun x => x.modOp k op.num fun y => { y with begun := true }) (fun _ => rfl) _

/-- The members of a collective stay the members when one block changes and keeps its launch and its number. -/
theorem collMembers_modBlk (s : State) (i : Nat) (f : Block → Block) (hf : ∀ x, (f x).launch = x.launch ∧ (f x).num = x.num)
    (b : Block) (k : Nat) :
    (s.modBlk i f).collMembers b k = (s.collMembers b k).map (List.map fun x => if x.id == i then f x else x) := by
  have hfind : ∀ m, (s.modBlk i f).blocks.find? (fun x => x.launch == b.launch && x.num == m) =
      (s.blocks.find? fun x => x.launch == b.launch && x.num == m).map fun x => if x.id == i then f x else x :=
    fun m => find?_modWhere _ _ f (fun x => by rw [(hf x).1, (hf x).2]) _
  simp only [State.collMembers, hfind, ← List.map_filterMap, List.length_map]
  split <;> rfl

/-- Marking collectives as begun leaves a block's first collective the first. -/
theorem collHead_modOp_begun (b : Block) (n : Nat) :
    (b.modOp .coll n fun x => { x with begun := true }).collHead.map EngOp.num = b.collHead.map EngOp.num := by
  rw [Block.collHead, Block.modOp, find?_modWhere _ _ (fun x : EngOp => { x with begun := true }) (fun _ => rfl), Option.map_map]
  congr 1
  funext x
  simp only [Function.comp_apply]
  split <;> rfl

/-- The turns that the members of a collective are given. -/
def chunkTurns (l : List Block) : List Event := l.filterMap fun x => x.collHead.map fun y => Event.collectiveChunk x.id y.num

theorem chunkTurns_map {f : Block → Block} (hf : ∀ x, (f x).id = x.id ∧ (f x).collHead.map EngOp.num = x.collHead.map EngOp.num)
    (l : List Block) : chunkTurns (l.map f) = chunkTurns l := by
  rw [chunkTurns, List.filterMap_map]
  refine List.filterMap_congr fun x _ => ?_
  have hnum := congrArg (Option.map (Event.collectiveChunk x.id)) (hf x).2
  simpa [Function.comp_def, (hf x).1] using hnum

theorem collBegin_eq (s : State) (b : Block) (op : EngOp) (o : CollOp) :
    s.collBegin b op o = (s.modOp b.id .coll op.num fun x => { x with begun := true }).push
      (chunkTurns ((s.collMembers b o.lv.toNat).getD [])) := by
  have hturns : chunkTurns (((s.modOp b.id .coll op.num fun x => { x with begun := true }).collMembers b o.lv.toNat).getD []) =
      chunkTurns ((s.collMembers b o.lv.toNat).getD []) := by
    rw [State.modOp_eq, collMembers_modBlk _ _ (fun x => x.modOp .coll op.num fun y => { y with begun := true }) fun _ => ⟨rfl, rfl⟩]
    cases s.collMembers b o.lv.toNat with
    | none => rfl
    | some l =>
      refine chunkTurns_map (fun x => ?_) l
      split
      · exact ⟨rfl, collHead_modOp_begun x op.num⟩
      · exact ⟨rfl, rfl⟩
  rw [← hturns]; rfl

theorem coll_begins {s : State} {i : Nat} {b : Block} {op : EngOp} {code j : Nat} {o : CollOp}
    (h : Terms.oneOp s i b .coll op) (hkind : op.kind = .coll code o j) (hstep : op.step = 0)
    (hhalt : b.halt = none) (hsaving : b.saving = false) (hheld : b.issueHeld op = false) (hchk : s.collChk b op = none) :
    ∃ t, exec (.engineOpBegin i .coll op.num) s = .next t ∧
      Terms.blockTo { s with work := s.work ++ chunkTurns ((s.collMembers b o.lv.toNat).getD []) } t b
        { b with ops := [{ op with begun := true }] } := by
  refine ⟨_, execEngineOpBegin_coll h hkind hstep hhalt hsaving hheld hchk, ?_⟩
  rw [collBegin_eq, ← modOp_of_oneOp h fun x => { x with begun := true }]
  exact blockTo_modBlk_push h.1 (fun x => x.modOp .coll op.num fun y => { y with begun := true }) (fun _ => rfl) _

/-! ### Operations complete (R95, R337) -/

/-- A release that is complete changes nothing. -/
theorem releaseTo_eq_of_complete {s : State} {w : Issuer} {sc : Scope} {upto : Nat} (h : (s.releaseTo w sc upto).1 = true) :
    s.releaseTo w sc upto = (true, s) := by
  unfold State.releaseTo at h ⊢
  split_ifs at h ⊢
  rfl

theorem engRelease_eq_of_complete {s : State} {b : Block} {op : EngOp} (h : (s.engRelease b op).1 = true) :
    s.engRelease b op = (true, s) := by
  unfold State.engRelease State.tlRelease at h ⊢
  split
  · next e =>
    simp only [e] at h
    split_ifs at h ⊢
    · exact releaseTo_eq_of_complete h
    · rfl
  · rfl

/-- An operation with no store in a store path goes through the paths unchanged. -/
theorem engPath_eq_self {s : State} {i : Nat} {k : Ctx} {n : Nat} (h : ∀ x ∈ s.cores, ∀ e ∈ x.2.sp, e.eng ≠ some (i, k, n)) :
    s.engPath i k n = s := by
  have hnil : (s.cores.flatMap fun x => (x.2.sp.filter fun e => e.eng == some (i, k, n)).map fun e => (x.1, e)) = [] := by
    simpa using h
  rw [State.engPath, hnil]; rfl

theorem finish_next {t : Timeline} (h : t.extra = []) : t.finish (t.counter + 1) = { t with counter := t.counter + 1 } := by
  simp [Timeline.finish, Timeline.finish.go, h, addNew]

theorem sigSettle_of_nil {b : Block} (h : b.sigs = []) : b.sigSettle = b := by
  rw [Block.sigSettle, h]; rfl

/-- The number after the counter of a timeline that holds no later one completes: the counter comes to it. -/
theorem modTl_finish_next {b : Block} {k : Ctx} (h : (b.tlOf k).extra = []) :
    b.modTl k (fun t => t.finish ((b.tlOf k).counter + 1)) =
      { b with tl := b.tl.mapIdx fun n x => if n = Ctx.idx k then { x with counter := (b.tlOf k).counter + 1 } else x } := by
  rw [Block.modTl]
  congr 1
  apply List.ext_getElem?
  intro n
  rw [List.getElem?_mapIdx, List.getElem?_mapIdx]
  cases hx : b.tl[n]? with
  | none => rfl
  | some x =>
    by_cases hn : n = Ctx.idx k
    · have htl : b.tlOf k = x := by simp [Block.tlOf, ← hn, hx]
      rw [htl] at h ⊢
      simp [hn, finish_next h]
    · simp [hn]

/-- The update of a block when an operation of it completes. -/
def Block.engDone (b : Block) (k : Ctx) (n : Nat) : Block :=
  ({ (b.modTl k fun t => t.finish n) with ops := b.ops.filter fun x => !(x.ctx == k && x.num == n) } : Block).sigSettle

theorem Block.sigSettle_id (b : Block) : b.sigSettle.id = b.id := by
  refine List.foldlRecOn b.sigs _ (motive := fun x : Block => x.id = b.id) rfl fun x hx y _ => ?_
  dsimp only
  split
  · split
    · exact hx
    · exact hx
  · exact hx

@[simp] theorem Block.engDone_id (b : Block) (k : Ctx) (n : Nat) : (b.engDone k n).id = b.id := Block.sigSettle_id _

theorem Block.engDone_of_oneOp {s : State} {i : Nat} {b : Block} {k : Ctx} {op : EngOp} (h : Terms.oneOp s i b k op)
    (hnum : op.num = (b.tlOf k).counter + 1) (hextra : (b.tlOf k).extra = []) (hsigs : b.sigs = []) :
    b.engDone k op.num =
      { b with ops := [], tl := b.tl.mapIdx fun n x => if n = Ctx.idx k then { x with counter := op.num } else x } := by
  obtain ⟨-, hops, hk, -⟩ := h
  have hleft : (b.ops.filter fun x => !(x.ctx == k && x.num == (b.tlOf k).counter + 1)) = [] := by simp [hops, hk, hnum]
  rw [Block.engDone, hnum, modTl_finish_next hextra, hleft]
  exact sigSettle_of_nil hsigs

/-- What follows the completion of an operation: a leave that is idle will expire, and what is behind the operation may begin. -/
theorem State.engDone_eq {s : State} {i : Nat} {b : Block} (h : s.blk i = some b) (k : Ctx) (n : Nat) :
    s.engDone i k n =
      let t := s.modBlk i fun x => x.engDone k n
      let c := b.engDone k n
      (if (c.open' k).isEmpty && c.leaves.contains k then t.timer (t.gtime + 1000) (.leaveExpiry i k) else t).push
        (((c.ops.filter fun x => !x.begun && x.fault.isNone && (x.ctx == .matrix || x.ctx == .coll)).map fun x =>
          Event.engineOpBegin i x.ctx x.num) ++ if c.seq.ended then [.blockRetirement i] else []) := by
  have hblk : (s.modBlk i fun x => x.engDone k n).blk i = some (b.engDone k n) := by
    rw [State.blk_modBlk _ _ _ _ fun x => x.engDone_id k n, if_pos rfl, h]; rfl
  have hfold : ∀ x : Block, ({ (x.modTl k fun t => t.finish n) with
      ops := x.ops.filter fun y => !(y.ctx == k && y.num == n) } : Block).sigSettle = x.engDone k n := fun _ => rfl
  simp only [State.engDone, hfold, hblk]

theorem State.engDone_of_oneOp {s : State} {i : Nat} {b : Block} {k : Ctx} {op : EngOp} (h : Terms.oneOp s i b k op)
    (hnum : op.num = (b.tlOf k).counter + 1) (hextra : (b.tlOf k).extra = []) (hsigs : b.sigs = []) (hleaves : b.leaves = [])
    (hended : b.seq.ended = false) :
    s.engDone i k op.num = (s.modBlk i fun x => x.engDone k op.num).push [] := by
  rw [State.engDone_eq h.1, Block.engDone_of_oneOp h hnum hextra hsigs]
  simp [Block.open', hleaves, hended]

theorem operation_completes {s : State} {i : Nat} {b : Block} {k : Ctx} {op : EngOp} (h : Terms.oneOp s i b k op)
    (hstep : op.step = 1) (hposted : op.posted = 0) (hnum : op.num = (b.tlOf k).counter + 1) (hextra : (b.tlOf k).extra = [])
    (hsigs : b.sigs = []) (hleaves : b.leaves = []) (hended : b.seq.ended = false)
    (hpath : ∀ x ∈ s.cores, ∀ e ∈ x.2.sp, e.eng ≠ some (i, k, op.num)) (hrel : (s.engRelease b op).1 = true) :
    ∃ t, exec (.engineOpCompletion i k op.num) s = .next t ∧ Terms.blockTo s t b
      { b with ops := [], tl := b.tl.mapIdx fun n x => if n = Ctx.idx k then { x with counter := op.num } else x } := by
  have hexec : exec (.engineOpCompletion i k op.num) s = .next (s.engDone i k op.num) := by
    rw [exec_engineOpCompletion, execEngineOpCompletion]
    simp [engPath_eq_self hpath, h.1, opOf_of_oneOp h, h.2.2.2, hstep, hposted, engRelease_eq_of_complete hrel]
  refine ⟨_, hexec, ?_⟩
  rw [State.engDone_of_oneOp h hnum hextra hsigs hleaves hended, ← Block.engDone_of_oneOp h hnum hextra hsigs]
  have hto := blockTo_modBlk_push h.1 (fun x => x.engDone k op.num) (fun x => x.engDone_id k op.num) []
  rwa [List.append_nil, State.blk_id h.1] at hto

/-! ### Pulls (R24, R363) -/

/-- What the copy engine of a core finds as it turns: one notice for a block's vault, whose source lies in this device's vaults, and
nothing else to serve. -/
structure LonePull (s : State) (core : Nat) (n : Notice) (b : Block) : Prop where
  kicks : (s.core core).kicks = [n]
  pullIn : (s.core core).pullIn = []
  staged : (s.core core).staged = []
  copies : s.copiesReady core = []
  dst : s.dstBlock n = some b
  sdev : n.sdev = s.devNum
  sv : n.sv = true
  bar : n.bar = false
  chk : s.pullChk core b n = none
  kickWait : s.kickWait = []
  acc : s.accOf n.sender = none

/-- The bytes of a pull's piece stand in the vault of its core, those beside it as before. -/
def pulledPiece (s : State) (core : Nat) (n : Notice) : State :=
  let done := (s.core core).pullDone
  s.vaultPut (dieOf core) (n.dst + done) (min 4096 (n.len - done)) (s.vlRd n.sdie (n.src + done) (min 4096 (n.len - done)))

@[simp] theorem pulledPiece_core (s : State) (core c : Nat) (n : Notice) : (pulledPiece s core n).core c = s.core c := rfl
@[simp] theorem pulledPiece_mem (s : State) (core : Nat) (n : Notice) : (pulledPiece s core n).mem = s.mem := rfl
@[simp] theorem pulledPiece_blocks (s : State) (core : Nat) (n : Notice) : (pulledPiece s core n).blocks = s.blocks := rfl
@[simp] theorem pulledPiece_work (s : State) (core : Nat) (n : Notice) : (pulledPiece s core n).work = s.work := rfl
@[simp] theorem pulledPiece_copiesReady (s : State) (core c : Nat) (n : Notice) :
    (pulledPiece s core n).copiesReady c = s.copiesReady c := rfl
@[simp] theorem State.modCore_copiesReady (s : State) (core c : Nat) (f : Core → Core) :
    (s.modCore core f).copiesReady c = s.copiesReady c := rfl
@[simp] theorem State.modCore_vlRd (s : State) (core : Nat) (f : Core → Core) (die a n : Nat) :
    (s.modCore core f).vlRd die a n = s.vlRd die a n := rfl
@[simp] theorem State.push_vlRd (s : State) (l : List Event) (die a n : Nat) : (s.push l).vlRd die a n = s.vlRd die a n := rfl
@[simp] theorem State.push_work (s : State) (l : List Event) : (s.push l).work = s.work ++ l := rfl
@[simp] theorem State.core_push (s : State) (l : List Event) (c : Nat) : (s.push l).core c = s.core c := rfl

theorem pullNeeds_of_vault {s : State} {core : Nat} {n : Notice} (hdev : n.sdev = s.devNum) (hsv : n.sv = true) (a : Nat) :
    s.pullNeeds core n a = false := by
  simp [State.pullNeeds, hdev, hsv]

/-- A source in a vault is read there, byte by byte. -/
theorem ofBytes_pullByte {s : State} {core : Nat} {n : Notice} (hsv : n.sv = true) (hin : (s.core core).pullIn = []) {a m : Nat}
    (h : a + m ≤ 2 ^ 28) : ofBytes ((List.range m).map fun k => s.pullByte core n (a + k)) = s.vlRd n.sdie a m := by
  rw [← ofBytes_vlRd_one s n.sdie h]
  simp [State.pullByte, hin, hsv]

theorem kickDone_of_none {s : State} {n : Notice} (hdev : n.sdev = s.devNum) (hwait : s.kickWait = []) (hacc : s.accOf n.sender = none) :
    s.kickDone n = s := by
  simp [State.kickDone, hdev, hwait, hacc]

/-- A turn of a pull that nothing holds moves its piece; the last piece takes the notice from the queue. -/
theorem pullGo_of_lonePull {s : State} {core : Nat} {n : Notice} {b : Block} (h : LonePull s core n b) (hsrc : n.src + n.len ≤ 2 ^ 28)
    (hmore : (s.core core).pullDone < n.len) :
    s.pullGo core =
      (if (s.core core).pullDone + 4096 < n.len then
        (pulledPiece s core n).modCore core fun c => { c with pullDone := (s.core core).pullDone + 4096 }
      else (pulledPiece s core n).modCore core Core.dropKick, true) := by
  have hbytes := ofBytes_pullByte (s := s) (core := core) (n := n) h.sv h.pullIn
    (a := n.src + (s.core core).pullDone) (m := min 4096 (n.len - (s.core core).pullDone)) (by omega)
  have hneeds : ∀ l : List Nat, l.filter (s.pullNeeds core n) = [] := fun l =>
    List.filter_eq_nil_iff.mpr fun a _ => by simp [pullNeeds_of_vault h.sdev h.sv a]
  have hdone : ((pulledPiece s core n).modCore core Core.dropKick).kickDone n = (pulledPiece s core n).modCore core Core.dropKick :=
    kickDone_of_none h.sdev h.kickWait h.acc
  simp only [State.pullGo, h.kicks, h.dst, hneeds, h.chk, h.sv, h.bar, if_true, hbytes, List.isEmpty_nil, Bool.not_true,
    Bool.false_eq_true, if_false]
  by_cases hlast : (s.core core).pullDone + 4096 < n.len
  · rw [if_pos (by omega), if_pos hlast, show min 4096 (n.len - (s.core core).pullDone) = 4096 by omega]
    simp [pulledPiece, show min 4096 (n.len - (s.core core).pullDone) = 4096 by omega]
  · rw [if_neg (by omega), if_neg hlast]
    exact congrArg (·, true) hdone

/-- A core's copy engine has served a pull: the next turn is that of its tile copies. -/
def pullServed (t : State) (core : Nat) : State := t.modCore core fun c => { c with pullTurn := false }

/-- A copy engine with nothing but a pull to serve serves it, whichever queue has the turn, and turns again while there is more. -/
theorem execCopyEnginePull_of_pull {s t : State} {core : Nat} (hstaged : (s.core core).staged = []) (hcopies : s.copiesReady core = [])
    (hpull : s.pullGo core = (t, true)) :
    exec (.copyEnginePull core) s = .next
      (if !((pullServed t core).core core).kicks.isEmpty || !((pullServed t core).core core).staged.isEmpty ||
          !((pullServed t core).copiesReady core).isEmpty then (pullServed t core).push [.copyEnginePull core]
       else pullServed t core) := by
  have hcopy : s.copyGo core = (s, false) := by simp [State.copyGo, hcopies]
  have hrec : s.recFirst core = false := by simp [State.recFirst, hstaged]
  rw [exec_copyEnginePull, execCopyEnginePull]
  cases (s.core core).pullTurn with
  | true => simp [hrec, hpull, pullServed]
  | false => simp [hcopy, hrec, hpull, pullServed]

theorem pull_moves {s : State} {core : Nat} {n : Notice} {b : Block} (h : LonePull s core n b) (hsrc : n.src + n.len ≤ 2 ^ 28) :
    let done := (s.core core).pullDone
    let piece := min 4096 (n.len - done)
    let key := s.vkey (dieOf core) (n.dst + done)
    done < n.len → ∃ t, exec (.copyEnginePull core) s = .next t ∧
      t.vlRd (dieOf core) (n.dst + done) piece = s.vlRd n.sdie (n.src + done) piece ∧ t.mem = s.mem ∧ t.blocks = s.blocks ∧
      (∀ x, x < key ∨ key + piece ≤ x → Memory.byte t.vault x = Memory.byte s.vault x) ∧
      (n.len ≤ done + 4096 → (t.core core).kicks = [] ∧ t.work = s.work) ∧
      (done + 4096 < n.len → (t.core core).kicks = [n] ∧ (t.core core).pullDone = done + 4096 ∧
        t.work = s.work ++ [.copyEnginePull core]) := by
  intro done piece key hmore
  have hexec := execCopyEnginePull_of_pull h.staged h.copies (pullGo_of_lonePull h hsrc hmore)
  have hread : (pulledPiece s core n).vlRd (dieOf core) (n.dst + done) piece = s.vlRd n.sdie (n.src + done) piece := by
    rw [pulledPiece, vlRd_vaultPut]
    exact Nat.mod_eq_of_lt (readN_lt _ _ _)
  have hframe : ∀ x, x < key ∨ key + piece ≤ x → Memory.byte (pulledPiece s core n).vault x = Memory.byte s.vault x :=
    fun x hx => Memory.byte_writeN_ne s.vault key piece _ x hx
  by_cases hlast : done + 4096 < n.len
  · rw [if_pos hlast, if_pos (by simp [pullServed, State.core_modCore, h.kicks])] at hexec
    exact ⟨_, hexec, by simpa [pullServed] using hread, by simp [pullServed], by simp [pullServed], by simpa [pullServed] using hframe,
      fun hle => by omega, fun _ => by simp [pullServed, State.core_modCore, h.kicks, done]⟩
  · rw [if_neg hlast, if_neg (by simp [pullServed, State.core_modCore, Core.dropKick, h.kicks, h.staged, h.copies])] at hexec
    exact ⟨_, hexec, by simpa [pullServed] using hread, by simp [pullServed], by simp [pullServed], by simpa [pullServed] using hframe,
      fun _ => by simp [pullServed, State.core_modCore, Core.dropKick, h.kicks], fun hlt => absurd hlt hlast⟩

/-! ### Collectives of two members (R147, R148, R205, R339) -/

theorem collBytes_of_key {x y : EngOp} {code j : Nat} {o : CollOp} (hx : x.kind = .coll code o j) (hcode : code ≠ 0)
    (hkey : collKey y = collKey x) : collBytes y = collBytes x := by
  cases hy : y.kind with
  | coll code' o' j' =>
    simp only [collKey, hx, hy] at hkey
    have hcode : code' = code := congrArg (·.1) hkey
    have hty : o'.ty = o.ty := congrArg (·.2.2.1) hkey
    have hcount : fld (y.q.getD 2 0) 0 24 = fld (x.q.getD 2 0) 0 24 := congrArg (·.2.2.2.1) hkey
    simp only [collBytes, hx, hy, hcode, hty, hcount]
  | copy => simp [collKey, hx, hy, Ne.symm hcode] at hkey
  | mat => simp [collKey, hx, hy, Ne.symm hcode] at hkey
  | pull => simp [collKey, hx, hy, Ne.symm hcode] at hkey

theorem key_eq_of_not_collBad {b y : Block} {op oy : EngOp} (h : collBad [(b, op), (y, oy)] = false) : collKey oy = collKey op := by
  simp only [collBad, Bool.or_eq_false_iff, List.any_cons, List.any_nil, bne_eq_false_iff_eq] at h
  exact h.1.1

/-- The member 0 is the root of a CBCAST: every buffer receives the bytes of its buffer. -/
theorem collResult_bcast {s : State} {b : Block} {op : EngOp} {o : CollOp} {j : Nat} {r : List (Block × EngOp)}
    (hkind : op.kind = .coll 0x206 o j) (hroot : (op.q.getD 2 0).toNat / 2 ^ 32 % 2 ^ 16 = 0) (hfit : collBuf op + collBytes op ≤ 2 ^ 28) :
    s.collResult ((b, op) :: r) =
      (List.range (collBytes op)).map fun k => BitVec.ofNat 8 (s.vlRd (dieOf b.core) (collBuf op + k) 1) := by
  have hzero : fld (op.q.getD 2 0) 32 16 = 0 := hroot
  simp only [State.collResult, hkind, beq_self_eq_true, if_true, hzero, List.getElem?_cons_zero]
  exact leBytes_vlRd s _ hfit

/-- A CREDUCE of two members adds 32-bit words place by place. -/
theorem collResult_sum {s : State} {b y : Block} {op oy : EngOp} {o : CollOp} {j : Nat}
    (hkind : op.kind = .coll 0x205 o j) (hty : o.ty = .u32) (hop : o.op = 0) :
    s.collResult [(b, op), (y, oy)] =
      (List.range (4 * fld (op.q.getD 2 0) 0 24)).map fun k => BitVec.ofNat 8
        ((s.vlRd (dieOf b.core) (collBuf op + 4 * (k / 4)) 4 + s.vlRd (dieOf y.core) (collBuf oy + 4 * (k / 4)) 4) % 2 ^ 32 /
          256 ^ (k % 4) % 256) := by
  have hdepth : treeDepth 2 = 1 := by decide
  rw [← flatMap_leBytes (by decide : 0 < 4) fun i =>
    (s.vlRd (dieOf b.core) (collBuf op + 4 * i) 4 + s.vlRd (dieOf y.core) (collBuf oy + 4 * i) 4) % 2 ^ 32]
  simp [State.collResult, hkind, redSize, hty, hop, redNode, hdepth, reduxTree, reduxLevel]

/-- The bytes that a member pulls next, each with its place in the result (R24). -/
def nextPiece (op : EngOp) (total : Nat) (byte : Nat → Nat) : List (Nat × Byte) :=
  (List.range (min 4096 (total - op.moved))).map fun k => (op.moved + k, BitVec.ofNat 8 (byte (op.moved + k)))

/-- A member's operation once it has pulled its next piece. -/
def EngOp.pulled (op : EngOp) (total : Nat) (byte : Nat → Nat) : EngOp :=
  { op with moved := op.moved + min 4096 (total - op.moved), inbox := op.inbox ++ nextPiece op total byte }

/-- Two matched collectives, the first of which has a piece of `total` bytes to pull. -/
structure PairPull (s : State) (b : Block) (op : EngOp) (y : Block) (oy : EngOp) (total : Nat) (byte : Nat → Nat) : Prop where
  blk : s.blk b.id = some b
  opOf : b.opOf .coll op.num = some op
  other : y.id ≠ b.id
  written : op.written = 0
  bytes : collBytes op = total
  bytesOther : collBytes oy = total
  result : s.collResult [(b, op), (y, oy)] = (List.range total).map fun k => BitVec.ofNat 8 (byte k)

theorem pieces_of_result {s : State} {b : Block} {op : EngOp} {y : Block} {oy : EngOp} {total : Nat} {byte : Nat → Nat}
    (h : PairPull s b op y oy total byte) :
    ((((s.collResult [(b, op), (y, oy)]).drop op.moved).take (min 4096 (collBytes op - op.moved))).zipIdx).map
      (fun x => (op.moved + x.2, x.1)) = nextPiece op total byte := by
  rw [h.result, h.bytes]
  exact positions_of_piece (fun k => BitVec.ofNat 8 (byte k)) (by omega)

/-- The state after a member's pull of a piece. -/
def pullPiece (s : State) (b : Block) (op : EngOp) (total : Nat) (byte : Nat → Nat) : State :=
  s.modOp b.id .coll op.num fun x =>
    { x with inbox := x.inbox ++ nextPiece op total byte, moved := x.moved + min 4096 (total - op.moved) }

theorem collPull_pair {s : State} {b : Block} {op : EngOp} {y : Block} {oy : EngOp} {total : Nat} {byte : Nat → Nat}
    (h : PairPull s b op y oy total byte) :
    s.collPull b op [(b, op), (y, oy)] =
      if op.moved + min 4096 (total - op.moved) < total then (pullPiece s b op total byte).push [.collectiveChunk b.id op.num]
      else if oy.moved = total then
        ((((pullPiece s b op total byte).modOp b.id .coll op.num fun x => { x with written := 1 }).push [.collectiveChunk b.id op.num]).modOp
          y.id .coll oy.num fun x => { x with written := 1 }).push [.collectiveChunk y.id oy.num]
      else pullPiece s b op total byte := by
  simp only [State.collPull, pieces_of_result h]
  simp [h.bytes, h.bytesOther, h.other, pullPiece]

/-- What a turn of a member leaves: it has pulled its next piece, and once both members have the whole, both are to write. -/
def ChunkPulled (s : State) (i : Nat) (op : EngOp) (y : Block) (oy : EngOp) (total : Nat) (byte : Nat → Nat) : Prop :=
  let m := min 4096 (total - op.moved)
  ∃ t b' op', exec (.collectiveChunk i op.num) s = .next t ∧ t.mem = s.mem ∧ t.vault = s.vault ∧ t.blk i = some b' ∧
    b'.opOf .coll op.num = some op' ∧
    op' = { op.pulled total byte with written := if total ≤ op.moved + m ∧ oy.moved = total then 1 else 0 } ∧
    (op.moved + m < total ∨ oy.moved = total → .collectiveChunk i op.num ∈ t.work) ∧
    (total ≤ op.moved + m → oy.moved = total → .collectiveChunk y.id oy.num ∈ t.work)

theorem chunkPulled_of_pairPull {s : State} {b : Block} {op : EngOp} {y : Block} {oy : EngOp} {total : Nat} {byte : Nat → Nat}
    (h : PairPull s b op y oy total byte)
    (hexec : exec (.collectiveChunk b.id op.num) s = .next (s.collPull b op [(b, op), (y, oy)])) :
    ChunkPulled s b.id op y oy total byte := by
  have hat : (pullPiece s b op total byte).opAt b.id .coll op.num = some (op.pulled total byte) :=
    opAt_modOp (opAt_eq_some_iff.mpr ⟨b, h.blk, h.opOf⟩) _ fun _ => ⟨rfl, rfl⟩
  have hkeep : op.pulled total byte = { op.pulled total byte with written := 0 } := by
    rw [← h.written]; rfl
  rw [collPull_pair h] at hexec
  by_cases hmore : op.moved + min 4096 (total - op.moved) < total
  · rw [if_pos hmore] at hexec
    obtain ⟨b', hb', hop'⟩ := opAt_eq_some_iff.mp hat
    refine ⟨_, b', _, hexec, rfl, rfl, hb', hop', ?_, fun _ => by simp, fun hall => absurd hmore (by omega)⟩
    rw [if_neg (by omega)]; exact hkeep
  · rw [if_neg hmore] at hexec
    by_cases hother : oy.moved = total
    · rw [if_pos hother] at hexec
      have hwrite : ((((pullPiece s b op total byte).modOp b.id .coll op.num fun x => { x with written := 1 }).push
          [.collectiveChunk b.id op.num]).modOp y.id .coll oy.num fun x => { x with written := 1 }).opAt b.id .coll op.num =
          some { op.pulled total byte with written := 1 } := by
        rw [opAt_modOp_ne _ h.other.symm, State.push_opAt]
        exact opAt_modOp hat _ fun _ => ⟨rfl, rfl⟩
      obtain ⟨b', hb', hop'⟩ := opAt_eq_some_iff.mp hwrite
      refine ⟨_, b', _, hexec, rfl, rfl, hb', hop', ?_, fun _ => by simp, fun _ _ => by simp⟩
      rw [if_pos ⟨by omega, hother⟩]
    · rw [if_neg hother] at hexec
      obtain ⟨b', hb', hop'⟩ := opAt_eq_some_iff.mp hat
      refine ⟨_, b', _, hexec, rfl, rfl, hb', hop', ?_, fun hor => ?_, fun _ heq => absurd heq hother⟩
      · rw [if_neg fun hand => hother hand.2]; exact hkeep
      · exact absurd hor (by omega)

/-- A member whose matched collective has begun everywhere, and is not to write yet, pulls. -/
theorem execCollectiveChunk_of_matched {s : State} {b y : Block} {op oy : EngOp} {code j : Nat} {o : CollOp} (hb : s.blk b.id = some b)
    (hop : b.opOf .coll op.num = some op) (hkind : op.kind = .coll code o j) (hmembers : s.collMembers b o.lv.toNat = some [b, y])
    (hops : collOps [b, y] o.lv.toNat j = some [(b, op), (y, oy)]) (hbegun : op.begun = true) (hbeguny : oy.begun = true)
    (hwritten : op.written = 0) (hgood : collBad [(b, op), (y, oy)] = false) :
    exec (.collectiveChunk b.id op.num) s = .next (s.collPull b op [(b, op), (y, oy)]) := by
  rw [exec_collectiveChunk, execCollectiveChunk]
  simp [hb, hop, hkind, hmembers, hops, hbegun, hbeguny, hwritten, hgood]

/-- Two members whose matched collectives have begun: each can pull. -/
theorem members_pull {s : State} {i : Nat} {b y : Block} {op oy : EngOp} {code j : Nat} {o : CollOp} (hb : s.blk i = some b)
    (hop : b.opOf .coll op.num = some op) (hkind : op.kind = .coll code o j) (hmembers : s.collMembers b o.lv.toNat = some [b, y])
    (hne : y.id ≠ i) (hops : collOps [b, y] o.lv.toNat j = some [(b, op), (y, oy)]) (hbegun : op.begun = true)
    (hbeguny : oy.begun = true) (hwritten : op.written = 0) (hgood : collBad [(b, op), (y, oy)] = false) (hcode : code ≠ 0)
    {byte : Nat → Nat}
    (hresult : s.collResult [(b, op), (y, oy)] = (List.range (collBytes op)).map fun k => BitVec.ofNat 8 (byte k)) :
    ChunkPulled s i op y oy (collBytes op) byte := by
  obtain rfl := State.blk_id hb
  refine chunkPulled_of_pairPull ⟨hb, hop, hne, hwritten, rfl, ?_, hresult⟩
    (execCollectiveChunk_of_matched hb hop hkind hmembers hops hbegun hbeguny hwritten hgood)
  exact collBytes_of_key hkind hcode (key_eq_of_not_collBad hgood)

/-! ### A member writes what it has pulled (R148, R339) -/

theorem execCollectiveChunk_of_written {s : State} {i : Nat} {b : Block} {op : EngOp} {code j : Nat} {o : CollOp} (hb : s.blk i = some b)
    (hop : b.opOf .coll op.num = some op) (hkind : op.kind = .coll code o j) (hwritten : op.written = 1) (hstep : op.step = 0)
    (hfault : op.fault = none) : exec (.collectiveChunk i op.num) s = .next (s.collWrite b op) := by
  rw [exec_collectiveChunk, execCollectiveChunk]
  simp [hb, hop, hkind, hwritten, hstep, hfault]

/-- A byte of a vault after a list of bytes was written there. -/
theorem vlRd_vlWrBytes (s : State) (die : Nat) {a k : Nat} {l : List Byte} (h : a + l.length ≤ 2 ^ 28) (hk : k < l.length) :
    (s.vlWrBytes die a l).vlRd die (a + k) 1 = l[k].toNat := by
  have hkey : (s.vlWrBytes die a l).vkey die (a + k) = s.vkey die a + k := vkey_add s die h hk
  rw [vlRd_one, hkey]
  exact congrArg BitVec.toNat (Memory.byte_writeBytes s.vault (s.vkey die a) l k hk)

theorem member_writes {s : State} {i : Nat} {b : Block} {op : EngOp} {code j : Nat} {o : CollOp} (hb : s.blk i = some b)
    (hop : b.opOf .coll op.num = some op) (hkind : op.kind = .coll code o j) (hwritten : op.written = 1) (hstep : op.step = 0)
    (hfault : op.fault = none) (hfit : collBuf op + op.inbox.length ≤ 2 ^ 28) :
    ∃ t b', exec (.collectiveChunk i op.num) s = .next t ∧ t.mem = s.mem ∧ t.blk i = some b' ∧
      b'.opOf .coll op.num = some { op with step := 1, inbox := [] } ∧ t.work = s.work ++ [.engineOpCompletion i .coll op.num] ∧
      (∀ k x, op.inbox[k]? = some x → t.vlRd (dieOf b.core) (collBuf op + k) 1 = x.2.toNat) ∧
      ∀ k, k < s.vkey (dieOf b.core) (collBuf op) ∨ s.vkey (dieOf b.core) (collBuf op) + op.inbox.length ≤ k →
        Memory.byte t.vault k = Memory.byte s.vault k := by
  have hexec := execCollectiveChunk_of_written hb hop hkind hwritten hstep hfault
  obtain rfl := State.blk_id hb
  obtain ⟨b', hb', hop'⟩ := opAt_eq_some_iff.mp
    (opAt_modOp (s := s.vlWrBytes (dieOf b.core) (collBuf op) (op.inbox.map (·.2))) (opAt_eq_some_iff.mpr ⟨b, hb, hop⟩)
      (fun x => { x with step := 1, inbox := [] }) fun _ => ⟨rfl, rfl⟩)
  refine ⟨_, b', hexec, rfl, hb', hop', rfl, fun k x hx => ?_, fun k hk => ?_⟩
  · obtain ⟨hlt, hget⟩ := List.getElem?_eq_some_iff.mp hx
    have hread := vlRd_vlWrBytes s (dieOf b.core) (a := collBuf op) (k := k) (l := op.inbox.map (·.2)) (by simpa using hfit)
      (by simpa using hlt)
    rw [List.getElem_map, hget] at hread
    exact hread
  · exact Memory.byte_writeBytes_ne _ _ _ _ (by simpa using hk)

/-! ### The obligation -/

theorem fld_zero (v : DWord) (n : Nat) : fld v 0 n = v.toNat % 2 ^ n := by
  rw [fld, pow_zero, Nat.div_one]

/-- Settles O60: R24, R95, R147, R148, R205, R330, R337, R339, R363. That a member writes only once both have pulled the whole, and that a
turn moves up to 4 KiB, are the model's choice (entry 22). -/
theorem engineSteps : Obligations.EngineSteps := by
  intro s
  refine ⟨?_, ?_, ?_, ?_, ?_, ?_⟩
  · intro i b k op code o p h _ hkind hbegun hstep hhalt hsaving hheld hplan hbar
    exact copy_begins h hkind hbegun hstep hhalt hsaving hheld hplan hbar
  · intro i b op code o j h hkind hstep hhalt hsaving hheld hchk
    exact coll_begins h hkind hstep hhalt hsaving hheld hchk
  · intro i b k op h hstep hposted hnum hextra hsigs hleaves hended hpath hrel
    exact operation_completes h hstep hposted hnum hextra hsigs hleaves hended hpath hrel
  · intro core n b hkicks hpullIn hstaged hcopies hdst hsdev hsv hbar hchk hwait hacc hsrc
    exact pull_moves ⟨hkicks, hpullIn, hstaged, hcopies, hdst, hsdev, hsv, hbar, hchk, hwait, hacc⟩ hsrc
  · intro i b op y oy code o j hb hop hkind hmembers hne hops hbegun hbeguny hwritten hgood n buf d e pulled
    have hbuf : ∀ x : EngOp, collBuf x = buf x := fun x => fld_zero _ _
    refine ⟨fun hcode hroot hfit => ?_, fun hcode hty hsum _ _ => ?_⟩
    · subst hcode
      have hcount : collBytes op = n := by simp [collBytes, hkind, fld_zero, n]
      have hpull := members_pull hb hop hkind hmembers hne hops hbegun hbeguny hwritten hgood (by decide)
        (collResult_bcast hkind hroot (by rw [hcount, hbuf]; exact hfit))
      simp only [hcount, hbuf] at hpull
      exact hpull
    · subst hcode
      have hcount : collBytes op = 4 * n := by simp [collBytes, hkind, redSize, hty, fld_zero, n, Nat.mul_comm]
      have hresult := collResult_sum (s := s) (b := b) (y := y) (oy := oy) hkind hty hsum
      rw [fld_zero] at hresult
      have hpull := members_pull hb hop hkind hmembers hne hops hbegun hbeguny hwritten hgood (by decide) (hcount ▸ hresult)
      simp only [hcount, hbuf] at hpull
      exact hpull
  · intro i b op code o j hb hop hkind hwritten hstep hfault buf key hfit
    have hbuf : collBuf op = buf := fld_zero _ _
    have hwrite := member_writes hb hop hkind hwritten hstep hfault (by rw [hbuf]; exact hfit)
    rw [hbuf] at hwrite
    exact hwrite

end Sys2Proof.Machine

/-! ## Words of the lane stream that move, part, join and retire

What a word does is stated over the slices of its split: `wordDone` says what each member becomes. A word that changes its members and
ends normally is `wordDone_finish`; a word that goes elsewhere than to the next word is a jump of each slice (`jumpSplit_done`). -/

namespace Sys2Proof.Machine

/-! ### The member slices of a split -/

theorem mem_memberSlices {g : Gang} {sp : Split} {sl : Slice} :
    sl ∈ memberSlices g sp ↔ sl ∈ g.slices ∧ sp.slices.contains sl.num = true := List.mem_filter

theorem Gang.mem_of_slice {g : Gang} {k : Nat} {sl : Slice} (h : g.slice k = some sl) : sl ∈ g.slices := List.mem_of_find?_eq_some h

/-- What a change does to the slices of the gang that changes may be used to say it otherwise. -/
theorem onlyGang_mono_mem {s t : State} {b : Block} {g : Gang} {sp : Split} (hi : Issues s b g sp) {f f' : Slice → Slice → Prop}
    (h : onlyGang s t b.id g.num f) (hf : ∀ sl, g.slice sl.num = some sl → ∀ sl', f sl sl' → f' sl sl') : onlyGang s t b.id g.num f' := by
  obtain ⟨hstate, hcore, hothers, hblock⟩ := h
  refine ⟨hstate, hcore, hothers, fun b0 hb0 => ?_⟩
  obtain rfl : b = b0 := Option.some.inj (hi.blk.symm.trans hb0)
  obtain ⟨b', hb', hfields, hgangs, hgang⟩ := hblock b hb0
  refine ⟨b', hb', hfields, hgangs, fun g0 hg0 => ?_⟩
  obtain rfl : g = g0 := Option.some.inj (hi.gang.symm.trans hg0)
  obtain ⟨g', hg', hgfields, hnone, hsome⟩ := hgang g hg0
  refine ⟨g', hg', hgfields, hnone, fun k sl hk => ?_⟩
  obtain ⟨sl', hsl', hrel⟩ := hsome k sl hk
  exact ⟨sl', hsl', hf sl ((Gang.slice_num hk).symm ▸ hk) sl' hrel⟩

theorem wordDone_mono_mem {s t : State} {b : Block} {g : Gang} {sp : Split} (hi : Issues s b g sp) {f f' : Slice → Slice → Prop}
    (h : wordDone s t b g sp f) (hf : ∀ sl ∈ memberSlices g sp, g.slice sl.num = some sl → ∀ sl', f sl sl' → f' sl sl') : wordDone s t b g sp f' :=
  onlyGang_mono_mem hi h fun sl hsl sl' hrel => by
    by_cases hc : sp.slices.contains sl.num = true
    · simp only [hc, if_true] at hrel ⊢
      exact hf sl (mem_memberSlices.mpr ⟨Gang.mem_of_slice hsl, hc⟩) hsl sl' hrel
    · simp only [hc] at hrel ⊢
      exact hrel

/-- The end of a word that leaves no result: the program counter alone. -/
theorem became_went {c : Ctl} (x : Slice) : Terms.became c x (went c (nextPc x.pc) x) := ⟨wentOn_went c (nextPc x.pc) x x.pend, went_pend ..⟩

/-! ### Changing lanes one by one -/

/-- A slice with its lanes changed. -/
def Slice.eachLane (sl : Slice) (h : Nat → Lane → Lane) (l : List Nat) : Slice := l.foldl (fun x j => x.modLane j (h j)) sl

theorem Slice.eachLane_eq (sl : Slice) (h : Nat → Lane → Lane) (l : List Nat) :
    sl.eachLane h l = { sl with lanes := (sl.eachLane h l).lanes } := by
  induction l generalizing sl with
  | nil => rfl
  | cons j r ih =>
    show (sl.modLane j (h j)).eachLane h r = _
    rw [ih]
    rfl

theorem Slice.lanes_length_eachLane (sl : Slice) (h : Nat → Lane → Lane) (l : List Nat) :
    (sl.eachLane h l).lanes.length = sl.lanes.length := by
  induction l generalizing sl with
  | nil => rfl
  | cons j r ih => exact (ih (sl.modLane j (h j))).trans (by simp [Slice.modLane])

theorem Slice.lane_eachLane (sl : Slice) (h : Nat → Lane → Lane) {l : List Nat} (hd : l.Nodup) (hlt : ∀ j ∈ l, j < sl.lanes.length) (i : Nat) :
    (sl.eachLane h l).lane i = if i ∈ l then h i (sl.lane i) else sl.lane i := by
  induction l generalizing sl with
  | nil => rfl
  | cons j r ih =>
    obtain ⟨hj, hr⟩ := List.nodup_cons.mp hd
    have hlen : (sl.modLane j (h j)).lanes.length = sl.lanes.length := by simp [Slice.modLane]
    show ((sl.modLane j (h j)).eachLane h r).lane i = _
    rw [ih (sl.modLane j (h j)) hr fun k hk => hlen ▸ hlt k (List.mem_cons_of_mem j hk), Slice.lane_modLane]
    by_cases hij : i = j
    · subst hij
      simp [hj, hlt i List.mem_cons_self]
    · simp [hij]

theorem Slice.lt_lanes_of_live {sl : Slice} {j : Nat} (h : j ∈ sl.live) : j < sl.lanes.length := by
  have hl := (List.mem_filter.mp h).2
  by_contra hc
  rw [List.getElem?_eq_none (by omega)] at hl
  exact Bool.false_ne_true hl

theorem Slice.live_nodup (sl : Slice) : sl.live.Nodup := List.nodup_range.filter _

/-! ### Divergence words (R52, R273) -/

theorem mem_divLanes {sl : Slice} {j : Nat} : j ∈ divLanes sl ↔ Terms.counted sl j := by
  unfold divLanes Terms.counted
  cases hf : sl.frozen with
  | true => simp
  | false =>
    cases hm : sl.execMask with
    | none => simp
    | some x =>
      obtain ⟨l, pc⟩ := x
      simp only [Bool.false_eq_true, if_false, List.mem_filter, Bool.or_eq_true, bne_iff_ne, List.contains_iff_mem, true_and,
        Option.some.injEq]
      exact and_congr_right fun _ => ⟨fun h l' pc' e hpc => by cases e; exact h.resolve_left (not_not_intro hpc),
        fun h => (em (pc = sl.pc)).elim (fun e => .inr (h l pc rfl e)) .inl⟩

theorem divLanes_nodup (sl : Slice) : (divLanes sl).Nodup := by
  unfold divLanes
  split
  · exact List.nodup_nil
  · exact sl.live_nodup.filter _

theorem lt_lanes_of_divLanes {sl : Slice} {j : Nat} (h : j ∈ divLanes sl) : j < sl.lanes.length :=
  Slice.lt_lanes_of_live (mem_divLanes.mp h).2.1

/-- A slice in which a divergence word has given the counted lanes their new counters. -/
def Slice.setNests (f : Slice → Nat → Option (BitVec 8)) (sl : Slice) : Slice :=
  (divLanes sl).foldl (fun x j => match f sl j with
    | some v => x.modLane j fun l => { l with nest := v }
    | none => x) sl

theorem Slice.setNests_num (f : Slice → Nat → Option (BitVec 8)) (sl : Slice) : (sl.setNests f).num = sl.num :=
  List.foldlRecOn (motive := fun x : Slice => x.num = sl.num) (divLanes sl) _ rfl fun x hx j _ => by
    split <;> exact hx

theorem Slice.setNests_eq {f : Slice → Nat → Option (BitVec 8)} {sl : Slice} {v : Lane → BitVec 8}
    (hf : ∀ j ∈ divLanes sl, f sl j = some (v (sl.lane j))) :
    sl.setNests f = sl.eachLane (fun j l => { l with nest := v (sl.lane j) }) (divLanes sl) :=
  List.foldl_ext _ _ sl fun x j hj => by rw [hf j hj]

/-- A divergence word whose counters all have a value: it gives each counted lane its own, and its slices go on. -/
theorem divWord_done {s : State} {b : Block} {g : Gang} {sp : Split} (hi : Issues s b g sp) (hh : b.halt = none) (c : Ctl)
    (f : Slice → Nat → Option (BitVec 8)) (v : Lane → BitVec 8)
    (hf : ∀ sl ∈ memberSlices g sp, ∀ j ∈ divLanes sl, f sl j = some (v (sl.lane j))) :
    ∃ t, divWord c f s = .next t ∧ wordDone s t b g sp fun sl sl' =>
      wentOn c (nextPc sl.pc) { sl with lanes := sl'.lanes } sl' ∧ sl'.pend = sl.pend ∧ sl'.lanes.length = sl.lanes.length ∧
      ∀ j, (Terms.counted sl j → sl'.lane j = { sl.lane j with nest := v (sl.lane j) }) ∧
        (¬ Terms.counted sl j → sl'.lane j = sl.lane j) := by
  refine ⟨_, withSplit_of hi _, ?_⟩
  have hlow : (((memberSlices g sp).map fun sl => (sl.num, (divLanes sl).filter fun j => (f sl j).isNone)).all
      fun x => x.2.isEmpty) = true := by
    simp only [List.all_map, List.all_eq_true, Function.comp_apply, List.isEmpty_iff, List.filter_eq_nil_iff]
    exact fun sl hsl j hj => by simp [hf sl hsl j hj]
  dsimp only
  rw [if_pos hlow]
  refine wordDone_mono_mem hi (wordDone_finish hi hh c false (Slice.setNests f) (Slice.setNests_num f)) fun sl hsl _ sl' hsl' => ?_
  have hput := Slice.setNests_eq (hf sl hsl)
  have hlane := sl.lane_eachLane (fun j l => { l with nest := v (sl.lane j) }) (divLanes_nodup sl) fun j => lt_lanes_of_divLanes
  rw [Slice.eachLane_eq] at hput
  subst hsl'
  rw [hput]
  refine ⟨?_, went_pend .., ?_, fun j => ?_⟩
  · rw [went_lanes]
    exact wentOn_went c (nextPc sl.pc) _ sl.pend
  · rw [went_lanes]
    exact sl.lanes_length_eachLane _ _
  · have hj : ∀ x : Slice, (went c (nextPc sl.pc) x).lane j = x.lane j := fun x => by rw [Slice.lane, went_lanes, Slice.lane]
    rw [hj, ← mem_divLanes]
    exact ⟨fun h => (hlane j).trans (if_pos h), fun h => (hlane j).trans (if_neg h)⟩

theorem toNat_eq_zero_iff {m : BitVec 8} : m.toNat = 0 ↔ m = 0 := by simp [← BitVec.toNat_inj]

/-- The counter that IFP gives, where it does not pass 255. -/
theorem ifp_counter {m : BitVec 8} {p : Bool} (h : (if 0 < m.toNat then m.toNat + 1 else if p then 0 else 1) ≤ 255) :
    (if m != 0 then (if m == 255 then none else some (m + 1)) else if p then some 0 else some 1) =
      some (BitVec.ofNat 8 (if 0 < m.toNat then m.toNat + 1 else if p then 0 else 1)) := by
  by_cases hm : m = 0
  · subst hm
    cases p <;> rfl
  · have hpos : 0 < m.toNat := Nat.pos_of_ne_zero fun e => hm (toNat_eq_zero_iff.mp e)
    rw [if_pos hpos] at h ⊢
    have htop : m ≠ 255 := fun e => by subst e; simp at h
    rw [if_pos (bne_iff_ne.mpr hm), if_neg (by simpa using htop), BitVec.ofNat_add, BitVec.ofNat_toNat, BitVec.setWidth_eq]
    rfl

/-- The counter that ELSEP gives. -/
theorem elsep_counter {m : BitVec 8} :
    some (if m == 1 then 0 else if m == 0 then 1 else m) =
      some (BitVec.ofNat 8 (if m.toNat = 1 then 0 else if m.toNat = 0 then 1 else m.toNat)) := by
  have h1 : m.toNat = 1 ↔ m = 1 := by simp [← BitVec.toNat_inj]
  simp only [beq_iff_eq, h1, toNat_eq_zero_iff]
  split_ifs <;> simp

/-- The counter that ENDIFP gives. -/
theorem endifp_counter {m : BitVec 8} : some (if m == 0 then 0 else m - 1) = some (BitVec.ofNat 8 (m.toNat - 1)) := by
  by_cases hm : m = 0
  · subst hm; rfl
  · have hpos : m.toNat ≠ 0 := fun e => hm (toNat_eq_zero_iff.mp e)
    simp only [beq_iff_eq, hm, if_false, Option.some.injEq]
    bv_omega

/-- The counter that BRK and CONT give, where it does not pass 255. -/
theorem leaveLevels_eq {c : Ctl} {k : Nat} {sl : Slice} {j : Nat}
    (h : (if (sl.lane j).nest.toNat = 0 ∧ (sl.lane j).p c.pred.toNat != c.neg then k else (sl.lane j).nest.toNat) ≤ 255) :
    leaveLevels c k sl j = some (BitVec.ofNat 8
      (if (sl.lane j).nest.toNat = 0 ∧ (sl.lane j).p c.pred.toNat != c.neg then k else (sl.lane j).nest.toNat)) := by
  unfold leaveLevels guardOf
  simp only [Bool.and_eq_true, beq_iff_eq, ← toNat_eq_zero_iff]
  split_ifs at h ⊢
  · omega
  · rfl
  · simp

/-- Settles O15: R52, R53, by the one shape of the five words (`divWord_done`). -/
theorem divergenceWords : Obligations.DivergenceWords := by
  intro s b g sp c k neg n hi hh r hr hle
  have word : ∀ (f : Slice → Nat → Option (BitVec 8)), (∀ sl j, r.2 (sl.lane j) ≤ 255 → f sl j = some (BitVec.ofNat 8 (r.2 (sl.lane j)))) →
      ∃ t, divWord c f s = .next t ∧ wordDone s t b g sp fun sl sl' =>
        wentOn c (nextPc sl.pc) { sl with lanes := sl'.lanes } sl' ∧ sl'.pend = sl.pend ∧ sl'.lanes.length = sl.lanes.length ∧
        ∀ j, (Terms.counted sl j → sl'.lane j = { sl.lane j with nest := BitVec.ofNat 8 (r.2 (sl.lane j)) }) ∧
          (¬ Terms.counted sl j → sl'.lane j = sl.lane j) := fun f hf =>
    divWord_done hi hh c f (fun l => BitVec.ofNat 8 (r.2 l)) fun sl hsl j hj => hf sl j (hle sl hsl j (mem_divLanes.mp hj))
  simp only [Terms.nestRows, List.mem_cons, List.not_mem_nil, or_false] at hr
  rcases hr with rfl | rfl | rfl | rfl | rfl
  · exact word _ fun sl j h => ifp_counter h
  · exact word _ fun sl j _ => elsep_counter
  · exact word _ fun sl j _ => endifp_counter
  · exact word _ fun sl j h => leaveLevels_eq h
  · exact word _ fun sl j h => leaveLevels_eq h
end Sys2Proof.Machine

namespace Sys2Proof.Machine

/-! ### Going where the slices go -/

/-- A word that changes its slices by `put` and moves each to its target. -/
theorem wordDone_move {s : State} {b : Block} {g : Gang} {sp : Split} (hi : Issues s b g sp) (hh : b.halt = none) (c : Ctl) (e : Bool)
    (put : Slice → Slice) (hnum : ∀ sl, (put sl).num = sl.num) (hout : ∀ sl, sp.slices.contains sl.num = false → put sl = sl)
    (target : Slice → BitVec 48) :
    wordDone s (moveSplit (s.modGang b.id g.num fun gg => { gg with slices := gg.slices.map put }) b g sp c target e) b g sp
      fun sl sl' => sl' = { put sl with pc := target sl, execMask := none } := by
  have hput : onlyGangF s (s.modGang b.id g.num fun gg => { gg with slices := gg.slices.map put }) b.id g.num put :=
    onlyGang_slices s b.id g.num put hnum
  have hhalt : ∀ b', s.blk b.id = some b' → b'.halt = none := fun b' h => by rw [hi.blk] at h; cases h; exact hh
  obtain ⟨b1, hb1, -⟩ := onlyGang_some hput hi.blk
  have hmove := onlyGang_moveSplit _ b g sp c target e [] (halt_none_of_onlyGang hput hhalt ⟨b, hi.blk⟩) ⟨b1, hb1⟩
  obtain ⟨hstate, hcore, hothers, hblock⟩ := onlyGangF_trans hput hmove
  refine ⟨hstate, hcore, hothers, fun b0 hb0 => ?_⟩
  obtain rfl : b = b0 := Option.some.inj (hi.blk.symm.trans hb0)
  obtain ⟨b', hb', hfields, hgangs, hgang⟩ := hblock b hb0
  refine ⟨b', hb', hfields, hgangs, fun g0 hg0 => ?_⟩
  obtain rfl : g = g0 := Option.some.inj (hi.gang.symm.trans hg0)
  obtain ⟨g', hg', hgfields, hnone, hsome⟩ := hgang g hg0
  refine ⟨g', hg', hgfields, hnone, fun k sl hk => ?_⟩
  obtain ⟨sl', hsl', rfl⟩ := hsome k sl hk
  refine ⟨_, hsl', ?_⟩
  have hslnum := Gang.slice_num hk
  simp only [Function.comp]
  rw [advTo_movers g sp target hk ((hnum sl).trans hslnum), hslnum]
  cases hc : sp.slices.contains k with
  | true => rfl
  | false => exact hout sl (hslnum ▸ hc)

/-! ### Jumps (R48, R60, R271) -/

/-- The slice that a jump leaves, before it moves. -/
def Jump.slice (j : Jump) (sl : Slice) : Slice := match j with | .goto _ sl' _ => sl' | _ => sl

/-- A jump leaves its slice's number, and stays where its slice may be. -/
def Jump.Stays (s : State) (b : Block) (sl : Slice) (j : Jump) : Prop :=
  match j with | .next => True | .goto pc sl' _ => s.wheyGo b pc = none ∧ sl'.num = sl.num | .bad .. => False

/-- The slices of a split, each with its jump. -/
def jumpOuts (g : Gang) (sp : Split) (f : Slice → Jump) : List (Slice × Jump) := (memberSlices g sp).map fun sl => (sl, f sl)

/-- Where a slice goes, by its number. -/
def jumpTarget (outs : List (Slice × Jump)) (sl : Slice) : BitVec 48 :=
  match outs.find? (fun x => x.1.num == sl.num) with | some (_, j) => j.target sl | none => nextPc sl.pc

/-- What a slice becomes before it moves, by its number. -/
def jumpPut (outs : List (Slice × Jump)) (sl : Slice) : Slice :=
  match outs.find? (fun x => x.1.num == sl.num) with | some (_, .goto _ sl' _) => sl' | _ => sl

/-- The spill parts that have grown are written. -/
def State.jumpSpill (s : State) (b : Block) (gn : Nat) (outs : List (Slice × Jump)) : State :=
  outs.foldl (fun s x => match x.2 with | .goto _ sl' _ => s.writeSpill b gn x.1 sl' | _ => s) s

/-- A delivery waits for the next run end of a split whose frames were refilled (R194). -/
def State.jumpOwe (s : State) (bid gn : Nat) (outs : List (Slice × Jump)) : State :=
  outs.foldl (fun s x => match x.2 with
    | .goto _ _ true => s.modSplit bid gn x.1.num fun z => { z with owed := true }
    | _ => s) s

theorem find_jumpOuts (g : Gang) (sp : Split) (f : Slice → Jump) (k : Nat) :
    (jumpOuts g sp f).find? (fun x => x.1.num == k) = if sp.slices.contains k then (g.slice k).map fun sl => (sl, f sl) else none := by
  unfold jumpOuts
  rw [List.find?_map]
  split
  · next h => rw [← find_member g sp k h]; rfl
  · next h =>
    rw [Option.map_eq_none_iff, List.find?_eq_none]
    intro sl hsl e
    rw [Function.comp_apply, beq_iff_eq] at e
    exact h (e ▸ (mem_memberSlices.mp hsl).2)

/-- The turn of a split whose slices all have somewhere to go: their windows, the spill parts, and the move. -/
theorem jumpSplit_eq {s : State} {b : Block} {g : Gang} {sp : Split} (c : Ctl) (f : Slice → Jump)
    (hf : ∀ sl ∈ memberSlices g sp, (f sl).Stays s b sl) :
    ∃ e, let moved := moveSplit ((s.modGang b.id g.num fun gg => { gg with slices := gg.slices.map (jumpPut (jumpOuts g sp f)) }).jumpSpill
          b g.num (jumpOuts g sp f)) b g sp c (jumpTarget (jumpOuts g sp f)) e
      jumpSplit s b g sp c f = moved ∨ jumpSplit s b g sp c f = moved.jumpOwe b.id g.num (jumpOuts g sp f) := by
  have hbads : ((jumpOuts g sp f).filterMap fun x => match x.2 with | .bad code a d => some (x.1, code, a, d) | _ => none).isEmpty = true := by
    rw [List.isEmpty_iff, List.filterMap_eq_nil_iff]
    intro x hx
    obtain ⟨sl, hsl, rfl⟩ := List.mem_map.mp hx
    have := hf sl hsl
    cases hj : f sl with
    | bad => rw [hj] at this; exact this.elim
    | next => rfl
    | goto => rfl
  unfold jumpSplit
  dsimp only
  split
  · next sl pc sl' r hout =>
    have hsl : (sl, Jump.goto pc sl' r) ∈ (memberSlices g sp).map fun sl => (sl, f sl) := hout ▸ List.mem_singleton_self _
    obtain ⟨x, hx, hfx⟩ := List.mem_map.mp hsl
    injection hfx with hxsl hj
    have hstay := hf x hx
    rw [hj] at hstay
    rw [hstay.1]
    dsimp only
    split_ifs with hb hr
    · exact ⟨_, .inr rfl⟩
    · exact ⟨_, .inl rfl⟩
    · exact absurd hbads hb
  · split_ifs with hb hr
    · exact ⟨_, .inr rfl⟩
    · exact ⟨_, .inl rfl⟩
    · exact absurd hbads hb

theorem jumpPut_num {outs : List (Slice × Jump)} (h : ∀ x ∈ outs, (x.2.slice x.1).num = x.1.num) (sl : Slice) :
    (jumpPut outs sl).num = sl.num := by
  unfold jumpPut
  split
  · next x pc sl' r hx =>
    have hnum : x.num = sl.num := by simpa using List.find?_some hx
    exact (h _ (List.mem_of_find?_eq_some hx)).trans hnum
  · rfl

theorem writeSpill_eq (s : State) (b : Block) (gn : Nat) (old new : Slice) :
    s.writeSpill b gn old new = { s with vault := (s.writeSpill b gn old new).vault } := by
  unfold State.writeSpill
  split <;> rfl

theorem jumpSpill_cons (s : State) (b : Block) (gn : Nat) (x : Slice × Jump) (r : List (Slice × Jump)) :
    s.jumpSpill b gn (x :: r) = (s.writeSpill b gn x.1 (x.2.slice x.1)).jumpSpill b gn r := by
  obtain ⟨sl, j⟩ := x
  cases j with
  | goto => rfl
  | next => simp [State.jumpSpill, Jump.slice, State.writeSpill]
  | bad => simp [State.jumpSpill, Jump.slice, State.writeSpill]

theorem jumpSpill_eq (s : State) (b : Block) (gn : Nat) (outs : List (Slice × Jump)) :
    s.jumpSpill b gn outs = { s with vault := (s.jumpSpill b gn outs).vault } := by
  induction outs generalizing s with
  | nil => rfl
  | cons x r ih => rw [jumpSpill_cons, ih, writeSpill_eq]

theorem jumpSpill_modGang (s : State) (b : Block) (gn i n : Nat) (h : Gang → Gang) (outs : List (Slice × Jump)) :
    (s.modGang i n h).jumpSpill b gn outs = (s.jumpSpill b gn outs).modGang i n h := by
  induction outs generalizing s with
  | nil => rfl
  | cons x r ih =>
    have hone : (s.modGang i n h).writeSpill b gn x.1 (x.2.slice x.1) = (s.writeSpill b gn x.1 (x.2.slice x.1)).modGang i n h := by
      unfold State.writeSpill
      split <;> rfl
    rw [jumpSpill_cons, jumpSpill_cons, hone, ih]

theorem jumpOwe_only (s : State) (bid gn : Nat) (outs : List (Slice × Jump)) : onlyGangF s (s.jumpOwe bid gn outs) bid gn id := by
  induction outs generalizing s with
  | nil => exact onlyGang_refl ..
  | cons x r ih =>
    refine onlyGangF_trans (φ := id) (ψ := id) ?_ (ih _)
    dsimp only
    split
    · exact onlyGang_modSplit ..
    · exact onlyGang_refl ..

/-- Changes of splits alone after a word leave it done. -/
theorem wordDone_then {s t u : State} {b : Block} {g : Gang} {sp : Split} {f : Slice → Slice → Prop} (h : wordDone s t b g sp f)
    (h' : onlyGangF t u b.id g.num id) : wordDone s u b g sp f :=
  onlyGang_mono (onlyGang_trans h h') fun _ _ ⟨_, hy, hz⟩ => by subst hz; exact hy

/-- A word whose slices all have somewhere to go: each has its new window and stands where it went, and the spill parts are written. -/
theorem jumpSplit_done {s : State} {b : Block} {g : Gang} {sp : Split} (hi : Issues s b g sp) (hh : b.halt = none) (c : Ctl)
    (f : Slice → Jump) (hf : ∀ sl ∈ memberSlices g sp, (f sl).Stays s b sl) :
    wordDone { s with vault := (s.jumpSpill b g.num (jumpOuts g sp f)).vault } (jumpSplit s b g sp c f) b g sp fun sl sl' =>
      sl' = { (f sl).slice sl with pc := (f sl).target sl, execMask := none } := by
  have hnum : ∀ x ∈ jumpOuts g sp f, (x.2.slice x.1).num = x.1.num := by
    intro x hx
    obtain ⟨sl, hsl, rfl⟩ := List.mem_map.mp hx
    have hstay := hf sl hsl
    dsimp only
    cases hj : f sl with
    | goto pc sl' r => rw [hj] at hstay; exact hstay.2
    | next => rfl
    | bad => rfl
  have hout : ∀ sl : Slice, sp.slices.contains sl.num = false → jumpPut (jumpOuts g sp f) sl = sl := by
    intro sl hc
    rw [jumpPut, find_jumpOuts, hc]
    rfl
  obtain ⟨e, hjump⟩ := jumpSplit_eq c f hf
  rw [jumpSpill_modGang, jumpSpill_eq s] at hjump
  have hi' : Issues { s with vault := (s.jumpSpill b g.num (jumpOuts g sp f)).vault } b g sp := ⟨hi.cur, hi.blk, hi.gang⟩
  have hmove := wordDone_move hi' hh c e _ (jumpPut_num hnum) hout (jumpTarget (jumpOuts g sp f))
  refine wordDone_mono_mem hi' (f := fun sl sl' =>
    sl' = { jumpPut (jumpOuts g sp f) sl with pc := jumpTarget (jumpOuts g sp f) sl, execMask := none }) ?_ fun sl hsl hslice sl' hsl' => ?_
  · rcases hjump with hjump | hjump <;> rw [hjump]
    · exact hmove
    · exact wordDone_then hmove (jumpOwe_only ..)
  have hfind : (jumpOuts g sp f).find? (fun x => x.1.num == sl.num) = some (sl, f sl) := by
    rw [find_jumpOuts, if_pos (mem_memberSlices.mp hsl).2, hslice]
    rfl
  have hput : jumpPut (jumpOuts g sp f) sl = (f sl).slice sl := by
    rw [jumpPut, hfind]
    cases f sl <;> rfl
  rw [hsl', hput, jumpTarget, hfind]

/-- As `jumpSplit_done`, where no spill part grows. -/
theorem jumpSplit_done_of_dry {s : State} {b : Block} {g : Gang} {sp : Split} (hi : Issues s b g sp) (hh : b.halt = none) (c : Ctl)
    (f : Slice → Jump) (hf : ∀ sl ∈ memberSlices g sp, (f sl).Stays s b sl)
    (hdry : ∀ sl ∈ memberSlices g sp, ((f sl).slice sl).spill.length ≤ sl.spill.length) :
    wordDone s (jumpSplit s b g sp c f) b g sp fun sl sl' => sl' = { (f sl).slice sl with pc := (f sl).target sl, execMask := none } := by
  have hspill : ∀ outs : List (Slice × Jump), (∀ x ∈ outs, (x.2.slice x.1).spill.length ≤ x.1.spill.length) → s.jumpSpill b g.num outs = s := by
    intro outs
    induction outs with
    | nil => exact fun _ => rfl
    | cons x r ih =>
      intro h
      rw [jumpSpill_cons, State.writeSpill, if_neg (Nat.not_lt.mpr (h x List.mem_cons_self))]
      exact ih fun y hy => h y (List.mem_cons_of_mem x hy)
  have hdone := jumpSplit_done hi hh c f hf
  rw [hspill (jumpOuts g sp f) fun x hx => by obtain ⟨sl, hsl, rfl⟩ := List.mem_map.mp hx; exact hdry sl hsl] at hdone
  exact hdone

/-! ### Branches (R50, R271) -/

theorem brAdmits_eq (c : Ctl) (sl : Slice) : brAdmits c sl = Terms.branches c sl := by
  unfold brAdmits Terms.branches
  have hfrozen : (sl.frozen || sl.active.isEmpty) = sl.active.isEmpty := by
    unfold Slice.active
    cases sl.frozen <;> simp
  rw [hfrozen]
  by_cases ha : sl.active = []
  · rw [if_pos ha, if_pos (List.isEmpty_iff.mpr ha), Bool.eq_iff_iff]
    simp
  · rw [if_neg ha, if_neg (by simpa using ha), Bool.eq_iff_iff]
    simp

theorem relTarget_eq (sl : Slice) (off : BitVec 20) : relTarget sl off = Terms.target sl.pc off := by
  unfold relTarget Terms.target nextPc
  rw [BitVec.ofInt_add, BitVec.ofInt_add, BitVec.ofInt_mul, BitVec.ofInt_toInt, BitVec.mul_comm, BitVec.signExtend]
  rfl

theorem isetpV_zero (cond : Cond) (u : Bool) (a : Word) :
    isetpV cond u a 0 = (let v : Int := if u then (a.toNat : Int) else a.toInt
      Terms.holds cond (decide (v < 0)) (decide (v = 0)) (decide (0 < v))) := by
  have hcmp : ∀ v : Int, cmpI cond v 0 = Terms.holds cond (decide (v < 0)) (decide (v = 0)) (decide (0 < v)) := by
    intro v
    cases cond <;> simp [cmpI, Terms.holds, Int.le_iff_lt_or_eq, eq_comm]
  cases u
  · exact hcmp a.toInt
  · exact hcmp a.toNat

/-- A direct branch: to the target of a slice that takes it, else to the next word. -/
def Jump.branch (go : Slice → Bool) (off : BitVec 20) (sl : Slice) : Jump := if go sl then .goto (relTarget sl off) sl false else .next

theorem Jump.branch_target (go : Slice → Bool) (off : BitVec 20) (sl : Slice) :
    (Jump.branch go off sl).target sl = if go sl then Terms.target sl.pc off else sl.pc + 8 := by
  unfold Jump.branch
  cases go sl
  · rfl
  · exact relTarget_eq sl off

theorem Jump.branch_slice (go : Slice → Bool) (off : BitVec 20) (sl : Slice) : (Jump.branch go off sl).slice sl = sl := by
  unfold Jump.branch
  cases go sl <;> rfl

/-- A direct branch of a split whose targets its slices may go to. -/
theorem branch_done {s : State} {b : Block} {g : Gang} {sp : Split} (hi : Issues s b g sp) (hh : b.halt = none) (c : Ctl)
    (go : Slice → Bool) (off : BitVec 20) (hstay : ∀ sl ∈ memberSlices g sp, go sl = true → Terms.staysAt s b (Terms.target sl.pc off)) :
    wordDone s (jumpSplit s b g sp c (Jump.branch go off)) b g sp fun sl sl' =>
      sl' = { sl with pc := if go sl then Terms.target sl.pc off else sl.pc + 8, execMask := none } := by
  have hstays : ∀ sl ∈ memberSlices g sp, (Jump.branch go off sl).Stays s b sl := by
    intro sl hsl
    unfold Jump.branch
    cases hgo : go sl with
    | false => trivial
    | true => exact ⟨relTarget_eq sl off ▸ hstay sl hsl hgo, rfl⟩
  refine wordDone_mono (jumpSplit_done_of_dry hi hh c _ hstays fun sl _ => by rw [Jump.branch_slice]) fun sl sl' h => ?_
  rw [h, Jump.branch_slice, Jump.branch_target]

theorem mixed_eq_false {l : List (Slice × Jump)} (h : ∀ x ∈ l, ∀ y ∈ l, x.2.target x.1 = y.2.target y.1) : mixed l = false := by
  cases l with
  | nil => rfl
  | cons x r =>
    rw [mixed, List.any_eq_false]
    intro y hy
    rw [bne_iff_ne, not_not]
    exact h y (List.mem_cons_of_mem x hy) x List.mem_cons_self

theorem execBra_eq (c : Ctl) (o : BraOp) (s : State) : execBra c o s = withSplit s fun b g sp =>
    if o.uni && mixed (jumpOuts g sp (Jump.branch (Terms.branches c) o.off)) then trapWord s b g sp c 0x06 (splitLanes g sp)
    else jumpSplit s b g sp c (Jump.branch (Terms.branches c) o.off) := by
  unfold execBra
  simp only [brAdmits_eq]
  rfl

theorem execScbra_eq (c : Ctl) (o : CBraOp) (s : State) : execScbra c o s = withSplit s fun b g sp =>
    jumpSplit s b g sp c (Jump.branch (fun sl => Terms.branches c sl && isetpV o.cond o.u (sl.s o.a.toNat) 0) o.off) := by
  unfold execScbra
  simp only [brAdmits_eq]
  rfl

/-- Settles O16: R50, R271, by the jump of each slice (`branch_done`). -/
theorem branchWords : Obligations.BranchWords := by
  intro s b g sp c uni off a cond u hi hh hstay v to1 to2
  refine ⟨fun huni => ⟨_, (execBra_eq c _ s).trans (withSplit_of hi _), ?_⟩, ⟨_, (execScbra_eq c _ s).trans (withSplit_of hi _), ?_⟩⟩
  · have hway : (uni && mixed (jumpOuts g sp (Jump.branch (Terms.branches c) off))) = false := by
      cases huniv : uni with
      | false => rfl
      | true =>
        rw [Bool.true_and]
        refine mixed_eq_false fun x hx y hy => ?_
        obtain ⟨p, hp, rfl⟩ := List.mem_map.mp hx
        obtain ⟨q, hq, rfl⟩ := List.mem_map.mp hy
        rw [Jump.branch_target, Jump.branch_target]
        exact huni huniv p hp q hq
    rw [if_neg (Bool.eq_false_iff.mp hway)]
    exact branch_done hi hh c _ off hstay
  · refine wordDone_mono (branch_done hi hh c _ off fun sl hsl hgo => hstay sl hsl (Bool.and_eq_true_iff.mp hgo).1) fun sl sl' h => ?_
    rw [h, isetpV_zero]
    simp only [Bool.and_eq_true, to2, v]

end Sys2Proof.Machine

namespace Sys2Proof.Machine

/-! ### Frames (R59 to R61) -/

theorem Slice.spillTo_num (budget top k : Nat) (sl : Slice) : (Slice.spillTo budget top k sl).num = sl.num := by
  induction k generalizing sl with
  | zero => rfl
  | succ k ih =>
    rw [Slice.spillTo]
    split
    · exact ih (sl.spillEight budget)
    · rfl

theorem Slice.grow_num {sl x : Slice} {cap budget adv size serial : Nat} {whey : Bool} {e : Option RetEntry}
    (h : sl.grow cap budget whey adv size e serial = .inl x) : x.num = sl.num := by
  unfold Slice.grow at h
  dsimp only at h
  split_ifs at h
  injection h with h
  subst h
  cases e <;> exact Slice.spillTo_num ..

/-- A slice in a new frame, with the newest return entry pushed. -/
def Slice.inFrame (sl : Slice) (budget adv size serial : Nat) (e : RetEntry) : Slice :=
  ({ sl with ret := e :: sl.ret, base := sl.base + adv, n := size } : Slice).freshRegs budget (sl.n - adv) size serial

/-- A frame that fits without a spill. -/
theorem Slice.grow_of_room {sl : Slice} {cap budget adv size serial : Nat} {whey : Bool} {e : RetEntry} (hret : sl.ret.length < 16)
    (hspill : sl.spill = []) (hfit : sl.base + adv + size - sl.low ≤ budget) :
    sl.grow cap budget whey adv size (some e) serial = .inl (sl.inFrame budget adv size serial e) := by
  have hto : Slice.spillTo budget (sl.base + adv + size) 64 sl = sl := by
    rw [Slice.spillTo, if_neg (by omega)]
  have hpush : sl.pushRet e = { sl with ret := e :: sl.ret } := by
    unfold Slice.pushRet
    dsimp only
    rw [List.take_of_length_le (by simpa using hret), List.drop_of_length_le (by simpa using hret)]
    simp
  unfold Slice.grow
  have hused : spillUsed sl.spill = 0 := by rw [hspill]; rfl
  simp only [hto, hpush, hused, bne_self_eq_false, Bool.and_false, Bool.false_eq_true, if_false, Nat.not_lt_zero]
  rfl

theorem mget_foldl_mset_of_notMem {α : Type} (v : Nat → α) {k : Nat} (l : List Nat) (m : List (Nat × α)) (h : k ∉ l) :
    mget (l.foldl (fun m i => mset m i (v i)) m) k = mget m k := by
  induction l generalizing m with
  | nil => rfl
  | cons i r ih =>
    rw [List.mem_cons, not_or] at h
    rw [List.foldl_cons, ih _ h.2, mget_mset_ne _ _ h.1]

/-- The registers of a new frame alone are fresh. -/
theorem Slice.vphys_freshRegs (sl : Slice) {budget lo hi serial p j : Nat} (hj : j < 4)
    (hp : ∀ i, lo ≤ i → i < hi → p ≠ (sl.base + i) % budget) : (sl.freshRegs budget lo hi serial).vphys p j = sl.vphys p j := by
  unfold Slice.vphys Slice.freshRegs
  dsimp only
  rw [mget_foldl_mset_of_notMem]
  intro h
  obtain ⟨r, hr, h⟩ := List.mem_flatMap.mp h
  obtain ⟨i, hi', h⟩ := List.mem_map.mp h
  rw [List.mem_range] at hr hi'
  exact hp (lo + r) (by omega) (by omega) (by rw [← Nat.add_assoc]; omega)

/-- A call whose frame fits: base, frame size, return entry, and the registers of the new frame alone. -/
theorem frame_of_room {s : State} {b : Block} {g : Gang} {adv size : BitVec 6} {sl : Slice}
    (h : sl.ret.length < 16 ∧ sl.spill = [] ∧ sl.base + 8 * adv.toNat + 8 * size.toNat - sl.low ≤ g.budget) :
    ∃ x, Terms.frame s b g adv size sl = some x ∧ x.spill = [] ∧
      ∀ pc, Terms.framed g.budget adv size pc sl { x with pc, execMask := none } := by
  obtain ⟨hret, hspill, hfit⟩ := h
  have hgrow := Slice.grow_of_room (cap := b.spillCap) (whey := b.whey.isSome) (e := { addr := sl.pc + 8, adv := 8 * adv.toNat, n := sl.n })
    (serial := s.fresh + sl.num) hret hspill hfit
  exact ⟨sl.inFrame g.budget (8 * adv.toNat) (8 * size.toNat) (s.fresh + sl.num) { addr := sl.pc + 8, adv := 8 * adv.toNat, n := sl.n },
    by rw [Terms.frame, hgrow]; rfl, hspill, fun pc => ⟨rfl, fun p _ j hj hp => Slice.vphys_freshRegs _ hj hp⟩⟩

/-! ### Indirect branches and calls (R271) -/

theorem jumpSplit_congr {s : State} {b : Block} {g : Gang} {sp : Split} (c : Ctl) {f f' : Slice → Jump}
    (h : ∀ sl ∈ memberSlices g sp, f sl = f' sl) : jumpSplit s b g sp c f = jumpSplit s b g sp c f' := by
  have houts : (memberSlices g sp).map (fun sl => (sl, f sl)) = (memberSlices g sp).map fun sl => (sl, f' sl) :=
    List.map_congr_left fun sl hsl => by rw [h sl hsl]
  unfold jumpSplit
  rw [houts]

theorem setWidth_48_64 (x : BitVec 48) : (x.setWidth 64).setWidth 48 = x := by
  rw [BitVec.setWidth_setWidth_of_le x (by decide), BitVec.setWidth_eq]

theorem addrJump_of_agrees {s : State} {b : Block} {c : Ctl} {budget : Nat} {a : BitVec 8} {sl : Slice} (h : Terms.agrees s b c budget a sl)
    (serial : Nat) (word : DWord) (differ : BitVec 8) (then' : BitVec 48 → Jump) :
    addrJump c budget a serial word differ then' sl = then' (Terms.held c budget a sl) := by
  obtain ⟨hne, halign, -, hall⟩ := h
  have haddr : laneAddr c budget a serial sl = some ((Terms.held c budget a sl).setWidth 64) := by
    obtain ⟨j, r, hlanes⟩ := List.exists_cons_of_ne_nil hne
    rw [hlanes] at hall
    have hsame : ((r.map fun k => sl.v64 budget a.toNat k).all fun w => w == (Terms.held c budget a sl).setWidth 64) = true := by
      rw [List.all_map, List.all_eq_true]
      exact fun k hk => beq_iff_eq.mpr (hall k (List.mem_cons_of_mem j hk))
    unfold laneAddr addrLanes
    rw [hlanes, List.map_cons, hall j List.mem_cons_self]
    dsimp only
    rw [if_pos hsame]
  have hchk : targetChk ((Terms.held c budget a sl).setWidth 64) = none := by
    have hval : ((Terms.held c budget a sl).setWidth 64).toNat = (Terms.held c budget a sl).toNat :=
      BitVec.toNat_setWidth_of_le (by decide)
    unfold targetChk
    rw [hval, halign, if_neg (by decide), if_neg (Nat.not_le.mpr (Terms.held c budget a sl).isLt)]
  unfold addrJump
  rw [haddr]
  dsimp only
  rw [hchk]
  exact congrArg then' (setWidth_48_64 _)

/-- A branch to an address that the slice holds. -/
def Jump.to (c : Ctl) (pc : Slice → BitVec 48) (sl : Slice) : Jump := if Terms.branches c sl then .goto (pc sl) sl false else .next

theorem Jump.to_target (c : Ctl) (pc : Slice → BitVec 48) (sl : Slice) :
    (Jump.to c pc sl).target sl = if Terms.branches c sl then pc sl else sl.pc + 8 := by
  unfold Jump.to
  split <;> rfl

/-- A branch of each slice to an address at which it may be. -/
theorem jumpTo_done {s : State} {b : Block} {g : Gang} {sp : Split} (hi : Issues s b g sp) (hh : b.halt = none) (c : Ctl)
    (pc : Slice → BitVec 48) (hstay : ∀ sl ∈ memberSlices g sp, Terms.branches c sl → Terms.staysAt s b (pc sl)) :
    wordDone s (jumpSplit s b g sp c (Jump.to c pc)) b g sp fun sl sl' =>
      sl' = { sl with pc := if Terms.branches c sl then pc sl else sl.pc + 8, execMask := none } := by
  have hslice : ∀ sl, (Jump.to c pc sl).slice sl = sl := fun sl => by unfold Jump.to; split <;> rfl
  have hstays : ∀ sl ∈ memberSlices g sp, (Jump.to c pc sl).Stays s b sl := by
    intro sl hsl
    unfold Jump.to
    split
    · next hb => exact ⟨hstay sl hsl hb, rfl⟩
    · trivial
  refine wordDone_mono (jumpSplit_done_of_dry hi hh c _ hstays fun sl _ => by rw [hslice]) fun sl sl' h => ?_
  rw [h, hslice, Jump.to_target]

/-! ### Calls (R59 to R61, R271) -/

/-- A call: the slice in its new frame, if there is one. -/
def Jump.call (s : State) (b : Block) (g : Gang) (c : Ctl) (adv size : BitVec 6) (pc : Slice → BitVec 48) (sl : Slice) : Jump :=
  if Terms.branches c sl then (match Terms.frame s b g adv size sl with | some x => .goto (pc sl) x false | none => .next) else .next

theorem callJump_of_frame {s : State} {b : Block} {g : Gang} {sl x : Slice} {o : CallOp} (h : Terms.frame s b g o.adv o.size sl = some x)
    (word : DWord) (pc : BitVec 48) : callJump b g o s.fresh word pc sl = .goto pc x false := by
  have hgrow := Sum.getLeft?_eq_some_iff.mp h
  unfold callJump
  dsimp only [nextPc]
  rw [hgrow]

theorem frame_num {s : State} {b : Block} {g : Gang} {adv size : BitVec 6} {sl x : Slice} (h : Terms.frame s b g adv size sl = some x) :
    x.num = sl.num := Slice.grow_num (Sum.getLeft?_eq_some_iff.mp h)

/-- The vault once the spill parts of the calls that spill have been written. -/
def State.callSpill (u s : State) (b : Block) (g : Gang) (sp : Split) (c : Ctl) (adv size : BitVec 6) : State :=
  (memberSlices g sp).foldl (fun u sl => match Terms.frame s b g adv size sl with
    | some x => if Terms.branches c sl then u.writeSpill b g.num sl x else u
    | none => u) u

theorem jumpSpill_call (u s : State) (b : Block) (g : Gang) (sp : Split) (c : Ctl) (adv size : BitVec 6) (pc : Slice → BitVec 48) :
    u.jumpSpill b g.num (jumpOuts g sp (Jump.call s b g c adv size pc)) = u.callSpill s b g sp c adv size := by
  unfold State.jumpSpill jumpOuts State.callSpill
  rw [List.foldl_map]
  congr 1
  funext u sl
  unfold Jump.call
  by_cases hb : Terms.branches c sl = true
  · simp only [hb, if_true]
    cases Terms.frame s b g adv size sl <;> rfl
  · simp only [hb]
    cases Terms.frame s b g adv size sl <;> rfl

/-- A spill part is written where it was, whatever else the state holds. -/
theorem writeSpill_vault_congr {s u : State} (h : s.vault = u.vault) (b : Block) (gn : Nat) (old new : Slice) :
    (s.writeSpill b gn old new).vault = (u.writeSpill b gn old new).vault := by
  unfold State.writeSpill
  split
  · simp only [State.vlWrBytes, State.vkey, h]
  · exact h

theorem callSpill_vault_congr {u v : State} (h : u.vault = v.vault) (s : State) (b : Block) (g : Gang) (sp : Split) (c : Ctl)
    (adv size : BitVec 6) : (u.callSpill s b g sp c adv size).vault = (v.callSpill s b g sp c adv size).vault := by
  unfold State.callSpill
  induction memberSlices g sp generalizing u v with
  | nil => exact h
  | cons sl r ih =>
    refine ih ?_
    dsimp only
    cases Terms.frame s b g adv size sl with
    | none => exact h
    | some x =>
      cases Terms.branches c sl
      · exact h
      · exact writeSpill_vault_congr h ..

/-- A call of each slice in whose new frame there is room, with or without a spill. -/
theorem call_done {s : State} {b : Block} {g : Gang} {sp : Split} (hi : Issues s b g sp) (hh : b.halt = none) (c : Ctl)
    (adv size : BitVec 6) (pc : Slice → BitVec 48) (n : Nat)
    (hcall : ∀ sl ∈ memberSlices g sp, Terms.branches c sl → Terms.staysAt s b (pc sl) ∧ Terms.frame s b g adv size sl ≠ none) :
    wordDone { s with fresh := n, vault := (s.callSpill s b g sp c adv size).vault }
      (jumpSplit { s with fresh := n } b g sp c (Jump.call s b g c adv size pc)) b g sp fun sl sl' =>
      if Terms.branches c sl then ∀ x, Terms.frame s b g adv size sl = some x → sl' = { x with pc := pc sl, execMask := none }
      else sl' = { sl with pc := sl.pc + 8, execMask := none } := by
  have hi' : Issues { s with fresh := n } b g sp := ⟨hi.cur, hi.blk, hi.gang⟩
  have hstays : ∀ sl ∈ memberSlices g sp, (Jump.call s b g c adv size pc sl).Stays { s with fresh := n } b sl := by
    intro sl hsl
    unfold Jump.call
    split
    · next hb =>
      obtain ⟨hstay, hframe⟩ := hcall sl hsl hb
      obtain ⟨x, hx⟩ := Option.ne_none_iff_exists'.mp hframe
      rw [hx]
      exact ⟨hstay, frame_num hx⟩
    · trivial
  have hdone := jumpSplit_done hi' hh c _ hstays
  rw [jumpSpill_call, callSpill_vault_congr (u := { s with fresh := n }) (v := s) rfl] at hdone
  refine wordDone_mono hdone fun sl sl' h => ?_
  subst h
  unfold Jump.call
  split
  · next hb =>
    intro x hx
    rw [hx]
    rfl
  · rfl

theorem callSpill_of_dry {s : State} {b : Block} {g : Gang} {sp : Split} {c : Ctl} {adv size : BitVec 6}
    (h : ∀ sl ∈ memberSlices g sp, Terms.branches c sl → ∃ x, Terms.frame s b g adv size sl = some x ∧ x.spill = []) :
    s.callSpill s b g sp c adv size = s := by
  unfold State.callSpill
  refine (List.foldl_ext _ (fun u _ => u) s fun u sl hsl => ?_).trans (List.foldl_fixed' (fun _ => rfl) _)
  by_cases hb : Terms.branches c sl = true
  · obtain ⟨x, hx, hspill⟩ := h sl hsl hb
    simp [hx, hb, State.writeSpill, hspill]
  · simp only [hb]
    cases Terms.frame s b g adv size sl <;> rfl

/-- As `call_done`, where every frame fits without a spill. -/
theorem call_done_of_room {s : State} {b : Block} {g : Gang} {sp : Split} (hi : Issues s b g sp) (hh : b.halt = none) (c : Ctl)
    (adv size : BitVec 6) (pc : Slice → BitVec 48) (n : Nat)
    (hcall : ∀ sl ∈ memberSlices g sp, Terms.branches c sl → Terms.staysAt s b (pc sl) ∧
      sl.ret.length < 16 ∧ sl.spill = [] ∧ sl.base + 8 * adv.toNat + 8 * size.toNat - sl.low ≤ g.budget) :
    wordDone { s with fresh := n } (jumpSplit { s with fresh := n } b g sp c (Jump.call s b g c adv size pc)) b g sp fun sl sl' =>
      if Terms.branches c sl then Terms.framed g.budget adv size (pc sl) sl sl' else sl' = { sl with pc := sl.pc + 8, execMask := none } := by
  have hframe : ∀ sl ∈ memberSlices g sp, Terms.branches c sl → _ := fun sl hsl hb => frame_of_room (s := s) (b := b) (hcall sl hsl hb).2
  have hdone := call_done hi hh c adv size pc n fun sl hsl hb => by
    obtain ⟨x, hx, -⟩ := hframe sl hsl hb
    exact ⟨(hcall sl hsl hb).1, hx ▸ Option.some_ne_none x⟩
  rw [callSpill_of_dry fun sl hsl hb => by obtain ⟨x, hx, hspill, -⟩ := hframe sl hsl hb; exact ⟨x, hx, hspill⟩] at hdone
  have hi' : Issues { s with fresh := n } b g sp := ⟨hi.cur, hi.blk, hi.gang⟩
  refine wordDone_mono_mem hi' hdone fun sl hsl _ sl' h => ?_
  split
  · next hb =>
    rw [if_pos hb] at h
    obtain ⟨x, hx, -, hframed⟩ := hframe sl hsl hb
    rw [h x hx]
    exact hframed (pc sl)
  · next hb => rwa [if_neg hb] at h

/-! ### The words -/

theorem execCall_of {s : State} {b : Block} {g : Gang} {sp : Split} (hi : Issues s b g sp) (c : Ctl) (o : CallOp)
    (hframe : ∀ sl ∈ memberSlices g sp, Terms.branches c sl → Terms.frame s b g o.adv o.size sl ≠ none) :
    exec (.call c o) s = .next (jumpSplit { s with fresh := s.fresh + 8 } b g sp c
      (Jump.call s b g c o.adv o.size fun sl => Terms.target sl.pc o.off)) := by
  refine (withSplit_of hi _).trans (congrArg _ (jumpSplit_congr c fun sl hsl => ?_))
  rw [brAdmits_eq]
  unfold Jump.call
  split
  · next hb =>
    obtain ⟨x, hx⟩ := Option.ne_none_iff_exists'.mp (hframe sl hsl hb)
    rw [hx, callJump_of_frame hx, relTarget_eq]
  · rfl

theorem execCallx_of {s : State} {b : Block} {g : Gang} {sp : Split} (hi : Issues s b g sp) (c : Ctl) (o : CallOp)
    (hcall : ∀ sl ∈ memberSlices g sp, Terms.branches c sl → Terms.agrees s b c g.budget o.b sl ∧ Terms.frame s b g o.adv o.size sl ≠ none) :
    exec (.callx c o) s = .next (jumpSplit { s with fresh := s.fresh + 16 } b g sp c
      (Jump.call s b g c o.adv o.size (Terms.held c g.budget o.b))) := by
  refine (withSplit_of hi _).trans (congrArg _ (jumpSplit_congr c fun sl hsl => ?_))
  rw [brAdmits_eq]
  unfold Jump.call
  split
  · next hb =>
    obtain ⟨hagrees, hframe⟩ := hcall sl hsl hb
    obtain ⟨x, hx⟩ := Option.ne_none_iff_exists'.mp hframe
    rw [addrJump_of_agrees hagrees, hx, callJump_of_frame hx]
  · rfl

/-- BRX, where under .uni its slices go the same way. -/
theorem execBrx_of {s : State} {b : Block} {g : Gang} {sp : Split} (hi : Issues s b g sp) (c : Ctl) (o : BrxOp)
    (hagrees : ∀ sl ∈ memberSlices g sp, Terms.branches c sl → Terms.agrees s b c g.budget o.a sl)
    (huni : o.flag = true → ∀ x ∈ memberSlices g sp, ∀ y ∈ memberSlices g sp,
      (Jump.to c (Terms.held c g.budget o.a) x).target x = (Jump.to c (Terms.held c g.budget o.a) y).target y) :
    exec (.brx c o) s = .next (jumpSplit { s with fresh := s.fresh + 8 } b g sp c (Jump.to c (Terms.held c g.budget o.a))) := by
  have hjump : ∀ sl ∈ memberSlices g sp,
      (if brAdmits c sl then addrJump c g.budget o.a (s.fresh + sl.num) s.curWord 0x07 (fun pc => .goto pc sl false) sl else .next) =
        Jump.to c (Terms.held c g.budget o.a) sl := by
    intro sl hsl
    rw [brAdmits_eq]
    unfold Jump.to
    split
    · next hb => exact addrJump_of_agrees (hagrees sl hsl hb) ..
    · rfl
  refine (withSplit_of hi _).trans (congrArg _ ?_)
  dsimp only
  split_ifs with hmixed
  · obtain ⟨hflag, hway⟩ := Bool.and_eq_true_iff.mp hmixed
    rw [mixed_eq_false] at hway
    · exact absurd hway Bool.false_ne_true
    · intro p hp q hq
      obtain ⟨x, hx, rfl⟩ := List.mem_map.mp hp
      obtain ⟨y, hy, rfl⟩ := List.mem_map.mp hq
      dsimp only
      rw [hjump x hx, hjump y hy]
      exact huni (Bool.and_eq_true_iff.mp hflag).1 x hx y hy
  · exact jumpSplit_congr c hjump

/-- Settles O17: R59 to R61, R271. A slice goes where its jump goes (`jumpTo_done`), and a call leaves it in the frame of `Terms.frame`
(`call_done`); the bytes of a spill part stand in the model's own order (entry 28). -/
theorem indirectWords : Obligations.IndirectWords := by
  intro s b g sp c a adv size off hi hh on at' near to' room spills spilt grown
  have hi' : Issues { s with fresh := s.fresh + 8 } b g sp := ⟨hi.cur, hi.blk, hi.gang⟩
  refine ⟨fun h => ?_, fun h huni => ?_, fun h => ?_, fun h => ?_, fun h => ?_, fun h => ?_⟩
  · exact ⟨_, _, execBrx_of hi c _ h fun hflag => absurd hflag Bool.false_ne_true,
      jumpTo_done hi' hh c _ fun sl hsl hb => (h sl hsl hb).2.2.1⟩
  · refine ⟨_, _, execBrx_of hi c _ h fun _ x hx y hy => ?_, jumpTo_done hi' hh c _ fun sl hsl hb => (h sl hsl hb).2.2.1⟩
    rw [Jump.to_target, Jump.to_target]
    exact huni x hx y hy
  · refine ⟨_, _, execCall_of hi c _ fun sl hsl hb => ?_, call_done_of_room hi hh c adv size near _ h⟩
    obtain ⟨x, hx, -⟩ := frame_of_room (s := s) (b := b) (h sl hsl hb).2
    exact hx ▸ Option.some_ne_none x
  · refine ⟨_, _, execCallx_of hi c _ fun sl hsl hb => ?_, call_done_of_room hi hh c adv size at' _ fun sl hsl hb => ?_⟩
    · obtain ⟨x, hx, -⟩ := frame_of_room (s := s) (b := b) (h sl hsl hb).2
      exact ⟨(h sl hsl hb).1, hx ▸ Option.some_ne_none x⟩
    · exact ⟨(h sl hsl hb).1.2.2.1, (h sl hsl hb).2⟩
  · exact ⟨_, _, execCall_of hi c _ fun sl hsl hb => (h sl hsl hb).2, call_done hi hh c adv size near _ h⟩
  · exact ⟨_, _, execCallx_of hi c _ h, call_done hi hh c adv size at' _ fun sl hsl hb => ⟨(h sl hsl hb).1.2.2.1, (h sl hsl hb).2⟩⟩

/-! ### Returns (R59, R61, R271) -/

theorem popRet_of_two {sl : Slice} {e f : RetEntry} {r : List RetEntry} (h : sl.ret = e :: f :: r) :
    sl.popRet = some (e, { sl with ret := f :: r }) := by
  unfold Slice.popRet
  rw [h]
  rfl

theorem shrink_of_dry {sl : Slice} (h : sl.spill = []) (budget base n : Nat) :
    sl.shrink budget base n = ({ sl with base, n, low := min sl.low base }, false) := by
  unfold Slice.shrink
  simp [h]

/-- A return by the newest entry of each slice that takes it. -/
def Jump.return' (c : Ctl) (sl : Slice) : Jump :=
  if Terms.branches c sl then (match sl.ret with
    | e :: r => .goto e.addr { sl with base := sl.base - e.adv, n := e.n, low := min sl.low (sl.base - e.adv), ret := r } false
    | [] => .next) else .next

/-- Settles O18: R59, R271, by the jump of each slice (`jumpSplit_done_of_dry`). -/
theorem returnWord : Obligations.ReturnWord := by
  intro s b g sp c hi hh h
  have hi' : Issues { s with fresh := s.fresh + 8 } b g sp := ⟨hi.cur, hi.blk, hi.gang⟩
  have hjump : ∀ sl ∈ memberSlices g sp,
      (Jump.return' c sl).Stays { s with fresh := s.fresh + 8 } b sl ∧ ((Jump.return' c sl).slice sl).spill = sl.spill := by
    intro sl hsl
    unfold Jump.return'
    split
    · next hb =>
      obtain ⟨-, e, f, r, hret, hstay⟩ := h sl hsl hb
      rw [hret]
      exact ⟨⟨hstay, rfl⟩, rfl⟩
    · exact ⟨trivial, rfl⟩
  refine ⟨jumpSplit { s with fresh := s.fresh + 8 } b g sp c (Jump.return' c), s.fresh + 8,
    (withSplit_of hi _).trans (congrArg _ (jumpSplit_congr c fun sl hsl => ?_)), ?_⟩
  · rw [brAdmits_eq]
    unfold Jump.return'
    cases hb : Terms.branches c sl with
    | false => rfl
    | true =>
      obtain ⟨hspill, e, f, r, hret, -⟩ := h sl hsl hb
      rw [popRet_of_two hret, hret]
      dsimp only
      rw [shrink_of_dry (sl := { sl with ret := f :: r }) hspill]
      rfl
  · refine wordDone_mono_mem hi' (jumpSplit_done_of_dry hi' hh c _ (fun sl hsl => (hjump sl hsl).1)
      fun sl hsl => (congrArg List.length (hjump sl hsl).2).le) fun sl hsl _ sl' hsl' => ?_
    subst hsl'
    unfold Jump.return'
    split
    · intro e r hret
      rw [hret]
      rfl
    · rfl

end Sys2Proof.Machine

namespace Sys2Proof.Machine

/-! ### What the issuing gang is after a step

`wordDone` says what each slice becomes; what the splits of the gang are, and which slices it has, `Held` follows. -/

/-- The block stands, is not halted, and has the gang, of which `P` holds. -/
def Held (s : State) (bid gn : Nat) (P : Gang → Prop) : Prop :=
  ∃ b g, s.blk bid = some b ∧ b.halt = none ∧ b.gang gn = some g ∧ P g

theorem Issues.held {s : State} {b : Block} {g : Gang} {sp : Split} (hi : Issues s b g sp) (hh : b.halt = none) :
    Held s b.id g.num fun g' => g' = g := ⟨b, g, hi.blk, hh, hi.gang, rfl⟩

theorem Held.mono {s : State} {bid gn : Nat} {P Q : Gang → Prop} (h : Held s bid gn P) (hPQ : ∀ g, P g → Q g) : Held s bid gn Q := by
  obtain ⟨b, g, hb, hh, hg, hP⟩ := h
  exact ⟨b, g, hb, hh, hg, hPQ g hP⟩

theorem Held.running {s : State} {bid gn : Nat} {P : Gang → Prop} (h : Held s bid gn P) : ∀ b, s.blk bid = some b → b.halt = none := by
  obtain ⟨b, g, hb, hh, -⟩ := h
  intro b' hb'
  obtain rfl : b = b' := Option.some.inj (hb.symm.trans hb')
  exact hh

theorem Held.modGang {s : State} {bid gn : Nat} {P Q : Gang → Prop} (h : Held s bid gn P) {f : Gang → Gang} (hnum : ∀ g, (f g).num = g.num)
    (hf : ∀ g, P g → Q (f g)) : Held (s.modGang bid gn f) bid gn Q := by
  obtain ⟨b, g, hb, hh, hg, hP⟩ := h
  refine ⟨b.modGang gn f, f g, ?_, hh, ?_, hf g hP⟩
  · rw [State.blk_modGang, if_pos rfl, hb]
    rfl
  · rw [Block.gang_modGang _ _ _ _ hnum, if_pos rfl, hg]
    rfl

theorem Held.modSplit {s : State} {bid gn k : Nat} {P Q : Gang → Prop} (h : Held s bid gn P) {f : Split → Split}
    (hf : ∀ g, P g → Q (g.modSplit k f)) : Held (s.modSplit bid gn k f) bid gn Q := h.modGang (fun _ => rfl) hf

/-- A gang whose split that holds a slice has ended its run. -/
def Gang.ended (g : Gang) (k : Nat) : Gang :=
  ({ g with splits := g.splits.map fun sp => { sp with owed := false } } : Gang).modSplit k fun sp => { sp with inRun := false, runLen := 0 }

theorem Held.endRun {s : State} {bid gn k : Nat} {P Q : Gang → Prop} (h : Held s bid gn P) (hf : ∀ g, P g → Q (g.ended k)) :
    Held (s.endRun bid gn k) bid gn Q := by
  obtain ⟨b, g, hb, hh, hg, hP⟩ := h
  have hcore : ∀ c f, Held (s.modCore c f) bid gn P := fun _ _ => ⟨b, g, hb, hh, hg, hP⟩
  unfold State.endRun
  simp only [hb, hg, hh]
  exact ((hcore _ _).modGang (f := fun g => { g with splits := g.splits.map fun sp => { sp with owed := false } }) (Q := fun g' => ∃ g, P g ∧
    g' = { g with splits := g.splits.map fun sp => { sp with owed := false } }) (fun _ => rfl) fun g hg => ⟨g, hg, rfl⟩).modSplit
    fun g' ⟨g, hg, e⟩ => e ▸ hf g hg

theorem Held.endRuns {s : State} {bid gn : Nat} {P : Gang → Prop} (h : Held s bid gn P) (hf : ∀ g k, P g → P (g.ended k)) (l : List (List Nat)) :
    Held (l.foldl (fun s grp => match grp with | k :: _ => s.endRun bid gn k | [] => s) s) bid gn P := by
  induction l generalizing s with
  | nil => exact h
  | cons x r ih =>
    refine ih ?_
    cases x with
    | nil => exact h
    | cons k _ => exact h.endRun fun g => hf g k

/-- The slices of a gang, and what is known of the waits of its splits. -/
def Gang.Shows (slices : List Slice) (W : Wait → Prop) (g : Gang) : Prop := g.slices = slices ∧ ∀ q ∈ g.splits, W q.wait

theorem Gang.Shows.modSplit {slices : List Slice} {W : Wait → Prop} {g : Gang} (h : g.Shows slices W) (k : Nat) {f : Split → Split}
    (hf : ∀ q, W q.wait → W (f q).wait) : (g.modSplit k f).Shows slices W := by
  refine ⟨h.1, fun q hq => ?_⟩
  obtain ⟨q0, hq0, rfl⟩ := List.mem_map.mp hq
  split
  · exact hf q0 (h.2 q0 hq0)
  · exact h.2 q0 hq0

theorem Gang.Shows.ended {slices : List Slice} {W : Wait → Prop} {g : Gang} (h : g.Shows slices W) (k : Nat) : (g.ended k).Shows slices W := by
  have howed : Gang.Shows slices W { g with splits := g.splits.map fun sp => { sp with owed := false } } := by
    refine ⟨h.1, fun q hq => ?_⟩
    obtain ⟨q0, hq0, rfl⟩ := List.mem_map.mp hq
    exact h.2 q0 hq0
  exact howed.modSplit k fun _ hq => hq

theorem Held.either {a b : State} {bid gn : Nat} {P : Gang → Prop} {p : Prop} (d : Decidable p) (ha : Held a bid gn P) (hb : Held b bid gn P) :
    Held (@ite _ p d a b) bid gn P := by
  split
  · exact ha
  · exact hb

/-- The end of a word moves its slices, and leaves its splits waiting for nothing but a departure. -/
theorem Held.moveSplit {s : State} {b : Block} {g : Gang} {sp : Split} {slices : List Slice} {W : Wait → Prop} (c : Ctl)
    (target : Slice → BitVec 48) (e : Bool) (h : Held s b.id g.num (Gang.Shows slices W)) (hnone : W .none) (hdep : W .departure) :
    Held (moveSplit s b g sp c target e) b.id g.num (Gang.Shows (slices.map (advTo (movers g sp target []))) W) := by
  have hmove : Held (s.modGang b.id g.num fun gg => { gg with slices := gg.slices.map (advTo (movers g sp target [])) }) b.id g.num
      (Gang.Shows (slices.map (advTo (movers g sp target []))) W) :=
    h.modGang (fun _ => rfl) fun g hg => ⟨congrArg (List.map _) hg.1, hg.2⟩
  have hends : ∀ {u : State} (l : List (List Nat)) {p : Prop} (d : Decidable p),
      Held u b.id g.num (Gang.Shows (slices.map (advTo (movers g sp target []))) W) →
      Held (@ite _ p d (l.foldl (fun s grp => match grp with | k :: _ => s.endRun b.id g.num k | [] => s) u) u) b.id g.num
        (Gang.Shows (slices.map (advTo (movers g sp target []))) W) :=
    fun l _ d hu => .either d (hu.endRuns (fun _ k hg => hg.ended k) l) hu
  unfold Machine.moveSplit
  cases hsl : sp.slices with
  | nil => exact hmove
  | cons k r =>
    dsimp only
    refine hends _ _ ?_
    have hparted : ∀ (p : Prop) (d : Decidable p) (groups : List (List Nat)) (run at' : Nat),
        Held (@ite _ p d
          ((s.modGang b.id g.num fun gg => { gg with slices := gg.slices.map (advTo (movers g sp target [])) }).modGang b.id g.num fun gg =>
            { gg with splits := gg.splits.flatMap fun x => if x.slices.contains k then groups.map fun grp =>
                { slices := grp, readyAt := at', inRun := x.inRun, runLen := run, runStart := x.runStart, lastPc := x.lastPc, skid := x.skid,
                  stop := x.stop } else [x] })
          ((s.modGang b.id g.num fun gg => { gg with slices := gg.slices.map (advTo (movers g sp target [])) }).modSplit b.id g.num k fun x =>
            { x with readyAt := at', runLen := run, wait := .none, made := false, skid := if b.halt.isSome then x.skid + 1 else x.skid }))
          b.id g.num (Gang.Shows (slices.map (advTo (movers g sp target []))) W) := by
      intro p d groups run at'
      refine .either d (hmove.modGang (fun _ => rfl) fun g hg => ⟨hg.1, fun q hq => ?_⟩) (hmove.modSplit fun g hg => hg.modSplit k fun _ _ => hnone)
      obtain ⟨q0, hq0, hq⟩ := List.mem_flatMap.mp hq
      split at hq
      · obtain ⟨grp, -, rfl⟩ := List.mem_map.mp hq
        exact hnone
      · exact List.mem_singleton.mp hq ▸ hg.2 q0 hq0
    exact .either _ ((hparted ..).modSplit fun g hg => hg.modSplit k fun _ _ => hdep) (hparted ..)

theorem Held.finish {s : State} {b : Block} {g : Gang} {sp : Split} {slices : List Slice} {W : Wait → Prop} (c : Ctl) (e : Bool)
    (h : Held s b.id g.num (Gang.Shows slices W)) (hnone : W .none) (hdep : W .departure) :
    Held (finish s b g sp c e) b.id g.num fun g' => ∃ φ : Slice → Slice,
      (∀ sl, φ sl = { sl with pc := (φ sl).pc, execMask := (φ sl).execMask }) ∧ g'.Shows (slices.map φ) W := by
  unfold Machine.finish
  split
  · exact h.mono fun g' hg' => ⟨id, fun _ => rfl, by rw [List.map_id]; exact hg'⟩
  · refine (h.moveSplit c _ e hnone hdep).mono fun g' hg' => ⟨_, fun sl => ?_, hg'⟩
    unfold advTo
    split <;> rfl

/-! ### Changes that leave a gang as it is -/

theorem onlyGang_modGang_rel (s : State) (bid gn : Nat) {f : Gang → Gang} {R : Slice → Slice → Prop}
    (hf : ∀ g, f g = { g with slices := (f g).slices, splits := (f g).splits }) (hnone : ∀ g k, g.slice k = none → (f g).slice k = none)
    (hk : ∀ g k sl, g.slice k = some sl → ∃ sl', (f g).slice k = some sl' ∧ R sl sl') : onlyGang s (s.modGang bid gn f) bid gn R := by
  have hnum : ∀ g, (f g).num = g.num := fun g => by rw [hf g]
  refine ⟨rfl, fun _ => rfl, fun i hi => by rw [State.blk_modGang, if_neg hi], fun b hb => ?_⟩
  refine ⟨b.modGang gn f, by rw [State.blk_modGang, if_pos rfl, hb]; rfl, rfl, fun n hn => by rw [Block.gang_modGang _ _ _ _ hnum, if_neg hn],
    fun g hg => ⟨f g, by rw [Block.gang_modGang _ _ _ _ hnum, if_pos rfl, hg]; rfl, hf g, hnone g, hk g⟩⟩

/-- A change of the slices and splits of the gang that it finds. -/
theorem onlyGang_modGang_held {s : State} {bid gn : Nat} {f : Gang → Gang} {P : Gang → Prop} {R : Slice → Slice → Prop}
    (hnum : ∀ g, (f g).num = g.num) (h : Held s bid gn P)
    (hf : ∀ g, P g → f g = { g with slices := (f g).slices, splits := (f g).splits } ∧ (∀ k, g.slice k = none → (f g).slice k = none) ∧
      ∀ k sl, g.slice k = some sl → ∃ sl', (f g).slice k = some sl' ∧ R sl sl') : onlyGang s (s.modGang bid gn f) bid gn R := by
  obtain ⟨b, g, hb, -, hg, hP⟩ := h
  obtain ⟨hfields, hnone, hsome⟩ := hf g hP
  refine ⟨rfl, fun _ => rfl, fun i hi => by rw [State.blk_modGang, if_neg hi], fun b0 hb0 => ?_⟩
  obtain rfl : b = b0 := Option.some.inj (hb.symm.trans hb0)
  refine ⟨b.modGang gn f, by rw [State.blk_modGang, if_pos rfl, hb]; rfl, rfl, fun n hn => by rw [Block.gang_modGang _ _ _ _ hnum, if_neg hn],
    fun g0 hg0 => ?_⟩
  obtain rfl : g = g0 := Option.some.inj (hg.symm.trans hg0)
  exact ⟨f g, by rw [Block.gang_modGang _ _ _ _ hnum, if_pos rfl, hg]; rfl, hfields, hnone, hsome⟩

/-- A change that leaves the gang that it finds as it is. -/
theorem onlyGang_modGang_fixed {s : State} {bid gn : Nat} {f : Gang → Gang} (hnum : ∀ g, (f g).num = g.num)
    (h : Held s bid gn fun g => f g = g) : onlyGangF s (s.modGang bid gn f) bid gn id :=
  onlyGang_modGang_held hnum h fun g hg => ⟨by rw [hg], fun _ h => by rw [hg]; exact h, fun k sl h => ⟨sl, by rw [hg]; exact h, rfl⟩⟩

/-- A change that leaves the block that it finds as it is. -/
theorem onlyGang_modBlk_fixed {s : State} {bid : Nat} (gn : Nat) {f : Block → Block} (hid : ∀ b, (f b).id = b.id)
    (hfix : ∀ b, s.blk bid = some b → f b = b) : onlyGangF s (s.modBlk bid f) bid gn id := by
  refine ⟨rfl, fun _ => rfl, fun i hi => by rw [State.blk_modBlk _ _ _ _ hid, if_neg hi], fun b hb => ?_⟩
  exact ⟨b, by rw [State.blk_modBlk _ _ _ _ hid, if_pos rfl, hb]; exact congrArg some (hfix b hb), rfl, fun _ _ => rfl,
    fun g hg => ⟨g, hg, rfl, fun _ h => h, fun k sl h => ⟨sl, h, rfl⟩⟩⟩

/-! ### Waits of a gang that nothing ends -/

/-- The gang after the REGANG of a split, if it is complete, has gone on. -/
def Gang.regangStep (now : Nat) (g : Gang) (sp : Split) : Gang :=
  match sp.wait with
  | .regang mask => (match g.regangReady (g.splitPc sp) mask with
    | some (k :: r) => if (g.splitOf k).isSome && sp.slices.any (fun x => (k :: r).contains x) then g.regangJoin (k :: r) (now + 1) else g
    | _ => g)
  | _ => g

/-- The gang after every REGANG that is complete has gone on. -/
def Gang.regangs (now : Nat) (g : Gang) : Gang := g.splits.foldl (Gang.regangStep now) g

theorem Gang.regangStep_num (now : Nat) (g : Gang) (sp : Split) : (g.regangStep now sp).num = g.num := by
  unfold Gang.regangStep
  split
  · split
    · split <;> rfl
    · rfl
  · rfl

theorem Gang.regangStep_of_ready {now : Nat} {g : Gang} {sp : Split} {m : BitVec 8} {k : Nat} {r : List Nat} (hw : sp.wait = .regang m)
    (hready : g.regangReady (g.splitPc sp) m = some (k :: r)) (hsplit : (g.splitOf k).isSome = true) (hk : k ∈ sp.slices) :
    g.regangStep now sp = g.regangJoin (k :: r) (now + 1) := by
  have hany : sp.slices.any (fun x => (k :: r).contains x) = true := List.any_eq_true.mpr ⟨k, hk, by simp⟩
  unfold Gang.regangStep
  rw [hw]
  dsimp only
  rw [hready]
  dsimp only
  rw [hsplit, hany]
  rfl

theorem Gang.regangStep_of_open {now : Nat} {g : Gang} {sp : Split} {m : BitVec 8} (hw : sp.wait = .regang m)
    (hopen : g.regangReady (g.splitPc sp) m = none) : g.regangStep now sp = g := by
  unfold Gang.regangStep
  rw [hw]
  dsimp only
  rw [hopen]

theorem Gang.regangStep_of_none {now : Nat} {g : Gang} {sp : Split} (h : ∀ m, sp.wait ≠ .regang m) : g.regangStep now sp = g := by
  unfold Gang.regangStep
  split
  · next m hm => exact absurd hm (h m)
  · rfl

theorem tryRegang_eq {s : State} {bid gn : Nat} {P : Gang → Prop} (h : Held s bid gn P) :
    s.tryRegang bid gn = s.modGang bid gn (Gang.regangs s.now) := by
  obtain ⟨b, g, hb, hh, -⟩ := h
  unfold State.tryRegang
  rw [hb]
  dsimp only
  rw [hh]
  rfl

theorem Gang.regangs_num (now : Nat) (g : Gang) : (g.regangs now).num = g.num :=
  List.foldlRecOn (motive := fun x : Gang => x.num = g.num) g.splits _ rfl fun x hx sp _ => (x.regangStep_num now sp).trans hx

theorem Gang.regangs_of_none {now : Nat} {g : Gang} (h : ∀ q ∈ g.splits, ∀ m, q.wait ≠ .regang m) : g.regangs now = g :=
  (List.foldl_ext _ (fun x _ => x) g fun _ q hq => Gang.regangStep_of_none (h q hq)).trans (List.foldl_fixed' (fun _ => rfl) _)

/-- A gang arrives (R64): each of its slices that have not exited has executed BAR. -/
def Barrier.comesIn (x : Barrier) (g : Nat × BitVec 8) : Prop := g.2 ≠ 0 ∧ g.1 ∉ x.arrived ∧ mgetD x.marks g.1 0 &&& g.2 = g.2

theorem Barrier.gangIn_of_comesIn {x : Barrier} {g : Nat × BitVec 8} (h : x.comesIn g) : x.gangIn g = { x with arrived := x.arrived ++ [g.1] } := by
  obtain ⟨hne, hout, hmarks⟩ := h
  unfold Barrier.gangIn
  refine if_pos ?_
  simp only [Bool.and_eq_true, bne_iff_ne, Bool.not_eq_true', beq_iff_eq]
  exact ⟨⟨hne, by simpa using hout⟩, hmarks⟩

theorem Barrier.gangIn_of_not_comesIn {x : Barrier} {g : Nat × BitVec 8} (h : ¬ x.comesIn g) : x.gangIn g = x := by
  unfold Barrier.gangIn
  rw [if_neg]
  intro hc
  simp only [Bool.and_eq_true, bne_iff_ne, Bool.not_eq_true', beq_iff_eq] at hc
  obtain ⟨⟨hne, hout⟩, hmarks⟩ := hc
  exact h ⟨hne, by simpa using hout, hmarks⟩

theorem Barrier.foldl_gangIn_of_none {x : Barrier} {gangs : List (Nat × BitVec 8)} (h : ∀ g ∈ gangs, ¬ x.comesIn g) :
    gangs.foldl Barrier.gangIn x = x := by
  induction gangs with
  | nil => rfl
  | cons g r ih =>
    rw [List.foldl_cons, Barrier.gangIn_of_not_comesIn (h g List.mem_cons_self)]
    exact ih fun g' hg' => h g' (List.mem_cons_of_mem g hg')

theorem Barrier.not_comesIn_of_unmarked {x : Barrier} (h : x.marks = []) (g : Nat × BitVec 8) : ¬ x.comesIn g :=
  fun ⟨hne, _, hmarks⟩ => hne (by rw [← hmarks, h]; exact BitVec.zero_and)

/-- A barrier at which no gang has executed BAR, and that is not complete, stays as it is. -/
theorem Barrier.turn_of_unmarked {x : Barrier} (hmarks : x.marks = []) (hopen : x.expected = 0 ∨ x.arrived.length + min 1 x.seqArrived ≠ x.expected)
    (gangs : List (Nat × BitVec 8)) : x.turn gangs = x := by
  have hfold : gangs.foldl Barrier.gangIn x = x := Barrier.foldl_gangIn_of_none fun g _ => Barrier.not_comesIn_of_unmarked hmarks g
  unfold Barrier.turn
  rw [hfold]
  refine if_neg fun hc => ?_
  rw [Bool.and_eq_true, bne_iff_ne, beq_iff_eq] at hc
  exact hopen.elim hc.1 fun h => h hc.2

theorem Barrier.turn_of_idle {x : Barrier} (h : x.expected = 0 ∧ x.marks = []) (gangs : List (Nat × BitVec 8)) : x.turn gangs = x :=
  Barrier.turn_of_unmarked h.2 (.inl h.1) gangs

theorem Block.barSettle_of_idle {b : Block} (h : ∀ x ∈ b.bars, x.expected = 0 ∧ x.marks = []) : b.barSettle = b := by
  have hbars : b.bars.map (fun x => ((x.turn (b.gangs.filterMap fun g => if g.retired then none else some (g.num, g.liveMask))).turn
      (b.gangs.filterMap fun g => if g.retired then none else some (g.num, g.liveMask))).turn
      (b.gangs.filterMap fun g => if g.retired then none else some (g.num, g.liveMask))) = b.bars := by
    refine (List.map_congr_left fun x hx => ?_).trans (List.map_id _)
    rw [Barrier.turn_of_idle (h x hx), Barrier.turn_of_idle (h x hx), Barrier.turn_of_idle (h x hx)]
    rfl
  unfold Block.barSettle
  dsimp only
  rw [hbars]

/-! ### Lanes that exit (R69) -/

/-- The lane of a gang with a number is there and has not exited. -/
def Gang.there (g : Gang) (n : Nat) : Bool := match g.slice (n / 4) with | some sl => sl.live.contains (n % 4) | none => false

/-- The lanes that wait at SYNCM with a mask may pass (R315). -/
def Gang.maskMet (g : Gang) (m : Word) : Bool :=
  m != 0 && (List.range 32).all fun n =>
    !m.getLsbD n || !g.there n ||
      (g.slices.flatMap fun sl => sl.syncm.map fun x => (4 * sl.num + x.1, x.2)).any fun x => x.1 == n && x.2 == m

/-- A slice whose lanes have passed where their masks are met. -/
def Gang.pass (g : Gang) (sl : Slice) : Slice := { sl with syncm := sl.syncm.map fun x => if g.maskMet x.2 then (x.1, 0) else x }

theorem Gang.syncmSettle_eq (g : Gang) : g.syncmSettle = { g with slices := g.slices.map g.pass } := rfl

theorem Gang.pass_of_nil (g : Gang) {sl : Slice} (h : sl.syncm = []) : g.pass sl = sl := by
  unfold Gang.pass
  rw [h, List.map_nil, ← h]

/-- The gang after lanes have exited: slices that are gone leave their splits. -/
def Gang.exited (g : Gang) : Gang :=
  { g.syncmSettle with
    splits := (g.splits.map fun sp => { sp with slices := sp.slices.filter fun k => !((g.slices.filter Slice.gone).map (·.num)).contains k }).filter
      fun sp => !sp.slices.isEmpty }

theorem Gang.slice_exited (g : Gang) (k : Nat) : g.exited.slice k = (g.slice k).map g.pass := find_map_key Slice.num g.pass (fun _ => rfl) g.slices k

theorem Gang.live_exited {g : Gang} (h : ∃ sl ∈ g.slices, sl.live ≠ []) : g.exited.liveSlices.isEmpty = false := by
  obtain ⟨sl, hsl, hlive⟩ := h
  refine List.isEmpty_eq_false_iff_exists_mem.mpr ⟨g.pass sl, List.mem_filter.mpr ⟨List.mem_map.mpr ⟨sl, hsl, rfl⟩, ?_⟩⟩
  show (!sl.live.isEmpty) = true
  simpa using hlive

theorem Gang.wait_exited {g : Gang} (h : ∀ q ∈ g.splits, ∀ m, q.wait ≠ .regang m) : ∀ q ∈ g.exited.splits, ∀ m, q.wait ≠ .regang m := by
  intro q hq
  obtain ⟨q0, hq0, rfl⟩ := List.mem_map.mp (List.mem_of_mem_filter hq)
  exact h q0 hq0

/-- Where lanes have exited and a live one is left, nothing waits and no barrier is in use, nothing follows. -/
theorem afterExit_quiet {s : State} {bid gn : Nat}
    (h : Held s bid gn fun g => (∃ sl ∈ g.slices, sl.live ≠ []) ∧ ∀ q ∈ g.splits, ∀ m, q.wait ≠ .regang m)
    (hbars : ∀ b, s.blk bid = some b → ∀ x ∈ b.bars, x.expected = 0 ∧ x.marks = []) :
    onlyGang s (s.afterExit bid gn) bid gn fun sl sl' => ∃ g : Gang, sl' = g.pass sl := by
  -- the slices that are gone leave their splits
  have hexit : onlyGang s (s.modGang bid gn Gang.exited) bid gn fun sl sl' => ∃ g : Gang, sl' = g.pass sl :=
    onlyGang_modGang_rel s bid gn (fun _ => rfl) (fun g k hk => by rw [g.slice_exited, hk]; rfl)
      fun g k sl hk => ⟨g.pass sl, by rw [g.slice_exited, hk]; rfl, g, rfl⟩
  have hexited : Held (s.modGang bid gn Gang.exited) bid gn fun g =>
      g.liveSlices.isEmpty = false ∧ ∀ q ∈ g.splits, ∀ m, q.wait ≠ .regang m :=
    h.modGang (fun _ => rfl) fun g hg => ⟨g.live_exited hg.1, Gang.wait_exited hg.2⟩
  -- no REGANG goes on
  have hregang := onlyGang_modGang_fixed (Gang.regangs_num s.now) (hexited.mono fun g hg => Gang.regangs_of_none hg.2)
  have hregangs : Held ((s.modGang bid gn Gang.exited).modGang bid gn (Gang.regangs s.now)) bid gn fun g => g.liveSlices.isEmpty = false :=
    hexited.modGang (Gang.regangs_num s.now) fun g hg => by rw [Gang.regangs_of_none hg.2]; exact hg.1
  obtain ⟨b, g, hb, -, hg, hlive⟩ := hregangs
  -- the barriers stay
  have hbar : onlyGangF ((s.modGang bid gn Gang.exited).modGang bid gn (Gang.regangs s.now))
      (((s.modGang bid gn Gang.exited).modGang bid gn (Gang.regangs s.now)).modBlk bid Block.barSettle) bid gn id := by
    refine onlyGang_modBlk_fixed gn (fun _ => rfl) fun b' hb' => Block.barSettle_of_idle ?_
    obtain ⟨b0, hb0⟩ : ∃ b0, s.blk bid = some b0 := by obtain ⟨b0, _, hb0, -⟩ := h; exact ⟨b0, hb0⟩
    obtain ⟨b1, hb1, hbars1, -⟩ := (onlyGang_trans hexit hregang).2.2.2 b0 hb0
    obtain rfl : b' = b1 := Option.some.inj (hb'.symm.trans hb1)
    rw [hbars1]
    exact hbars b0 hb0
  have hafter : s.afterExit bid gn = ((s.modGang bid gn Gang.exited).modGang bid gn (Gang.regangs s.now)).modBlk bid Block.barSettle := by
    have htry := tryRegang_eq hexited
    have hblk : ((s.modGang bid gn Gang.exited).tryRegang bid gn).blk bid = some b := htry ▸ hb
    unfold State.afterExit
    dsimp only
    split
    · next hnone => exact nomatch hnone.symm.trans hblk
    · next b' hb' =>
      obtain rfl : b' = b := Option.some.inj (hb'.symm.trans hblk)
      rw [hg]
      dsimp only
      rw [hlive]
      exact congrArg (fun u : State => u.modBlk bid Block.barSettle) htry
  rw [hafter]
  refine onlyGang_mono (onlyGang_trans (onlyGang_trans hexit hregang) hbar) ?_
  rintro sl sl' ⟨y, ⟨z, hz, rfl⟩, rfl⟩
  exact hz

theorem Slice.mem_live {sl : Slice} {j : Nat} : j ∈ sl.live ↔ j < 4 ∧ (sl.lane j).present = true ∧ (sl.lane j).exited = false := by
  unfold Slice.live Slice.lane
  rw [List.mem_filter, List.mem_range, List.getD_eq_getElem?_getD]
  cases sl.lanes[j]? with
  | none => simp
  | some l => simp

theorem Slice.lane_exitLanes (sl : Slice) {l : List Nat} (hd : l.Nodup) (hlt : ∀ j ∈ l, j < sl.lanes.length) (i : Nat) :
    (sl.exitLanes l).lane i = if i ∈ l then { sl.lane i with exited := true } else sl.lane i :=
  sl.lane_eachLane (fun _ x => { x with exited := true }) hd hlt i

theorem Slice.exitLanes_eq (sl : Slice) (l : List Nat) : sl.exitLanes l = { sl with lanes := (sl.exitLanes l).lanes } :=
  sl.eachLane_eq (fun _ x => { x with exited := true }) l

/-- A lane that a word leaves out stays live when the word's lanes exit. -/
theorem mem_live_exitLanes {c : Ctl} {sl : Slice} {j : Nat} (hj : j ∈ sl.live) (hout : j ∉ effLanes c sl) :
    j ∈ (sl.exitLanes (effLanes c sl)).live := by
  rw [Slice.mem_live, sl.lane_exitLanes (effLanes_nodup c sl) (fun _ => effLanes_lane), if_neg hout]
  exact Slice.mem_live.mp hj

/-! ### Retiring and yielding -/

theorem modWhere_of_fixed {α : Type _} {p : α → Bool} {f : α → α} {l : List α} (h : ∀ x, f x = x) : modWhere p f l = l := by
  unfold modWhere
  simp [h]

theorem onMembers_id (s : State) (b : Block) (g : Gang) (sp : Split) : onMembers s b g sp id = s := by
  unfold onMembers State.modGang State.modBlk Block.modGang
  simp [modWhere_of_fixed]

/-- A word that ends normally and changes nothing. -/
theorem finish_done {s : State} {b : Block} {g : Gang} {sp : Split} (hi : Issues s b g sp) (hh : b.halt = none) (c : Ctl) (e : Bool) :
    wordDone s (finish s b g sp c e) b g sp fun sl sl' => Terms.became c sl sl' := by
  have hdone := wordDone_finish hi hh c e id fun _ => rfl
  rw [onMembers_id] at hdone
  exact wordDone_mono hdone fun sl sl' h => h ▸ became_went sl

/-- EXIT where a live lane is left in the gang, nothing waits and no barrier is in use (R69, R276). -/
theorem exit_done {s : State} {b : Block} {g : Gang} {sp : Split} (hi : Issues s b g sp) (hh : b.halt = none) (c : Ctl)
    (hhandler : b.isHandler = false) (hbars : ∀ x ∈ b.bars, x.expected = 0 ∧ x.marks = []) (hsyncm : ∀ x ∈ g.slices, x.syncm = [])
    (hwait : ∀ q ∈ g.splits, ∀ m, q.wait ≠ .regang m)
    (hleft : ∃ sl ∈ g.slices, ∃ j ∈ sl.live, sp.slices.contains sl.num = true → j ∉ effLanes c sl) :
    ∃ t, exec (.exit c) s = .next t ∧ wordDone s t b g sp fun sl sl' => sl' = went c (nextPc sl.pc) (sl.exitLanes (effLanes c sl)) := by
  refine ⟨_, withSplit_of hi _, ?_⟩
  have hmarks : ∀ u lanes, State.markExits u b lanes = u := fun u lanes => by rw [State.markExits, hhandler]; rfl
  dsimp only
  rw [hmarks]
  generalize (!((memberSlices g sp).any fun sl => !(sl.exitLanes (effLanes c sl)).active.isEmpty || sl.frozen) &&
    !((memberSlices g sp).flatMap fun sl => (effLanes c sl).map fun j => 4 * sl.num + j).isEmpty) = e
  have hnum : ∀ sl : Slice, (sl.exitLanes (effLanes c sl)).num = sl.num := fun sl => by rw [Slice.exitLanes_eq]
  have hdone := wordDone_finish hi hh c e (fun sl => sl.exitLanes (effLanes c sl)) hnum
  have hheld : Held (onMembers s b g sp fun sl => sl.exitLanes (effLanes c sl)) b.id g.num
      (Gang.Shows (g.slices.map fun sl => if sp.slices.contains sl.num then sl.exitLanes (effLanes c sl) else sl) fun w => ∀ m, w ≠ .regang m) :=
    (hi.held hh).modGang (fun _ => rfl) fun g' hg' => by subst hg'; exact ⟨rfl, hwait⟩
  have hend := hheld.finish (sp := sp) c e (fun _ => Wait.noConfusion) fun _ => Wait.noConfusion
  have hquiet := afterExit_quiet (hend.mono fun g' ⟨φ, hφ, hslices, hwaits⟩ => ⟨?_, hwaits⟩) fun b' hb' => ?_
  · refine onlyGang_mono_mem hi (onlyGang_trans hdone hquiet) fun sl hsl sl' ⟨y, hy, g', hg'⟩ => ?_
    have hy0 : y.syncm = [] := by
      split at hy
      · rw [hy, Slice.exitLanes_eq]
        unfold went
        split <;> exact hsyncm sl (Gang.mem_of_slice hsl)
      · rw [hy]
        exact hsyncm sl (Gang.mem_of_slice hsl)
    rw [hg', g'.pass_of_nil hy0]
    exact hy
  · obtain ⟨sl, hsl, j, hj, hout⟩ := hleft
    refine ⟨_, hslices ▸ List.mem_map_of_mem (List.mem_map_of_mem hsl), List.ne_nil_of_mem (a := j) ?_⟩
    have hlive : ∀ x : Slice, (φ x).live = x.live := fun x => by rw [hφ x]; rfl
    rw [hlive]
    split
    · next hc => exact mem_live_exitLanes hj (hout hc)
    · exact hj
  · obtain ⟨b1, hb1, hfields, -⟩ := hdone.2.2.2 b hi.blk
    obtain rfl : b' = b1 := Option.some.inj (hb'.symm.trans hb1)
    rw [hfields]
    exact hbars

/-- Settles O36: R69, R166, R168, R276. That SPINH and YIELD end the run is no change that `wordDone` speaks of. -/
theorem runWords : Obligations.RunWords := by
  intro s b g sp c hi hh
  refine ⟨⟨_, withSplit_of hi _, finish_done hi hh c _⟩, fun hno => ⟨_, withSplit_of hi _, ?_⟩, fun hyes htakes => ⟨_, withSplit_of hi _, ?_⟩,
    fun hhandler hbars hsyncm hwait hleft => ?_⟩
  · dsimp only
    rw [hno]
    split
    · exact finish_done hi hh c true
    · exact finish_done hi hh c false
  · have hany : (memberSlices g sp).any (takes c) = true := List.any_eq_true.mpr htakes
    dsimp only
    rw [if_pos hany, if_pos hyes]
    have hi' : Issues { s with work := s.work ++ [.unitSave b.id] } b g sp := ⟨hi.cur, hi.blk, hi.gang⟩
    exact wordDone_mono (wordDone_finish hi' hh c true (fun sl => { sl with yielded := true }) fun _ => rfl) fun sl sl' h =>
      h ▸ became_went { sl with yielded := true }
  · obtain ⟨t, ht, hdone⟩ := exit_done hi hh c hhandler hbars hsyncm hwait hleft
    refine ⟨t, ht, wordDone_mono hdone fun sl sl' h => ?_⟩
    have hlane := sl.lane_exitLanes (effLanes_nodup c sl) fun _ => effLanes_lane
    have hlanes : sl'.lanes = (sl.exitLanes (effLanes c sl)).lanes := h ▸ went_lanes ..
    refine ⟨?_, fun j => by rw [Slice.lane, hlanes]; exact hlane j⟩
    rw [hlanes, h, Slice.exitLanes_eq]
    exact became_went { sl with lanes := (sl.exitLanes (effLanes c sl)).lanes }

end Sys2Proof.Machine

namespace Sys2Proof.Machine

/-! ### A word that ends after its block has changed -/

theorem onlyGang_now {s t : State} {bid gn : Nat} {f : Slice → Slice → Prop} (h : onlyGang s t bid gn f) : t.now = s.now := by rw [h.1]

/-- What the end of a word reads of its block. -/
theorem finish_congr {s : State} {b b' : Block} (hid : b'.id = b.id) (hhalt : b'.halt = b.halt) (hwhey : b'.whey = b.whey)
    (hlaunch : b'.launch = b.launch) (g : Gang) (sp : Split) (c : Ctl) (e : Bool) : finish s b' g sp c e = finish s b g sp c e := by
  unfold finish moveSplit
  rw [hid, hhalt, hwhey, hlaunch]

/-- A word ends normally in a state in which its gang stands as it was. -/
theorem finish_done_of {s u : State} {b : Block} {g : Gang} {sp : Split} (hi : Issues s b g sp) (hh : b.halt = none) (c : Ctl) (e : Bool)
    (hu : onlyGangF s u b.id g.num id) (hg : Held u b.id g.num fun g' => g' = g) :
    wordDone s (finish u b g sp c e) b g sp fun sl sl' => Terms.became c sl sl' := by
  obtain ⟨b', hb', hfields, -⟩ := hu.2.2.2 b hi.blk
  obtain ⟨b0, g0, hb0, hh0, hg0, rfl⟩ := hg
  obtain rfl : b' = b0 := Option.some.inj (hb'.symm.trans hb0)
  have hid : b'.id = b.id := State.blk_id hb'
  have hi' : Issues u b' g0 sp := by
    refine ⟨?_, hid.symm ▸ hb', hg0⟩
    have hcur : u.cur = s.cur := by rw [hu.1]
    rw [hid, hcur]
    exact hi.cur
  have hdone := finish_done hi' hh0 c e
  rw [finish_congr hid (hh0.trans hh.symm) (by rw [hfields]) (by rw [hfields])] at hdone
  unfold wordDone at hdone
  rw [hid] at hdone
  refine onlyGang_mono (onlyGang_trans hu hdone) fun sl sl' ⟨y, hy, hz⟩ => ?_
  obtain rfl : y = sl := hy
  exact hz

/-! ### REGANG (R55, R274) -/

theorem onlyGang_waitAt {s : State} {b : Block} {g : Gang} {sp : Split} {P : Gang → Prop} (h : Held s b.id g.num P) (w : Wait) (made : Bool) :
    onlyGangF s (waitAt s b g sp w made) b.id g.num id := by
  unfold waitAt
  cases sp.slices with
  | nil => exact onlyGang_refl ..
  | cons k r =>
    have hsplit := onlyGang_modSplit s b.id g.num k fun x => { x with wait := w, made := x.made || made, losses := 0 }
    exact onlyGangF_trans hsplit (onlyGang_endRun _ _ _ _ (h.modSplit (Q := fun _ => True) fun _ _ => trivial).running)

/-- A split that has come to REGANG: it waits there, no sooner to issue than its stall has passed. -/
def Split.atRegang (sp : Split) (m : BitVec 8) (at' : Nat) : Split :=
  { sp with readyAt := max sp.readyAt at', wait := .regang m, made := true, losses := 0, owed := false, inRun := false, runLen := 0 }

theorem Gang.modSplit_pair {g : Gang} {p q : Split} {k j : Nat} (hsplits : g.splits = [p, q]) (hp : p.slices = [k]) (hq : q.slices = [j])
    (hkj : k ≠ j) (f : Split → Split) : g.modSplit k f = { g with splits := [f p, q] } := by
  have hkk : ([k].contains k) = true := by simp
  have hjk : ([j].contains k) = false := by simpa using hkj
  unfold Gang.modSplit modWhere
  simp only [hsplits, List.map_cons, List.map_nil, hp, hq, hkk, hjk, if_true, Bool.false_eq_true, if_false]

/-- The two splits of a gang once the first has come to REGANG. -/
theorem Held.atRegang {s : State} {b : Block} {g : Gang} {p q : Split} {k j : Nat} (h : Held s b.id g.num fun g' => g' = g) (c : Ctl)
    (m : BitVec 8) (hsplits : g.splits = [p, q]) (hp : p.slices = [k]) (hq : q.slices = [j]) (hkj : k ≠ j) :
    Held (waitAt (s.keepStall b g p c) b g p (.regang m) true) b.id g.num fun g' =>
      g' = { g with splits := [p.atRegang m (s.now + 1 + c.stall.toNat), { q with owed := false }] } := by
  have hpair : ∀ (g : Gang) (p : Split) (f : Split → Split), g.splits = [p, q] → p.slices = [k] →
      g.modSplit k f = { g with splits := [f p, q] } := fun g p f hg hp => Gang.modSplit_pair hg hp hq hkj f
  unfold waitAt State.keepStall
  rw [hp]
  refine ((h.modSplit (Q := fun g' => ∃ p' : Split, p' = { p with readyAt := max p.readyAt (s.now + 1 + c.stall.toNat) } ∧
    g' = { g with splits := [p', q] }) fun g' hg' => ?_).modSplit (Q := fun g' => ∃ p' : Split,
      p'.slices = [k] ∧ { p' with owed := false, inRun := false, runLen := 0 } = p.atRegang m (s.now + 1 + c.stall.toNat) ∧
      g' = { g with splits := [p', q] }) fun g' hg' => ?_).endRun fun g' hg' => ?_
  · exact ⟨_, rfl, by subst hg'; exact hpair g' p _ hsplits hp⟩
  · obtain ⟨p', rfl, rfl⟩ := hg'
    refine ⟨_, ?_, ?_, hpair _ _ _ rfl hp⟩
    · exact hp
    · simp only [Bool.or_true, Split.atRegang]
  · obtain ⟨p', hp', hrun, rfl⟩ := hg'
    rw [← hrun, Gang.ended]
    exact Gang.modSplit_pair (p := { p' with owed := false }) (q := { q with owed := false }) rfl hp' hq hkj _

/-- The slices that a REGANG joins, where two splits of one slice each wait at one word with one mask. -/
theorem Gang.regangReady_pair {g : Gang} {x y : Slice} {p q : Split} {m : BitVec 8} (hslices : g.slices = [x, y]) (hsplits : g.splits = [p, q])
    (hp : p.slices = [x.num]) (hq : q.slices = [y.num]) (hpw : p.wait = .regang m) (hqw : q.wait = .regang m) (hne : x.num ≠ y.num)
    (hx : x.live ≠ []) (hy : y.live ≠ []) (hpc : x.pc = y.pc) (hmx : m.getLsbD x.num = true) (hmy : m.getLsbD y.num = true) :
    g.regangReady (g.splitPc p) m = some [x.num, y.num] := by
  have hlive : g.liveSlices = [x, y] := by
    unfold Gang.liveSlices Slice.gone
    rw [hslices]
    simp [hx, hy]
  have hyx : ([x.num].contains y.num) = false := by simpa using hne.symm
  have hxy : (x.num == y.num) = false := by simpa using hne
  have hgx : g.slice x.num = some x := by simp [Gang.slice, hslices]
  have hgy : g.slice y.num = some y := by simp [Gang.slice, hslices, hne]
  have hsx : g.splitOf x.num = some p := by simp [Gang.splitOf, hsplits, hp]
  have hsy : g.splitOf y.num = some q := by simp [Gang.splitOf, hsplits, hp, hq, hne.symm]
  have hpcp : g.splitPc p = x.pc := by
    unfold Gang.splitPc
    rw [hp]
    dsimp only
    rw [hgx]
  unfold Gang.regangReady
  simp only [hlive, List.map_cons, List.map_nil, List.filter_cons, hmx, hmy, if_true, List.filter_nil, List.all_cons, hsx, hgx, hsy, hgy,
    hpw, hqw, hpcp, ← hpc, List.all_nil, beq_self_eq_true, Bool.and_self]

theorem Gang.regangReady_joined {g : Gang} {r : Split} {k j : Nat} (hsplits : g.splits = [r]) (hr : r.slices = [k, j]) (hw : r.wait = .none)
    (pc : BitVec 48) (m : BitVec 8) (hlive : ∃ sl ∈ g.liveSlices, sl.num = k ∧ m.getLsbD k = true) : g.regangReady pc m = none := by
  obtain ⟨sl, hsl, rfl, hm⟩ := hlive
  have hsplit : g.splitOf sl.num = some r := by simp [Gang.splitOf, hsplits, hr]
  unfold Gang.regangReady
  dsimp only
  rw [if_neg]
  intro hall
  have hone := List.all_eq_true.mp hall sl.num (List.mem_filter.mpr ⟨List.mem_map_of_mem hsl, hm⟩)
  rw [hsplit] at hone
  split at hone
  · next h1 _ =>
    obtain rfl := Option.some.inj h1
    rw [hw] at hone
    exact absurd hone (by simp)
  · exact Bool.false_ne_true hone

/-- REGANG of two slices that wait at one word with one mask joins them. -/
theorem Gang.regangs_pair (now : Nat) {g : Gang} {x y : Slice} {p q : Split} {m : BitVec 8} (hslices : g.slices = [x, y])
    (hsplits : g.splits = [p, q]) (hp : p.slices = [x.num]) (hq : q.slices = [y.num]) (hpw : p.wait = .regang m) (hqw : q.wait = .regang m)
    (hne : x.num ≠ y.num) (hx : x.live ≠ []) (hy : y.live ≠ []) (hpc : x.pc = y.pc) (hmx : m.getLsbD x.num = true)
    (hmy : m.getLsbD y.num = true) : g.regangs now = g.regangJoin [x.num, y.num] (now + 1) := by
  have hready := Gang.regangReady_pair hslices hsplits hp hq hpw hqw hne hx hy hpc hmx hmy
  have hsplit : (g.splitOf x.num).isSome = true := by simp [Gang.splitOf, hsplits, hp]
  have hjoined : ∀ pc, (g.regangJoin [x.num, y.num] (now + 1)).regangReady pc m = none := by
    intro pc
    refine Gang.regangReady_joined (r := { slices := [x.num, y.num], readyAt := g.readyFrom [x.num, y.num] (now + 1), owed := true }) ?_ rfl rfl
      pc m ⟨{ x with pc := nextPc x.pc, execMask := none }, ?_, rfl, hmx⟩
    · simp [Gang.regangJoin, hsplits, hp, hq]
    · refine List.mem_filter.mpr ⟨?_, ?_⟩
      · rw [Gang.regangJoin, hslices, List.map_cons, if_pos (by simp)]
        exact List.mem_cons_self
      · show (!x.live.isEmpty) = true
        simpa using hx
  unfold Gang.regangs
  rw [hsplits, List.foldl_cons, List.foldl_cons, List.foldl_nil, Gang.regangStep_of_ready hpw hready hsplit (by rw [hp]; exact List.mem_singleton_self _),
    Gang.regangStep_of_open hqw (hjoined _)]

theorem Gang.slice_regangJoin (g : Gang) (named : List Nat) (t k : Nat) :
    (g.regangJoin named t).slice k = (g.slice k).map fun sl => if named.contains sl.num then { sl with pc := nextPc sl.pc, execMask := none } else sl :=
  find_map_key Slice.num _ (fun sl => by split <;> rfl) g.slices k

/-- A REGANG whose other slice waits at it: both go on, as one split. -/
theorem regang_joins {s : State} {b : Block} {g : Gang} {sp q : Split} {x y : Slice} {m : BitVec 8} (hi : Issues s b g sp) (hh : b.halt = none)
    (c : Ctl) (hm : m ≠ 0) (hslices : g.slices = [x, y]) (hsplits : g.splits = [sp, q]) (hsp : sp.slices = [x.num]) (hq : q.slices = [y.num])
    (hw : q.wait = .regang m) (hne : x.num ≠ y.num) (hx : x.live ≠ []) (hy : y.live ≠ []) (hpc : x.pc = y.pc)
    (hmx : m.getLsbD x.num = true) (hmy : m.getLsbD y.num = true) :
    ∃ t, exec (.regang c m) s = .next t ∧ (onlyGang s t b.id g.num fun sl sl' => sl' = { sl with pc := sl.pc + 8, execMask := none }) ∧
      ∀ b', t.blk b.id = some b' → ∀ g', b'.gang g.num = some g' →
        g'.splits = [({ slices := [x.num, y.num], readyAt := max (s.now + 1 + c.stall.toNat) (max sp.readyAt q.readyAt), owed := true } : Split)] := by
  have hexec : exec (.regang c m) s = .next ((waitAt (s.keepStall b g sp c) b g sp (.regang m) true).tryRegang b.id g.num) := by
    exact (withSplit_of hi _).trans (congrArg _ (if_neg (by simpa using hm)))
  have hstall : onlyGangF s (s.keepStall b g sp c) b.id g.num id := onlyGang_modSplit ..
  have hkept : Held (s.keepStall b g sp c) b.id g.num fun _ => True := (hi.held hh).modSplit fun _ _ => trivial
  have hwait : onlyGangF s (waitAt (s.keepStall b g sp c) b g sp (.regang m) true) b.id g.num id :=
    onlyGangF_trans hstall (onlyGang_waitAt hkept _ _)
  have hpair := (hi.held hh).atRegang c m hsplits hsp hq hne
  have hjoin : ∀ g', g' = { g with splits := [sp.atRegang m (s.now + 1 + c.stall.toNat), { q with owed := false }] } →
      g'.regangs s.now = g'.regangJoin [x.num, y.num] (s.now + 1) := fun g' hg' => by
    subst hg'
    exact Gang.regangs_pair s.now hslices rfl hsp hq rfl hw hne hx hy hpc hmx hmy
  refine ⟨_, hexec, ?_, ?_⟩
  · rw [tryRegang_eq hpair, onlyGang_now hwait]
    refine onlyGang_mono_mem hi (onlyGang_trans hwait (onlyGang_modGang_held (R := fun sl sl' =>
      sl' = if [x.num, y.num].contains sl.num then { sl with pc := nextPc sl.pc, execMask := none } else sl) (Gang.regangs_num s.now) hpair
      fun g' hg' => ?_)) ?_
    · rw [hjoin g' hg']
      exact ⟨rfl, fun k hk => by rw [g'.slice_regangJoin, hk]; rfl, fun k sl hk => ⟨_, by rw [g'.slice_regangJoin, hk]; rfl, rfl⟩⟩
    · rintro sl hsl sl' ⟨z, rfl, rfl⟩
      have hmem := Gang.mem_of_slice hsl
      rw [hslices, List.mem_cons, List.mem_singleton] at hmem
      exact if_pos (by rcases hmem with rfl | rfl <;> simp)
  · have hjoined : Held ((waitAt (s.keepStall b g sp c) b g sp (.regang m) true).tryRegang b.id g.num) b.id g.num fun g' =>
        g'.splits = [({ slices := [x.num, y.num], readyAt := max (s.now + 1 + c.stall.toNat) (max sp.readyAt q.readyAt), owed := true } : Split)] := by
      rw [tryRegang_eq hpair, onlyGang_now hwait]
      refine hpair.modGang (Gang.regangs_num s.now) fun g' hg' => ?_
      rw [hjoin g' hg', hg']
      simp [Gang.regangJoin, Gang.readyFrom, Split.atRegang, hsp, hq]
      omega
    intro b' hb' g' hg'
    obtain ⟨b1, g1, hb1, -, hg1, hsplits1⟩ := hjoined
    obtain rfl : b1 = b' := Option.some.inj (hb1.symm.trans hb')
    obtain rfl : g1 = g' := Option.some.inj (hg1.symm.trans hg')
    exact hsplits1

/-! ### BAR (R64, R316) -/

/-- A gang that takes part in the barriers of its block, with its live slices. -/
def Gang.barKey (g : Gang) : Option (Nat × BitVec 8) := if g.retired then none else some (g.num, g.liveMask)

/-- The gangs of a block that take part in its barriers. -/
def Block.barGangs (b : Block) : List (Nat × BitVec 8) := b.gangs.filterMap Gang.barKey

theorem Block.barSettle_eq (b : Block) :
    b.barSettle = { b with bars := b.bars.map fun x => ((x.turn b.barGangs).turn b.barGangs).turn b.barGangs } := rfl

/-- Gangs that arrive leave a barrier's phase, and its arrivals in their places. -/
theorem Barrier.foldl_gangIn (gangs : List (Nat × BitVec 8)) (x : Barrier) :
    (gangs.foldl Barrier.gangIn x).phase = x.phase ∧ x.arrived.length ≤ (gangs.foldl Barrier.gangIn x).arrived.length ∧
      ((gangs.foldl Barrier.gangIn x).arrived.length = x.arrived.length → ∀ g ∈ gangs, ¬ x.comesIn g) := by
  induction gangs generalizing x with
  | nil => exact ⟨rfl, le_rfl, fun _ _ h => nomatch h⟩
  | cons g r ih =>
    obtain ⟨hphase, hlen, hsame⟩ := ih (x.gangIn g)
    rw [List.foldl_cons]
    by_cases hin : x.comesIn g
    · rw [Barrier.gangIn_of_comesIn hin] at hphase hlen hsame ⊢
      rw [List.length_append, List.length_singleton] at hlen
      exact ⟨hphase, by omega, fun h => by omega⟩
    · rw [Barrier.gangIn_of_not_comesIn hin] at hphase hlen hsame ⊢
      exact ⟨hphase, hlen, fun h g' hg' => (List.mem_cons.mp hg').elim (fun e => e ▸ hin) (hsame h g')⟩

/-- What a turn of a barrier can do: its phase completes, or gangs arrive. -/
theorem Barrier.turn_cases (x : Barrier) (gangs : List (Nat × BitVec 8)) :
    (x.turn gangs).phase = x.phase + 1 ∨ x.turn gangs = gangs.foldl Barrier.gangIn x := by
  unfold Barrier.turn
  dsimp only
  split
  · exact .inl (congrArg (· + 1) (Barrier.foldl_gangIn gangs x).1)
  · exact .inr rfl

/-- A turn leads on. -/
theorem Barrier.turn_grows (x : Barrier) (gangs : List (Nat × BitVec 8)) :
    x.phase < (x.turn gangs).phase ∨ ((x.turn gangs).phase = x.phase ∧ x.arrived.length ≤ (x.turn gangs).arrived.length) := by
  obtain ⟨hphase, hlen, -⟩ := Barrier.foldl_gangIn gangs x
  rcases x.turn_cases gangs with h | h
  · exact .inl (by omega)
  · exact .inr (by rw [h]; exact ⟨hphase, hlen⟩)

/-- At a barrier that has settled no gang is left to arrive. -/
theorem Barrier.not_comesIn_of_settled {x : Barrier} {gangs : List (Nat × BitVec 8)} (h : ((x.turn gangs).turn gangs).turn gangs = x) :
    ∀ g ∈ gangs, ¬ x.comesIn g := by
  have h1 := x.turn_grows gangs
  have h2 := (x.turn gangs).turn_grows gangs
  have h3 := ((x.turn gangs).turn gangs).turn_grows gangs
  rw [h] at h3
  obtain ⟨hphase, hlen, hsame⟩ := Barrier.foldl_gangIn gangs x
  rcases x.turn_cases gangs with hc | hc
  · omega
  · rw [hc] at h1 h2 h3
    exact hsame (by omega)

/-- A phase that has completed: it rises, and the arrivals are forgotten. -/
def Barrier.completed (x : Barrier) : Barrier := { x with phase := x.phase + 1, arrived := [], marks := [] }

/-- The last expected gang executes BAR: the phase completes. -/
theorem Barrier.turn_of_last {x : Barrier} {gn : Nat} {m : BitVec 8} {pre post : List (Nat × BitVec 8)} (hm : m ≠ 0)
    (hpre : ∀ h ∈ pre, h.1 ≠ gn) (hopen : ∀ h ∈ pre ++ (gn, m) :: post, ¬ x.comesIn h) (hexp : x.expected = x.arrived.length + 1)
    (hout : gn ∉ x.arrived) (hseq : x.seqArrived = 0) (hnext : x.next = []) :
    (x.mark gn m).turn (pre ++ (gn, m) :: post) = x.completed := by
  have hmark : x.mark gn m = { x with marks := orMask x.marks gn m } := by
    unfold Barrier.mark
    rw [if_neg (by simpa using hout)]
  have hother : ∀ k, k ≠ gn → mgetD (orMask x.marks gn m) k 0 = mgetD x.marks k 0 := fun k hk => by
    rw [orMask, mgetD_mset, if_neg hk]
  have hfold : (pre ++ (gn, m) :: post).foldl Barrier.gangIn (x.mark gn m) =
      { x with marks := orMask x.marks gn m, arrived := x.arrived ++ [gn] } := by
    have hbefore : ∀ h ∈ pre, ¬ ({ x with marks := orMask x.marks gn m } : Barrier).comesIn h := fun h hh ⟨hne, hin, hmarks⟩ =>
      hopen h (List.mem_append_left _ hh) ⟨hne, hin, hother h.1 (hpre h hh) ▸ hmarks⟩
    have hlast : ({ x with marks := orMask x.marks gn m } : Barrier).comesIn (gn, m) := by
      refine ⟨hm, hout, ?_⟩
      show mgetD (orMask x.marks gn m) gn 0 &&& m = m
      rw [orMask, mgetD_mset, if_pos rfl]
      rw [BitVec.or_comm]
      ext i
      simp +contextual
    have hafter : ∀ h ∈ post, ¬ ({ x with marks := orMask x.marks gn m, arrived := x.arrived ++ [gn] } : Barrier).comesIn h := by
      intro h hh ⟨hne, hin, hmarks⟩
      rw [List.mem_append, not_or, List.mem_singleton] at hin
      exact hopen h (List.mem_append_right _ (List.mem_cons_of_mem _ hh)) ⟨hne, hin.1, hother h.1 hin.2 ▸ hmarks⟩
    rw [hmark, List.foldl_append, List.foldl_cons, Barrier.foldl_gangIn_of_none hbefore, Barrier.gangIn_of_comesIn hlast]
    exact Barrier.foldl_gangIn_of_none hafter
  unfold Barrier.turn
  rw [hfold]
  have hfull : (x.expected != 0 && (x.arrived ++ [gn]).length + min 1 x.seqArrived == x.expected) = true := by
    simp [hexp, hseq]
  refine (if_pos hfull).trans ?_
  simp only [hseq, hnext, Barrier.completed]

/-- BAR of the last expected gang: the barrier completes its phase, and every other stays as it is. -/
theorem barSettle_of_last {b : Block} {g : Gang} {n : Nat} {x : Barrier} {m : BitVec 8} (hgang : b.gang g.num = some g) (hret : g.retired = false)
    (hlive : g.liveMask = m) (hm : m ≠ 0) (hsettled : b.barSettle = b) (hx : b.bars[n]? = some x) (hexp : x.expected = x.arrived.length + 1)
    (hout : g.num ∉ x.arrived) (hseq : x.seqArrived = 0) (hnext : x.next = []) :
    (b.modBar n fun x => x.mark g.num m).barSettle =
      { b with bars := b.bars.mapIdx fun i y => if i = n then y.completed else y } := by
  have hstill : ∀ y ∈ b.bars, ((y.turn b.barGangs).turn b.barGangs).turn b.barGangs = y := by
    have hbars := congrArg Block.bars hsettled
    rw [Block.barSettle_eq] at hbars
    exact List.map_inj_left.mp (hbars.trans (List.map_id _).symm)
  obtain ⟨pre, post, hsplit, hpre⟩ : ∃ pre post, b.barGangs = pre ++ (g.num, m) :: post ∧ ∀ h ∈ pre, h.1 ≠ g.num := by
    obtain ⟨-, pre, post, hgangs, hfirst⟩ := List.find?_eq_some_iff_append.mp hgang
    have hkey : g.barKey = some (g.num, m) := by rw [Gang.barKey, hret, hlive]; rfl
    refine ⟨pre.filterMap Gang.barKey, post.filterMap Gang.barKey, ?_, fun h hh => ?_⟩
    · rw [Block.barGangs, hgangs, List.filterMap_append, List.filterMap_cons_some hkey]
    · obtain ⟨a, ha, hkey⟩ := List.mem_filterMap.mp hh
      have hnum : h.1 = a.num := by
        unfold Gang.barKey at hkey
        split at hkey
        · exact nomatch hkey
        · exact (congrArg (·.1) (Option.some.inj hkey)).symm
      rw [hnum]
      simpa using hfirst a ha
  have hdone : (x.mark g.num m).turn b.barGangs = x.completed := by
    have hopen := Barrier.not_comesIn_of_settled (hstill x (List.mem_of_getElem? hx))
    rw [hsplit] at hopen ⊢
    exact Barrier.turn_of_last hm hpre hopen hexp hout hseq hnext
  have hrest : x.completed.turn b.barGangs = x.completed :=
    Barrier.turn_of_unmarked rfl (.inr (by simp [Barrier.completed, hexp, hseq])) _
  have hbars : ((b.modBar n fun x => x.mark g.num m).bars.map fun y => ((y.turn b.barGangs).turn b.barGangs).turn b.barGangs) =
      b.bars.mapIdx fun i y => if i = n then y.completed else y := by
    apply List.ext_getElem?
    intro i
    rw [List.getElem?_map, Block.modBar, List.getElem?_mapIdx, List.getElem?_mapIdx]
    by_cases hi : i = n
    · subst hi
      rw [hx]
      simp [hdone, hrest]
    · cases hy : b.bars[i]? with
      | none => rfl
      | some y => simp [hi, hstill y (List.mem_of_getElem? hy)]
  rw [Block.barSettle_eq]
  exact congrArg (fun l => { b with bars := l }) hbars

theorem liveMask_of_one {g : Gang} {sl : Slice} (hslices : g.slices = [sl]) (hlive : sl.live ≠ []) : g.liveMask = BitVec.ofNat 8 (0 + 2 ^ sl.num) := by
  have hl : g.liveSlices = [sl] := by
    unfold Gang.liveSlices Slice.gone
    rw [hslices]
    simp [hlive]
  rw [Gang.liveMask, hl]
  rfl

theorem memberSlices_of_one {g : Gang} {sp : Split} {sl : Slice} (hslices : g.slices = [sl]) (hsp : sp.slices = [sl.num]) :
    memberSlices g sp = [sl] := by
  unfold memberSlices
  rw [hslices, hsp]
  simp

theorem mask_ne_zero {k : Nat} (h : k < 8) : BitVec.ofNat 8 (0 + 2 ^ k) ≠ 0 := by
  interval_cases k <;> decide

/-- From `s` to `u` only what the block is may differ from list to list. -/
theorem onlyGangF_of_blk {s u : State} (hu : u = { s with blocks := u.blocks }) (hblk : ∀ i, u.blk i = s.blk i) (bid gn : Nat) :
    onlyGangF s u bid gn id := by
  refine ⟨?_, fun c => ?_, fun i _ => hblk i, fun b hb => ⟨b, (hblk bid).trans hb, rfl, fun _ _ => rfl, fun g hg => ⟨g, hg, rfl, fun _ h => h,
    fun _ sl h => ⟨sl, h, rfl⟩⟩⟩⟩
  · rw [hu]
  · rw [show u.core c = s.core c by rw [hu]; rfl]

/-- A block at whose barrier `n` a phase has completed. -/
def Block.barCompleted (b : Block) (n : Nat) : Block := { b with bars := b.bars.mapIdx fun i y => if i = n then y.completed else y }

/-- A block in which slices of a gang have executed BAR. -/
def Block.barMarked (b : Block) (n gn : Nat) (m : BitVec 8) : Block := (b.modBar n fun x => x.mark gn m).barSettle

/-- BAR of a gang of one slice whose arrival completes the phase: the word ends. -/
theorem execBar_of_last {s : State} {b : Block} {g : Gang} {sp : Split} {sl : Slice} {x : Barrier} (hi : Issues s b g sp) (c : Ctl) (n : BitVec 4)
    (arv : Bool) (hx : b.bars[n.toNat]? = some x) (hslices : g.slices = [sl]) (hsp : sp.slices = [sl.num]) (hmade : sp.made = false)
    (hrel : relAll s b g sp [sl] .blk = none) (hout : g.num ∉ x.arrived)
    (hlast : b.barMarked n.toNat g.num (BitVec.ofNat 8 (0 + 2 ^ sl.num)) = b.barCompleted n.toNat) :
    ∃ e, exec (.bar c { b := n, arv }) s =
      .next (finish (s.modBlk b.id fun b => b.barMarked n.toNat g.num (BitVec.ofNat 8 (0 + 2 ^ sl.num))) b g sp c e) := by
  obtain ⟨k, hcur, -⟩ := hi.cur
  have hexec : exec (.bar c { b := n, arv }) s = .next (barLane c { b := n, arv } b g sp s) := by
    rw [exec_bar, execBar, hcur]
    exact withSplit_of hi _
  have hbar : b.bars.getD n.toNat {} = x := by rw [List.getD_eq_getElem?_getD, hx]; rfl
  have hphase : x.phaseFor g.num = x.phase := if_neg (by simpa using hout)
  have hblk : (s.modBlk b.id fun b => b.barMarked n.toNat g.num (BitVec.ofNat 8 (0 + 2 ^ sl.num))).blk b.id = some (b.barCompleted n.toNat) := by
    rw [State.blk_modBlk s b.id _ (fun b => b.barMarked n.toNat g.num (BitVec.ofNat 8 (0 + 2 ^ sl.num))) fun _ => rfl, if_pos rfl, hi.blk,
      Option.map_some, hlast]
  have hrises : x.phase < ((b.barCompleted n.toNat).bars.getD n.toNat {}).phase := by
    rw [List.getD_eq_getElem?_getD, Block.barCompleted, List.getElem?_mapIdx, hx]
    simp [Barrier.completed]
  rw [hexec]
  unfold barLane
  dsimp only
  rw [hmade, hbar, memberSlices_of_one hslices hsp, hrel, hphase, hsp]
  dsimp only
  cases arv with
  | true => exact ⟨false, rfl⟩
  | false =>
    refine ⟨true, congrArg _ ((if_neg Bool.false_ne_true).trans (if_pos ?_))⟩
    split
    · next b' hb' =>
      obtain rfl : b' = b.barCompleted n.toNat := Option.some.inj (hb'.symm.trans hblk)
      exact hrises
    · next hnone => exact nomatch hnone.symm.trans hblk

/-- The BAR of the last expected gang goes on, in a block whose barrier has completed its phase. -/
theorem bar_completes {s : State} {b : Block} {g : Gang} {sp : Split} {sl : Slice} {x : Barrier} (hi : Issues s b g sp) (hh : b.halt = none)
    (c : Ctl) (n : BitVec 4) (arv : Bool) (hx : b.bars[n.toNat]? = some x) (hslices : g.slices = [sl]) (hsp : sp.slices = [sl.num])
    (hnum : sl.num < 8) (hlive : sl.live ≠ []) (hret : g.retired = false) (hmade : sp.made = false) (hrel : relAll s b g sp [sl] .blk = none)
    (hsettled : b.barSettle = b) (hexp : x.expected = x.arrived.length + 1) (hout : g.num ∉ x.arrived) (hseq : x.seqArrived = 0)
    (hnext : x.next = []) :
    ∃ t, exec (.bar c { b := n, arv }) s = .next t ∧
      wordDone (s.modBlk b.id fun b => b.barCompleted n.toNat) t b g sp fun sl sl' => Terms.became c sl sl' := by
  have hlast : b.barMarked n.toNat g.num (BitVec.ofNat 8 (0 + 2 ^ sl.num)) = b.barCompleted n.toNat :=
    barSettle_of_last hi.gang hret (liveMask_of_one hslices hlive) (mask_ne_zero hnum) hsettled hx hexp hout hseq hnext
  obtain ⟨e, hexec⟩ := execBar_of_last hi c n arv hx hslices hsp hmade hrel hout hlast
  have hblk : ∀ f : Block → Block, (∀ b, (f b).id = b.id) → f b = b.barCompleted n.toNat →
      (s.modBlk b.id f).blk b.id = some (b.barCompleted n.toNat) := fun f hid hf => by
    rw [State.blk_modBlk _ _ _ _ hid, if_pos rfl, hi.blk, Option.map_some, hf]
  have hi' : Issues (s.modBlk b.id fun b => b.barCompleted n.toNat) (b.barCompleted n.toNat) g sp :=
    ⟨hi.cur, hblk _ (fun _ => rfl) rfl, hi.gang⟩
  have hsame := onlyGangF_of_blk (s := s.modBlk b.id fun b => b.barCompleted n.toNat)
    (u := s.modBlk b.id fun b => b.barMarked n.toNat g.num (BitVec.ofNat 8 (0 + 2 ^ sl.num))) rfl (fun i => by
      rw [State.blk_modBlk s b.id i (fun b => b.barMarked n.toNat g.num (BitVec.ofNat 8 (0 + 2 ^ sl.num))) fun _ => rfl,
        State.blk_modBlk s b.id i (fun b => b.barCompleted n.toNat) fun _ => rfl]
      split
      · next h => rw [h, hi.blk, Option.map_some, Option.map_some, hlast]
      · rfl) b.id g.num
  refine ⟨_, hexec, ?_⟩
  exact finish_done_of hi' hh c e hsame ⟨_, g, hblk _ (fun _ => rfl) hlast, hh, hi.gang, rfl⟩

end Sys2Proof.Machine

namespace Sys2Proof.Machine

/-! ### SYNCM (R315) -/

theorem modWhere_congr {α : Type _} {p : α → Bool} {f f' : α → α} (h : ∀ x, p x = true → f x = f' x) (l : List α) :
    modWhere p f l = modWhere p f' l := by
  refine List.map_congr_left fun x _ => ?_
  split
  · next hp => exact h x hp
  · rfl

theorem modWhere_modWhere {α : Type _} {p : α → Bool} {f f' : α → α} (h : ∀ x, p x = true → p (f x) = true) (l : List α) :
    modWhere p f' (modWhere p f l) = modWhere p (fun x => f' (f x)) l := by
  refine (List.map_map ..).trans (List.map_congr_left fun x _ => ?_)
  rw [Function.comp_apply]
  by_cases hp : p x = true
  · rw [if_pos hp, if_pos hp, if_pos (h x hp)]
  · rw [if_neg hp, if_neg hp, if_neg hp]

theorem Block.modGang_congr {gn : Nat} {f f' : Gang → Gang} (h : ∀ g, g.num = gn → f g = f' g) (b : Block) : b.modGang gn f = b.modGang gn f' :=
  congrArg (fun l => { b with gangs := l }) (modWhere_congr (fun g hg => h g (beq_iff_eq.mp hg)) _)

theorem State.modGang_congr {gn : Nat} {f f' : Gang → Gang} (h : ∀ g, g.num = gn → f g = f' g) (s : State) (bid : Nat) :
    s.modGang bid gn f = s.modGang bid gn f' :=
  congrArg (s.modBlk bid) (funext fun b => b.modGang_congr h)

theorem State.modGang_modGang {gn : Nat} {f f' : Gang → Gang} (h : ∀ g, g.num = gn → (f g).num = gn) (s : State) (bid : Nat) :
    (s.modGang bid gn f).modGang bid gn f' = s.modGang bid gn fun g => f' (f g) := by
  have hblocks := modWhere_modWhere (p := fun x : Block => x.id == bid) (f := fun b => b.modGang gn f) (f' := fun b => b.modGang gn f')
    (fun _ hx => hx) s.blocks
  have hgangs : ∀ b : Block, (b.modGang gn f).modGang gn f' = b.modGang gn fun g => f' (f g) := fun b =>
    congrArg (fun l => { b with gangs := l })
      (modWhere_modWhere (p := fun x : Gang => x.num == gn) (fun g hg => beq_iff_eq.mpr (h g (beq_iff_eq.mp hg))) b.gangs)
  refine (congrArg (fun l => { s with blocks := l }) hblocks).trans ?_
  exact congrArg (s.modBlk bid) (funext hgangs)

/-- A gang in which the lanes of one slice wait at SYNCM. -/
def Gang.syncmAt (g : Gang) (k : Nat) (w : List (Nat × Word)) : Gang := g.modSlice k fun sl => { sl with syncm := w }

theorem Gang.syncmAt_append (g : Gang) (k : Nat) (w : List (Nat × Word)) (x : Nat × Word) :
    ((g.syncmAt k w).modSlice k fun sl => { sl with syncm := sl.syncm ++ [x] }) = g.syncmAt k (w ++ [x]) :=
  congrArg (fun l => { g with slices := l }) (modWhere_modWhere (p := fun x : Slice => x.num == k) (f := fun sl => { sl with syncm := w })
    (f' := fun sl => { sl with syncm := sl.syncm ++ [x] }) (fun _ hx => hx) g.slices)

theorem Gang.syncmAt_nil {g : Gang} (h : ∀ x ∈ g.slices, x.syncm = []) (k : Nat) : g.syncmAt k [] = g := by
  have hslices : g.slices.map (fun x => if x.num == k then { x with syncm := [] } else x) = g.slices := by
    refine (List.map_congr_left fun x hx => ?_).trans (List.map_id _)
    split
    · rw [← h x hx]
      rfl
    · rfl
  exact congrArg (fun l => { g with slices := l }) hslices

theorem Gang.mem_syncmAt {g : Gang} (h : ∀ x ∈ g.slices, x.syncm = []) {k : Nat} {w : List (Nat × Word)} {sl : Slice}
    (hsl : sl ∈ (g.syncmAt k w).slices) : (sl.num = k ∧ sl.syncm = w) ∨ (sl.num ≠ k ∧ sl.syncm = []) := by
  obtain ⟨x, hx, rfl⟩ := List.mem_map.mp hsl
  by_cases hk : x.num = k
  · rw [if_pos (beq_iff_eq.mpr hk)]
    exact .inl ⟨hk, rfl⟩
  · rw [if_neg (by simpa using hk)]
    exact .inr ⟨hk, h x hx⟩

theorem Gang.syncmAt_settle {g : Gang} (h : ∀ x ∈ g.slices, x.syncm = []) (k : Nat) (w : List (Nat × Word)) :
    (g.syncmAt k w).syncmSettle = g.syncmAt k (w.map fun x => if (g.syncmAt k w).maskMet x.2 then (x.1, 0) else x) := by
  rw [Gang.syncmSettle_eq]
  generalize hG : g.syncmAt k w = G
  have hslices : G.slices.map G.pass =
      modWhere (fun x => x.num == k) (fun sl => { sl with syncm := w.map fun x => if G.maskMet x.2 then (x.1, 0) else x }) g.slices := by
    rw [← congrArg Gang.slices hG]
    refine (List.map_map ..).trans (List.map_congr_left fun x hx => ?_)
    rw [Function.comp_apply]
    split
    · rfl
    · exact G.pass_of_nil (h x hx)
  have hrest : G = { g with slices := G.slices } := by rw [← hG]; rfl
  rw [hslices, hrest]
  rfl

theorem Gang.syncmWaits_syncmAt {g : Gang} (h : ∀ x ∈ g.slices, x.syncm = []) {k : Nat} {w : List (Nat × Word)} {y : Nat × Word}
    (hy : y ∈ (g.syncmAt k w).syncmWaits) : ∃ x ∈ w, x.2 = y.2 := by
  obtain ⟨sl, hsl, hy⟩ := List.mem_flatMap.mp hy
  obtain ⟨x, hx, he⟩ := List.mem_filterMap.mp hy
  rcases Gang.mem_syncmAt h hsl with ⟨-, hw⟩ | ⟨-, hw⟩
  · refine ⟨x, hw ▸ hx, ?_⟩
    split at he
    · exact nomatch he
    · exact congrArg (·.2) (Option.some.inj he)
  · exact absurd (hw ▸ hx) List.not_mem_nil

/-- The lanes of one slice that wait are those that the gang lists. -/
theorem Gang.mem_arrivals {g : Gang} (h : ∀ x ∈ g.slices, x.syncm = []) {k : Nat} {w : List (Nat × Word)} {y : Nat × Word} :
    y ∈ ((g.syncmAt k w).slices.flatMap fun sl => sl.syncm.map fun x => (4 * sl.num + x.1, x.2)) →
      ∃ x ∈ w, y = (4 * k + x.1, x.2) := by
  intro hy
  obtain ⟨sl, hsl, hy⟩ := List.mem_flatMap.mp hy
  obtain ⟨x, hx, rfl⟩ := List.mem_map.mp hy
  rcases Gang.mem_syncmAt h hsl with ⟨rfl, hw⟩ | ⟨-, hw⟩
  · exact ⟨x, hw ▸ hx, rfl⟩
  · exact absurd (hw ▸ hx) List.not_mem_nil

theorem Gang.mem_arrivals_of {g : Gang} {k : Nat} {sl : Slice} (hsl : g.slice k = some sl) {w : List (Nat × Word)} {x : Nat × Word} (hx : x ∈ w) :
    (4 * k + x.1, x.2) ∈ (g.syncmAt k w).slices.flatMap fun sl => sl.syncm.map fun x => (4 * sl.num + x.1, x.2) := by
  have hnum : (sl.num == k) = true := List.find?_some (p := fun x : Slice => x.num == k) hsl
  refine List.mem_flatMap.mpr ⟨{ sl with syncm := w }, List.mem_map.mpr ⟨sl, Gang.mem_of_slice hsl, if_pos hnum⟩, ?_⟩
  exact List.mem_map.mpr ⟨x, hx, by rw [← beq_iff_eq.mp hnum]⟩

theorem Gang.slice_syncmAt (g : Gang) (k : Nat) (w : List (Nat × Word)) (n : Nat) :
    (g.syncmAt k w).slice n = if n = k then (g.slice n).map fun sl => { sl with syncm := w } else g.slice n :=
  g.slice_modSlice k n _ fun _ => rfl

theorem Gang.there_syncmAt (g : Gang) (k : Nat) (w : List (Nat × Word)) (n : Nat) : (g.syncmAt k w).there n = g.there n := by
  have hslice := g.slice_syncmAt k w (n / 4)
  unfold Gang.there
  rw [hslice]
  by_cases hk : n / 4 = k
  · rw [if_pos hk]
    cases g.slice (n / 4) <;> rfl
  · rw [if_neg hk]

theorem Gang.there_of_live {g : Gang} {sl : Slice} {k j : Nat} (hsl : g.slice k = some sl) (hj : j ∈ sl.live) : g.there (4 * k + j) = true := by
  obtain ⟨hlt, -⟩ := Slice.mem_live.mp hj
  unfold Gang.there
  rw [show (4 * k + j) / 4 = k by omega, show (4 * k + j) % 4 = j by omega, hsl]
  simpa using hj

theorem Gang.maskMet_iff {g : Gang} {m : Word} : g.maskMet m = true ↔ m ≠ 0 ∧ ∀ n < 32, m.getLsbD n = true → g.there n = true →
    (n, m) ∈ g.slices.flatMap fun sl => sl.syncm.map fun x => (4 * sl.num + x.1, x.2) := by
  have harr : ∀ (l : List (Nat × Word)) n, (l.any fun x => x.1 == n && x.2 == m) = true ↔ (n, m) ∈ l := fun l n => by
    rw [List.any_eq_true]
    constructor
    · rintro ⟨x, hx, he⟩
      rw [Bool.and_eq_true, beq_iff_eq, beq_iff_eq] at he
      rwa [← he.1, ← he.2]
    · exact fun h => ⟨_, h, by simp⟩
  unfold Gang.maskMet
  simp only [Bool.and_eq_true, bne_iff_ne, List.all_eq_true, List.mem_range, Bool.or_eq_true, harr, Bool.not_eq_true']
  refine and_congr_right fun _ => forall_congr' fun n => imp_congr_right fun _ => ?_
  cases m.getLsbD n <;> cases g.there n <;> simp

/-- What a lane that arrives at SYNCM leads to where no lane waits with another mask (R315). -/
theorem syncmArrive_cons {g : Gang} {k j : Nat} {m : Word} {r : List (Nat × Nat × Word)} (hbit : m.getLsbD (4 * k + j) = true)
    (hwaits : ∀ y ∈ g.syncmWaits, y.2 = m) :
    syncmArrive g ((k, j, m) :: r) = syncmArrive (g.modSlice k fun sl => { sl with syncm := sl.syncm ++ [(j, m)] }).syncmSettle r := by
  have hfind : (g.syncmWaits.find? fun y => y.2 != m) = none := List.find?_eq_none.mpr fun y hy => by simp [hwaits y hy]
  unfold syncmArrive
  rw [List.foldl_cons]
  dsimp only
  rw [if_pos hbit, hfind]
  rfl

section Arrivals

variable {g : Gang} {sl : Slice} {k : Nat} {m : Word} {l : List Nat}

theorem Gang.syncmAt_part (hnil : ∀ x ∈ g.slices, x.syncm = []) (hslice : g.slice k = some sl) {j : Nat} (hlive : j ∈ sl.live)
    (hbit : m.getLsbD (4 * k + j) = true) (hout : j ∉ l) :
    (g.syncmAt k (l.map fun i => (i, m))).syncmSettle = g.syncmAt k (l.map fun i => (i, m)) := by
  have hopen : (g.syncmAt k (l.map fun i => (i, m))).maskMet m = false := by
    refine Bool.eq_false_iff.mpr fun hmet => ?_
    obtain ⟨-, hall⟩ := Gang.maskMet_iff.mp hmet
    have hin := hall (4 * k + j) (BitVec.lt_of_getLsbD hbit) hbit (by rw [Gang.there_syncmAt]; exact Gang.there_of_live hslice hlive)
    obtain ⟨x, hx, he⟩ := Gang.mem_arrivals hnil hin
    obtain ⟨i, hi, rfl⟩ := List.mem_map.mp hx
    injection he with he
    exact hout (by rwa [show j = i by omega])
  rw [Gang.syncmAt_settle hnil, List.map_map]
  simp only [Function.comp_def, hopen, Bool.false_eq_true, if_false]

theorem Gang.syncmAt_all (hnil : ∀ x ∈ g.slices, x.syncm = []) (hslice : g.slice k = some sl) (hm : m ≠ 0)
    (hall : ∀ n < 32, m.getLsbD n = true → (∃ j ∈ l, n = 4 * k + j) ∨ g.there n = false) :
    (g.syncmAt k (l.map fun i => (i, m))).syncmSettle = g.syncmAt k (l.map fun i => (i, 0)) := by
  have hmet : (g.syncmAt k (l.map fun i => (i, m))).maskMet m = true := by
    refine Gang.maskMet_iff.mpr ⟨hm, fun n hn hbit hthere => ?_⟩
    rw [Gang.there_syncmAt] at hthere
    rcases hall n hn hbit with ⟨j, hj, rfl⟩ | hgone
    · exact Gang.mem_arrivals_of hslice (x := (j, m)) (List.mem_map_of_mem hj)
    · exact absurd hthere (by simp [hgone])
  rw [Gang.syncmAt_settle hnil, List.map_map]
  simp only [Function.comp_def, hmet, if_true]

/-- Lanes that arrive one after another, each naming all of them and no other live lane, all pass. -/
theorem syncmArrive_all (hnil : ∀ x ∈ g.slices, x.syncm = []) (hslice : g.slice k = some sl) (hm : m ≠ 0) {all : List Nat} (hdup : all.Nodup)
    (hlive : ∀ j ∈ all, j ∈ sl.live) (hbit : ∀ j ∈ all, m.getLsbD (4 * k + j) = true)
    (hall : ∀ n < 32, m.getLsbD n = true → (∃ j ∈ all, n = 4 * k + j) ∨ g.there n = false) {r : List Nat} (hsplit : l ++ r = all) (hr : r ≠ []) :
    syncmArrive (g.syncmAt k (l.map fun i => (i, m))) (r.map fun j => (k, j, m)) = .inl (g.syncmAt k (all.map fun i => (i, 0))) := by
  induction r generalizing l with
  | nil => exact absurd rfl hr
  | cons j r ih =>
    have hj : j ∈ all := hsplit ▸ List.mem_append_right _ List.mem_cons_self
    have hnext : (l ++ [j]) ++ r = all := by rw [List.append_assoc]; exact hsplit
    rw [List.map_cons, syncmArrive_cons (hbit j hj) fun y hy => ?_, Gang.syncmAt_append, ← List.map_singleton (f := fun i => (i, m)), ← List.map_append]
    · cases r with
      | nil =>
        rw [List.append_nil] at hnext
        rw [Gang.syncmAt_all hnil hslice hm (hnext ▸ hall), hnext]
        rfl
      | cons i r =>
        have hi : i ∈ all := hnext ▸ List.mem_append_right _ List.mem_cons_self
        have hout : i ∉ l ++ [j] := fun hin => (List.disjoint_of_nodup_append (hnext ▸ hdup)) hin List.mem_cons_self
        rw [Gang.syncmAt_part hnil hslice (hlive i hi) (hbit i hi) hout]
        exact ih hnext (List.cons_ne_nil _ _)
    · obtain ⟨x, hx, he⟩ := Gang.syncmWaits_syncmAt hnil hy
      obtain ⟨i, -, rfl⟩ := List.mem_map.mp hx
      exact he.symm

end Arrivals

theorem effLanes_live {c : Ctl} {sl : Slice} {j : Nat} (h : j ∈ effLanes c sl) : j ∈ sl.live := by
  have hact := List.mem_of_mem_filter h
  unfold Slice.active at hact
  split at hact
  · exact absurd hact List.not_mem_nil
  · exact List.mem_of_mem_filter hact

/-- The lanes of a SYNCM that all pass leave a gang whose waits, once cleared, are as they were. -/
theorem syncm_passes {g : Gang} {sp : Split} {sl : Slice} {m : Word} (c : Ctl) (o : MOp) (hsole : memberSlices g sp = [sl])
    (hnil : ∀ x ∈ g.slices, x.syncm = []) (hm : m ≠ 0)
    (heach : ∀ j ∈ effLanes c sl, sl.v g.budget o.d.toNat j = m ∧ m.getLsbD (4 * sl.num + j) = true)
    (hall : ∀ k < 32, m.getLsbD k = true → (∃ j ∈ effLanes c sl, k = 4 * sl.num + j) ∨ ∀ x, g.slice (k / 4) = some x → k % 4 ∉ x.live) :
    syncmArrive g (syncmNew c o g sp) = .inl (g.syncmAt sl.num ((effLanes c sl).map fun i => (i, 0))) := by
  have hmem : sl ∈ g.slices ∧ sp.slices.contains sl.num = true := mem_memberSlices.mp (hsole ▸ List.mem_singleton_self sl)
  have hslice : g.slice sl.num = some sl := by
    obtain ⟨x, hx⟩ := Option.isSome_iff_exists.mp
      (List.find?_isSome (p := fun x : Slice => x.num == sl.num) |>.mpr ⟨sl, hmem.1, beq_self_eq_true sl.num⟩)
    have hnum : x.num = sl.num := beq_iff_eq.mp (List.find?_some (p := fun x : Slice => x.num == sl.num) hx)
    have hone : x ∈ memberSlices g sp := mem_memberSlices.mpr ⟨List.mem_of_find?_eq_some hx, hnum ▸ hmem.2⟩
    rw [hsole, List.mem_singleton] at hone
    exact hone ▸ hx
  have hnew : syncmNew c o g sp = (effLanes c sl).map fun j => (sl.num, j, m) := by
    unfold syncmNew
    rw [hsole, List.flatMap_cons, List.flatMap_nil, List.append_nil, hnil sl hmem.1, ← List.filterMap_eq_map]
    refine List.filterMap_congr fun j hj => ?_
    rw [(heach j hj).1]
    rfl
  have hthere : ∀ n < 32, m.getLsbD n = true → (∃ j ∈ effLanes c sl, n = 4 * sl.num + j) ∨ g.there n = false := fun n hn hbit =>
    (hall n hn hbit).imp_right fun h => by
      unfold Gang.there
      cases hx : g.slice (n / 4) with
      | none => rfl
      | some x => simpa using h x hx
  rw [hnew]
  by_cases hno : effLanes c sl = []
  · rw [hno, List.map_nil, List.map_nil, Gang.syncmAt_nil hnil]
    rfl
  · have h := syncmArrive_all (l := []) hnil hslice hm (effLanes_nodup c sl) (fun j => effLanes_live) (fun j hj => (heach j hj).2) hthere rfl
      hno
    rwa [List.map_nil, Gang.syncmAt_nil hnil] at h

/-- A gang whose members wait at SYNCM no more. -/
def Gang.syncmClear (g : Gang) (sp : Split) : Gang :=
  { g with slices := g.slices.map fun sl => if sp.slices.contains sl.num then { sl with syncm := [] } else sl }

theorem Gang.syncmClear_syncmAt {g : Gang} (hnil : ∀ x ∈ g.slices, x.syncm = []) {sp : Split} {k : Nat} (hk : sp.slices.contains k = true)
    (w : List (Nat × Word)) : (g.syncmAt k w).syncmClear sp = g := by
  have hslices : (g.syncmAt k w).slices.map (fun sl => if sp.slices.contains sl.num then { sl with syncm := [] } else sl) = g.slices := by
    refine (List.map_map ..).trans ((List.map_congr_left fun x hx => ?_).trans (List.map_id _))
    rw [Function.comp_apply]
    by_cases hx' : x.num = k
    · have hin : sp.slices.contains x.num = true := hx' ▸ hk
      rw [if_pos (beq_iff_eq.mpr hx'), if_pos hin, ← hnil x hx]
      rfl
    · rw [if_neg (show ¬ (x.num == k) = true by simpa using hx')]
      split
      · rw [← hnil x hx]
        rfl
      · rfl
  exact congrArg (fun l => { g with slices := l }) hslices

/-- SYNCM whose mask names the lanes of the only member slice that take it, and no other live lane: the word ends. -/
theorem syncm_goesOn {s : State} {b : Block} {g : Gang} {sp : Split} {sl : Slice} {m : Word} (hi : Issues s b g sp) (hh : b.halt = none) (c : Ctl)
    (o : MOp) (hsole : memberSlices g sp = [sl]) (hnil : ∀ x ∈ g.slices, x.syncm = []) (hrel : relAll s b g sp [sl] .blk = none) (hm : m ≠ 0)
    (heach : ∀ j ∈ effLanes c sl, sl.v g.budget o.d.toNat j = m ∧ m.getLsbD (4 * sl.num + j) = true)
    (hall : ∀ k < 32, m.getLsbD k = true → (∃ j ∈ effLanes c sl, k = 4 * sl.num + j) ∨ ∀ x, g.slice (k / 4) = some x → k % 4 ∉ x.live) :
    ∃ t, exec (.syncm c o) s = .next t ∧ wordDone s t b g sp fun sl sl' => Terms.became c sl sl' := by
  have hpass := syncm_passes c o hsole hnil hm heach hall
  have hin : sp.slices.contains sl.num = true := (mem_memberSlices.mp (hsole ▸ List.mem_singleton_self sl)).2
  generalize hw : (effLanes c sl).map (fun i => ((i, 0) : Nat × Word)) = w at hpass
  have hzero : ∀ x ∈ w, x.2 = 0 := fun x hx => by
    obtain ⟨i, -, rfl⟩ := List.mem_map.mp (hw ▸ hx)
    rfl
  -- the gang that the arrivals leave, and no lane of it is held
  have harrived : Held (s.modGang b.id g.num fun g' => if g'.num = g.num then g.syncmAt sl.num w else g') b.id g.num
      fun g' => g' = g.syncmAt sl.num w :=
    (hi.held hh).modGang (fun g' => by split <;> simp_all [Gang.syncmAt]) fun g' hg' => by rw [hg', if_pos rfl]
  have hpassed : ∀ y ∈ memberSlices (g.syncmAt sl.num w) sp, (y.syncm.any fun x => x.2 != 0) = false := fun y hy => by
    rcases Gang.mem_syncmAt hnil (mem_memberSlices.mp hy).1 with ⟨-, he⟩ | ⟨-, he⟩
    · rw [he]
      exact List.any_eq_false.mpr fun x hx => by simp [hzero x hx]
    · rw [he]
      rfl
  have hexec : exec (.syncm c o) s = .next (finish (s.modGang b.id g.num fun g' => if g'.num = g.num then g else g') b g sp c true) := by
    have hput : (s.modGang b.id g.num fun _ => g.syncmAt sl.num w) =
        s.modGang b.id g.num fun g' => if g'.num = g.num then g.syncmAt sl.num w else g' :=
      State.modGang_congr (fun g' hg' => (if_pos hg').symm) s b.id
    have hclear : onMembers (s.modGang b.id g.num fun _ => g.syncmAt sl.num w) b g sp (fun sl => { sl with syncm := [] }) =
        s.modGang b.id g.num fun g' => if g'.num = g.num then g else g' := by
      refine (State.modGang_modGang (gn := g.num) (f := fun _ => g.syncmAt sl.num w) (f' := fun g => g.syncmClear sp) (fun _ _ => rfl) s b.id).trans (State.modGang_congr (fun g' hg' => ?_) s b.id)
      rw [if_pos hg']
      exact Gang.syncmClear_syncmAt hnil hin w
    obtain ⟨b1, g1, hb1, -, hg1, rfl⟩ := harrived
    rw [← hput] at hb1
    rw [exec_syncm, execSyncm, withSplit_of hi, hsole, hrel, hpass]
    refine congrArg Host.Outcome.next ((if_neg ?_).trans (congrArg (fun u => finish u b g sp c true) hclear))
    split
    · next b' hb' =>
      obtain rfl : b' = b1 := Option.some.inj (hb'.symm.trans hb1)
      rw [hg1]
      simpa using hpassed
    · exact Bool.false_ne_true
  refine ⟨_, hexec, finish_done_of hi hh c true (onlyGang_modGang_fixed (fun g' => ?_) ((hi.held hh).mono fun g' hg' => ?_))
    ((hi.held hh).modGang (fun g' => ?_) fun g' hg' => ?_)⟩
  · split <;> simp_all
  · rw [if_pos (by rw [hg']), hg']
  · split <;> simp_all
  · rw [if_pos (by rw [hg'])]

/-- A phase has completed at a barrier of a block, as the statement writes the state. -/
theorem modBlk_barCompleted (s : State) (bid n : Nat) :
    (s.modBlk bid fun b => b.barCompleted n) = { s with blocks := s.blocks.map fun y => if y.id = bid then
      { y with bars := y.bars.mapIdx fun i y => if i = n then { y with phase := y.phase + 1, arrived := [], marks := [] } else y } else y } := by
  unfold State.modBlk modWhere
  simp only [beq_iff_eq]
  rfl

/-- Settles O37: R55, R64, R232, R274, R315, R316. -/
theorem joinWords : Obligations.JoinWords := by
  intro s b g sp c hi hh hslot
  refine ⟨fun m x y q hm hslices hsplits hsp hq hw hne hx hy hpc hmx hmy =>
      regang_joins hi hh c hm hslices hsplits hsp hq hw hne hx hy hpc hmx hmy,
    fun n arv sl x hx hslices hsp hnum hlive hret hmade hrel hsettled hexp hout hseq hnext => ?_,
    fun o sl m hsole hnil hrel hm heach hall => syncm_goesOn hi hh c o hsole hnil hrel hm heach hall⟩
  have hbar := bar_completes hi hh c n arv hx hslices hsp hnum hlive hret hmade hrel hsettled hexp hout hseq hnext
  rw [modBlk_barCompleted] at hbar
  exact hbar

end Sys2Proof.Machine

namespace Sys2Proof.Machine

/-! ### REGROUP (R56): a result whose lane number is none -/

/-- A slice to which a result is still to be written under lane 4 of register 0: it lands in the place of lane 0 of register 1, which the
statement does not shut out. -/
def sliceLate : Slice :=
  { num := 0, lanes := List.replicate 4 { present := true }, pc := 0x1000, vregs := [(4, 1)],
    pend := [{ due := 50, file := .v, idx := 0, lane := 4, val := 7 }] }

/-- Its gang, and the partner, which has retired. -/
def gangLate : Gang := { num := 0, slices := [sliceLate], splits := [{ slices := [0] }] }
def gangGone : Gang := { num := 1, retired := true }
def blockLate : Block :=
  { id := 5, asid := 1, launch := 7, num := 0, core := 0, firstCore := 0, gangs := [gangLate, gangGone] }

/-- The machine whose block issues the REGROUP. -/
def stateLate : State := { State.reset with blocks := [blockLate], cur := some (.split 5 0 0), now := 40 }

/-- The value of register 1 of lane 0 at cycle 50 after the REGROUP with gang 1 that names all registers. -/
def afterRegroup : Option Word :=
  match exec (.regroup {} { g := 1, k := 0, m1 := 31 }) stateLate with
  | .next t => (t.slice ⟨5, 0, 0⟩).map fun sl => sl.regAt 50 (sl.phys 32 1) 0
  | _ => none

theorem afterRegroup_eq : afterRegroup = some 1 := by decide +kernel

theorem regAt_before : sliceLate.regAt 50 (sliceLate.phys 32 1) 0 = 7 := by decide +kernel

/-- Refutes O50: a result that is still to be written under a lane number above 3 (a state that its hypotheses admit) lands in a register of
the next number; REGROUP moves the results of the four lanes only, so the register keeps its old value. -/
theorem not_regroupWord : ¬ Obligations.RegroupWord := by
  intro hclaim
  obtain ⟨t, hexec, -, -, -, -, hlanes⟩ := hclaim stateLate blockLate gangLate gangGone { slices := [0] } {} { g := 1, k := 0, m1 := 31 }
    ⟨⟨0, rfl, rfl⟩, rfl, rfl⟩ rfl rfl rfl rfl (by decide) (by decide) (by decide)
  obtain ⟨sl', hslice, -, -, -, hregs⟩ := hlanes 0 (sliceLate, 0) rfl
  have hreg : sl'.regAt 50 (sl'.phys 32 1) 0 = 7 := (hregs 1 50 (by decide) (by decide) (by decide)).trans regAt_before
  have hafter : afterRegroup = some (sl'.regAt 50 (sl'.phys 32 1) 0) := by
    unfold afterRegroup
    rw [hexec]
    exact congrArg (Option.map fun sl : Slice => sl.regAt 50 (sl.phys 32 1) 0) hslice
  rw [afterRegroup_eq, hreg] at hafter
  exact absurd hafter (by decide)

end Sys2Proof.Machine

namespace Sys2Proof.Machine

/-! ### The advertisement of replicas (R184): a list of cores out of order -/

/-- A record that core 3 pulls for core 5, whose slot 0 its slice holds. -/
def recStaged : WheyRec := { blk := { id := 5, asid := 1, launch := 7, num := 0, core := 0, firstCore := 0, whey := some (0, 0) }, seg := 0 }

/-- A launch whose one segment has replicas on cores 3 and 5. -/
def wheyPair : WheyMap := { launch := 7, segs := [(0, 1, [(0, 3, 0), (1, 5, 0)])] }

/-- A state that lists core 5 before core 3: core 3 is listed once more as it changes, since the model's maps keep their keys rising. -/
def stateAdvert : State := { State.reset with wheys := [wheyPair], cores := [(5, {}), (3, { staged := [(recStaged, 0, 5)] })] }

/-- What core 5 advertises after the step. -/
def advertised : Option Nat :=
  match exec .replicaAdvertisement stateAdvert with
  | .next t => some (t.core 5).advert
  | _ => none

theorem advertised_eq : advertised = some 254 := by decide +kernel

theorem free_before : wheySlots (stateAdvert.regsOf 7) - (stateAdvert.slotsUsed 5).length = 255 := by decide +kernel

/-- Refutes O57 by its last clause, the advertisement: in a state whose list of cores is not in rising order (the clause asks for none),
the core that advertises first is listed twice after it, and the slot that its staged record holds counts twice for the next. -/
theorem not_saveAndTrapSteps : ¬ Obligations.SaveAndTrapSteps := by
  intro hclaim
  obtain ⟨-, -, -, -, -, -, -, -, -, hadvert⟩ := hclaim stateAdvert
  obtain ⟨t, hexec, -, hslots⟩ := hadvert wheyPair rfl ⟨(0, 1, [(0, 3, 0), (1, 5, 0)]), List.mem_singleton_self _, by decide⟩
  have hfive : (t.core 5).advert = 255 :=
    (hslots (0, 1, [(0, 3, 0), (1, 5, 0)]) (List.mem_singleton_self _) (1, 5, 0) (by decide)).trans free_before
  have hafter : advertised = some (t.core 5).advert := by
    unfold advertised
    rw [hexec]
  rw [advertised_eq, hfive] at hafter
  exact absurd hafter (by decide)

end Sys2Proof.Machine

namespace Sys2Proof.Machine

/-! ### Control registers and queues after a step -/

theorem cxSet_of_cx {s t : State} {asid i : Nat} {v : DWord} (hi : i < 512) (h : t.cx = (s.setCx asid i v).cx) : Terms.cxSet s t asid i v := by
  have hcxr : ∀ a k, t.cxr a k = (s.setCx asid i v).cxr a k := fun a k => by unfold State.cxr; rw [h]
  refine ⟨?_, fun a k hk hne => ?_⟩
  · rw [hcxr, State.cxr_setCx s _ _ _ _ _ hi hi, if_pos ⟨rfl, rfl⟩]
  · rw [hcxr, State.cxr_setCx s _ _ _ _ _ hi hk, if_neg hne]

theorem queued_of_dies {s t : State} {d q : Nat} {x : QItem} (h : t.dies = (s.enqueue d q x).dies) : Terms.queued s t d q x := by
  have hdie : ∀ k, t.die k = if k = d then { s.die d with queues := mset (s.die d).queues q (s.queue d q ++ [x]) } else s.die k := fun k => by
    refine Eq.trans ?_ (s.die_modDie d k fun y => { y with queues := mset y.queues q (s.queue d q ++ [x]) })
    unfold State.die
    rw [h]
    rfl
  have hqueue : ∀ k n, t.queue k n = mgetD (t.die k).queues n [] := fun _ _ => rfl
  refine ⟨?_, fun k n hne => ?_, fun k => ?_⟩
  · rw [hqueue, hdie, if_pos rfl, mgetD_mset, if_pos rfl]
  · rw [hqueue, hdie]
    by_cases hk : k = d
    · subst hk
      rw [if_pos rfl, mgetD_mset, if_neg fun hn => hne ⟨rfl, hn⟩]
      rfl
    · rw [if_neg hk]
      rfl
  · rw [hdie]
    split
    · next hk => rw [hk]
    · rfl

/-! ### Rings (R156 to R159) -/

/-- A doorbell admits the records of the context's ring, and its queues look. -/
theorem doorbell_rings {s : State} {asid : Nat} (host : Bool) (v : DWord) (h : s.inUse asid = true) :
    exec (.doorbell host asid v) s = .next (s.ringBell asid v) := congrArg Host.Outcome.next (if_pos h)

theorem mem_hostQueues {s : State} {asid d : Nat} {x : Nat × Word} (hd : d < 8) (hx : x ∈ (s.die d).qbind) (hvalid : x.2.getLsbD 31 = true)
    (hkind : x.2.toNat / 2 ^ 29 % 4 = 0) (hasid : x.2.toNat % 4096 = asid) : (d, x.1) ∈ s.hostQueues asid := by
  have htop : x.2.toNat / 2 ^ 31 = 1 := by
    have hlt := x.2.isLt
    have hbit : x.2.toNat / 2 ^ 31 % 2 = 1 := by
      rw [BitVec.getLsbD, Nat.testBit_eq_decide_div_mod_eq] at hvalid
      simpa using hvalid
    omega
  refine List.mem_flatMap.mpr ⟨d, List.mem_range.mpr hd, List.mem_filterMap.mpr ⟨x, hx, ?_⟩⟩
  dsimp only
  rw [htop, hkind, hasid]
  simp

theorem recBytes_length (s : State) (asid a : Nat) : (s.recBytes asid a).length = 128 := by
  simp [State.recBytes, leBytes, List.length_flatMap]

/-- Word `k` of a launch record in package memory. -/
theorem recBytes_word {s : State} {asid a k x : Nat} (hk : k < 16) (hclass : vaClass (a + 8 * k) = .package)
    (hx : s.vrd asid (a + 8 * k) 8 = some x) : ((s.recBytes asid a).drop (8 * k)).take 8 = leBytes 8 x := by
  have hpiece : ∀ (f : Nat → List Byte) (n : Nat), (∀ i, (f i).length = 8) → k < n →
      (((List.range n).flatMap f).drop (8 * k)).take 8 = f k := by
    intro f n hf hkn
    have hsplit : List.range n = List.range k ++ k :: (List.range (n - k - 1)).map (k + 1 + ·) := by
      conv_lhs => rw [show n = k + (1 + (n - k - 1)) by omega, List.range_add, List.range_add]
      simp [Nat.add_assoc]
    have hlen : ((List.range k).flatMap f).length = 8 * k := by
      simp [List.length_flatMap, hf, Nat.mul_comm]
    rw [hsplit, List.flatMap_append, List.flatMap_cons, ← hlen, List.drop_left, ← hf k, List.take_left]
  unfold State.recBytes
  rw [hpiece _ 16 (fun i => by simp [leBytes]) hk, hclass, hx]
  rfl

/-- The length of a context's ring, its HEAD and TAIL, and the address of the record at HEAD (R159). -/
def State.ringLen (s : State) (asid : Nat) : Nat := fld (s.cxr asid 0x10A) 0 17
def State.ringHead (s : State) (asid : Nat) : Nat := fld (s.cxr asid 0x10B) 0 16
def State.ringTail (s : State) (asid : Nat) : Nat := fld (s.cxr asid 0x10C) 0 16
def State.ringAt (s : State) (asid : Nat) : Nat := fld (s.cxr asid 0x109) 0 48 + 128 * (s.ringHead asid % s.ringLen asid)

/-- The state in which the record at HEAD has entered a queue. -/
def State.ringTaken (s : State) (d q asid : Nat) : State :=
  ((s.enqueue d q (.launch (s.recBytes asid (s.ringAt asid)) (s.ringAt asid) asid 0 none none [])).setCx asid 0x10B
    (BitVec.ofNat 64 ((s.ringHead asid + 1) % s.ringLen asid))).push [.hqRecordRead d q]

/-- The record at HEAD of a ring enters the queue, and HEAD advances. -/
theorem hqRecordRead_takes {s : State} {d q asid : Nat} (hbind : s.qbindOf d q = some (0, asid)) (hgrant : s.grants d q = true)
    (hlen : s.ringLen asid ≠ 0) (hsome : s.ringHead asid % s.ringLen asid ≠ s.ringTail asid % s.ringLen asid) :
    exec (.hqRecordRead d q) s = .next (s.ringTaken d q asid) := by
  have hexec : exec (.hqRecordRead d q) s = .next (if s.ringLen asid == 0 ||
      s.ringHead asid % s.ringLen asid == s.ringTail asid % s.ringLen asid || !s.grants d q then s else s.ringTaken d q asid) := by
    refine congrArg Host.Outcome.next ?_
    rw [hbind]
    rfl
  rw [hexec]
  exact congrArg _ (if_neg (by simp [hlen, hsome, hgrant]))

/-- An entry is granted to a queue of a ring: its record is read. -/
theorem entryGrant_ring {s : State} {d q asid : Nat} (hbind : s.qbindOf d q = some (0, asid)) :
    exec (.entryGrant d q) s = .next (s.push [.hqRecordRead d q]) := by
  refine congrArg Host.Outcome.next ?_
  rw [hbind]
  rfl

/-! ### The slot table (R160, R161) -/

theorem toNat_extractLsb' {w : Nat} (x : BitVec w) (lo n : Nat) : (x.extractLsb' lo n).toNat = x.toNat / 2 ^ lo % 2 ^ n := by
  rw [BitVec.extractLsb'_toNat, Nat.shiftRight_eq_div_pow]

/-- The state in which firing `k` of an entry of the slot table has been queued. -/
def State.fired (s : State) (i k asid : Nat) : State :=
  { s.enqueue (i % 8) ((s.slotOf i).toNat / 2 ^ 160 % 2 ^ 16) (.launch (s.recBytes asid ((s.slotOf i).toNat % 2 ^ 64))
      ((s.slotOf i).toNat % 2 ^ 64) asid k (some i) none []) with
    slotPrev := mset s.slotPrev i k, slotDone := mdel s.slotDone i }

theorem slotQueue_of_granted {s : State} {i asid : Nat} (k : Nat)
    (hbind : s.qbindOf (i % 8) ((s.slotOf i).toNat / 2 ^ 160 % 2 ^ 16) = some (3, asid))
    (hgrant : s.grants (i % 8) ((s.slotOf i).toNat / 2 ^ 160 % 2 ^ 16) = true) : s.slotQueue i k = some (s.fired i k asid) := by
  unfold State.slotQueue
  simp only [toNat_extractLsb', hbind, hgrant, Nat.pow_zero, Nat.div_one]
  rfl

/-- An entry is granted to a queue of the slot table: the firing that is held is queued. -/
theorem entryGrant_slot {s : State} {d q asid i k : Nat} (hbind : s.qbindOf d q = some (3, asid)) (hheld : s.slotHeld = [(i, k)])
    (hdie : i % 8 = d) (hq : (s.slotOf i).toNat / 2 ^ 160 % 2 ^ 16 = q) (hprev : mget s.slotPrev i = none) (hgrant : s.grants d q = true) :
    exec (.entryGrant d q) s = .next { s.fired i k asid with slotHeld := [] } := by
  subst hdie hq
  have hget : mget s.slotHeld i = some k := by rw [hheld]; simp [mget]
  have hrelease : s.slotRelease i = { s.fired i k asid with slotHeld := [] } := by
    unfold State.slotRelease
    rw [hget]
    dsimp only
    rw [slotQueue_of_granted k hbind hgrant]
    dsimp only
    have hdel : mdel (s.fired i k asid).slotHeld i = [] := by
      rw [show (s.fired i k asid).slotHeld = [(i, k)] from hheld]
      simp [mdel]
    rw [hdel]
  refine congrArg Host.Outcome.next ?_
  rw [hbind]
  dsimp only
  rw [hheld, List.map_cons, List.map_nil, List.foldl_cons, List.foldl_nil, hprev]
  simp only [toNat_extractLsb', beq_self_eq_true, Bool.not_false, Bool.true_or, Bool.and_self, if_true]
  exact hrelease

theorem getLsbD_eq_true_iff {w : Nat} (x : BitVec w) (i : Nat) : x.getLsbD i = true ↔ x.toNat / 2 ^ i % 2 = 1 := by
  rw [BitVec.getLsbD, Nat.testBit_eq_decide_div_mod_eq, decide_eq_true_iff]

/-- An entry of the slot table with other NEXT and K. -/
def slotEntry (e : BitVec 256) (next k : BitVec 64) : BitVec 256 :=
  (e &&& ~~~((0xFFFFFFFFFFFFFFFF : BitVec 256) <<< 64) &&& ~~~((0xFFFFFFFFFFFFFFFF : BitVec 256) <<< 192)) |||
    (next.setWidth 256 <<< 64) ||| (k.setWidth 256 <<< 192)

theorem slotEntry_eq (e : BitVec 256) (next k : BitVec 64) :
    slotEntry e next k = k ++ (e.extractLsb' 128 64 ++ (next ++ e.extractLsb' 0 64)) := by
  have hones : (0xFFFFFFFFFFFFFFFF : BitVec 256) = (BitVec.allOnes 64).setWidth 256 := by decide
  unfold slotEntry
  rw [hones]
  refine BitVec.eq_of_getLsbD_eq fun i hi => ?_
  simp only [BitVec.getLsbD_or, BitVec.getLsbD_and, BitVec.getLsbD_not, BitVec.getLsbD_shiftLeft, BitVec.getLsbD_setWidth, BitVec.getLsbD_allOnes,
    BitVec.getLsbD_append, BitVec.getLsbD_extractLsb']
  by_cases h1 : i < 64
  · simp [h1, hi, show i < 128 by omega, show i < 192 by omega]
  by_cases h2 : i < 128
  · simp [h1, h2, hi, show i - 64 < 64 by omega, show i < 192 by omega, show i - 64 < 256 by omega]
  have hnext : next.getLsbD (i - 64) = false := next.getLsbD_of_ge _ (by omega)
  by_cases h3 : i < 192
  · simp [h1, h2, h3, hi, hnext, show ¬ i - 64 < 64 by omega, show i - 128 < 64 by omega, show 128 + (i - 128) = i by omega]
  · simp [h1, h3, hi, hnext, show ¬ i - 64 < 64 by omega, show i - 192 < 64 by omega, show i - 192 < 256 by omega]

theorem toNat_append4 (a b c d : BitVec 64) :
    (a ++ (b ++ (c ++ d))).toNat = a.toNat * 2 ^ 192 + b.toNat * 2 ^ 128 + c.toNat * 2 ^ 64 + d.toNat := by
  have h2 : (c ++ d).toNat = c.toNat * 2 ^ 64 + d.toNat := by
    rw [BitVec.toNat_append, ← Nat.shiftLeft_add_eq_or_of_lt d.isLt, Nat.shiftLeft_eq]
  have h3 : (b ++ (c ++ d)).toNat = b.toNat * 2 ^ 128 + (c ++ d).toNat := by
    rw [BitVec.toNat_append, ← Nat.shiftLeft_add_eq_or_of_lt (c ++ d).isLt, Nat.shiftLeft_eq]
  rw [BitVec.toNat_append, ← Nat.shiftLeft_add_eq_or_of_lt (b ++ (c ++ d)).isLt, Nat.shiftLeft_eq, h3, h2]
  omega

/-- An entry whose NEXT has moved by its period and whose K by one, neither past its field. -/
theorem slotEntry_toNat (e : BitVec 256) {p : Nat} (hnext : e.toNat / 2 ^ 64 % 2 ^ 64 + p < 2 ^ 64) (hk : e.toNat / 2 ^ 192 % 2 ^ 64 + 1 < 2 ^ 64) :
    (slotEntry e (BitVec.ofNat 64 (e.toNat / 2 ^ 64 % 2 ^ 64 + p)) (BitVec.ofNat 64 (e.toNat / 2 ^ 192 % 2 ^ 64 + 1))).toNat =
      e.toNat + p * 2 ^ 64 + 2 ^ 192 := by
  rw [slotEntry_eq, toNat_append4, BitVec.toNat_ofNat, BitVec.toNat_ofNat, Nat.mod_eq_of_lt hnext, Nat.mod_eq_of_lt hk, toNat_extractLsb',
    toNat_extractLsb']
  have hlt := e.isLt
  omega

/-- The state after an entry has moved on: its next firing has its time. -/
def State.slotNext (s : State) (i : Nat) (e : BitVec 256) : State :=
  ({ s with slots := mset s.slots i (slotEntry e (BitVec.ofNat 64 (e.toNat / 2 ^ 64 % 2 ^ 64 + e.toNat / 2 ^ 128 % 2 ^ 32))
      (BitVec.ofNat 64 (e.toNat / 2 ^ 192 % 2 ^ 64 + 1))) } : State).timer
    (max (e.toNat / 2 ^ 64 % 2 ^ 64 + e.toNat / 2 ^ 128 % 2 ^ 32) s.gtime) (.slotFiring i)

/-- The branches of a firing that takes place. -/
theorem slotFiring_eq {s : State} {i : Nat} (hvalid : (s.slotOf i).toNat / 2 ^ 183 % 2 = 1) (hevac : s.evacPhase = 0)
    (htime : (s.slotOf i).toNat / 2 ^ 64 % 2 ^ 64 ≤ s.gtime) :
    (mget s.slotHeld i = none → mget s.slotPrev i = none → ∀ u, s.slotQueue i ((s.slotOf i).toNat / 2 ^ 192 % 2 ^ 64) = some u →
        exec (.slotFiring i) s = .next (u.slotNext i (s.slotOf i))) ∧
      ∀ p, mget s.slotPrev i = some p → s.slotBusy i p ((s.slotOf i).toNat / 2 ^ 64 % 2 ^ 64) = true → (s.slotOf i).toNat / 2 ^ 181 % 2 ^ 2 = 0 →
        exec (.slotFiring i) s = .next (s.slotNext i (s.slotOf i)) := by
  have hgate : (!(s.slotOf i).getLsbD 183 || s.evacPhase != 0 || decide (s.gtime < (s.slotOf i).toNat / 2 ^ 64 % 2 ^ 64)) = false := by
    have hbit := (getLsbD_eq_true_iff (s.slotOf i) 183).mpr hvalid
    simp only [hbit, hevac, Bool.not_true, bne_self_eq_false, Bool.or_false, Bool.false_or, decide_eq_false_iff_not]
    omega
  refine ⟨fun hheld hprev u hu => ?_, fun p hprev hbusy hovr => ?_⟩
  · refine congrArg Host.Outcome.next ?_
    simp only [toNat_extractLsb', hgate, hprev, hheld, hu]
    rfl
  · refine congrArg Host.Outcome.next ?_
    simp only [toNat_extractLsb', hgate, hprev, hbusy, hovr]
    rfl

/-! ### Nodes (R163) -/

theorem mem_launchPlacement_of_emit {s : State} {asid node d : Nat} (hd : d < 8)
    (h : ∃ q ∈ (s.die d).queues, ∃ l n, QItem.emit asid node l n ∈ q.2) : ∃ t, exec (.nodeFlushTimeout asid node) s = .next t ∧ 
      .launchPlacement d ∈ t.work := by
  obtain ⟨q, hq, l, n, hin⟩ := h
  refine ⟨_, rfl, List.mem_append_right _ (List.mem_filterMap.mpr ⟨d, List.mem_range.mpr hd, if_pos ?_⟩)⟩
  refine List.any_eq_true.mpr ⟨q, hq, List.any_eq_true.mpr ⟨_, hin, ?_⟩⟩
  simp

end Sys2Proof.Machine

namespace Sys2Proof.Machine

/-! ### What a scheduler chooses does not depend on the timers -/

/-- A state with other timers. -/
def State.withTimers (s : State) (l : List (Nat × Event)) : State := { s with timers := l }

section Timers

variable (s : State) (l : List (Nat × Event))

theorem rd_timers (pa n : Nat) : (s.withTimers l).rd pa n = s.rd pa n := by
  induction n generalizing pa with
  | zero => rfl
  | succ n ih => rw [State.rd, State.rd, ih]; rfl

theorem walkFrom_timers (va level table : Nat) : (s.withTimers l).walkFrom va level table = s.walkFrom va level table := by
  induction level generalizing table with
  | zero => unfold State.walkFrom; simp only [rd_timers]
  | succ n ih => unfold State.walkFrom; simp only [rd_timers, ih]

theorem walk_timers (asid va : Nat) : (s.withTimers l).walk asid va = s.walk asid va := by
  unfold State.walk
  rw [walkFrom_timers]
  rfl

theorem xlat_timers (asid va : Nat) (w : Want) : (s.withTimers l).xlat asid va w = s.xlat asid va w := by
  unfold State.xlat
  rw [walk_timers]

theorem vrd_timers (asid va n : Nat) : (s.withTimers l).vrd asid va n = s.vrd asid va n := by
  unfold State.vrd
  rw [xlat_timers]
  simp only [rd_timers]

theorem recBytes_timers (asid a : Nat) : (s.withTimers l).recBytes asid a = s.recBytes asid a := by
  unfold State.recBytes
  simp only [vrd_timers]

theorem nodeOf_timers (asid n : Nat) : (s.withTimers l).nodeOf asid n = s.nodeOf asid n := by
  unfold State.nodeOf
  simp only [vrd_timers]
  rfl

theorem batchOf_timers (q : List QItem) (asid n : Nat) : (s.withTimers l).batchOf q asid n = s.batchOf q asid n := by
  unfold State.batchOf
  rw [nodeOf_timers]
  simp only [recBytes_timers]
  rfl

theorem headOf_timers (d q : Nat) : (s.withTimers l).headOf d q = s.headOf d q := by
  unfold State.headOf
  simp only [batchOf_timers]
  rfl

theorem priOf_timers (asid p : Nat) : (s.withTimers l).priOf asid p = s.priOf asid p := by
  unfold State.priOf State.uiRd
  simp only [vrd_timers]
  rfl

theorem candOf_timers (d q : Nat) : (s.withTimers l).candOf d q = s.candOf d q := by
  unfold State.candOf
  rw [headOf_timers]
  simp only [priOf_timers]
  rfl

theorem choose_timers (d : Nat) : (s.withTimers l).choose d = s.choose d := by
  have hcands : (s.withTimers l).cands d = s.cands d := by
    unfold State.cands
    simp only [funext (candOf_timers s l d)]
    rfl
  unfold State.choose
  rw [hcands]
  rfl

end Timers

theorem notBefores_eq (s : State) (d : Nat) : s.notBefores d = s.withTimers (s.notBefores d).timers := by
  unfold State.notBefores
  refine List.foldlRecOn (motive := fun x : State => x = s.withTimers x.timers) _ _ rfl fun x hx q _ => ?_
  split
  · dsimp only
    split
    · rw [hx]
      rfl
    · exact hx
  · exact hx

/-! ### The placement of a launch of one block (R156, R164, R165) -/

theorem mem_insertBy_of {α : Type _} {le : α → α → Bool} {x y : α} {l : List α} (h : y = x ∨ y ∈ l) : y ∈ insertBy le x l := by
  induction l with
  | nil => simpa [insertBy] using h
  | cons z r ih =>
    rw [insertBy]
    split
    · rcases h with h | h
      · exact List.mem_cons_of_mem _ (ih (.inl h))
      · rcases List.mem_cons.mp h with h | h
        · exact h ▸ List.mem_cons_self
        · exact List.mem_cons_of_mem _ (ih (.inr h))
    · exact List.mem_cons.mpr h

theorem mem_sortBy_of {α : Type _} {le : α → α → Bool} {y : α} {l : List α} (h : y ∈ l) : y ∈ sortBy le l := by
  have hfold : ∀ (l acc : List α), y ∈ l ∨ y ∈ acc → y ∈ l.foldl (fun acc x => insertBy le x acc) acc := by
    intro l
    induction l with
    | nil => exact fun acc h => h.resolve_left List.not_mem_nil
    | cons x r ih =>
      intro acc h
      refine ih _ ?_
      rcases h with h | h
      · exact (List.mem_cons.mp h).elim (fun e => .inr (mem_insertBy_of (.inl e))) .inl
      · exact .inr (mem_insertBy_of (.inr h))
  exact hfold l [] (.inl h)

theorem mem_byGangs {s : State} {l : List Nat} {c : Nat} : c ∈ s.byGangs l ↔ c ∈ l := by
  unfold State.byGangs
  constructor
  · intro h
    obtain ⟨x, hx, rfl⟩ := List.mem_map.mp h
    obtain ⟨y, hy, rfl⟩ := List.mem_map.mp (mem_sortBy hx)
    exact hy
  · exact fun h => List.mem_map.mpr ⟨_, mem_sortBy_of (List.mem_map_of_mem h), rfl⟩

theorem pair64_halves (x : DWord) : pair64 (lo32 x) (hi32 x) = x := by
  refine BitVec.eq_of_getLsbD_eq fun i hi => ?_
  rw [getLsbD_pair64]
  unfold lo32 hi32
  split
  · next h => rw [BitVec.getLsbD_extractLsb', Nat.zero_add, decide_eq_true h, Bool.true_and]
  · next h => rw [BitVec.getLsbD_extractLsb', decide_eq_true (by omega), Bool.true_and, Nat.add_sub_cancel' (by omega)]

theorem newSlice_starts (r : LRec) (num serial count g k : Nat) :
    (newSlice r num serial count g k).pc = BitVec.ofNat 48 r.lanepc ∧ (newSlice r num serial count g k).s64 0 = r.param := by
  refine ⟨rfl, ?_⟩
  unfold newSlice Slice.s64 Slice.setS64 Slice.setS Slice.s
  simp only [mgetD_msetD]
  simpa using pair64_halves r.param

/-- What placing one block leaves, and the block. -/
theorem putBlock_spec (s : State) (l : Launch) (num c : Nat) : ∃ b : Block, (s.putBlock l num c).blocks = s.blocks ++ [b] ∧
    (s.putBlock l num c).launches = s.launches ∧ (s.putBlock l num c).dies = s.dies ∧ (s.putBlock l num c).mem = s.mem ∧
    b.core = c ∧ b.launch = l.id ∧ b.asid = l.asid ∧
    ∀ g ∈ b.gangs, g.budget = l.lrec.regs ∧ ∀ sl ∈ g.slices, sl.pc = BitVec.ofNat 48 l.lrec.lanepc ∧ sl.s64 0 = l.lrec.param := by
  have hrecs : ∀ (u : State) (d a : Nat) (recs : List (List Byte × Nat)),
      let v := recs.foldl (fun s x => s.vlWrBytes d (a + 64 * x.2) x.1) u
      v.blocks = u.blocks ∧ v.launches = u.launches ∧ v.dies = u.dies ∧ v.mem = u.mem := fun u d a recs =>
    List.foldlRecOn (motive := fun v : State => v.blocks = u.blocks ∧ v.launches = u.launches ∧ v.dies = u.dies ∧ v.mem = u.mem) recs _
      ⟨rfl, rfl, rfl, rfl⟩ fun _ h _ _ => h
  unfold State.putBlock
  refine ⟨_, (hrecs _ _ _ _).1, (hrecs _ _ _ _).2.1, (hrecs _ _ _ _).2.2.1, (hrecs _ _ _ _).2.2.2, rfl, rfl, rfl, fun g hg => ?_⟩
  obtain ⟨n, -, rfl⟩ := List.mem_map.mp hg
  refine ⟨rfl, fun sl hsl => ?_⟩
  obtain ⟨k, -, rfl⟩ := List.mem_map.mp hsl
  exact newSlice_starts ..

/-- The launch that a candidate of a queue asks for, where its record is a good one of no whey launch. -/
def State.candLaunch (s : State) (d q : Nat) (bytes : List Byte) (addr asid add : Nat) (slot : Option Nat) (recs : List (List Byte)) : Launch :=
  { id := s.nextId, asid, die := d, queue := q, lrec := { parseRec bytes with seq := (parseRec bytes).seq + BitVec.ofNat 64 add }, addr,
    nblocks := if (parseRec bytes).whey then (parseRec bytes).wheyTotal else (parseRec bytes).blocks, slot := slot.map fun i => (i, add), recs }

theorem vet_of_good {bytes : List Byte} {addr : Nat} (s : State) (d q pri asid add : Nat) (slot : Option Nat) (recs : List (List Byte))
    (hgood : recordBad bytes addr = none) (hwhey : (parseRec bytes).whey = false) :
    s.vet d (q, pri, .launch bytes addr asid add slot none recs) = .inl (s.candLaunch d q bytes addr asid add slot recs, []) := by
  unfold State.vet
  dsimp only
  rw [hgood]
  refine (if_neg ?_).trans (if_pos ?_)
  · exact Bool.false_ne_true
  · rw [hwhey]
    rfl

/-- One block is put on the best of the cores on which it fits. -/
theorem putRange_one {s : State} {l : Launch} {cores : List Nat} (h3 : l.lrec.has 3 = false) (hfit : ∃ c ∈ cores, s.fits l.lrec c = true) :
    ∃ c, s.fits l.lrec c = true ∧ s.putRange l 0 1 cores = some (s.putBlock l 0 c) := by
  obtain ⟨c0, hc0, hfits⟩ := hfit
  have hmem : c0 ∈ s.byGangs (cores.filter (s.fits l.lrec)) := mem_byGangs.mpr (List.mem_filter.mpr ⟨hc0, hfits⟩)
  obtain ⟨c, rest, horder⟩ := List.exists_cons_of_ne_nil (List.ne_nil_of_mem hmem)
  have hc : c ∈ s.byGangs (cores.filter (s.fits l.lrec)) := by rw [horder]; exact List.mem_cons_self
  refine ⟨c, (List.mem_filter.mp (mem_byGangs.mp hc)).2, ?_⟩
  have hblocks : s.putBlocks l cores [0] = some (s.putBlock l 0 c) := by
    rw [State.putBlocks, horder]
    rfl
  unfold State.putRange
  rw [h3]
  exact hblocks

/-- A launch of one block is placed where one fits. -/
theorem placeUnit_one {s : State} {l : Launch} (hwhey : l.lrec.whey = false) (h3 : l.lrec.has 3 = false) (h4 : l.lrec.has 4 = false)
    (hone : l.nblocks = 1) (hfit : ∃ c < 512, s.coreRuns c = true ∧ s.fits l.lrec c = true) :
    ∃ c cores, s.fits l.lrec c = true ∧
      s.placeUnit l [] = some { s.putBlock l 0 c with launches := (s.putBlock l 0 c).launches ++ [{ l with cores }] } := by
  have hall : ∃ c ∈ (List.range 512).filter s.coreRuns, s.fits l.lrec c = true :=
    hfit.imp fun c ⟨hlt, hruns, hf⟩ => ⟨List.mem_filter.mpr ⟨List.mem_range.mpr hlt, hruns⟩, hf⟩
  obtain ⟨c, hc, hput⟩ := putRange_one h3 hall
  refine ⟨c, (((s.putBlock l 0 c).blocks.filter fun b => b.launch == l.id).map (·.core)).foldl addNew [], hc, ?_⟩
  unfold State.placeUnit
  generalize (List.range 512).filter s.coreRuns = all at hput ⊢
  dsimp only
  rw [hwhey, h4, hone, if_neg Bool.false_ne_true, if_neg Bool.false_ne_true, hput]
  rfl

/-- A launch that its scheduler takes out of its queue. -/
theorem dequeue_spec (s : State) (d q pri : Nat) (bytes : List Byte) (addr asid add : Nat) (slot : Option Nat) (recs : List (List Byte)) :
    let t := s.dequeue d (q, pri, .launch bytes addr asid add slot none recs)
    t.blocks = s.blocks ∧ t.launches = s.launches ∧ t.mem = s.mem ∧ (t.die d).queues = mset (s.die d).queues q ((s.queue d q).drop 1) := by
  refine ⟨rfl, rfl, rfl, ?_⟩
  exact congrArg Die.queues ((s.die_modDie d d fun y =>
    { y with
      queues := mset y.queues q ((s.queue d q).drop 1)
      chosen := y.chosen.filter fun k => k != q
      rot := if (y.chosen.filter fun k => k != q).isEmpty then q else y.rot }).trans (if_pos rfl))

/-- The state in which a launch is placed: the timers of launches that wait are set, and the launch has its number. -/
def State.placing (s : State) (timers : List (Nat × Event)) : State := { s.withTimers timers with nextId := s.nextId + 1 }

/-- A launch that its scheduler chooses, of a good record of no whey launch, is placed if there is room and no unit waits to return. -/
theorem execLaunchPlacement_of_placed {s v : State} {d q pri : Nat} {bytes : List Byte} {addr asid add : Nat} {slot : Option Nat}
    {recs : List (List Byte)} {timers : List (Nat × Event)} (hlevel : s.level ≠ 0) (hpower : s.powered = true) (hevac : s.evacPhase = 0)
    (hsaved : s.saved = []) (hchoose : s.choose d = some (q, pri, .launch bytes addr asid add slot none recs))
    (hgood : recordBad bytes addr = none) (hwhey : (parseRec bytes).whey = false) (htimers : s.notBefores d = s.withTimers timers)
    (hplace : (s.placing timers).placeUnit (s.candLaunch d q bytes addr asid add slot recs) [] = some v) :
    exec (.launchPlacement d) s = .next (((v.dequeue d (q, pri, .launch bytes addr asid add slot none recs)).modDie d fun y =>
      { y with lastOf := mset y.lastOf q s.nextId }).push [.launchPlacement d]) := by
  have hgate : (s.level == 0 || !s.powered || s.evacPhase != 0) = false := by simpa [hpower, hevac] using hlevel
  have hback : (s.withTimers timers).backFirst d pri = none := by
    unfold State.backFirst
    rw [show (s.withTimers timers).saved = [] from hsaved]
    rfl
  have hchosen : (s.withTimers timers).choose d = some (q, pri, .launch bytes addr asid add slot none recs) :=
    (choose_timers s timers d).trans hchoose
  have hvet := vet_of_good (s.withTimers timers) d q pri asid add slot recs hgood hwhey
  refine congrArg Host.Outcome.next ?_
  rw [hgate, htimers, if_neg Bool.false_ne_true]
  dsimp only
  rw [hchosen]
  dsimp only
  rw [hback, hvet]
  dsimp only
  have hput : ({ s.withTimers timers with nextId := (s.withTimers timers).nextId + 1 } : State).placeUnit
      ((s.withTimers timers).candLaunch d q bytes addr asid add slot recs) [] = some v := hplace
  rw [hput]
  rfl

/-- The placement of a launch of one block that its scheduler chooses, while no unit waits to return. -/
theorem launchPlacement_places {s : State} {d q pri : Nat} {bytes : List Byte} {addr asid add : Nat} {slot : Option Nat} {recs : List (List Byte)}
    (hlevel : s.level ≠ 0) (hpower : s.powered = true) (hevac : s.evacPhase = 0) (hsaved : s.saved = [])
    (hchoose : s.choose d = some (q, pri, .launch bytes addr asid add slot none recs)) (hgood : recordBad bytes addr = none)
    (hwhey : (parseRec bytes).whey = false) (h3 : (parseRec bytes).has 3 = false) (h4 : (parseRec bytes).has 4 = false)
    (hone : (parseRec bytes).blocks = 1) (hfit : ∃ c < 512, s.coreRuns c = true ∧ s.fits (parseRec bytes) c = true) :
    ∃ (t : State) (b : Block) (u : Launch), exec (.launchPlacement d) s = .next t ∧ t.blocks = s.blocks ++ [b] ∧ t.launches = s.launches ++ [u] ∧ b.launch = u.id ∧
      b.asid = asid ∧ u.asid = asid ∧ u.lrec = { parseRec bytes with seq := (parseRec bytes).seq + BitVec.ofNat 64 add } ∧
      s.fits (parseRec bytes) b.core = true ∧ t.queue d q = (s.queue d q).drop 1 ∧ t.mem = s.mem ∧
      ∀ g ∈ b.gangs, g.budget = (parseRec bytes).regs ∧ ∀ sl ∈ g.slices, sl.pc = BitVec.ofNat 48 (parseRec bytes).lanepc ∧
        sl.s64 0 = (parseRec bytes).param := by
  obtain ⟨timers, htimers⟩ : ∃ timers, s.notBefores d = s.withTimers timers := ⟨_, notBefores_eq s d⟩
  generalize hl : s.candLaunch d q bytes addr asid add slot recs = l
  have hrec : l.lrec = { parseRec bytes with seq := (parseRec bytes).seq + BitVec.ofNat 64 add } := hl ▸ rfl
  have hid : l.asid = asid ∧ l.nblocks = (parseRec bytes).blocks := hl ▸ ⟨rfl, if_neg (by rw [hwhey]; exact Bool.false_ne_true)⟩
  have hfits : ∀ c, (s.placing timers).fits l.lrec c = s.fits (parseRec bytes) c := fun c => by
    rw [hrec]
    rfl
  obtain ⟨c, cores, hc, hplace⟩ := placeUnit_one (s := (s.placing timers)) (l := l) (hrec ▸ hwhey) (hrec ▸ h3)
    (hrec ▸ h4) (hid.2.trans hone) (hfit.imp fun c ⟨hlt, hruns, hf⟩ => ⟨hlt, hruns, (hfits c).trans hf⟩)
  obtain ⟨b, hblocks, hlaunches, hdies, hmem, hcore, hlaunch, hasid, hgangs⟩ :=
    putBlock_spec (s.placing timers) l 0 c
  generalize hput : (s.placing timers).putBlock l 0 c = p at *
  generalize hv : ({ p with launches := p.launches ++ [{ l with cores }] } : State) = v at hplace
  obtain ⟨hdb, hdl, hdm, hdq⟩ := dequeue_spec v d q pri bytes addr asid add slot recs
  have hexec := execLaunchPlacement_of_placed (pri := pri) hlevel hpower hevac hsaved hchoose hgood hwhey htimers (hl.symm ▸ hplace)
  refine ⟨_, b, { l with cores }, hexec, ?_, ?_, hlaunch, hasid.trans hid.1, hid.1, hrec, ?_, ?_, ?_, ?_⟩
  · exact hdb.trans (hv ▸ hblocks)
  · exact hdl.trans (hv ▸ congrArg (· ++ [{ l with cores }]) hlaunches)
  · rw [hcore, ← hfits]
    exact hc
  · have hqueue : ∀ u : State, (u.modDie d fun y => { y with lastOf := mset y.lastOf q s.nextId }).queue d q = mgetD (u.die d).queues q [] := fun u => by
      unfold State.queue
      rw [State.die_modDie, if_pos rfl]
    refine (hqueue _).trans ?_
    have hvq : v.queue d q = s.queue d q ∧ v.die d = s.die d := by
      have hvd : v.dies = s.dies := hv ▸ hdies
      unfold State.queue State.die
      rw [hvd]
      exact ⟨rfl, rfl⟩
    rw [hdq, mgetD_mset, if_pos rfl, hvq.1]
  · exact hdm.trans (hv ▸ hmem)
  · rw [hrec] at hgangs
    exact hgangs

end Sys2Proof.Machine

namespace Sys2Proof.Machine

/-! ### Steps that only wake others -/

/-- Only due steps have been added. -/
def Pushed (s t : State) : Prop := ∃ l, t = s.push l

theorem Pushed.refl (s : State) : Pushed s s := ⟨[], by unfold State.push; rw [List.append_nil]⟩

theorem Pushed.push {s t : State} (h : Pushed s t) (l : List Event) : Pushed s (t.push l) := by
  obtain ⟨l0, rfl⟩ := h
  exact ⟨l0 ++ l, by unfold State.push; rw [← List.append_assoc]⟩

theorem Pushed.either {s a b : State} {p : Prop} (d : Decidable p) (ha : Pushed s a) (hb : Pushed s b) : Pushed s (@ite _ p d a b) := by
  split
  · exact ha
  · exact hb

theorem Pushed.eq {s t : State} (h : Pushed s t) : t = { s with work := t.work } := by
  obtain ⟨l, rfl⟩ := h
  rfl

/-! ### The retirement of a block (R64, R70) -/

/-- The state without a block that has retired, which its launch counts. -/
def State.retired (s : State) (i : Nat) (b : Block) : State :=
  { s with
    blocks := s.blocks.filter fun x => x.id != i
    launches := modWhere (fun l => l.id == b.launch) (fun l =>
      { l with retired := l.retired + 1, devs := b.posts.1.foldl addNew l.devs, devOvf := l.devOvf || b.posts.2.1,
               hostWr := b.posts.2.2.foldl (fun m x => mset m x.1 x.2) l.hostWr }) s.launches }

theorem blockRetirement_retires {s : State} {i : Nat} {b : Block} (hb : s.blk i = some b) (hended : b.ended = true) :
    ∃ t, exec (.blockRetirement i) s = .next t ∧ Pushed (s.retired i b) t ∧ .launchCompletion b.launch ∈ t.work := by
  have hexec : exec (.blockRetirement i) s = .next (
      let u := s.retired i b
      let u := if b.leaveHeld || !b.leaves.isEmpty then u.push [.leaveGrant (dieOf b.core)] else u
      let u := if b.whey.isSome then u.push [.wheyArrival b.core] else u
      let u := if b.yreq then u.push ((u.unit b.launch).map fun x => .unitSave x.id) else u
      (u.push [.launchCompletion b.launch]).wakeSched) := by
    refine congrArg Host.Outcome.next ?_
    rw [hb]
    dsimp only
    rw [hended]
    rfl
  refine ⟨_, hexec, Pushed.push (Pushed.push (.either _ (Pushed.push (.either _ (Pushed.push (.either _ (Pushed.push (.refl _) _) (.refl _)) _)
    (.either _ (Pushed.push (.refl _) _) (.refl _))) _) (.either _ (Pushed.push (.either _ (Pushed.push (.refl _) _) (.refl _)) _)
    (.either _ (Pushed.push (.refl _) _) (.refl _)))) _) _, ?_⟩
  exact List.mem_append_left _ (List.mem_append_right _ (List.mem_singleton_self _))

theorem retired_launches (s : State) (i : Nat) (b : Block) : (s.retired i b).launches.map (fun l => (l.id, l.retired)) =
    s.launches.map fun l => (l.id, if l.id = b.launch then l.retired + 1 else l.retired) := by
  refine (List.map_map ..).trans (List.map_congr_left fun l _ => ?_)
  rw [Function.comp_apply]
  by_cases hl : l.id = b.launch
  · rw [if_pos (beq_iff_eq.mpr hl), if_pos hl]
  · rw [if_neg (by simpa using hl), if_neg hl]

/-! ### A byte written at one instant (R89, R103) -/

/-- What a die's L2 keeps once the data of a sector has changed. -/
def Die.wrSector (sec : Nat) (f : Sector → Sector) (y : Die) : Die :=
  match mget y.l2 sec with
  | some x => { y with l2 := if x.tokn == 0 then mdel y.l2 sec else mset y.l2 sec { x with data := f x.data } }
  | none => y

/-- One die's turn of a write. -/
def State.wrDie (sec : Nat) (f : Sector → Sector) (s : State) (d : Nat) : State :=
  match mget (s.die d).l2 sec with
  | some x => s.setL2 d sec { x with data := f x.data }
  | none => s

theorem wr1_def (s : State) (pa : Nat) (v : Byte) : s.wr1 pa v =
    (List.range 8).foldl (State.wrDie (pa / 64) fun d => setSecByte d (pa % 64) v)
      { s with mem := Memory.setByte s.mem (memAddr pa) v, work := s.work.map fun i => eventMapData i (pa / 64) fun d => setSecByte d (pa % 64) v } := rfl

theorem wrDie_eq (sec : Nat) (f : Sector → Sector) (s : State) (d : Nat) : s.wrDie sec f d = { s with dies := (s.wrDie sec f d).dies } := by
  unfold State.wrDie
  split <;> rfl

theorem die_wrDie (sec : Nat) (f : Sector → Sector) (s : State) (d k : Nat) :
    (s.wrDie sec f d).die k = if k = d then (s.die k).wrSector sec f else s.die k := by
  unfold State.wrDie Die.wrSector
  by_cases hk : k = d
  · subst hk
    rw [if_pos rfl]
    split
    · exact (s.die_modDie k k _).trans (if_pos rfl)
    · rfl
  · rw [if_neg hk]
    split
    · exact (s.die_modDie d k _).trans (if_neg hk)
    · rfl

theorem die_foldl_wrDie (sec : Nat) (f : Sector → Sector) (l : List Nat) (hl : l.Nodup) (s : State) (k : Nat) :
    (l.foldl (State.wrDie sec f) s).die k = if k ∈ l then (s.die k).wrSector sec f else s.die k := by
  induction l generalizing s with
  | nil => rfl
  | cons d r ih =>
    obtain ⟨hd, hr⟩ := List.nodup_cons.mp hl
    rw [List.foldl_cons, ih hr, die_wrDie]
    by_cases hk : k = d
    · subst hk
      rw [if_neg hd, if_pos rfl, if_pos List.mem_cons_self]
    · rw [if_neg hk]
      simp [hk]

theorem foldl_wrDie_eq (sec : Nat) (f : Sector → Sector) (l : List Nat) (s : State) :
    l.foldl (State.wrDie sec f) s = { s with dies := (l.foldl (State.wrDie sec f) s).dies } :=
  List.foldlRecOn (motive := fun u : State => u = { s with dies := u.dies }) l _ rfl fun u hu d _ => by
    rw [wrDie_eq, hu]

/-- Memory, messages and L2s are all that a write changes. -/
theorem wr1_eq (s : State) (pa : Nat) (v : Byte) :
    s.wr1 pa v = { s with mem := (s.wr1 pa v).mem, work := (s.wr1 pa v).work, dies := (s.wr1 pa v).dies } := by
  rw [wr1_def, foldl_wrDie_eq]

/-- No L2 lists a sector of which it holds no token. -/
def State.Holds (s : State) (sec : Nat) : Prop := ∀ d < 8, ∀ x, mget (s.die d).l2 sec = some x → x.tokn ≠ 0

theorem wrSector_l2 {sec : Nat} {f : Sector → Sector} {y : Die} (h : ∀ x, mget y.l2 sec = some x → x.tokn ≠ 0) (sec' : Nat) :
    mget (y.wrSector sec f).l2 sec' = if sec' = sec then (mget y.l2 sec').map fun x => { x with data := f x.data } else mget y.l2 sec' := by
  unfold Die.wrSector
  split
  · next x hx =>
    have htok : (x.tokn == 0) = false := by simpa using h x hx
    show mget (if x.tokn == 0 then _ else _) sec' = _
    rw [htok, if_neg Bool.false_ne_true, mget_mset]
    by_cases hs : sec' = sec
    · subst hs
      rw [if_pos rfl, if_pos rfl, hx]
      rfl
    · rw [if_neg hs, if_neg hs]
  · next hx =>
    split
    · next hs => rw [hs, hx]; rfl
    · rfl

theorem die_wr1 (s : State) (pa : Nat) (v : Byte) {d : Nat} (hd : d < 8) :
    (s.wr1 pa v).die d = (s.die d).wrSector (pa / 64) fun x => setSecByte x (pa % 64) v := by
  rw [wr1_def, die_foldl_wrDie _ _ _ List.nodup_range, if_pos (List.mem_range.mpr hd)]
  rfl

theorem State.Holds.wr1 {s : State} {sec : Nat} (h : s.Holds sec) {pa : Nat} (v : Byte) (hsec : pa / 64 = sec) : (s.wr1 pa v).Holds sec := by
  subst hsec
  intro d hd x hx
  rw [die_wr1 s pa v hd, wrSector_l2 (h d hd), if_pos rfl, Option.map_eq_some_iff] at hx
  obtain ⟨y, hy, rfl⟩ := hx
  exact h d hd y hy

/-- What an L2 keeps of a sector after a write. -/
theorem l2_wr1 {s : State} {pa : Nat} (h : s.Holds (pa / 64)) (v : Byte) {d : Nat} (hd : d < 8) (sec : Nat) :
    ((s.wr1 pa v).l2 d sec).own = (s.l2 d sec).own ∧ ((s.wr1 pa v).l2 d sec).dv = (s.l2 d sec).dv ∧
      ((s.l2 d sec).own = true → ((s.wr1 pa v).l2 d sec).data = if sec = pa / 64 then setSecByte (s.l2 d sec).data (pa % 64) v else (s.l2 d sec).data) := by
  unfold State.l2 mgetD
  rw [die_wr1 s pa v hd, wrSector_l2 (h d hd)]
  by_cases hs : sec = pa / 64
  · rw [if_pos hs, if_pos hs]
    cases mget (s.die d).l2 sec with
    | none => exact ⟨rfl, rfl, fun h => nomatch h⟩
    | some x => exact ⟨rfl, rfl, fun _ => rfl⟩
  · rw [if_neg hs, if_neg hs]
    exact ⟨rfl, rfl, fun _ => rfl⟩

theorem getLsbD_byteMask (i : Nat) (hi : i < 512) : (255 : Sector).getLsbD i = decide (i < 8) := by
  have hones := Nat.testBit_two_pow_sub_one 8 i
  rw [← hones]
  exact (BitVec.getLsbD_ofNat ..).trans (by simp [hi])

theorem secByte_setSecByte (d : Sector) {j k : Nat} (hj : j < 64) (hk : k < 64) (v : Byte) :
    secByte (setSecByte d k v) j = if j = k then v else secByte d j := by
  unfold secByte setSecByte
  refine BitVec.eq_of_getLsbD_eq fun i hi => ?_
  have hin : 8 * j + i < 512 := by omega
  simp only [BitVec.getLsbD_extractLsb', BitVec.getLsbD_or, BitVec.getLsbD_and, BitVec.getLsbD_not, BitVec.getLsbD_shiftLeft,
    BitVec.getLsbD_setWidth]
  rw [getLsbD_byteMask _ (by omega)]
  by_cases hjk : j = k
  · subst hjk
    simp [hi, hin, show i < 512 by omega]
  · rw [if_neg hjk, BitVec.getLsbD_extractLsb']
    by_cases hlt : j < k
    · simp [hi, hin, show 8 * j + i < 8 * k by omega]
    · have hout : ¬ 8 * j + i - 8 * k < 8 := by omega
      simp [hi, hin, hout, show ¬ 8 * j + i < 8 * k by omega, v.getLsbD_of_ge _ (show 8 ≤ 8 * j + i - 8 * k by omega)]

theorem findSome?_map_of {α β : Type _} {p : α → Option β} {g : β → β} {h : α → α} (hp : ∀ x, p (h x) = (p x).map g) (l : List α) :
    (l.map h).findSome? p = (l.findSome? p).map g := by
  induction l with
  | nil => rfl
  | cons x r ih =>
    rw [List.map_cons, List.findSome?_cons, List.findSome?_cons, hp]
    cases p x with
    | none => exact ih
    | some y => rfl

theorem inFlight_wr1 (s : State) (pa : Nat) (v : Byte) (sec : Nat) :
    (s.wr1 pa v).inFlight sec = (s.inFlight sec).map fun d => if sec = pa / 64 then setSecByte d (pa % 64) v else d := by
  have hwork : (s.wr1 pa v).work = s.work.map fun i => eventMapData i (pa / 64) fun d => setSecByte d (pa % 64) v := by
    rw [wr1_def, foldl_wrDie_eq]
  have hmsg : ∀ m : TokMsg, (if m.sec == pa / 64 then (if m.sec == sec && m.own then m.data.map (fun d => setSecByte d (pa % 64) v) else none)
        else if m.sec == sec && m.own then m.data else none) =
      (if m.sec == sec && m.own then m.data else none).map fun d => if sec = pa / 64 then setSecByte d (pa % 64) v else d := by
    intro m
    by_cases hin : (m.sec == sec && m.own) = true
    · have hs : m.sec = sec := by simpa using (Bool.and_eq_true_iff.mp hin).1
      rw [if_pos hin, if_pos hin, hs]
      by_cases hp : sec = pa / 64
      · rw [if_pos (beq_iff_eq.mpr hp)]
        simp only [if_pos hp]
      · rw [if_neg (by simpa using hp)]
        simp only [if_neg hp, Option.map_id']
    · rw [if_neg hin, if_neg hin, ite_self]
      rfl
  unfold State.inFlight
  rw [hwork]
  refine findSome?_map_of (fun e => ?_) _
  cases e with
  | tokenArrival m =>
    refine Eq.trans ?_ (hmsg m)
    dsimp only [eventMapData]
    by_cases hp : (m.sec == pa / 64) = true
    · rw [if_pos hp, if_pos hp]
    · rw [if_neg hp, if_neg hp]
  | writeBack m =>
    refine Eq.trans ?_ (hmsg m)
    dsimp only [eventMapData]
    by_cases hp : (m.sec == pa / 64) = true
    · rw [if_pos hp, if_pos hp]
    · rw [if_neg hp, if_neg hp]
  | _ => rfl

/-- The agent, message or memory that has the current value of a sector is the same after a write. -/
theorem find_owner_wr1 {s : State} {pa : Nat} (h : s.Holds (pa / 64)) (v : Byte) (sec : Nat) :
    ((List.range 8).find? fun d => ((s.wr1 pa v).l2 d sec).own && ((s.wr1 pa v).l2 d sec).dv) =
      (List.range 8).find? fun d => (s.l2 d sec).own && (s.l2 d sec).dv := by
  refine List.find?_congr fun d hd => ?_
  obtain ⟨hown, hdv, -⟩ := l2_wr1 h v (List.mem_range.mp hd) sec
  rw [hown, hdv]

theorem rd1_wr1_same {s : State} {pa : Nat} (h : s.Holds (pa / 64)) (v : Byte) : (s.wr1 pa v).rd1 pa = v := by
  have hbyte : ∀ d : Sector, secByte (setSecByte d (pa % 64) v) (pa % 64) = v := fun d => by
    rw [secByte_setSecByte d (by omega) (by omega), if_pos rfl]
  have hmem : Memory.byte (s.wr1 pa v).mem (memAddr pa) = v := by
    rw [wr1_def, foldl_wrDie_eq]
    exact (mgetD_msetD ..).trans (if_pos rfl)
  unfold State.rd1
  rw [find_owner_wr1 h v, inFlight_wr1]
  cases hd : (List.range 8).find? fun d => (s.l2 d (pa / 64)).own && (s.l2 d (pa / 64)).dv with
  | some d =>
    have hown := List.find?_some hd
    rw [Bool.and_eq_true] at hown
    have hdata := (l2_wr1 h v (List.mem_range.mp (List.mem_of_find?_eq_some hd)) (pa / 64)).2.2 hown.1
    dsimp only
    rw [hdata, if_pos rfl, hbyte]
  | none =>
    cases s.inFlight (pa / 64) with
    | some d => simp [hbyte]
    | none => exact hmem

theorem rd1_wr1_ne {s : State} {pa : Nat} (h : s.Holds (pa / 64)) (v : Byte) {q : Nat} (hq : memAddr q ≠ memAddr pa) :
    (s.wr1 pa v).rd1 q = s.rd1 q := by
  have hbyte : ∀ d : Sector, secByte (if q / 64 = pa / 64 then setSecByte d (pa % 64) v else d) (q % 64) = secByte d (q % 64) := fun d => by
    split
    · next hs =>
      rw [secByte_setSecByte d (by omega) (by omega), if_neg]
      intro hr
      exact hq (by rw [show q = pa by omega])
    · rfl
  have hmem : Memory.byte (s.wr1 pa v).mem (memAddr q) = Memory.byte s.mem (memAddr q) := by
    rw [wr1_def, foldl_wrDie_eq]
    exact (mgetD_msetD ..).trans (if_neg hq)
  unfold State.rd1
  rw [find_owner_wr1 h v, inFlight_wr1]
  cases hd : (List.range 8).find? fun d => (s.l2 d (q / 64)).own && (s.l2 d (q / 64)).dv with
  | some d =>
    have hown := List.find?_some hd
    rw [Bool.and_eq_true] at hown
    have hdata := (l2_wr1 h v (List.mem_range.mp (List.mem_of_find?_eq_some hd)) (q / 64)).2.2 hown.1
    dsimp only
    rw [hdata, hbyte]
  | none =>
    cases s.inFlight (q / 64) with
    | some d => exact hbyte d
    | none => exact hmem

end Sys2Proof.Machine

namespace Sys2Proof.Machine

/-! ### Bytes written at one instant -/

theorem memAddr_inj_of_sector {a b : Nat} (hsec : a / 64 = b / 64) (h : memAddr a = memAddr b) : a = b := by
  unfold memAddr at h
  split at h <;> split at h <;> omega

theorem wrBytes_cons (s : State) (pa : Nat) (b : Byte) (r : List Byte) : s.wrBytes pa (b :: r) = (s.wr1 pa b).wrBytes (pa + 1) r := by
  conv_lhs => unfold State.wrBytes

/-- What is read after bytes of one sector have been written: those bytes, and every other as before. -/
theorem rd1_wrBytes {s : State} {pa : Nat} (h : s.Holds (pa / 64)) {l : List Byte} (hin : ∀ k < l.length, (pa + k) / 64 = pa / 64) :
    (∀ k x, l[k]? = some x → (s.wrBytes pa l).rd1 (pa + k) = x) ∧
      ∀ q, (∀ k < l.length, memAddr q ≠ memAddr (pa + k)) → (s.wrBytes pa l).rd1 q = s.rd1 q := by
  induction l generalizing s pa with
  | nil => exact ⟨fun k x hk => by simp at hk, fun q _ => rfl⟩
  | cons b r ih =>
    rw [wrBytes_cons]
    cases r with
    | nil =>
      refine ⟨fun k x hk => ?_, fun q hq => rd1_wr1_ne h b (by simpa using hq 0)⟩
      obtain ⟨rfl, rfl⟩ : k = 0 ∧ b = x := by
        cases k with
        | zero => simpa using hk
        | succ k => simp at hk
      exact rd1_wr1_same h b
    | cons b' r' =>
      have hsec : (pa + 1) / 64 = pa / 64 := hin 1 (by simp)
      have hnext := ih (s := s.wr1 pa b) (pa := pa + 1) (hsec ▸ h.wr1 b rfl) fun k hk => by
        rw [Nat.add_assoc, Nat.add_comm 1 k, hsec]
        exact hin (k + 1) (by simpa using hk)
      obtain ⟨hread, hframe⟩ := hnext
      refine ⟨fun k x hk => ?_, fun q hq => ?_⟩
      · cases k with
        | zero =>
          obtain rfl : b = x := by simpa using hk
          refine (hframe pa fun j hj he => ?_).trans (rd1_wr1_same h b)
          have hj64 := hin (j + 1) (by simpa using hj)
          have := memAddr_inj_of_sector (by rw [← hj64]; congr 1; omega) he
          omega
        | succ k =>
          rw [show pa + (k + 1) = pa + 1 + k by omega]
          exact hread k x (by simpa using hk)
      · refine (hframe q fun j hj => ?_).trans (rd1_wr1_ne h b (hq 0 (by simp)))
        rw [show pa + 1 + j = pa + (j + 1) by omega]
        exact hq (j + 1) (by simpa using hj)

/-- A number whose bytes are read. -/
theorem rd_of_bytes {s : State} {n : Nat} {pa v : Nat} (h : ∀ k < n, (s.rd1 (pa + k)).toNat = v / 256 ^ k % 256) : s.rd pa n = v % 256 ^ n := by
  induction n generalizing pa v with
  | zero => rw [State.rd, Nat.pow_zero, Nat.mod_one]
  | succ n ih =>
    have hfirst : (s.rd1 pa).toNat = v % 256 := by simpa using h 0 (Nat.succ_pos n)
    have hrest : s.rd (pa + 1) n = v / 256 % 256 ^ n := ih fun k hk => by
      rw [Nat.add_assoc, Nat.add_comm 1 k, h (k + 1) (by omega), Nat.div_div_eq_div_mul, Nat.pow_succ']
    rw [State.rd, hfirst, hrest, Nat.pow_succ', Nat.mod_mul]

theorem wrBytes_eq (s : State) (pa : Nat) (l : List Byte) :
    s.wrBytes pa l = { s with mem := (s.wrBytes pa l).mem, work := (s.wrBytes pa l).work, dies := (s.wrBytes pa l).dies } := by
  induction l generalizing s pa with
  | nil => rfl
  | cons b r ih =>
    rw [wrBytes_cons, ih, wr1_eq]

/-! ### The completion of a launch (R71, R171) -/

/-- What is read is the same where memory, the L2s and the messages that carry data are. -/
theorem rd1_of_same {s t : State} (hdies : t.dies = s.dies) (hmem : t.mem = s.mem) (hmsg : ∀ sec, t.inFlight sec = s.inFlight sec) (q : Nat) :
    t.rd1 q = s.rd1 q := by
  have hl2 : ∀ d sec, t.l2 d sec = s.l2 d sec := fun d sec => by
    unfold State.l2 State.die
    rw [hdies]
  unfold State.rd1
  simp only [hl2, hmem, hmsg]

/-- A due step that carries no sector. -/
def plainStep : Event → Bool
  | .tokenArrival _ | .writeBack _ => false
  | _ => true

theorem inFlight_push (s : State) {l : List Event} (h : ∀ e ∈ l, plainStep e = true) (sec : Nat) : (s.push l).inFlight sec = s.inFlight sec := by
  have hnone : ∀ e, plainStep e = true → (({ s with work := [e] } : State).inFlight sec) = none := fun e he => by
    cases e with
    | tokenArrival m => exact nomatch he
    | writeBack m => exact nomatch he
    | _ => rfl
  have hlist : (({ s with work := l } : State).inFlight sec) = none := by
    refine List.findSome?_eq_none_iff.mpr fun e he => ?_
    have := List.findSome?_eq_none_iff.mp (hnone e (h e he)) e (List.mem_singleton_self e)
    exact this
  have happend : (s.push l).inFlight sec = (s.inFlight sec).or (({ s with work := l } : State).inFlight sec) := List.findSome?_append ..
  rw [happend, hlist, Option.or_none]

theorem rd1_push (s : State) {l : List Event} (h : ∀ e ∈ l, plainStep e = true) (q : Nat) : (s.push l).rd1 q = s.rd1 q :=
  rd1_of_same (s := s) (t := s.push l) rfl rfl (inFlight_push s h) q

theorem rd1_wakeSched (s : State) (q : Nat) : s.wakeSched.rd1 q = s.rd1 q := by
  refine rd1_push s (fun e he => ?_) q
  simp only [List.mem_append, List.mem_map, List.mem_filterMap] at he
  rcases he with (⟨_, -, rfl⟩ | ⟨d, -, hd⟩) | ⟨d, -, hd⟩
  · rfl
  · split at hd
    · obtain rfl := Option.some.inj hd
      rfl
    · exact nomatch hd
  · split at hd
    · exact nomatch hd
    · obtain rfl := Option.some.inj hd
      rfl

/-- A launch's hold on its cores, and that alone, ends. -/
theorem unpin_eq (s : State) (l : Nat) : s.unpin l = { s with cores := (s.unpin l).cores, wheys := (s.unpin l).wheys } := by
  unfold State.unpin
  have hcores : ∀ (cs : List Nat) (f : Core → Core), cs.foldl (fun s c => s.modCore c f) s =
      { s with cores := (cs.foldl (fun s c => s.modCore c f) s).cores } := fun cs f =>
    List.foldlRecOn (motive := fun u : State => u = { s with cores := u.cores }) cs _ rfl fun u hu c _ => by rw [hu]; rfl
  dsimp only
  rw [hcores]

/-- What is left of a launch that has completed. -/
theorem complEnd_spec (s : State) (l : Launch) : (s.complEnd l).launches = s.launches.filter (fun x => x.id != l.id) ∧
    (s.complEnd l).outs = s.outs ∧ ∀ q, (s.complEnd l).rd1 q = s.rd1 q := by
  have hunpin := unpin_eq { s with launches := s.launches.filter fun x => x.id != l.id } l.id
  unfold State.complEnd
  dsimp only
  rw [hunpin]
  exact ⟨rfl, rfl, fun q => (rd1_wakeSched _ q).trans (rd1_of_same rfl rfl (fun _ => rfl) q)⟩

/-- The word of a completion that lies in memory under tokens is stored at one instant. -/
theorem storeWord_tokens {s : State} {asid va pa : Nat} {e v : DWord} (hx : s.xlat asid va .store = .inl (pa, e)) (hhost : paClass pa ≠ some .host)
    (hplace : s.place pa = .tokens) : s.storeWord asid va v = ((s.wrBytes pa (leBytes 8 v.toNat)).healMem pa 8, none) := by
  unfold State.storeWord
  rw [hx]
  dsimp only
  rw [if_neg (by simpa using hhost), hplace]
  rfl

/-- The completion of a launch whose release is done: its word is stored and it goes, with its MSI-X message. -/
theorem launchCompletion_completes {s : State} {n pa : Nat} {l : Launch} {e : DWord} (hl : s.launches.find? (fun x => x.id == n) = some l)
    (hdone : l.nblocks ≤ l.retired) (hhandler : l.handler = false) (hphase : l.phase = 1) (hslot : l.slot = none) (hwaits : s.complWaits n = false)
    (hroom : s.complRoom l = true) (hx : s.xlat l.asid l.lrec.cword.toNat .store = .inl (pa, e)) (hhost : paClass pa ≠ some .host)
    (hplace : s.place pa = .tokens) :
    exec (.launchCompletion n) s = .next
      ((((s.wrBytes pa (leBytes 8 l.lrec.seq.toNat)).healMem pa 8).complMsix l 0).complEnd l) := by
  refine congrArg Host.Outcome.next ?_
  rw [hl]
  dsimp only
  rw [if_neg (by simpa using ⟨hdone, hroom⟩), hhandler, if_neg Bool.false_ne_true, hphase]
  have hstay : (if (1 : Nat) == 0 then (s.complSend l).complPhase n 1 else s) = s := rfl
  rw [hstay, hwaits, storeWord_tokens hx hhost hplace]
  have hstored : ∀ u : State, u.slotStored l = u := fun u => by
    unfold State.slotStored
    rw [hslot]
  simp only [hstored]
  rfl

theorem leBytes_getElem? {n k : Nat} (hk : k < n) (v : Nat) : (leBytes n v)[k]? = some (BitVec.ofNat 8 (v / 256 ^ k % 256)) := by
  rw [leBytes, List.getElem?_map, List.getElem?_range hk]
  rfl

/-- An aligned word written and read. -/
theorem rd_wrBytes_word {s : State} {pa : Nat} (h : s.Holds (pa / 64)) (halign : pa % 8 = 0) (v : DWord) :
    BitVec.ofNat 64 ((s.wrBytes pa (leBytes 8 v.toNat)).rd pa 8) = v ∧
      ∀ q, (∀ k < 8, memAddr q ≠ memAddr (pa + k)) → (s.wrBytes pa (leBytes 8 v.toNat)).rd1 q = s.rd1 q := by
  have hlen : (leBytes 8 v.toNat).length = 8 := by simp [leBytes]
  have hin : ∀ k < (leBytes 8 v.toNat).length, (pa + k) / 64 = pa / 64 := fun k hk => by omega
  obtain ⟨hread, hframe⟩ := rd1_wrBytes h hin
  refine ⟨?_, by simpa only [hlen] using hframe⟩
  have hbyte : ∀ k < 8, ((s.wrBytes pa (leBytes 8 v.toNat)).rd1 (pa + k)).toNat = v.toNat / 256 ^ k % 256 := fun k hk => by
    rw [hread k _ (leBytes_getElem? hk v.toNat), BitVec.toNat_ofNat, Nat.mod_mod]
  rw [rd_of_bytes hbyte, Nat.mod_eq_of_lt (by simpa using v.isLt), BitVec.ofNat_toNat, BitVec.setWidth_eq]

theorem rd1_healMem (s : State) (pa n q : Nat) : (s.healMem pa n).rd1 q = s.rd1 q :=
  rd1_of_same (s := s) (t := s.healMem pa n) rfl rfl (fun _ => rfl) q

theorem stored_launches (s : State) (pa n : Nat) (l : List Byte) : ((s.wrBytes pa l).healMem pa n).launches = s.launches := by
  rw [wrBytes_eq, State.healMem]

theorem stored_outs (s : State) (pa n : Nat) (l : List Byte) : ((s.wrBytes pa l).healMem pa n).outs = s.outs := by
  rw [wrBytes_eq, State.healMem]

theorem complMsix_spec (s : State) (l : Launch) (port : Nat) : (s.complMsix l port).launches = s.launches ∧
    (s.complMsix l port).outs = (s.outs ++ if l.lrec.msix = true then [.msix port l.lrec.msixv] else []) ∧ ∀ q, (s.complMsix l port).rd1 q = s.rd1 q := by
  unfold State.complMsix
  by_cases hm : l.lrec.msix = true
  · rw [if_pos hm, if_pos hm]
    exact ⟨rfl, rfl, fun q => rd1_of_same (s := s) (t := s.send (.msix port l.lrec.msixv)) rfl rfl (fun _ => rfl) q⟩
  · rw [if_neg hm, if_neg hm, List.append_nil]
    exact ⟨rfl, rfl, fun _ => rfl⟩

/-- What the completion of a launch leaves: its word, its message, and the launch gone. -/
theorem launchCompletion_spec {s : State} {n pa : Nat} {l : Launch} {e : DWord} (hl : s.launches.find? (fun x => x.id == n) = some l)
    (hdone : l.nblocks ≤ l.retired) (hhandler : l.handler = false) (hphase : l.phase = 1) (hslot : l.slot = none) (hwaits : s.complWaits n = false)
    (hroom : s.complRoom l = true) (hx : s.xlat l.asid l.lrec.cword.toNat .store = .inl (pa, e)) (hhost : paClass pa ≠ some .host)
    (hplace : s.place pa = .tokens) (halign : pa % 8 = 0) (hheld : s.Holds (pa / 64)) :
    ∃ t : State, exec (.launchCompletion n) s = .next t ∧ BitVec.ofNat 64 (t.rd pa 8) = l.lrec.seq ∧
      (∀ q, (∀ k < 8, memAddr q ≠ memAddr (pa + k)) → t.rd1 q = s.rd1 q) ∧
      t.launches = s.launches.filter (fun x => x.id ≠ n) ∧ t.outs = s.outs ++ if l.lrec.msix = true then [.msix 0 l.lrec.msixv] else [] := by
  refine ⟨_, launchCompletion_completes hl hdone hhandler hphase hslot hwaits hroom hx hhost hplace, ?_⟩
  set u := (s.wrBytes pa (leBytes 8 l.lrec.seq.toNat)).healMem pa 8
  obtain ⟨hword, hframe⟩ := rd_wrBytes_word hheld halign l.lrec.seq
  obtain ⟨hmlaunches, hmouts, hmrd⟩ := complMsix_spec u l 0
  obtain ⟨helaunches, heouts, herd⟩ := complEnd_spec (u.complMsix l 0) l
  have hrd : ∀ q, ((u.complMsix l 0).complEnd l).rd1 q = (s.wrBytes pa (leBytes 8 l.lrec.seq.toNat)).rd1 q := fun q =>
    (herd q).trans ((hmrd q).trans (rd1_healMem _ pa 8 q))
  have hid : l.id = n := by simpa using List.find?_some hl
  refine ⟨?_, fun q hq => (hrd q).trans (hframe q hq), ?_, ?_⟩
  · have hsame : ∀ m p, ((u.complMsix l 0).complEnd l).rd p m = (s.wrBytes pa (leBytes 8 l.lrec.seq.toNat)).rd p m := fun m => by
      induction m with
      | zero => exact fun p => by rw [State.rd, State.rd]
      | succ m ih => exact fun p => by rw [State.rd, State.rd, hrd, ih]
    rw [hsame, hword]
  · have hlaunches : u.launches = s.launches := stored_launches ..
    rw [helaunches, hmlaunches, hlaunches, hid]
    exact List.filter_congr fun x _ => by simp [bne, Bool.beq_eq_decide_eq]
  · have houts : u.outs = s.outs := stored_outs ..
    rw [heouts, hmouts, houts]

end Sys2Proof.Machine

namespace Sys2Proof.Machine

/-! ### Leaves (R167) -/

/-- A block after a leave has been granted: the explicit one, or that of an engine context. -/
def Block.granted (b : Block) : Option Ctx → Block
  | none => { b with leaveHeld := true }
  | some k => { b with leaves := addNew b.leaves k }

/-- What a change of one block, of known value, makes of the blocks. -/
theorem modBlk_at {s : State} {i : Nat} {b : Block} {f : Block → Block} (hid : ∀ x, (f x).id = x.id) (hb : s.blk i = some b) :
    (s.modBlk i f).blk i = some (f b) ∧ ∀ j, j ≠ i → (s.modBlk i f).blk j = s.blk j := by
  refine ⟨?_, fun j hj => ?_⟩
  · rw [State.blk_modBlk s i i f hid, if_pos rfl, hb]
    rfl
  · rw [State.blk_modBlk s i j f hid, if_neg hj]

/-- The first waiting request is granted a leave. -/
theorem leaveGrant_grants {s : State} {d i : Nat} {k : Option Ctx} {rest : List (Nat × Option Ctx)} {b : Block}
    (hq : (s.die d).gov.queue = (i, k) :: rest) (hb : s.blk i = some b) (hlimit : s.leavesHeld d < (s.die d).gov.limit)
    (hrate : ((s.die d).gov.grants.filter fun x => s.gtime < x + 100).length < 8) :
    ∃ t : State, exec (.leaveGrant d) s = .next t ∧ t.blk i = some (b.granted k) ∧ (∀ j, j ≠ i → t.blk j = s.blk j) ∧
      (t.die d).gov.queue = rest ∧ s.gtime ∈ (t.die d).gov.grants ∧
      t = { s with blocks := t.blocks, dies := t.dies, work := s.work ++ if rest = [] then [] else [.leaveGrant d] } := by
  set recent := (s.die d).gov.grants.filter fun x => s.gtime < x + 100 with hrecent
  set u : State := s.modDie d fun x => { x with gov := { x.gov with queue := rest, grants := recent ++ [s.gtime] } } with hu
  have hexec : exec (.leaveGrant d) s = .next (if rest.isEmpty then u.modBlk i (Block.granted · k) else (u.modBlk i (Block.granted · k)).push [.leaveGrant d]) := by
    refine congrArg Host.Outcome.next ?_
    dsimp only
    rw [hq]
    dsimp only
    rw [hb]
    dsimp only
    rw [if_neg (by omega), if_neg (Nat.not_le.mpr hrate)]
    cases k <;> rfl
  have hgranted := modBlk_at (s := u) (f := (Block.granted · k)) (fun x => by cases k <;> rfl) hb
  have hdie : u.die d = { s.die d with gov := { (s.die d).gov with queue := rest, grants := recent ++ [s.gtime] } } := by
    rw [hu, State.die_modDie, if_pos rfl]
  refine ⟨_, hexec, ?_⟩
  cases rest with
  | nil => exact ⟨hgranted.1, hgranted.2, congrArg (·.gov.queue) hdie, hdie ▸ List.mem_append_right _ (List.mem_singleton_self _), by
      rw [if_pos rfl, List.append_nil]; rfl⟩
  | cons x r => exact ⟨hgranted.1, hgranted.2, congrArg (·.gov.queue) hdie, hdie ▸ List.mem_append_right _ (List.mem_singleton_self _), rfl⟩

/-- The implicit leave of an idle engine context ends. -/
theorem leaveExpiry_ends {s : State} {i : Nat} {k : Ctx} {b : Block} (hb : s.blk i = some b) (hopen : b.open' k = []) (hk : k ∈ b.leaves)
    (htimers : ∀ x ∈ s.timers, x.2 ≠ .leaveExpiry i k) :
    ∃ t : State, exec (.leaveExpiry i k) s = .next t ∧ t.blk i = some { b with leaves := b.leaves.filter fun x => x ≠ k } ∧
      (∀ j, j ≠ i → t.blk j = s.blk j) ∧ t = { s with blocks := t.blocks, work := s.work ++ [.leaveGrant (dieOf b.core)] } := by
  have hnone : s.timers.any (fun x => x.2 == .leaveExpiry i k) = false := List.any_eq_false.mpr fun x hx => by simpa using htimers x hx
  have hexec : exec (.leaveExpiry i k) s =
      .next ((s.modBlk i fun b => { b with leaves := b.leaves.filter fun x => x != k }).push [.leaveGrant (dieOf b.core)]) := by
    refine congrArg Host.Outcome.next ?_
    rw [hb]
    dsimp only
    rw [hopen, hnone, List.contains_iff_mem.mpr hk]
    rfl
  obtain ⟨hat, hothers⟩ := modBlk_at (s := s) (f := fun b => { b with leaves := b.leaves.filter fun x => x != k }) (fun _ => rfl) hb
  refine ⟨_, hexec, hat.trans ?_, hothers, rfl⟩
  congr 2
  exact List.filter_congr fun x _ => by simp [bne, Bool.beq_eq_decide_eq]

/-! ### Waits that end (R332, R367) -/

/-- The slices of a split go on, each to its target. -/
theorem wordDone_moveSplit {s : State} {b : Block} {g : Gang} {sp : Split} (hb : s.blk b.id = some b) (hg : b.gang g.num = some g)
    (hh : b.halt = none) (c : Ctl) (target : Slice → BitVec 48) (e : Bool) :
    wordDone s (moveSplit s b g sp c target e) b g sp fun sl sl' => sl' = { sl with pc := target sl, execMask := none } := by
  have hrun : ∀ b', s.blk b.id = some b' → b'.halt = none := fun b' hb' => Option.some.inj (hb.symm.trans hb') ▸ hh
  obtain ⟨hstate, hcore, hothers, hblock⟩ := onlyGang_moveSplit s b g sp c target e [] hrun ⟨b, hb⟩
  refine ⟨hstate, hcore, hothers, fun b0 hb0 => ?_⟩
  obtain rfl : b = b0 := Option.some.inj (hb.symm.trans hb0)
  obtain ⟨b', hb', hfields, hgangs, hgang⟩ := hblock b hb0
  refine ⟨b', hb', hfields, hgangs, fun g0 hg0 => ?_⟩
  obtain rfl : g = g0 := Option.some.inj (hg.symm.trans hg0)
  obtain ⟨g', hg', hgfields, hnone, hsome⟩ := hgang g hg0
  refine ⟨g', hg', hgfields, hnone, fun k sl hk => ?_⟩
  obtain ⟨sl', hsl', rfl⟩ := hsome k sl hk
  refine ⟨_, hsl', ?_⟩
  obtain rfl := Gang.slice_num hk
  rw [advTo_movers g sp target hk rfl]
  cases sp.slices.contains sl.num with
  | true => rfl
  | false => rfl

/-- A wait at SLEEPW that is over: the slices of the split go on to their next words. -/
theorem sleepwWake_goesOn {s : State} {r : SliceRef} {b : Block} {g : Gang} {sp : Split} {l : List (Nat × Nat × Bool × Word)}
    (hb : s.blk r.blk = some b) (hg : b.gang r.gang = some g) (hsp : g.splitOf r.slice = some sp) (hwait : sp.wait = .sleepw l)
    (hstop : sp.stop = false) (hsaving : b.saving = false) (hh : b.halt = none) (hdone : ∃ x ∈ l, s.sleepDone b x = true) :
    ∃ t : State, exec (.sleepwWake r) s = .next t ∧ wordDone s t b g sp fun sl sl' => sl' = { sl with pc := sl.pc + 8, execMask := none } := by
  have hany : l.any (s.sleepDone b) = true := List.any_eq_true.mpr hdone
  have hexec : exec (.sleepwWake r) s =
      .next (moveSplit s b g sp { stall := BitVec.ofNat _ (sp.readyAt - (s.now + 1)) } (fun sl => nextPc sl.pc) true) := by
    refine congrArg Host.Outcome.next ?_
    simp only [hb, hg, hsp, hwait, hstop, hsaving, hany]
    rfl
  have hbid : s.blk b.id = some b := by rw [State.blk_id hb]; exact hb
  have hgnum : b.gang g.num = some g := by rw [Block.gang_num hg]; exact hg
  exact ⟨_, hexec, wordDone_moveSplit hbid hgnum hh _ _ true⟩

/-- A sequencer whose QWAIT.until has come to its time goes on. -/
theorem qwaitDeadline_goesOn {s : State} {i at' : Nat} {b : Block} (hb : s.blk i = some b) (hwait : b.seq.wait = .until' at') (hat : at' ≤ s.gtime) :
    ∃ t : State, exec (.qwaitDeadline i) s = .next t ∧ Terms.blockTo s t b { b with seq := { b.seq with wait := .none, made := false } } := by
  have hexec : exec (.qwaitDeadline i) s = .next (s.modSeq i fun q => { q with wait := .none, made := false }) := by
    refine congrArg Host.Outcome.next ?_
    simp only [hb, hwait, if_pos hat]
  obtain ⟨hput, hothers⟩ := modBlk_at (s := s) (f := fun b => { b with seq := { b.seq with wait := .none, made := false } }) (fun _ => rfl) hb
  obtain rfl := State.blk_id hb
  exact ⟨_, hexec, rfl, hothers, hput⟩

end Sys2Proof.Machine

namespace Sys2Proof.Machine

/-! ### A fault record changes no block (R402 to R404) -/

theorem wrBytes_blocks (s : State) (pa : Nat) (l : List Byte) : (s.wrBytes pa l).blocks = s.blocks := by
  rw [wrBytes_eq]

theorem vwr_blocks (s : State) (asid va : Nat) (l : List Byte) : (s.vwr asid va l).blocks = s.blocks := by
  unfold State.vwr
  split
  · exact wrBytes_blocks ..
  · rfl

theorem putRecord_blocks (s : State) (asid : Nat) (r : List Byte) : (s.putRecord asid r).blocks = s.blocks := by
  unfold State.putRecord
  dsimp only
  split
  · exact vwr_blocks ..
  · rfl

theorem putDevice_blocks (s : State) (r : List Byte) : (s.putDevice r).blocks = s.blocks := by
  have hevac : ∀ (u : State) (l : List Event) {p : Prop} (d : Decidable p), (@ite _ p d u (u.push l)).blocks = u.blocks := fun u l p d => by
    split <;> rfl
  unfold State.putDevice
  dsimp only
  split
  · exact (wrBytes_blocks ..).trans (hevac ..)
  · exact hevac ..

theorem record_blocks (s : State) (b : Block) (gang : Nat) (f : FInfo) (smask lmask orig : Nat) : (s.record b gang f smask lmask orig).blocks = s.blocks := by
  refine (putRecord_blocks ..).trans ?_
  split
  · exact putDevice_blocks ..
  · rfl

/-! ### A halted block keeps its code (R402, R409, R422) -/

/-- The block is halted with the code. -/
def HaltedAs (bid : Nat) (code : BitVec 8) (s : State) : Prop := Terms.haltedWith s bid code

/-- A change of blocks that keeps which block it is and the code with which it halts. -/
def KeepsHalt (f : Block → Block) : Prop := ∀ b, (f b).id = b.id ∧ ∀ h, b.halt = some h → ∃ h', (f b).halt = some h' ∧ h'.code = h.code

section
variable {bid : Nat} {code : BitVec 8} {s : State}

theorem KeepsHalt.of_same {f : Block → Block} (hid : ∀ b, (f b).id = b.id) (hf : ∀ b, (f b).halt = b.halt) : KeepsHalt f :=
  fun b => ⟨hid b, fun h hb => ⟨h, (hf b).trans hb, rfl⟩⟩

/-- What a halted block remembers of its halt may grow. -/
theorem KeepsHalt.ofHalt {f : Halt → Halt} (hf : ∀ h, (f h).code = h.code) : KeepsHalt fun b => { b with halt := b.halt.map f } :=
  fun _ => ⟨rfl, fun h hb => ⟨f h, congrArg (Option.map f) hb, hf h⟩⟩

theorem HaltedAs.of_blocks {t : State} (h : HaltedAs bid code s) (he : t.blocks = s.blocks) : HaltedAs bid code t := by
  obtain ⟨b, hl, hb, hrest⟩ := h
  refine ⟨b, hl, ?_, hrest⟩
  unfold State.blk at hb ⊢
  rw [he]
  exact hb

theorem HaltedAs.modBlk (h : HaltedAs bid code s) (i : Nat) {f : Block → Block} (hf : KeepsHalt f) : HaltedAs bid code (s.modBlk i f) := by
  obtain ⟨b, hl, hb, hhalt, hcode⟩ := h
  unfold HaltedAs Terms.haltedWith
  rw [State.blk_modBlk s i bid f fun b => (hf b).1, hb]
  split
  · obtain ⟨h', hhalt', hcode'⟩ := (hf b).2 hl hhalt
    exact ⟨f b, h', rfl, hhalt', hcode'.trans hcode⟩
  · exact ⟨b, hl, rfl, hhalt, hcode⟩

theorem HaltedAs.modGang (h : HaltedAs bid code s) (i g : Nat) (f : Gang → Gang) : HaltedAs bid code (s.modGang i g f) :=
  h.modBlk i (.of_same (fun _ => rfl) fun _ => rfl)

theorem HaltedAs.modSplit (h : HaltedAs bid code s) (i g k : Nat) (f : Split → Split) : HaltedAs bid code (s.modSplit i g k f) :=
  h.modGang i g _

theorem HaltedAs.modSlice (h : HaltedAs bid code s) (r : SliceRef) (f : Slice → Slice) : HaltedAs bid code (s.modSlice r f) :=
  h.modGang r.blk r.gang _

theorem HaltedAs.modSeq (h : HaltedAs bid code s) (i : Nat) (f : Sequencer → Sequencer) : HaltedAs bid code (s.modSeq i f) :=
  h.modBlk i (.of_same (fun _ => rfl) fun _ => rfl)

theorem HaltedAs.either {t : State} {p : Prop} (d : Decidable p) (hs : HaltedAs bid code s) (ht : HaltedAs bid code t) :
    HaltedAs bid code (@ite _ p d s t) := by
  split
  · exact hs
  · exact ht

theorem HaltedAs.foldl {α : Type} (h : HaltedAs bid code s) {f : State → α → State}
    (hf : ∀ (u : State) (x : α), HaltedAs bid code u → HaltedAs bid code (f u x)) (l : List α) : HaltedAs bid code (l.foldl f s) :=
  List.foldlRecOn l f h fun u hu x _ => hf u x hu

theorem HaltedAs.record (h : HaltedAs bid code s) (b : Block) (gang : Nat) (f : FInfo) (smask lmask orig : Nat) :
    HaltedAs bid code (s.record b gang f smask lmask orig) :=
  h.of_blocks (record_blocks ..)

theorem HaltedAs.writeEntries (h : HaltedAs bid code s) (b : Block) (g : Gang) (sl : Slice) (lanes : List Nat) (c : BitVec 8) (rpc : BitVec 48) :
    HaltedAs bid code (s.writeEntries b g sl lanes c rpc) :=
  (h.modSlice _ _).foldl (f := fun s _ => s.vlWrBytes _ _ _) (fun _ _ hu => hu.of_blocks rfl) lanes

theorem HaltedAs.gatherLanes (h : HaltedAs bid code s) (d asid : Nat) (c : BitVec 8) (l : List Origin) : HaltedAs bid code (s.gatherLanes d asid c l) :=
  h.of_blocks rfl

theorem HaltedAs.recordParts (h : HaltedAs bid code s) (b : Block) (g : Gang) (c : BitVec 8) (l : List (Slice × Access × Part)) :
    HaltedAs bid code (s.recordParts b g c l) := by
  cases l with
  | nil => exact h
  | cons x r => exact h.record ..

theorem HaltedAs.stopHeld (h : HaltedAs bid code s) (b : Block) (g : Gang) (found : List (Slice × Access × Part × BitVec 8)) :
    HaltedAs bid code (s.stopHeld b g found) := by
  unfold State.stopHeld
  extract_lets _ _ _ recorded _ _ _
  have hrecorded : HaltedAs bid code recorded := by
    refine (h.foldl (fun _ _ hu => hu.recordParts ..) _).modBlk _ ?_
    exact .ofHalt fun _ => rfl
  refine .either _ hrecorded (hrecorded.foldl (fun u x hu => ?_) _)
  extract_lets written o charged
  have hcharged : HaltedAs bid code charged := by
    refine (hu.writeEntries ..).modBlk _ ?_
    exact .ofHalt fun _ => rfl
  exact hcharged.gatherLanes ..

theorem HaltedAs.stopRecord (h : HaltedAs bid code s) (b : Block) (g : Gang) (sp : Split) (hl : Halt) : HaltedAs bid code (s.stopRecord b g sp hl) :=
  .either _ (h.stopHeld ..) (.either _ h (h.record ..))

theorem HaltedAs.stopIdle (h : HaltedAs bid code s) (i : Nat) : HaltedAs bid code (s.stopIdle i) := by
  unfold State.stopIdle
  split
  · exact h
  · split
    · exact h
    · have hstopped : ∀ (l : List (Gang × Split)) (b : Block) (hl : Halt) (f : Block → List Gang),
          HaltedAs bid code ((l.foldl (fun s x => s.stopRecord b x.1 x.2 hl) s).modBlk i fun b => { b with gangs := f b }) := fun l b hl f =>
        (h.foldl (fun u x hu => hu.stopRecord ..) l).modBlk i (.of_same (fun _ => rfl) fun _ => rfl)
      dsimp only
      exact .either _ (.modSeq (.either _ (hstopped _ _ _ _) ((hstopped _ _ _ _).record ..)) _ _) (hstopped _ _ _ _)

theorem HaltedAs.haltBlock (h : HaltedAs bid code s) (i : Nat) (c : BitVec 8) (l : List (Nat × Nat × BitVec 48)) : HaltedAs bid code (s.haltBlock i c l) :=
  h.modBlk i fun b => by
    cases hb : b.halt with
    | none => exact ⟨rfl, fun _ he => nomatch he⟩
    | some hl =>
      refine ⟨rfl, fun h' he => ⟨{ hl with faulted := hl.faulted ++ l }, rfl, ?_⟩⟩
      obtain rfl := Option.some.inj he
      rfl

theorem HaltedAs.haltContext (h : HaltedAs bid code s) (asid : Nat) (c : BitVec 8) : HaltedAs bid code (s.haltContext asid c) := by
  have hall : ∀ l : List Nat, HaltedAs bid code (l.foldl (fun s b => (s.haltBlock b c []).stopIdle b) s) :=
    h.foldl fun u i hu => (hu.haltBlock i c []).stopIdle i
  exact (hall _).of_blocks rfl

end

/-- A running block that is halted takes the code. -/
theorem haltBlock_haltedAs {s : State} {b : Block} {i : Nat} (hb : s.blk i = some b) (hh : b.halt = none) (c : BitVec 8) (l : List (Nat × Nat × BitVec 48)) :
    HaltedAs i c (s.haltBlock i c l) := by
  refine ⟨{ b with halt := some { code := c, time := s.now, faulted := l } }, _, ?_, rfl, rfl⟩
  unfold State.haltBlock
  rw [State.blk_modBlk s i i _ fun b => by split <;> rfl, if_pos rfl, hb]
  simp only [Option.map_some, hh]

end Sys2Proof.Machine

namespace Sys2Proof.Machine

/-! ### A word that names no operation (R258) -/

section
variable {bid : Nat} {code : BitVec 8} {s : State}

/-- A code of a word, that concerns no more than its block, taken in a running block. -/
theorem trapOne_haltedAs {b b' : Block} (hb : s.blk b.id = some b') (hh : b'.halt = none) (g : Gang) (who : Faulting) (f : FInfo)
    (hcode : contextCode f.code = false) : HaltedAs b.id f.code (s.trapOne b g who f) := by
  have hrecorded : (s.recordLanes b g who f).blk b.id = some b' := by
    unfold State.blk at hb ⊢
    rw [State.recordLanes, record_blocks]
    exact hb
  have hhalted : ∀ l, HaltedAs b.id f.code ((s.recordLanes b g who f).haltBlock b.id f.code l) := haltBlock_haltedAs hrecorded hh f.code
  unfold State.trapOne
  extract_lets recorded halted stopped written os charged
  have hstopped : HaltedAs b.id f.code stopped := (hhalted _).foldl (fun u x hu => hu.modSplit b.id g.num x.1 Split.halted) who
  rw [if_neg (by rw [hcode]; exact Bool.false_ne_true)]
  refine .either _ hstopped ?_
  have hwritten : HaltedAs b.id f.code written := hstopped.foldl (fun u x hu => by
    split
    · exact hu.writeEntries ..
    · exact hu) who
  have hcharged : HaltedAs b.id f.code charged := by
    refine hwritten.modBlk _ ?_
    exact .ofHalt fun _ => rfl
  exact hcharged.gatherLanes ..

/-- A trap with such a code of a gang of a running block, outside supervisor contexts. -/
theorem trap_haltedAs {b : Block} {g : Gang} (hb : s.blk bid = some b) (hg : b.gang g.num = some g) (hh : b.halt = none) (hsup : s.sup b.asid = false)
    (who : Faulting) (f : FInfo) (hcode : contextCode f.code = false) : HaltedAs bid f.code (s.trap bid g.num [(who, f)]) := by
  obtain rfl := State.blk_id hb
  have hstopped := (trapOne_haltedAs hb hh g who f hcode).stopIdle b.id
  unfold State.trap State.trapGangs
  rw [hb]
  dsimp only
  rw [hsup, if_neg Bool.false_ne_true]
  simp only [List.flatMap_cons, List.flatMap_nil, List.append_nil, hg, List.map_cons, List.map_nil, List.foldl_cons, List.foldl_nil]
  exact .either _ (hstopped.haltContext ..) hstopped

/-- The same of its sequencer. -/
theorem trapSeq_haltedAs {b : Block} (hb : s.blk bid = some b) (hh : b.halt = none) (f : FInfo) (hcode : contextCode f.code = false) :
    HaltedAs bid f.code (s.trapSeq bid f) := by
  have hrecorded : (s.record b 0 f 0 0 0).blk bid = some b := by
    unfold State.blk at hb ⊢
    rw [record_blocks]
    exact hb
  unfold State.trapSeq
  split
  · next hnone => exact nomatch hb.symm.trans hnone
  · next b' hb' =>
    obtain rfl := Option.some.inj (hb.symm.trans hb')
    extract_lets recorded halted stopped
    have hstopped : HaltedAs bid f.code stopped := (haltBlock_haltedAs hrecorded hh f.code _).modSeq ..
    rw [if_neg (by rw [hcode]; exact Bool.false_ne_true)]
    refine .either _ ((hstopped.stopIdle bid).haltContext ..) ?_
    split
    next oid u hnew =>
    have hu : HaltedAs bid f.code u := hstopped.of_blocks (congrArg (fun x : Nat × State => x.2.blocks) hnew.symm)
    extract_lets o charged
    have hcharged : HaltedAs bid f.code charged := by
      refine hu.modBlk _ ?_
      exact .ofHalt fun _ => rfl
    exact (hcharged.stopIdle bid).gatherLanes ..

end

/-- The lanes of a split of one slice with active lanes. -/
theorem splitLanes_one {g : Gang} {sp : Split} {sl : Slice} (hgang : g.slices = [sl]) (hsp : sp.slices = [sl.num]) (hfrozen : sl.frozen = false)
    (hactive : sl.active ≠ []) : splitLanes g sp = [(sl.num, sl.active)] := by
  have hmember : memberSlices g sp = [sl] := by
    unfold memberSlices
    rw [hgang, hsp]
    simp
  have hnonempty : sl.active.isEmpty = false := by simpa using hactive
  unfold splitLanes
  simp [hmember, hfrozen, hnonempty]

/-- A word of a split of one slice that traps in its active lanes. -/
theorem trapWord_haltedAs {s : State} {b : Block} {g : Gang} {sp : Split} {sl : Slice} (hi : Issues s b g sp) (hh : b.halt = none)
    (hsp : sp.slices = [sl.num]) (hactive : sl.active ≠ []) (hsup : s.sup b.asid = false) (code : BitVec 8) (hcode : contextCode code = false) :
    HaltedAs b.id code (trapWord s b g sp {} code [(sl.num, sl.active)]) := by
  have hended := onlyGang_endRun s b.id g.num sl.num fun b' hb' => Option.some.inj (hi.blk.symm.trans hb') ▸ hh
  obtain ⟨hstate, -, -, hblock⟩ := hended
  obtain ⟨b', hb', hfields, -, hgang⟩ := hblock b hi.blk
  obtain ⟨g', hg', hgfields, -⟩ := hgang g hi.gang
  have hnum : g'.num = g.num := by rw [hgfields]
  have hhalt : b'.halt = none := by rw [hfields]; exact hh
  have hsup' : (s.endRun b.id g.num sl.num).sup b'.asid = false := by
    rw [hstate, hfields]
    exact hsup
  have htrap := trap_haltedAs hb' (hnum.symm ▸ hg') hhalt hsup' [(sl.num, sl.active, g.splitPc sp)]
    { code, pc := g.splitPc sp, addr := 0, detail := execDetail s.curWord 0 } hcode
  rw [hnum] at htrap
  have hnonempty : sl.active.isEmpty = false := by simpa using hactive
  have hexec : trapWord s b g sp {} code [(sl.num, sl.active)] = (s.endRun b.id g.num sl.num).trap b.id g.num
      [([(sl.num, sl.active, g.splitPc sp)], { code, pc := g.splitPc sp, addr := 0, detail := execDetail s.curWord 0 })] := by
    unfold trapWord trapMany
    simp [hnonempty, hsup, hsp, sortBy, insertBy, List.eraseDups_cons]
  rw [hexec]
  exact htrap

/-- A word of a split that names no operation halts its block with 0x01. -/
theorem emptyEntryWord_split {s : State} {b : Block} {g : Gang} {sp : Split} {sl : Slice} {w : DWord} (hi : Issues s b g sp) (hh : b.halt = none)
    (hgang : g.slices = [sl]) (hsp : sp.slices = [sl.num]) (hfrozen : sl.frozen = false) (hactive : sl.active ≠ []) (hsup : s.sup b.asid = false)
    (hw : decodeWord b.table w = .empty) : ∃ t : State, exec (.emptyEntryWord w) s = .next t ∧ Terms.haltedWith t b.id 0x01 := by
  have hi' : Issues { s with curWord := w } b g sp := ⟨hi.cur, hi.blk, hi.gang⟩
  have hexec : exec (.emptyEntryWord w) s = .next (trapWord { s with curWord := w } b g sp {} 0x01 [(sl.num, sl.active)]) := by
    obtain ⟨k, hcur, -⟩ := hi.cur
    have hnames : namesNothing b.table false w = true := by
      unfold namesNothing
      rw [hw]
    rw [exec_emptyEntryWord]
    unfold execEmptyEntryWord
    dsimp only
    split
    · rw [withSplit_of hi', if_pos hnames, splitLanes_one hgang hsp hfrozen hactive]
    · next hseq => exact nomatch hcur.symm.trans hseq
    · next hnone => exact nomatch hcur.symm.trans hnone
  exact ⟨_, hexec, trapWord_haltedAs hi' hh hsp hactive hsup 0x01 rfl⟩

/-- A word of a sequencer that names no operation halts its block: with 0x02 where it is of a pair, else with 0x01. -/
theorem emptyEntryWord_seq {s : State} {b : Block} {w : DWord} (hi : SeqIssues s b) (hh : b.halt = none)
    (hw : w.getLsbD 63 = true ∨ decodeWord b.table w = .empty) :
    ∃ t : State, exec (.emptyEntryWord w) s = .next t ∧ Terms.haltedWith t b.id (if w.getLsbD 63 then 0x02 else 0x01) := by
  have hi' : SeqIssues { s with curWord := w } b := ⟨hi.cur, hi.blk⟩
  have hexec : exec (.emptyEntryWord w) s = .next (trapSeqWord { s with curWord := w } b (if w.getLsbD 63 then 0x02 else 0x01)) := by
    rw [exec_emptyEntryWord]
    unfold execEmptyEntryWord
    dsimp only
    split
    · next hsplit => exact nomatch hi.cur.symm.trans hsplit
    · rw [withSeq_of hi']
      refine congrArg Host.Outcome.next ?_
      cases hpair : w.getLsbD 63 with
      | true => rfl
      | false =>
        have hempty : decodeWord b.table w = .empty := hw.resolve_left (by rw [hpair]; exact Bool.false_ne_true)
        have hnames : namesNothing b.table true w = true := by
          unfold namesNothing
          rw [hempty]
        rw [if_neg Bool.false_ne_true, if_pos hnames]
        rfl
    · next hnone => exact nomatch hi.cur.symm.trans hnone
  refine ⟨_, hexec, trapSeq_haltedAs (s := { s with curWord := w }) hi.blk hh _ ?_⟩
  cases w.getLsbD 63 <;> rfl

end Sys2Proof.Machine

namespace Sys2Proof.Machine

/-! ### The steps of the queues, with what each changes (R156 to R163) -/

/-- The ring registers of a context, as numbers. -/
theorem ring_fields (s : State) (asid : Nat) : s.ringLen asid = (s.cxr asid 0x10A).toNat % 2 ^ 17 ∧
    s.ringHead asid = (s.cxr asid 0x10B).toNat % 2 ^ 16 ∧ s.ringTail asid = (s.cxr asid 0x10C).toNat % 2 ^ 16 ∧
    s.ringAt asid = (s.cxr asid 0x109).toNat % 2 ^ 48 + 128 * (s.ringHead asid % s.ringLen asid) :=
  ⟨fld_zero .., fld_zero .., fld_zero .., congrArg (· + _) (fld_zero ..)⟩

theorem doorbell_spec {s : State} {asid : Nat} (host : Bool) (v : DWord) (h : s.inUse asid = true) :
    ∃ t : State, exec (.doorbell host asid v) s = .next t ∧ Terms.cxSet s t asid 0x10C (v &&& 0xFFFF) ∧ t = { s with cx := t.cx, work := t.work } ∧
      ∀ d < 8, ∀ x ∈ (s.die d).qbind, x.2.getLsbD 31 = true → x.2.toNat / 2 ^ 29 % 4 = 0 → x.2.toNat % 4096 = asid → .hqRecordRead d x.1 ∈ t.work := by
  refine ⟨_, doorbell_rings host v h, cxSet_of_cx (by decide) rfl, rfl, fun d hd x hx hvalid hkind hasid => ?_⟩
  exact List.mem_append_right _ (List.mem_map.mpr ⟨(d, x.1), mem_hostQueues hd hx hvalid hkind hasid, rfl⟩)

theorem hqRecordRead_spec {s : State} {d q asid : Nat} (hbind : s.qbindOf d q = some (0, asid)) (hgrant : s.grants d q = true)
    (hlen : s.ringLen asid ≠ 0) (hsome : s.ringHead asid % s.ringLen asid ≠ s.ringTail asid % s.ringLen asid) :
    ∃ (t : State) (l : List Byte), exec (.hqRecordRead d q) s = .next t ∧ Terms.queued s t d q (.launch l (s.ringAt asid) asid 0 none none []) ∧
      (∀ k < 16, ∀ x, vaClass (s.ringAt asid + 8 * k) = .package → s.vrd asid (s.ringAt asid + 8 * k) 8 = some x → (l.drop (8 * k)).take 8 = leBytes 8 x) ∧
      l.length = 128 ∧ Terms.cxSet s t asid 0x10B (BitVec.ofNat 64 ((s.ringHead asid + 1) % s.ringLen asid)) ∧
      t = { s with dies := t.dies, cx := t.cx, work := s.work ++ [.launchPlacement d, .hqRecordRead d q] } := by
  refine ⟨_, _, hqRecordRead_takes hbind hgrant hlen hsome, queued_of_dies rfl, fun k hk x hclass hx => recBytes_word hk hclass hx, recBytes_length ..,
    cxSet_of_cx (by decide) rfl, ?_⟩
  exact congrArg (fun l => { s with dies := (s.ringTaken d q asid).dies, cx := (s.ringTaken d q asid).cx, work := l }) (List.append_assoc ..)

/-- A firing that has been queued. -/
theorem fired_spec (s : State) (i k asid : Nat) :
    Terms.queued s (s.fired i k asid) (i % 8) ((s.slotOf i).toNat / 2 ^ 160 % 2 ^ 16)
        (.launch (s.recBytes asid ((s.slotOf i).toNat % 2 ^ 64)) ((s.slotOf i).toNat % 2 ^ 64) asid k (some i) none []) ∧
      mget (s.fired i k asid).slotPrev i = some k ∧ mget (s.fired i k asid).slotDone i = none := by
  refine ⟨queued_of_dies rfl, ?_, ?_⟩
  · refine (mget_mset s.slotPrev i i k).trans (if_pos rfl)
  · exact (mget_mdel s.slotDone i i).trans (if_pos rfl)

/-- An entry that has moved on: its NEXT by its period, its K by one, and no other entry. -/
theorem slotNext_spec {s u : State} {i : Nat} (hslots : u.slots = s.slots) (htimers : u.timers = s.timers) (hgtime : u.gtime = s.gtime)
    (hnext : (s.slotOf i).toNat / 2 ^ 64 % 2 ^ 64 + (s.slotOf i).toNat / 2 ^ 128 % 2 ^ 32 < 2 ^ 64) (hk : (s.slotOf i).toNat / 2 ^ 192 % 2 ^ 64 + 1 < 2 ^ 64) :
    ((u.slotNext i (s.slotOf i)).slotOf i).toNat = (s.slotOf i).toNat + (s.slotOf i).toNat / 2 ^ 128 % 2 ^ 32 * 2 ^ 64 + 2 ^ 192 ∧
      (∀ k, k ≠ i → (u.slotNext i (s.slotOf i)).slotOf k = s.slotOf k) ∧
      (u.slotNext i (s.slotOf i)).timers = s.timers ++ [(max ((s.slotOf i).toNat / 2 ^ 64 % 2 ^ 64 + (s.slotOf i).toNat / 2 ^ 128 % 2 ^ 32) s.gtime, .slotFiring i)] := by
  have hslot : ∀ k, (u.slotNext i (s.slotOf i)).slotOf k = if k = i then slotEntry (s.slotOf i)
      (BitVec.ofNat 64 ((s.slotOf i).toNat / 2 ^ 64 % 2 ^ 64 + (s.slotOf i).toNat / 2 ^ 128 % 2 ^ 32))
      (BitVec.ofNat 64 ((s.slotOf i).toNat / 2 ^ 192 % 2 ^ 64 + 1)) else u.slotOf k := fun k => mgetD_mset ..
  refine ⟨?_, fun k hne => ?_, ?_⟩
  · rw [hslot, if_pos rfl, slotEntry_toNat _ hnext hk]
  · rw [hslot, if_neg hne]
    unfold State.slotOf
    rw [hslots]
  · rw [← htimers, ← hgtime]
    rfl

end Sys2Proof.Machine

namespace Sys2Proof.Machine

/-! ### The slot table, and the steps taken together -/

theorem entryGrant_slot_spec {s : State} {d q asid i k : Nat} (hbind : s.qbindOf d q = some (3, asid)) (hheld : s.slotHeld = [(i, k)])
    (hdie : i % 8 = d) (hq : (s.slotOf i).toNat / 2 ^ 160 % 2 ^ 16 = q) (hprev : mget s.slotPrev i = none) (hgrant : s.grants d q = true) :
    ∃ t : State, exec (.entryGrant d q) s = .next t ∧
      Terms.queued s t d q (.launch (s.recBytes asid ((s.slotOf i).toNat % 2 ^ 64)) ((s.slotOf i).toNat % 2 ^ 64) asid k (some i) none []) ∧ t.slotHeld = [] ∧
      mget t.slotPrev i = some k ∧ mget t.slotDone i = none ∧
      t = { s with dies := t.dies, slotHeld := t.slotHeld, slotPrev := t.slotPrev, slotDone := t.slotDone, work := s.work ++ [.launchPlacement d] } := by
  obtain ⟨hqueued, hslotPrev, hslotDone⟩ := fired_spec s i k asid
  have hexec := entryGrant_slot hbind hheld hdie hq hprev hgrant
  subst hdie hq
  exact ⟨_, hexec, hqueued, rfl, hslotPrev, hslotDone, rfl⟩

theorem slotFiring_fires {s : State} {i asid : Nat} (hvalid : (s.slotOf i).toNat / 2 ^ 183 % 2 ^ 1 = 1) (hevac : s.evacPhase = 0)
    (htime : (s.slotOf i).toNat / 2 ^ 64 % 2 ^ 64 ≤ s.gtime)
    (hnext : (s.slotOf i).toNat / 2 ^ 64 % 2 ^ 64 + (s.slotOf i).toNat / 2 ^ 128 % 2 ^ 32 < 2 ^ 64) (hk : (s.slotOf i).toNat / 2 ^ 192 % 2 ^ 64 + 1 < 2 ^ 64)
    (hheld : mget s.slotHeld i = none) (hprev : mget s.slotPrev i = none)
    (hbind : s.qbindOf (i % 8) ((s.slotOf i).toNat / 2 ^ 160 % 2 ^ 16) = some (3, asid))
    (hgrant : s.grants (i % 8) ((s.slotOf i).toNat / 2 ^ 160 % 2 ^ 16) = true) :
    ∃ t : State, exec (.slotFiring i) s = .next t ∧
      ((t.slotOf i).toNat = (s.slotOf i).toNat + (s.slotOf i).toNat / 2 ^ 128 % 2 ^ 32 * 2 ^ 64 + 2 ^ 192 ∧ (∀ k, k ≠ i → t.slotOf k = s.slotOf k) ∧
        t.timers = s.timers ++ [(max ((s.slotOf i).toNat / 2 ^ 64 % 2 ^ 64 + (s.slotOf i).toNat / 2 ^ 128 % 2 ^ 32) s.gtime, .slotFiring i)]) ∧
      mget t.slotPrev i = some ((s.slotOf i).toNat / 2 ^ 192 % 2 ^ 64) ∧
      Terms.queued s t (i % 8) ((s.slotOf i).toNat / 2 ^ 160 % 2 ^ 16)
        (.launch (s.recBytes asid ((s.slotOf i).toNat % 2 ^ 64)) ((s.slotOf i).toNat % 2 ^ 64) asid ((s.slotOf i).toNat / 2 ^ 192 % 2 ^ 64) (some i) none []) := by
  obtain ⟨hqueued, hslotPrev, -⟩ := fired_spec s i ((s.slotOf i).toNat / 2 ^ 192 % 2 ^ 64) asid
  exact ⟨_, (slotFiring_eq hvalid hevac htime).1 hheld hprev _ (slotQueue_of_granted _ hbind hgrant),
    slotNext_spec (u := s.fired i ((s.slotOf i).toNat / 2 ^ 192 % 2 ^ 64) asid) rfl rfl rfl hnext hk, hslotPrev, hqueued⟩

theorem nodeFlushTimeout_spec (s : State) (asid node : Nat) :
    ∃ t : State, exec (.nodeFlushTimeout asid node) s = .next t ∧ t = { s with work := t.work } ∧ (∀ e ∈ s.work, e ∈ t.work) ∧
      ∀ d < 8, (∃ q ∈ (s.die d).queues, ∃ l n, QItem.emit asid node l n ∈ q.2) → .launchPlacement d ∈ t.work := by
  refine ⟨_, rfl, rfl, fun e he => List.mem_append_left _ he, fun d hd hemit => ?_⟩
  obtain ⟨t, hexec, hin⟩ := mem_launchPlacement_of_emit hd hemit
  exact Host.Outcome.next.inj hexec ▸ hin

theorem blockRetirement_spec {s : State} {i : Nat} {b : Block} (hb : s.blk i = some b) (hended : b.ended = true) :
    ∃ t : State, exec (.blockRetirement i) s = .next t ∧ t.blocks = (s.blocks.filter fun x => x.id ≠ i) ∧
      t.launches.map (fun l => (l.id, l.retired)) = s.launches.map (fun l => (l.id, if l.id = b.launch then l.retired + 1 else l.retired)) ∧
      .launchCompletion b.launch ∈ t.work ∧ t = { s with blocks := t.blocks, launches := t.launches, work := t.work } := by
  obtain ⟨t, hexec, hpushed, hcompletion⟩ := blockRetirement_retires hb hended
  have ht := hpushed.eq
  refine ⟨t, hexec, ?_, ?_, hcompletion, ?_⟩
  · rw [ht]
    exact List.filter_congr fun x _ => by simp [bne, Bool.beq_eq_decide_eq]
  · rw [ht]
    exact retired_launches s i b
  · rw [ht]
    rfl

/-- Settles O56: R71, R156 to R160, R162, R163, R165, R167, R171, R258, R332, R367. -/
theorem queueSteps : Obligations.QueueSteps := by
  unfold Obligations.QueueSteps
  intro s
  refine ⟨fun host asid v h => doorbell_spec host v h, ?ring, fun d q asid hbind => ⟨_, entryGrant_ring hbind, rfl⟩, ?grant, ?firing,
    fun asid node => nodeFlushTimeout_spec s asid node, ?placement, fun i b hb hended => blockRetirement_spec hb hended, ?completion, ?leave, ?expiry,
    ?sleepw, ?qwait, ?emptySplit, ?emptySeq⟩
  case ring =>
    intro d q asid hbind hgrant
    obtain ⟨hlen, hhead, htail, hat⟩ := ring_fields s asid
    rw [hlen, hhead] at hat
    have hspec := hqRecordRead_spec hbind hgrant
    rw [hat, hlen, hhead, htail] at hspec
    exact hspec
  case grant =>
    intro d q asid i k hbind hheld hdie hq hprev hgrant
    exact entryGrant_slot_spec hbind hheld hdie hq hprev hgrant
  case firing =>
    intro i asid e f a hvalid hevac htime hnext hk
    refine ⟨fun hheld hprev hbind hgrant => ?_, fun p hprev hbusy hoverrun => ?_⟩
    · have hspec := slotFiring_fires hvalid hevac htime hnext hk hheld hprev hbind hgrant
      have ha : a = (s.slotOf i).toNat % 2 ^ 64 := by
        show (s.slotOf i).toNat / 2 ^ 0 % 2 ^ 64 = _
        rw [Nat.pow_zero, Nat.div_one]
      rw [ha]
      exact hspec
    · exact ⟨_, (slotFiring_eq hvalid hevac htime).2 p hprev hbusy hoverrun, slotNext_spec rfl rfl rfl hnext hk, rfl⟩
  case placement =>
    intro d q pri l addr asid add slot recs hlevel hpower hevac hsaved hchoose hgood r hwhey h3 h4 hone hfit
    exact launchPlacement_places hlevel hpower hevac hsaved hchoose hgood hwhey h3 h4 hone hfit
  case completion =>
    intro n l pa e hl hdone hhandler hphase hslot hwaits hroom hx hhost hplace halign hheld
    exact launchCompletion_spec hl hdone hhandler hphase hslot hwaits hroom hx hhost hplace halign hheld
  case leave =>
    intro d i k rest b hq hb hlimit hrate
    obtain ⟨t, hexec, hblk, hrest⟩ := leaveGrant_grants hq hb hlimit hrate
    exact ⟨t, hexec, hblk.trans (by cases k <;> rfl), hrest⟩
  case expiry =>
    intro i k b hb hopen hk htimers
    exact leaveExpiry_ends hb hopen hk htimers
  case sleepw =>
    intro r b g sp l hb hg hsp hwait hstop hsaving hh hdone
    exact sleepwWake_goesOn hb hg hsp hwait hstop hsaving hh hdone
  case qwait =>
    intro i b at' hb hwait hat
    exact qwaitDeadline_goesOn hb hwait hat
  case emptySplit =>
    intro b g sp sl w hi hh hgang hsp hfrozen hactive hsup hw
    exact emptyEntryWord_split hi hh hgang hsp hfrozen hactive hsup hw
  case emptySeq =>
    intro b w hi hh hw
    exact emptyEntryWord_seq hi hh hw

end Sys2Proof.Machine

namespace Sys2Proof.Machine

/-! ## Memory: fences, waits, transaction barriers and vault accesses

First the byte that is read after a write; then what an acquire and a complete release leave, the fences and waits of a lane stream that
rest on them, and the same words in the uniform stream. A transaction-barrier word updates its slot and puts one access in flight
(`SlotWord.goesAhead`); an access at the vault that nothing is before has its turn, and its counter falls (`VaultTurn.comesOn`). -/

/-- Settles O29: R89, R103, R108, by the read and the frame of a byte written at one instant, which is the write of entry 8. -/
theorem memoryReadWrite : Obligations.MemoryReadWrite :=
  fun _ _ v hheld => ⟨rd1_wr1_same hheld v, fun _ hq => rd1_wr1_ne hheld v hq⟩

/-! ### Acquires and releases (R84, R85) -/

theorem acquire_eq (s : State) (core : Nat) (asids : List Nat) (sc : Scope) :
    s.acquire core asids sc = { s with cores := (s.acquire core asids sc).cores } := by
  cases sc <;> rfl

/-- An acquire does what `Terms.acquired` says, whatever it is asked for. -/
theorem acquire_acquired (s : State) (core : Nat) (asids : List Nat) (sc : Scope) (yes : Prop) :
    Terms.acquired s (s.acquire core asids sc) core asids sc yes := by
  by_cases hnarrow : sc = .blk ∨ sc = .core
  · have hsame : s.acquire core asids sc = s := by rcases hnarrow with rfl | rfl <;> rfl
    rw [hsame]
    exact ⟨rfl, fun _ => ⟨rfl, fun _ => rfl⟩, fun _ hx => hx, fun _ hx => hx,
      fun _ hblk hcore => (hnarrow.elim hblk hcore).elim⟩
  · have hwide : s.acquire core asids sc = s.modCore core fun c =>
        { c with l1 := c.l1.filter fun x => !asids.contains x.asid, icache := c.icache.filter fun x => !asids.contains x.1 } := by
      cases sc with
      | blk => exact (hnarrow (.inl rfl)).elim
      | core => exact (hnarrow (.inr rfl)).elim
      | _ => rfl
    have hcore : ∀ k, (s.acquire core asids sc).core k = if k = core then
        { s.core core with l1 := (s.core core).l1.filter fun x => !asids.contains x.asid,
                           icache := (s.core core).icache.filter fun x => !asids.contains x.1 } else s.core k := fun k => by
      rw [hwide, State.core_modCore]
    refine ⟨acquire_eq .., fun k => ?_, ?_⟩
    · rw [hcore]
      split
      · next hk => subst hk; exact ⟨rfl, fun hne => (hne rfl).elim⟩
      · exact ⟨rfl, fun _ => rfl⟩
    · rw [hcore, if_pos rfl]
      exact ⟨fun x hx => List.mem_of_mem_filter hx, fun x hx => List.mem_of_mem_filter hx, fun _ _ _ =>
        ⟨fun x hx => by simpa using (List.mem_filter.mp hx).2, fun x hx => by simpa using (List.mem_filter.mp hx).2⟩⟩

/-- Without an acquire nothing is discarded. -/
theorem acquired_refl (s : State) (core : Nat) (asids : List Nat) (sc : Scope) {yes : Prop} (hno : ¬ yes) :
    Terms.acquired s s core asids sc yes :=
  ⟨rfl, fun _ => ⟨rfl, fun _ => rfl⟩, fun _ hx => hx, fun _ hx => hx, fun hyes => (hno hyes).elim⟩

theorem acquired_ite (s : State) (core : Nat) (asids : List Nat) (sc : Scope) {yes : Prop} {p : Bool} (hp : yes → p = true) :
    Terms.acquired s (if p then s.acquire core asids sc else s) core asids sc yes := by
  split
  · exact acquire_acquired ..
  · next hno => exact acquired_refl _ _ _ _ fun hyes => hno (hp hyes)

/-- A split issues in every state that has the same blocks and the same issuer. -/
theorem Issues.congr {s u : State} {b : Block} {g : Gang} {sp : Split} (hi : Issues s b g sp) (hcur : u.cur = s.cur)
    (hblocks : u.blocks = s.blocks) : Issues u b g sp := by
  refine ⟨hcur ▸ hi.cur, ?_, hi.gang⟩
  unfold State.blk
  rw [hblocks]
  exact hi.blk

theorem Issues.acquired {s u : State} {b : Block} {g : Gang} {sp : Split} {core : Nat} {asids : List Nat} {sc : Scope} {yes : Prop}
    (hi : Issues s b g sp) (hu : Terms.acquired s u core asids sc yes) : Issues u b g sp := by
  obtain ⟨hstate, -⟩ := hu
  exact hi.congr (by rw [hstate]) (by rw [hstate])

theorem onMembers_acquire (s : State) (b : Block) (g : Gang) (sp : Split) (f : Slice → Slice) (core : Nat) (asids : List Nat) (sc : Scope) :
    (onMembers s b g sp f).acquire core asids sc = onMembers (s.acquire core asids sc) b g sp f := by
  cases sc <;> rfl

theorem tlRelease_eq_of_complete {s : State} {b : Block} {sc : Scope} (h : (s.tlRelease b sc).1 = true) : s.tlRelease b sc = (true, s) := by
  unfold State.tlRelease at h ⊢
  split at h
  · next hwide => rw [if_pos hwide]; exact releaseTo_eq_of_complete h
  · next hnarrow => rw [if_neg hnarrow]

/-! ### FENCE (R84, R87, R313) -/

theorem fenceScope_eq (o : FenceOp) : fenceScope o = if o.ord = .acq then (if o.scope = .sys then .die else .blk) else o.scope := by
  unfold fenceScope
  simp only [beq_iff_eq]

theorem fenceAcq_iff (o : FenceOp) : fenceAcq o = true ↔ o.ord = .acq ∨ o.ord = .ar := by
  unfold fenceAcq
  simp only [Bool.or_eq_true, beq_iff_eq]

/-- Settles O34: R84, R87, R313. -/
theorem fenceWord : Obligations.FenceWord := by
  intro s b g sp sl c o hi hh hsole htakes hrel
  obtain ⟨k, hcur, -⟩ := hi.cur
  have hacting : (memberSlices g sp).filter (takes c) = [sl] := by rw [hsole]; simp [htakes]
  have hexec : exec (.fence c o) s = .next (finish (if fenceAcq o then s.acquire b.core [b.asid, s.accAsid b sl] o.scope else s) b g sp c) := by
    rw [exec_fence, execFence, hcur]
    refine (withSplit_of hi _).trans (congrArg Host.Outcome.next ?_)
    dsimp only
    rw [hacting, fenceScope_eq, hrel]
    rfl
  have hacquired := acquired_ite s b.core [b.asid, s.accAsid b sl] o.scope (fenceAcq_iff o).mpr
  exact ⟨_, _, hexec, hacquired, finish_done (hi.acquired hacquired) hh c _⟩

/-! ### WAITP, TLREAD, TLADV and TLWAIT (R94, R319, R320) -/

theorem waitp_goesOn {s : State} {b : Block} {g : Gang} {sp : Split} (hi : Issues s b g sp) (hh : b.halt = none) (c : Ctl) (path : BitVec 3)
    (all : Bool) (a : BitVec 6)
    (hlow : ∀ sl ∈ memberSlices g sp, takes c sl = true → ∀ k < 8, (all = true ∨ k = path.toNat) → accCount sl.acc k ≤ min (sl.s a.toNat).toNat 63) :
    ∃ t, exec (.waitp c { path, all, a }) s = .next t ∧ wordDone s t b g sp fun sl sl' => Terms.became c sl sl' := by
  have hpaths : ∀ sl ∈ memberSlices g sp, takes c sl = true → sl.pathsLow (if all then 8 else path.toNat) (sl.s a.toNat).toNat = true := by
    intro sl hsl htakes
    have hcount := hlow sl hsl htakes
    unfold Slice.pathsLow
    cases all with
    | true => simpa using fun k hk => hcount k hk (.inl rfl)
    | false =>
      have hlt : path.toNat < 8 := path.isLt
      have hne : (path.toNat == 8) = false := by simp only [beq_eq_false_iff_ne]; omega
      rw [if_neg Bool.false_ne_true, hne, if_neg Bool.false_ne_true]
      exact decide_eq_true (hcount _ hlt (.inr rfl))
  have hnone : (memberSlices g sp).find? (fun sl => takes c sl && !sl.pathsLow (if all then 8 else path.toNat) (sl.s a.toNat).toNat) = none := by
    rw [List.find?_eq_none]
    intro sl hsl hwaits
    rw [Bool.and_eq_true, Bool.not_eq_true'] at hwaits
    exact Bool.false_ne_true (hwaits.2.symm.trans (hpaths sl hsl hwaits.1))
  refine ⟨_, withSplit_of hi _, ?_⟩
  dsimp only
  rw [hnone]
  exact finish_done hi hh c false

theorem s_setS64 (sl : Slice) (i : Nat) (v : DWord) (k : Nat) :
    (sl.setS64 i v).s k = if k = i + 1 then hi32 v else if k = i then lo32 v else sl.s k := by
  unfold Slice.setS64 Slice.setS Slice.s
  rw [mgetD_msetD, mgetD_msetD]

theorem s64_setS64 (sl : Slice) (i : Nat) (v : DWord) : (sl.setS64 i v).s64 i = v := by
  unfold Slice.s64
  rw [s_setS64, s_setS64, if_neg (by omega), if_pos rfl, if_pos rfl, pair64_halves]

/-- TLREAD leaves the counter in the scalars of the slices that take it. -/
theorem tlread_goesOn {s : State} {b : Block} {g : Gang} {sp : Split} (hi : Issues s b g sp) (hh : b.halt = none) (c : Ctl) (o : TlOp) :
    ∃ t, exec (.tlread c o) s = .next t ∧ wordDone s t b g sp fun sl sl' => Terms.became c { sl with sregs := sl'.sregs } sl' ∧
      (takes c sl = true → sl'.s64 o.d.toNat = BitVec.ofNat 64 (b.tlOf o.ctx).counter ∧
        ∀ i, i ≠ o.d.toNat → i ≠ o.d.toNat + 1 → sl'.s i = sl.s i) ∧ (takes c sl = false → sl'.sregs = sl.sregs) := by
  obtain ⟨k, hcur, -⟩ := hi.cur
  have hexec : exec (.tlread c o) s = .next (finish (onMembers s b g sp fun sl =>
      if takes c sl then sl.setS64 o.d.toNat (BitVec.ofNat 64 (b.tlOf o.ctx).counter) else sl) b g sp c) := by
    rw [exec_tlread, execTlread, hcur]
    exact withSplit_of hi _
  refine ⟨_, hexec, wordDone_mono (wordDone_finish hi hh c false _ fun sl => by split <;> rfl) fun sl sl' hsl' => ?_⟩
  cases htakes : takes c sl with
  | false =>
    rw [htakes, if_neg Bool.false_ne_true] at hsl'
    have hsregs : sl'.sregs = sl.sregs := by rw [hsl', went_sregs]
    refine ⟨?_, nofun, fun _ => hsregs⟩
    rw [hsregs, hsl']
    exact became_went sl
  | true =>
    rw [htakes, if_pos rfl] at hsl'
    have hsregs : sl'.sregs = (sl.setS64 o.d.toNat (BitVec.ofNat 64 (b.tlOf o.ctx).counter)).sregs := by rw [hsl', went_sregs]
    have hs : ∀ i, sl'.s i = (sl.setS64 o.d.toNat (BitVec.ofNat 64 (b.tlOf o.ctx).counter)).s i := fun i => by
      rw [Slice.s, hsregs, Slice.s]
    refine ⟨?_, fun _ => ⟨?_, fun i hlo hhi => ?_⟩, nofun⟩
    · rw [hsregs, hsl']
      exact became_went (sl.setS64 o.d.toNat (BitVec.ofNat 64 (b.tlOf o.ctx).counter))
    · rw [Slice.s64, hs, hs, ← Slice.s64, s64_setS64]
    · rw [hs, s_setS64, if_neg hhi, if_neg hlo]

theorem Slice.active_nodup (sl : Slice) : sl.active.Nodup := by
  unfold Slice.active
  split
  · exact List.nodup_nil
  · exact sl.live_nodup.filter _

theorem Slice.lt_lanes_of_active {sl : Slice} {j : Nat} (h : j ∈ sl.active) : j < sl.lanes.length := by
  unfold Slice.active at h
  split at h
  · exact nomatch h
  · exact Slice.lt_lanes_of_live (List.mem_of_mem_filter h)

/-- The slice in which TLADV has put its answer. -/
def Slice.tladv (c : Ctl) (o : TlOp) (counter : Nat) (sl : Slice) : Slice :=
  if takes c sl then sl.eachLane (fun _ l => l.setP o.d.toNat (decide ((sl.s64 o.n.toNat).toNat ≤ counter))) sl.active else sl

theorem Slice.tladv_eq (c : Ctl) (o : TlOp) (counter : Nat) (sl : Slice) :
    sl.tladv c o counter = { sl with lanes := (sl.tladv c o counter).lanes } := by
  unfold Slice.tladv
  split
  · rw [Slice.eachLane_eq]
  · rfl

theorem Slice.tladv_num (c : Ctl) (o : TlOp) (counter : Nat) (sl : Slice) : (sl.tladv c o counter).num = sl.num := by
  rw [Slice.tladv_eq]

theorem Slice.lane_tladv (c : Ctl) (o : TlOp) (counter : Nat) (sl : Slice) (j : Nat) :
    (sl.tladv c o counter).lane j = if takes c sl = true ∧ j ∈ sl.active then
      (sl.lane j).setP o.d.toNat (decide ((sl.s64 o.n.toNat).toNat ≤ counter)) else sl.lane j := by
  unfold Slice.tladv
  cases takes c sl with
  | false => simp
  | true =>
    rw [if_pos rfl, sl.lane_eachLane _ sl.active_nodup fun _ => Slice.lt_lanes_of_active]
    simp

/-- TLADV answers in the active lanes of the slices that take it; an answer that is true acquires. -/
theorem tladv_goesOn {s : State} {b : Block} {g : Gang} {sp : Split} (hi : Issues s b g sp) (hh : b.halt = none) (c : Ctl) (o : TlOp) :
    ∃ t u, exec (.tladv c o) s = .next t ∧ Terms.acquired s u b.core [b.asid] o.scope
        (∃ sl ∈ memberSlices g sp, takes c sl = true ∧ (sl.s64 o.n.toNat).toNat ≤ (b.tlOf o.ctx).counter) ∧
      wordDone u t b g sp fun sl sl' => sl' = went c (nextPc sl.pc) (sl.tladv c o (b.tlOf o.ctx).counter) := by
  set any : Bool := (memberSlices g sp).any fun sl => takes c sl && decide ((sl.s64 o.n.toNat).toNat ≤ (b.tlOf o.ctx).counter) with hany
  set put : Slice → Slice := fun sl => sl.tladv c o (b.tlOf o.ctx).counter with hput
  have hexec : exec (.tladv c o) s =
      .next (finish (onMembers (if any then s.acquire b.core [b.asid] o.scope else s) b g sp put) b g sp c) := by
    refine (withSplit_of hi _).trans (congrArg (fun u => Host.Outcome.next (finish u b g sp c)) ?_)
    dsimp only
    rw [← hany]
    split
    · exact onMembers_acquire s b g sp put b.core [b.asid] o.scope
    · rfl
  have hacquired := acquired_ite s b.core [b.asid] o.scope (p := any)
    (yes := ∃ sl ∈ memberSlices g sp, takes c sl = true ∧ (sl.s64 o.n.toNat).toNat ≤ (b.tlOf o.ctx).counter)
    fun ⟨sl, hsl, htakes, hle⟩ => List.any_eq_true.mpr ⟨sl, hsl, by simp [htakes, hle]⟩
  exact ⟨_, _, hexec, hacquired, wordDone_finish (hi.acquired hacquired) hh c false put fun sl => sl.tladv_num c o _⟩

/-- TLWAIT goes on where the counter has come so far and what it observes is released. -/
theorem tlwait_goesOn {s : State} {b : Block} {g : Gang} {sp : Split} (hi : Issues s b g sp) (hh : b.halt = none) (c : Ctl) (o : TlOp)
    (hreached : ∀ sl ∈ memberSlices g sp, takes c sl = true → (sl.s64 o.n.toNat).toNat ≤ (b.tlOf o.ctx).counter)
    (hreleased : (s.tlRelease b o.scope).1 = true) :
    ∃ t u, exec (.tlwait c o) s = .next t ∧ Terms.acquired s u b.core [b.asid] o.scope (∃ sl ∈ memberSlices g sp, takes c sl = true) ∧
      wordDone u t b g sp fun sl sl' => Terms.became c sl sl' := by
  obtain ⟨k, hcur, -⟩ := hi.cur
  set act := (memberSlices g sp).filter (takes c) with hact
  have hnone : act.find? (fun sl => decide ((b.tlOf o.ctx).counter < (sl.s64 o.n.toNat).toNat)) = none := by
    rw [List.find?_eq_none]
    intro sl hsl
    obtain ⟨hmember, htakes⟩ := List.mem_filter.mp hsl
    simpa using hreached sl hmember htakes
  have hexec : exec (.tlwait c o) s = .next (finish (if !act.isEmpty then s.acquire b.core [b.asid] o.scope else s) b g sp c) := by
    rw [exec_tlwait, execTlwait, hcur]
    refine (withSplit_of hi _).trans (congrArg Host.Outcome.next ?_)
    dsimp only
    rw [← hact, hnone, tlRelease_eq_of_complete hreleased]
    cases act.isEmpty <;> rfl
  have hacquired := acquired_ite s b.core [b.asid] o.scope (p := !act.isEmpty) (yes := ∃ sl ∈ memberSlices g sp, takes c sl = true)
    fun ⟨sl, hsl, htakes⟩ => by
      rw [Bool.not_eq_true', List.isEmpty_eq_false_iff]
      exact List.ne_nil_of_mem (List.mem_filter.mpr ⟨hsl, htakes⟩)
  exact ⟨_, _, hexec, hacquired, finish_done (hi.acquired hacquired) hh c _⟩

/-- Settles O35: R94, R95, R96, R319, R320. -/
theorem waitWords : Obligations.WaitWords := by
  intro s b g sp c hi hh
  refine ⟨fun path all a hlow => waitp_goesOn hi hh c path all a hlow, fun o => tlread_goesOn hi hh c o, fun o => ?tladv,
    fun o hreached hreleased => tlwait_goesOn hi hh c o hreached hreleased⟩
  case tladv =>
    obtain ⟨t, u, hexec, hacquired, hdone⟩ := tladv_goesOn hi hh c o
    refine ⟨t, u, hexec, hacquired, wordDone_mono hdone fun sl sl' hsl' => ?_⟩
    have hlanes : sl'.lanes = (sl.tladv c o (b.tlOf o.ctx).counter).lanes := by rw [hsl', went_lanes]
    refine ⟨?_, fun j => ?_⟩
    · rw [hlanes, hsl', Slice.tladv_eq]
      exact became_went { sl with lanes := (sl.tladv c o (b.tlOf o.ctx).counter).lanes }
    · rw [Slice.lane, hlanes]
      exact sl.lane_tladv c o (b.tlOf o.ctx).counter j

end Sys2Proof.Machine

namespace Sys2Proof.Machine

/-! ### Words of the uniform stream that go on (R94, R313, R320, R338, R340, R349) -/

theorem blockTo_refl {s : State} {b : Block} (hb : s.blk b.id = some b) : Terms.blockTo s s b b := ⟨rfl, fun _ _ => rfl, hb⟩

theorem blockTo_modBlk {s : State} {b : Block} (hb : s.blk b.id = some b) (f : Block → Block) (hid : ∀ x, (f x).id = x.id) :
    Terms.blockTo s (s.modBlk b.id f) b (f b) :=
  ⟨rfl, (modBlk_at hid hb).2, (modBlk_at hid hb).1⟩

/-- The sequencer of a block that is not halted goes on, whatever its word has made of the block. -/
theorem finishSeq_goesOn {s u : State} {b x : Block} (hu : Terms.blockTo s u b x) (hh : b.halt = none) (c : Ctl) :
    Terms.blockTo s (finishSeq u b c) b { x with seq := Terms.seqOn s c (b.seq.pc + 8) x.seq } := by
  obtain ⟨hstate, hothers, hat⟩ := hu
  have hnow : u.now = s.now := by rw [hstate]
  obtain ⟨hput, hrest⟩ := modBlk_at (s := u) (i := b.id) (b := x) (f := fun y => { y with seq :=
    { y.seq with pc := nextPc b.seq.pc, readyAt := u.now + 1 + c.stall.toNat, wait := .none, made := false, stop := y.seq.stop || b.halt.isSome } })
    (fun _ => rfl) hat
  refine ⟨?_, fun i hi => (hrest i hi).trans (hothers i hi), hput.trans ?_⟩
  · show { u with blocks := _ } = _
    rw [hstate]
    rfl
  · rw [hh, hnow]
    simp [Terms.seqOn, nextPc]

theorem SeqIssues.acquired {s u : State} {b : Block} {core : Nat} {asids : List Nat} {sc : Scope} {yes : Prop}
    (hi : SeqIssues s b) (hu : Terms.acquired s u core asids sc yes) : SeqIssues u b := by
  obtain ⟨hstate, -⟩ := hu
  rw [hstate]
  exact ⟨hi.cur, hi.blk⟩

/-! ### Leaves (R167, R349) -/

/-- The state in which a block asks for no leave of its own. -/
def State.unask (s : State) (b : Block) : State :=
  s.modDie (dieOf b.core) fun x => { x with gov := { x.gov with queue := x.gov.queue.filter fun y => y != (b.id, none) } }

theorem unasked_unask (s : State) (b : Block) : Terms.unasked s (s.unask b) b := by
  refine ⟨rfl, fun d => (State.die_modDie ..).trans ?_⟩
  split
  · next hd => rw [hd]
  · rfl

/-- MLEAVE.put gives a leave back, and asks for none. -/
theorem mleavePut_held {s : State} {b : Block} (hi : SeqIssues s b) (hh : b.halt = none) (c : Ctl) (hheld : b.leaveHeld = true) :
    ∃ t u, exec (.mleavePut c) s = .next t ∧ Terms.unasked s u b ∧
      Terms.blockTo { u with work := s.work ++ [.leaveGrant (dieOf b.core)] } t b
        { b with leaveHeld := false, seq := Terms.seqOn s c (b.seq.pc + 8) b.seq } := by
  have hexec : exec (.mleavePut c) s = .next (finishSeq (((s.unask b).modBlk b.id fun b => { b with leaveHeld := false }).push
      [.leaveGrant (dieOf b.core)]) b c) := by
    refine (withSeq_of hi _).trans (congrArg Host.Outcome.next ?_)
    dsimp only
    rw [hheld]
    rfl
  exact ⟨_, _, hexec, unasked_unask s b,
    finishSeq_goesOn (blockTo_modBlk_push (s := s.unask b) hi.blk (fun b => { b with leaveHeld := false }) (fun _ => rfl) _) hh c⟩

theorem mleavePut_unheld {s : State} {b : Block} (hi : SeqIssues s b) (hh : b.halt = none) (c : Ctl) (hheld : b.leaveHeld = false) :
    ∃ t u, exec (.mleavePut c) s = .next t ∧ Terms.unasked s u b ∧
      Terms.blockTo u t b { b with seq := Terms.seqOn s c (b.seq.pc + 8) b.seq } := by
  have hexec : exec (.mleavePut c) s = .next (finishSeq (s.unask b) b c) := by
    refine (withSeq_of hi _).trans (congrArg Host.Outcome.next ?_)
    dsimp only
    rw [hheld]
    rfl
  exact ⟨_, _, hexec, unasked_unask s b, finishSeq_goesOn (s := s.unask b) (blockTo_refl hi.blk) hh c⟩

/-! ### TLSIG (R338) -/

/-- A queued arrival that is the only one is made once its counter has come so far. -/
theorem sigSettle_of_one {b : Block} (hsigs : b.sigs = []) (k : Ctx) (n i : Nat) :
    ({ b with sigs := [(k, n, i)] } : Block).sigSettle =
      if n ≤ (b.tlOf k).counter then b.seqArrive i else { b with sigs := [(k, n, i)] } := by
  have hnosigs : ({ b with sigs := [] } : Block) = b := by rw [← hsigs]
  have hcounter : (({ b with sigs := [(k, n, i)] } : Block).tlOf k).counter = (b.tlOf k).counter := rfl
  unfold Block.sigSettle
  simp only [List.foldl_cons, List.foldl_nil, List.find?_cons, beq_self_eq_true, Bool.true_and, hcounter, decide_eq_true_eq,
    List.erase_cons_head]
  rw [hnosigs]

/-- A barrier at which no gang is left to arrive, and that is not complete, stays as it is. -/
theorem Barrier.turn_of_open {x : Barrier} {gangs : List (Nat × BitVec 8)} (hnone : ∀ g ∈ gangs, ¬ x.comesIn g)
    (hopen : x.expected = 0 ∨ x.arrived.length + min 1 x.seqArrived ≠ x.expected) : x.turn gangs = x := by
  unfold Barrier.turn
  rw [Barrier.foldl_gangIn_of_none hnone]
  refine if_neg fun hc => ?_
  rw [Bool.and_eq_true, bne_iff_ne, beq_iff_eq] at hc
  exact hopen.elim hc.1 fun h => h hc.2

/-- A barrier that has settled is not complete: its phase would rise, and no later turn takes that back. -/
theorem Barrier.open_of_settled {x : Barrier} {gangs : List (Nat × BitVec 8)} (h : ((x.turn gangs).turn gangs).turn gangs = x) :
    x.expected = 0 ∨ x.arrived.length + min 1 x.seqArrived ≠ x.expected := by
  by_contra hc
  rw [not_or, not_not] at hc
  have hrises : (x.turn gangs).phase = x.phase + 1 := by
    unfold Barrier.turn
    rw [Barrier.foldl_gangIn_of_none (Barrier.not_comesIn_of_settled h)]
    simp [hc]
  have h2 := (x.turn gangs).turn_grows gangs
  have h3 := ((x.turn gangs).turn gangs).turn_grows gangs
  rw [h] at h3
  omega

/-- The sequencer arrives at a barrier of a settled block without completing its phase: only its own count rises. -/
theorem seqArrive_of_settled {b : Block} {n : Nat} {x : Barrier} (hsettled : b.barSettle = b) (hx : b.bars[n]? = some x)
    (hopen : x.seqArrived ≠ 0 ∨ x.expected ≠ x.arrived.length + 1) :
    b.seqArrive n = { b with bars := b.bars.mapIdx fun i y => if i = n then { y with seqArrived := y.seqArrived + 1 } else y } := by
  have hstill : ∀ y ∈ b.bars, ((y.turn b.barGangs).turn b.barGangs).turn b.barGangs = y := by
    have hbars := congrArg Block.bars hsettled
    rw [Block.barSettle_eq] at hbars
    exact List.map_inj_left.mp (hbars.trans (List.map_id _).symm)
  have hx' := hstill x (List.mem_of_getElem? hx)
  have hone : ({ x with seqArrived := x.seqArrived + 1 } : Barrier).turn b.barGangs = { x with seqArrived := x.seqArrived + 1 } := by
    have hbefore := Barrier.open_of_settled hx'
    have hnone := Barrier.not_comesIn_of_settled hx'
    refine Barrier.turn_of_open (fun g hg => hnone g hg) ?_
    show x.expected = 0 ∨ x.arrived.length + min 1 (x.seqArrived + 1) ≠ x.expected
    omega
  have hbars : ((b.modBar n fun y => { y with seqArrived := y.seqArrived + 1 }).bars.map fun y =>
      ((y.turn b.barGangs).turn b.barGangs).turn b.barGangs) =
      b.bars.mapIdx fun i y => if i = n then { y with seqArrived := y.seqArrived + 1 } else y := by
    apply List.ext_getElem?
    intro i
    rw [List.getElem?_map, Block.modBar, List.getElem?_mapIdx, List.getElem?_mapIdx]
    by_cases hi : i = n
    · subst hi
      rw [hx]
      simp [hone]
    · cases hy : b.bars[i]? with
      | none => rfl
      | some y => simp [hi, hstill y (List.mem_of_getElem? hy)]
  rw [Block.seqArrive, Block.barSettle_eq]
  exact congrArg (fun l => { b with bars := l }) hbars

/-- TLSIG with no arrival queued: it queues its own, which the block then makes if its counter has come so far. -/
theorem tlsig_goesOn {s : State} {b : Block} (hi : SeqIssues s b) (hh : b.halt = none) (c : Ctl) (o : TlsigOp) (hsigs : b.sigs = []) :
    ∃ (t : State) (x : Block), exec (.tlsig c o) s = .next t ∧
      x = ({ b with sigs := [(o.ctx, (b.seq.q o.a.toNat).toNat, o.b.toNat)] } : Block).sigSettle ∧
      Terms.blockTo s t b { x with seq := Terms.seqOn s c (b.seq.pc + 8) x.seq } := by
  have hexec : exec (.tlsig c o) s = .next (finishSeq (s.modBlk b.id fun y =>
      ({ y with sigs := y.sigs ++ [(o.ctx, (b.seq.q o.a.toNat).toNat, o.b.toNat)] } : Block).sigSettle) b c) := by
    refine (withSeq_of hi _).trans (congrArg Host.Outcome.next ?_)
    dsimp only
    rw [hsigs]
    rfl
  refine ⟨_, _, hexec, rfl, ?_⟩
  have hdone := finishSeq_goesOn (blockTo_modBlk hi.blk (fun y =>
    ({ y with sigs := y.sigs ++ [(o.ctx, (b.seq.q o.a.toNat).toNat, o.b.toNat)] } : Block).sigSettle) fun y => Block.sigSettle_id _) hh c
  rw [hsigs] at hdone
  exact hdone

/-- TLSIG of a counter that has not come so far. -/
theorem tlsig_queued {s : State} {b : Block} (hi : SeqIssues s b) (hh : b.halt = none) (c : Ctl) (o : TlsigOp) (hsigs : b.sigs = [])
    (hlater : (b.tlOf o.ctx).counter < (b.seq.q o.a.toNat).toNat) :
    ∃ t, exec (.tlsig c o) s = .next t ∧ Terms.blockTo s t b
      { b with sigs := [(o.ctx, (b.seq.q o.a.toNat).toNat, o.b.toNat)], seq := Terms.seqOn s c (b.seq.pc + 8) b.seq } := by
  obtain ⟨t, x, hexec, hx, hdone⟩ := tlsig_goesOn hi hh c o hsigs
  rw [sigSettle_of_one hsigs, if_neg (Nat.not_le.mpr hlater)] at hx
  subst hx
  exact ⟨t, hexec, hdone⟩

/-- TLSIG of a counter that has come so far: the sequencer arrives at the barrier. -/
theorem tlsig_arrives {s : State} {b : Block} {x : Barrier} (hi : SeqIssues s b) (hh : b.halt = none) (c : Ctl) (o : TlsigOp) (hsigs : b.sigs = [])
    (hcome : (b.seq.q o.a.toNat).toNat ≤ (b.tlOf o.ctx).counter) (hsettled : b.barSettle = b) (hx : b.bars[o.b.toNat]? = some x)
    (hopen : x.seqArrived ≠ 0 ∨ x.expected ≠ x.arrived.length + 1) :
    ∃ t, exec (.tlsig c o) s = .next t ∧ Terms.blockTo s t b
      { b with seq := Terms.seqOn s c (b.seq.pc + 8) b.seq
               bars := b.bars.mapIdx fun i y => if i = o.b.toNat then { y with seqArrived := y.seqArrived + 1 } else y } := by
  obtain ⟨t, y, hexec, hy, hdone⟩ := tlsig_goesOn hi hh c o hsigs
  rw [sigSettle_of_one hsigs, if_pos hcome, seqArrive_of_settled hsettled hx hopen] at hy
  subst hy
  exact ⟨t, hexec, hdone⟩

/-! ### FENCE, TLREAD and TLWAIT of the uniform stream (R94, R313, R320) -/

theorem fenceSeq_goesOn {s : State} {b : Block} (hi : SeqIssues s b) (hh : b.halt = none) (c : Ctl) (o : FenceOp)
    (hreleased : (s.release (seqWho b) (fenceScope o)).1 = true) :
    ∃ t u, exec (.fence c o) s = .next t ∧ Terms.acquired s u b.core [b.asid] o.scope (o.ord = .acq ∨ o.ord = .ar) ∧
      Terms.blockTo u t b { b with seq := Terms.seqOn s c (b.seq.pc + 8) b.seq } := by
  have hexec : exec (.fence c o) s = .next (finishSeq (if fenceAcq o then s.acquire b.core [b.asid] o.scope else s) b c) := by
    have hrelease : s.release (seqWho b) (fenceScope o) = (true, s) := releaseTo_eq_of_complete hreleased
    rw [exec_fence, execFence, hi.cur]
    refine (withSeq_of hi _).trans (congrArg Host.Outcome.next ?_)
    dsimp only
    rw [hrelease]
    rfl
  have hacquired := acquired_ite s b.core [b.asid] o.scope (fenceAcq_iff o).mpr
  have hnow : (if fenceAcq o then s.acquire b.core [b.asid] o.scope else s).now = s.now := by rw [hacquired.1]
  have hdone := finishSeq_goesOn (blockTo_refl (hi.acquired hacquired).blk) hh c
  unfold Terms.seqOn at hdone
  rw [hnow] at hdone
  exact ⟨_, _, hexec, hacquired, hdone⟩

theorem tlwaitSeq_goesOn {s : State} {b : Block} (hi : SeqIssues s b) (hh : b.halt = none) (c : Ctl) (o : TlOp)
    (hreached : (b.seq.q o.n.toNat).toNat ≤ (b.tlOf o.ctx).counter) (hreleased : (s.tlRelease b o.scope).1 = true) :
    ∃ t u, exec (.tlwait c o) s = .next t ∧ Terms.acquired s u b.core [b.asid] o.scope True ∧
      Terms.blockTo u t b { b with seq := Terms.seqOn s c (b.seq.pc + 8) b.seq } := by
  have hexec : exec (.tlwait c o) s = .next (finishSeq (s.acquire b.core [b.asid] o.scope) b c) := by
    rw [exec_tlwait, execTlwait, hi.cur]
    refine (withSeq_of hi _).trans (congrArg Host.Outcome.next ?_)
    dsimp only
    rw [if_neg (Nat.not_lt.mpr hreached), tlRelease_eq_of_complete hreleased]
    rfl
  have hacquired := acquire_acquired s b.core [b.asid] o.scope True
  have hnow : (s.acquire b.core [b.asid] o.scope).now = s.now := by rw [acquire_eq]
  have hdone := finishSeq_goesOn (blockTo_refl (hi.acquired hacquired).blk) hh c
  unfold Terms.seqOn at hdone
  rw [hnow] at hdone
  exact ⟨_, _, hexec, hacquired, hdone⟩

theorem tlreadSeq_goesOn {s : State} {b : Block} (hi : SeqIssues s b) (hh : b.halt = none) (c : Ctl) (o : TlOp) :
    ∃ t q, exec (.tlread c o) s = .next t ∧
      Terms.blockTo s t b { b with seq := { Terms.seqOn s c (b.seq.pc + 8) b.seq with qregs := q } } ∧
      ∀ i, ({ Terms.seqOn s c (b.seq.pc + 8) b.seq with qregs := q } : Sequencer).q i =
        if i = o.d.toNat then BitVec.ofNat 64 (b.tlOf o.ctx).counter else b.seq.q i := by
  have hexec : exec (.tlread c o) s =
      .next (finishSeq (s.modSeq b.id fun q => q.setQ o.d.toNat (BitVec.ofNat 64 (b.tlOf o.ctx).counter)) b c) := by
    rw [exec_tlread, execTlread, hi.cur]
    exact withSeq_of hi _
  exact ⟨_, _, hexec, finishSeq_goesOn (blockTo_modBlk hi.blk
    (fun x => { x with seq := x.seq.setQ o.d.toNat (BitVec.ofNat 64 (b.tlOf o.ctx).counter) }) fun _ => rfl) hh c, fun _ => mgetD_msetD ..⟩

/-- Settles O53: R94, R313, R320, R338, R340, R349. -/
theorem uniformModes : Obligations.UniformModes := by
  refine ⟨fun s b c hi hh => ⟨fun f => ?mfmt, fun hheld => ?mleaveGet, fun hheld => mleavePut_held hi hh c hheld,
    fun hheld => mleavePut_unheld hi hh c hheld, fun o hsigs => ⟨fun hlater => tlsig_queued hi hh c o hsigs hlater,
      fun hcome hsettled x hx hopen => tlsig_arrives hi hh c o hsigs hcome hsettled hx hopen⟩⟩,
    fun s b c hi hh => ⟨fun o hreleased => fenceSeq_goesOn hi hh c o (fenceScope_eq o ▸ hreleased), fun o => tlreadSeq_goesOn hi hh c o,
      fun o hreached hreleased => tlwaitSeq_goesOn hi hh c o hreached hreleased⟩⟩
  case mfmt =>
    exact ⟨_, withSeq_of hi _, finishSeq_goesOn (blockTo_modBlk hi.blk (fun x => { x with fmt := f }) fun _ => rfl) hh c⟩
  case mleaveGet =>
    have hexec : exec (.mleaveGet c) s = .next (finishSeq s b c) := by
      refine (withSeq_of hi _).trans (congrArg Host.Outcome.next ?_)
      rw [hheld]
      rfl
    exact ⟨_, hexec, finishSeq_goesOn (blockTo_refl hi.blk) hh c⟩

end Sys2Proof.Machine

namespace Sys2Proof.Machine

/-! ### One access in flight for the only slice of a split (R93, R94) -/

/-- A slice that has one more access in flight, where it bears a number. -/
def Slice.withAccAt (k : Nat) (a : Access) (x : Slice) : Slice := if x.num == k then { x with acc := x.acc ++ [a] } else x

theorem Slice.withAccAt_num (k : Nat) (a : Access) (x : Slice) : (x.withAccAt k a).num = x.num := by
  unfold Slice.withAccAt
  split <;> rfl

/-- A full word that puts an access in flight for the only slice of its split, and ends normally. -/
theorem inFlight_finish {u : State} {b : Block} {g : Gang} {sp : Split} {sl : Slice} (hi : Issues u b g sp) (hh : b.halt = none) {c : Ctl}
    (hfull : c.slot = .full) (hsole : memberSlices g sp = [sl]) (a : Access) :
    Terms.inFlight u (finish ((({ u with nextId := u.nextId + 1 } : State).modSlice ⟨b.id, g.num, sl.num⟩ fun x =>
      { x with acc := x.acc ++ [a] }).push [.accessCompletion u.nextId]) b g sp c) b g sp a := by
  set v : State := { u with nextId := u.nextId + 1, work := u.work ++ [.accessCompletion u.nextId] } with hv
  have hiv : Issues v b g sp := hi.congr rfl rfl
  have hmember : sp.slices.contains sl.num = true := (mem_memberSlices.mp (hsole ▸ List.mem_singleton_self sl)).2
  have hout : ∀ x : Slice, sp.slices.contains x.num = false → x.withAccAt sl.num a = x := fun x hx => by
    refine if_neg fun hnum => ?_
    rw [beq_iff_eq.mp hnum, hmember] at hx
    exact Bool.false_ne_true hx.symm
  have hnotx : (c.slot == .x) = false := by rw [hfull]; rfl
  have hmoved := wordDone_move hiv hh c false (Slice.withAccAt sl.num a) (Slice.withAccAt_num sl.num a) hout fun x => nextPc x.pc
  unfold finish
  rw [hnotx, if_neg Bool.false_ne_true]
  refine wordDone_mono_mem hiv hmoved fun x hx _ x' hx' => ?_
  obtain rfl : x = sl := by rw [hsole] at hx; exact List.mem_singleton.mp hx
  have hput : x.withAccAt x.num a = { x with acc := x.acc ++ [a] } := if_pos (beq_self_eq_true _)
  rw [hx', hput]
  rfl

theorem vaultPath_lt (s : State) (b : Block) (addr : Nat) : s.vaultPath b addr < 2 := by
  unfold State.vaultPath
  split <;> decide

theorem vaultPath_congr {s u : State} (hblocks : u.blocks = s.blocks) (b : Block) (addr : Nat) : u.vaultPath b addr = s.vaultPath b addr := by
  unfold State.vaultPath State.vaultCore State.regionAt
  rw [hblocks]

/-- The access of a transaction-barrier word that goes ahead. -/
theorem issueAccs_vbar {v : State} {b : Block} {g : Gang} {sp : Split} {c : Ctl} {sl : Slice} {path j : Nat} {p : Part}
    (hroom : pathFull sl path = false) :
    issueAccs v b g sp c .rlx .blk [{ sl, kind := .vbar 0, esz := 4, path, chk := [(j, .go p)] }] =
      finish ((({ v with nextId := v.nextId + 1 } : State).modSlice ⟨b.id, g.num, sl.num⟩ fun x => { x with acc := x.acc ++
        [Terms.issued v b g sp sl (.vbar 0) path 4 b.asid [{ p with also := (faultLanes c sl).filter fun k => k != p.lane }]] }).push
          [.accessCompletion v.nextId]) b g sp c := by
  unfold issueAccs
  simp only [hroom, List.any_cons, List.any_nil, Bool.false_and, Bool.or_false, Bool.false_eq_true, if_false, List.foldl_cons, List.foldl_nil,
    List.map_cons, List.map_nil, List.filterMap_cons, List.filterMap_nil, List.isEmpty_cons, List.isEmpty_nil, List.append_nil, AccKind.vault,
    AccKind.once, State.newId, Bool.true_or, if_true]
  rfl

/-! ### A transaction-barrier word goes ahead (R97, R317) -/

theorem curDie_of {s : State} {b : Block} {g : Gang} {sp : Split} (hi : Issues s b g sp) : s.curDie = dieOf b.core := by
  obtain ⟨k, hcur, -⟩ := hi.cur
  unfold State.curDie
  simp only [hcur, hi.blk]

/-- The vault address that a transaction-barrier word names in a slice. -/
def slotAddr (c : Ctl) (o : MOp) (g : Gang) (sl : Slice) : Nat := (sl.v g.budget o.a.toNat (lowLane c sl)).toNat

/-- The access that a transaction-barrier word puts in flight, with its answer. -/
def slotAccess (s : State) (b : Block) (g : Gang) (sp : Split) (c : Ctl) (o : MOp) (sl : Slice) (res : Option Nat) : Access :=
  Terms.issued s b g sp sl (.vbar 0) (s.vaultPath b (slotAddr c o g sl)) 4 b.asid
    [{ lane := lowLane c sl, addr := slotAddr c o g sl, dst := sl.phys g.budget o.d.toNat, data := BitVec.ofNat 64 (res.getD 0),
       cmp := if res.isSome then activeMask sl else 0, also := Terms.others c sl }]

/-- What lets a transaction-barrier word of a split of one slice go ahead. -/
structure SlotWord (s : State) (b : Block) (g : Gang) (sp : Split) (c : Ctl) (o : MOp) (sl : Slice) : Prop where
  issues : Issues s b g sp
  running : b.halt = none
  full : c.slot = .full
  sole : memberSlices g sp = [sl]
  takes : takes c sl = true
  room : ∀ p < 2, accCount sl.acc p < 63
  released : ∀ sc, relAll s b g sp [sl] sc = none
  aligned : slotAddr c o g sl % 16 = 0
  own : s.vaultOk b (slotAddr c o g sl) 16 = true

theorem actLanes_of_sole {c : Ctl} {g : Gang} {sp : Split} {sl : Slice} (hsole : memberSlices g sp = [sl]) (htakes : takes c sl = true) :
    actLanes c g sp true = [(sl, [lowLane c sl])] := by
  unfold actLanes
  rw [hsole]
  simp [htakes]

section
variable {s u : State} {b : Block} {g : Gang} {sp : Split} {c : Ctl} {o : MOp} {sl : Slice}

theorem SlotWord.pathFull_eq (h : SlotWord s b g sp c o sl) {p : Nat} (hp : p < 2) : pathFull sl p = false :=
  decide_eq_false (Nat.not_le.mpr (h.room p hp))

/-- A transaction-barrier word puts its access in flight in the state that its update leaves. -/
theorem SlotWord.goesAhead (h : SlotWord s b g sp c o sl) {sc : Scope} {upd : State → Nat → Slice → Gang → Nat → Sum (State × Option Nat) (BitVec 8 × Nat)}
    {res : Option Nat} (hupd : upd s (slotAddr c o g sl) sl g (lowLane c sl) = .inl (u, res)) (hcur : u.cur = s.cur) (hblocks : u.blocks = s.blocks)
    (hnext : u.nextId = s.nextId) :
    ∃ t, barWord c o sc upd s = .next t ∧ Terms.inFlight u t b g sp (slotAccess s b g sp c o sl res) := by
  have halign : (slotAddr c o g sl % 16 != 0) = false := by rw [h.aligned]; rfl
  have hroom := h.pathFull_eq (vaultPath_lt s b (slotAddr c o g sl))
  refine ⟨_, (withSplit_of h.issues _).trans (congrArg Host.Outcome.next ?_), inFlight_finish (h.issues.congr hcur hblocks) h.running h.full h.sole _⟩
  dsimp only
  rw [actLanes_of_sole h.sole h.takes]
  simp only [List.map_cons, List.map_nil, h.released, List.any_cons, List.any_nil, h.pathFull_eq (show 0 < 2 by decide),
    h.pathFull_eq (show 1 < 2 by decide), Bool.or_false, Bool.false_eq_true, if_false, List.foldl_cons, List.foldl_nil, List.headD_cons]
  unfold slotAddr at hupd halign hroom
  rw [halign, if_neg Bool.false_ne_true, hupd]
  have hown := h.own
  unfold slotAddr at hown
  rw [hown]
  simp only [Bool.not_true, Bool.false_eq_true, if_false, List.nil_append]
  rw [vaultPath_congr hblocks, issueAccs_vbar hroom]
  unfold slotAccess Terms.issued slotAddr Terms.others
  rw [hnext]

/-- What a transaction-barrier word leaves that writes its slot. -/
def WroteSlot (s t : State) (b : Block) (g : Gang) (sp : Split) (a : Nat) (armed : List Nat) (v : Nat) (acc : Access) : Prop :=
  t.vlRd (dieOf b.core) a 16 = v ∧ (∀ x, (∀ k < 16, x ≠ s.vkey (dieOf b.core) a + k) → Memory.byte t.vault x = Memory.byte s.vault x) ∧
    (∀ x ∈ t.badVault, x ∈ s.badVault) ∧
    Terms.inFlight { s with vault := t.vault, badVault := t.badVault, armed } t b g sp acc

/-- The same of a word whose update writes the slot and the list of armed slots, with no answer. -/
theorem SlotWord.wroteSlot (h : SlotWord s b g sp c o sl) {sc : Scope}
    {upd : State → Nat → Slice → Gang → Nat → Sum (State × Option Nat) (BitVec 8 × Nat)} {armed : List Nat} {v : Nat} (hv : v < 2 ^ 128)
    (hupd : upd s (slotAddr c o g sl) sl g (lowLane c sl) =
      .inl ({ s.vaultPut (dieOf b.core) (slotAddr c o g sl) 16 v with armed }, none)) :
    ∃ t, barWord c o sc upd s = .next t ∧ WroteSlot s t b g sp (slotAddr c o g sl) armed v (slotAccess s b g sp c o sl none) := by
  obtain ⟨t, hexec, hflight⟩ := h.goesAhead (sc := sc) hupd rfl rfl rfl
  have hstate : t = _ := hflight.1
  have hvault : t.vault = (s.vaultPut (dieOf b.core) (slotAddr c o g sl) 16 v).vault := by rw [hstate]
  have hbad : t.badVault = (s.vaultPut (dieOf b.core) (slotAddr c o g sl) 16 v).badVault := by rw [hstate]
  refine ⟨t, hexec, ?_, fun x hx => ?_, fun x hx => ?_, ?_⟩
  · have hread := vlRd_vaultPut s (dieOf b.core) (slotAddr c o g sl) 16 v
    rw [Nat.mod_eq_of_lt (by simpa using hv)] at hread
    rw [← hread, State.vlRd, hvault]
    rfl
  · rw [hvault]
    exact byte_vault_vlWr_of_ne s _ _ _ _ hx
  · rw [hbad] at hx
    exact List.mem_of_mem_filter hx
  · rw [hvault, hbad]
    exact hflight

end
end Sys2Proof.Machine

namespace Sys2Proof.Machine

/-! ### The fields of a slot (R97, R98, R317) -/

/-- The field of a slot of `n` bits from bit `lo`. -/
def slotField (slot lo n : Nat) : Nat := slot / 2 ^ lo % 2 ^ n

/-- PEND of a slot, a signed number. -/
def slotPend (slot : Nat) : Int :=
  if slotField slot 96 26 < 2 ^ 25 then (slotField slot 96 26 : Int) else (slotField slot 96 26 : Int) - 2 ^ 26

/-- A slot with new PEND and ARR: where ARR has come to EXPA with PEND 0, the phase is complete. -/
def slotNext (slot : Nat) (pend : Int) (arr : Nat) : Nat :=
  slotField slot 122 6 * 2 ^ 122 + (pend % 2 ^ 26).toNat * 2 ^ 96 + slotField slot 80 16 * 2 ^ 80 +
    (if arr = slotField slot 80 16 ∧ pend = 0 then ((slotField slot 32 32 + 1) % 2 ^ 32) * 2 ^ 32
     else arr % 2 ^ 16 * 2 ^ 64 + slotField slot 32 32 * 2 ^ 32) + slotField slot 0 32

theorem slotField_lt (slot lo n : Nat) : slotField slot lo n < 2 ^ n := Nat.mod_lt _ (Nat.two_pow_pos n)

/-- The field that reaches to the top of a slot. -/
theorem slotField_top {slot lo n : Nat} (hslot : slot < 2 ^ 128) (htop : lo + n = 128) : slotField slot lo n = slot / 2 ^ lo :=
  Nat.mod_eq_of_lt (Nat.div_lt_of_lt_mul (by rw [← Nat.pow_add, htop]; exact hslot))

theorem barArmed_iff {slot : Nat} (hslot : slot < 2 ^ 128) : barArmed slot = true ↔ slotField slot 126 2 = 1 := by
  unfold barArmed
  rw [slotField_top hslot rfl, beq_iff_eq]

theorem barUpdate_eq {slot : Nat} (hslot : slot < 2 ^ 128) (bytes : Int) (arrive : Bool) :
    barUpdate slot bytes arrive = slotNext slot (slotPend slot + bytes) (slotField slot 64 16 + arrive.toNat) := by
  have htop : slot / 2 ^ 122 = slotField slot 122 6 := (slotField_top hslot rfl).symm
  have hlow : slot % 2 ^ 32 = slotField slot 0 32 := by unfold slotField; rw [Nat.pow_zero, Nat.div_one]
  unfold barUpdate
  rw [htop, hlow]
  show slotField slot 122 6 * 2 ^ 122 + ((slotPend slot + bytes) % 2 ^ 26).toNat * 2 ^ 96 + slotField slot 80 16 * 2 ^ 80 +
    (if slotField slot 64 16 + arrive.toNat == slotField slot 80 16 && slotPend slot + bytes == 0 then 0
      else (slotField slot 64 16 + arrive.toNat) % 2 ^ 16) * 2 ^ 64 +
    (if slotField slot 64 16 + arrive.toNat == slotField slot 80 16 && slotPend slot + bytes == 0 then (slotField slot 32 32 + 1) % 2 ^ 32
      else slotField slot 32 32) * 2 ^ 32 + slotField slot 0 32 = _
  unfold slotNext
  by_cases hfin : slotField slot 64 16 + arrive.toNat = slotField slot 80 16 ∧ slotPend slot + bytes = 0
  · rw [if_pos hfin, if_pos (by simpa using hfin), if_pos (by simpa using hfin)]
    omega
  · rw [if_neg hfin, if_neg (by simpa using hfin), if_neg (by simpa using hfin)]
    omega

theorem slotNext_lt (slot : Nat) (pend : Int) (arr : Nat) : slotNext slot pend arr < 2 ^ 128 := by
  have htop := slotField_lt slot 122 6
  have hexpa := slotField_lt slot 80 16
  have hphase := slotField_lt slot 32 32
  have hlow := slotField_lt slot 0 32
  have hpend : (pend % 2 ^ 26).toNat < 2 ^ 26 := by omega
  unfold slotNext
  split <;> omega

theorem barFits_iff {slot : Nat} {bytes : Int} :
    barFits slot bytes = true ↔ -2 ^ 25 ≤ slotPend slot + bytes ∧ slotPend slot + bytes < 2 ^ 25 := by
  unfold barFits
  exact decide_eq_true_iff

theorem barPassed_eq (slot : Nat) (vn : Word) :
    barPassed slot vn = decide (1 ≤ (BitVec.ofNat 32 (slotField slot 32 32) - vn).toNat ∧ (BitVec.ofNat 32 (slotField slot 32 32) - vn).toNat ≤ 2 ^ 31) := by
  have hphase : BitVec.ofNat 32 (slotField slot 32 32) = BitVec.ofNat 32 (slot / 2 ^ 32) := by
    rw [← BitVec.toNat_inj]
    simp [slotField]
  rw [hphase]
  rfl

theorem vlRd_slot_lt (s : State) (die a : Nat) : s.vlRd die a 16 < 2 ^ 128 := by
  exact readN_lt s.vault (s.vkey die a) 16

theorem activeMask_eq (sl : Slice) : activeMask sl = BitVec.ofNat 64 ((sl.active.map fun j => 2 ^ j).sum) := by
  unfold activeMask
  rw [List.sum_eq_foldl, List.foldl_map]

/-! ### The words (R97, R98, R317) -/

section
variable {s : State} {b : Block} {g : Gang} {sp : Split} {c : Ctl} {o : MOp} {sl : Slice}

/-- The slot that a transaction-barrier word names, as it is. -/
abbrev slotBefore (s : State) (b : Block) (c : Ctl) (o : MOp) (g : Gang) (sl : Slice) : Nat := s.vlRd (dieOf b.core) (slotAddr c o g sl) 16

/-- BINIT gives a slot that is not armed MODE 1 and its expected arrivals, which make the value that it writes. -/
theorem SlotWord.binit (h : SlotWord s b g sp c o sl) (hidle : slotField (slotBefore s b c o g sl) 126 2 ≠ 1)
    (hexpa : (sl.v g.budget o.d.toNat (lowLane c sl)).toNat % 2 ^ 16 ≠ 0) {value : Nat}
    (hvalue : 2 ^ 126 + (sl.v g.budget o.d.toNat (lowLane c sl)).toNat % 2 ^ 16 * 2 ^ 80 = value) :
    ∃ t, exec (.binit c o) s = .next t ∧ WroteSlot s t b g sp (slotAddr c o g sl)
      (addNew s.armed (s.vkey (dieOf b.core) (slotAddr c o g sl) / 16)) value (slotAccess s b g sp c o sl none) := by
  have hunarmed : ¬ barArmed (slotBefore s b c o g sl) = true := fun harmed => hidle ((barArmed_iff (vlRd_slot_lt ..)).mp harmed)
  have hwidth : (65536 : Nat) = 2 ^ 16 := by norm_num
  have hlt : value < 2 ^ 128 := by omega
  rw [exec_binit]
  unfold execBinit
  refine h.wroteSlot hlt ?_
  dsimp only
  rw [hwidth, hvalue, curDie_of h.issues, if_neg (by simpa using hexpa), if_neg hunarmed]
  rfl

/-- The update of a word that gives an armed slot a new value and lets it stay armed. -/
theorem vaultPut_armed (s : State) (die a v : Nat) : { s.vaultPut die a 16 v with armed := s.armed } = s.vaultPut die a 16 v := rfl

theorem armed_slotBefore (harmed : slotField (slotBefore s b c o g sl) 126 2 = 1) : (!barArmed (slotBefore s b c o g sl)) = false := by
  rw [(barArmed_iff (vlRd_slot_lt ..)).mpr harmed]
  rfl

/-- BEXP moves PEND and, with arrival, ARR. -/
theorem SlotWord.bexp (h : SlotWord s b g sp c o sl) (harmed : slotField (slotBefore s b c o g sl) 126 2 = 1)
    (hlo : -2 ^ 25 ≤ slotPend (slotBefore s b c o g sl) + (sl.v g.budget o.d.toNat (lowLane c sl)).toInt)
    (hhi : slotPend (slotBefore s b c o g sl) + (sl.v g.budget o.d.toNat (lowLane c sl)).toInt < 2 ^ 25) :
    ∃ t, exec (.bexp c o) s = .next t ∧ WroteSlot s t b g sp (slotAddr c o g sl) s.armed
      (slotNext (slotBefore s b c o g sl) (slotPend (slotBefore s b c o g sl) + (sl.v g.budget o.d.toNat (lowLane c sl)).toInt)
        (slotField (slotBefore s b c o g sl) 64 16 + if o.y = 1 then 1 else 0)) (slotAccess s b g sp c o sl none) := by
  have hfits : (!barFits (slotBefore s b c o g sl) (sl.v g.budget o.d.toNat (lowLane c sl)).toInt) = false := by
    rw [barFits_iff.mpr ⟨hlo, hhi⟩]
    rfl
  have harr : (if o.y = 1 then 1 else 0) = (o.y == 1).toNat := by
    by_cases hy : o.y = 1
    · rw [if_pos hy, beq_iff_eq.mpr hy]
      rfl
    · rw [if_neg hy, beq_false_of_ne hy]
      rfl
  have hupdate := barUpdate_eq (vlRd_slot_lt s (dieOf b.core) (slotAddr c o g sl)) (sl.v g.budget o.d.toNat (lowLane c sl)).toInt (o.y == 1)
  rw [harr]
  rw [exec_bexp]
  unfold execBexp
  refine h.wroteSlot (slotNext_lt ..) ?_
  dsimp only
  rw [curDie_of h.issues, vaultPut_armed, armed_slotBefore harmed, if_neg Bool.false_ne_true, hfits, if_neg Bool.false_ne_true, hupdate]

/-- BARV moves ARR. -/
theorem SlotWord.barv (h : SlotWord s b g sp c o sl) (harmed : slotField (slotBefore s b c o g sl) 126 2 = 1) :
    ∃ t, exec (.barv c o) s = .next t ∧ WroteSlot s t b g sp (slotAddr c o g sl) s.armed
      (slotNext (slotBefore s b c o g sl) (slotPend (slotBefore s b c o g sl)) (slotField (slotBefore s b c o g sl) 64 16 + 1))
      (slotAccess s b g sp c o sl none) := by
  have hupdate := barUpdate_eq (vlRd_slot_lt s (dieOf b.core) (slotAddr c o g sl)) 0 true
  rw [Int.add_zero, Bool.toNat_true] at hupdate
  rw [exec_barv]
  unfold execBarv
  refine h.wroteSlot (slotNext_lt ..) ?_
  dsimp only
  rw [curDie_of h.issues, vaultPut_armed, armed_slotBefore harmed, if_neg Bool.false_ne_true, hupdate]

/-- BRET clears MODE. -/
theorem SlotWord.bret (h : SlotWord s b g sp c o sl) (harmed : slotField (slotBefore s b c o g sl) 126 2 = 1) :
    ∃ t, exec (.bret c o) s = .next t ∧ WroteSlot s t b g sp (slotAddr c o g sl)
      (s.armed.filter fun k => k != s.vkey (dieOf b.core) (slotAddr c o g sl) / 16) (slotBefore s b c o g sl % 2 ^ 126)
      (slotAccess s b g sp c o sl none) := by
  rw [exec_bret]
  unfold execBret
  refine h.wroteSlot (lt_of_lt_of_le (Nat.mod_lt _ (Nat.two_pow_pos 126)) (by decide)) ?_
  dsimp only
  rw [curDie_of h.issues, armed_slotBefore harmed, if_neg Bool.false_ne_true]
  rfl

/-- BTEST that need not wait answers whether the phase has passed; a phase that has acquires. -/
theorem SlotWord.btest (h : SlotWord s b g sp c o sl) (harmed : slotField (slotBefore s b c o g sl) 126 2 = 1) {passed : Bool}
    (hpassed : barPassed (slotBefore s b c o g sl) (sl.v g.budget o.c.toNat (lowLane c sl)) = passed) (hgoes : o.y ≠ 1 ∨ passed = true) :
    ∃ t u, exec (.btest c o) s = .next t ∧ Terms.acquired s u b.core [b.asid] .die (passed = true) ∧
      Terms.inFlight u t b g sp (slotAccess s b g sp c o sl (some passed.toNat)) := by
  have hacquired := acquired_ite s b.core [b.asid] .die (p := passed) (yes := passed = true) id
  obtain ⟨hstate, -⟩ := id hacquired
  obtain ⟨t, hbar, hflight⟩ := h.goesAhead (sc := .blk) (upd := fun s a sl g j =>
    if !barArmed (s.vlRd (dieOf b.core) a 16) then .inr (0x25, 0)
    else
      let ok := barPassed (s.vlRd (dieOf b.core) a 16) (sl.v g.budget o.c.toNat j)
      .inl (if ok then s.acquire b.core [b.asid] .die else s, some ok.toNat))
    (u := if passed then s.acquire b.core [b.asid] .die else s) (res := some passed.toNat)
    (by
      dsimp only
      rw [armed_slotBefore harmed, if_neg Bool.false_ne_true]
      unfold slotBefore at hpassed
      rw [hpassed]) (by rw [hstate]) (by rw [hstate]) (by rw [hstate])
  refine ⟨t, _, (withSplit_of h.issues _).trans (congrArg Host.Outcome.next ?_), hacquired, hflight⟩
  have hnone : (o.y == 1 && slotAddr c o g sl % 16 == 0 && s.vaultOk b (slotAddr c o g sl) 16 && barArmed (slotBefore s b c o g sl) &&
      !barPassed (slotBefore s b c o g sl) (sl.v g.budget o.c.toNat (lowLane c sl))) = false := by
    rw [hpassed]
    rcases hgoes with hy | rfl
    · have hplain : (o.y == 1) = false := beq_false_of_ne hy
      simp only [hplain, Bool.false_and]
    · exact Bool.and_false _
  dsimp only
  rw [actLanes_of_sole h.sole h.takes, List.find?_cons]
  unfold slotAddr slotBefore slotAddr at hnone
  simp only [List.headD_cons, hnone, List.find?_nil]
  rw [hbar]

end

/-- Settles O38: R97, R98, R317. -/
theorem barrierWords : Obligations.BarrierWords := by
  intro s b g sp c o sl hi hh hfull hsole htakes hroom hrel j a d slot f w acc p wrote next pend haligned hown
  have h : SlotWord s b g sp c o sl := ⟨hi, hh, hfull, hsole, htakes, hroom, hrel, haligned, hown⟩
  refine ⟨fun hidle hexpa => h.binit hidle hexpa rfl, fun harmed => ⟨fun hlo hhi => h.bexp harmed hlo hhi, h.barv harmed, h.bret harmed, ?_⟩⟩
  intro n passed hgoes
  obtain ⟨t, u, hexec, hacquired, hflight⟩ := h.btest harmed (barPassed_eq ..) hgoes
  refine ⟨t, u, hexec, hacquired, ?_⟩
  unfold slotAccess at hflight
  rw [activeMask_eq] at hflight
  exact hflight

end Sys2Proof.Machine

namespace Sys2Proof.Machine

/-! ### A slice after a change, and accesses none of which has faulted -/

theorem State.slice_congr {s u : State} (hblocks : u.blocks = s.blocks) (w : SliceRef) : u.slice w = s.slice w := by
  unfold State.slice State.blk
  rw [hblocks]

theorem State.slice_modSlice_self (s : State) (w : SliceRef) (f : Slice → Slice) (hnum : ∀ sl, (f sl).num = sl.num) :
    (s.modSlice w f).slice w = (s.slice w).map f := by
  unfold State.slice State.modSlice
  rw [State.blk_modGang, if_pos rfl]
  cases s.blk w.blk with
  | none => rfl
  | some b =>
    simp only [Option.map_some]
    rw [Block.gang_modGang b w.gang w.gang (fun g => g.modSlice w.slice f) fun _ => rfl, if_pos rfl]
    cases b.gang w.gang with
    | none => rfl
    | some g =>
      simp only [Option.map_some]
      rw [Gang.slice_modSlice g w.slice w.slice f hnum, if_pos rfl]

/-- No part of an access has faulted. -/
def Access.NoneFailed (a : Access) : Prop := ∀ q ∈ a.parts, ∀ code, q.st ≠ .failed code

/-- No part of an access of a slice has faulted. -/
def State.NoneFailed (s : State) : Prop := ∀ b ∈ s.blocks, ∀ g ∈ b.gangs, ∀ sl ∈ g.slices, ∀ a ∈ sl.acc, a.NoneFailed

theorem noneFailed_of_allAccs {s : State} (h : ∀ x ∈ s.allAccs, ∀ q ∈ x.parts, ∀ code, q.st ≠ .failed code) : s.NoneFailed :=
  fun b hb g hg sl hsl a ha => h a (List.mem_flatMap.mpr ⟨b, hb, List.mem_append_right _
    (List.mem_flatMap.mpr ⟨g, hg, List.mem_flatMap.mpr ⟨sl, hsl, ha⟩⟩)⟩)

theorem State.NoneFailed.congr {s u : State} (h : s.NoneFailed) (hblocks : u.blocks = s.blocks) : u.NoneFailed := by
  unfold State.NoneFailed
  rw [hblocks]
  exact h

theorem mem_modWhere {α : Type _} {p : α → Bool} {f : α → α} {l : List α} {y : α} (h : y ∈ modWhere p f l) : ∃ x ∈ l, y = x ∨ y = f x := by
  obtain ⟨x, hx, rfl⟩ := List.mem_map.mp h
  refine ⟨x, hx, ?_⟩
  split
  · exact .inr rfl
  · exact .inl rfl

theorem State.NoneFailed.modSlice {s : State} (h : s.NoneFailed) (w : SliceRef) {f : Slice → Slice}
    (hf : ∀ sl : Slice, (∀ a ∈ sl.acc, a.NoneFailed) → ∀ a ∈ (f sl).acc, a.NoneFailed) : (s.modSlice w f).NoneFailed := by
  intro b' hb' g' hg' sl' hsl'
  obtain ⟨b, hb, rfl | rfl⟩ := mem_modWhere hb'
  · exact h b' hb g' hg' sl' hsl'
  obtain ⟨g, hg, rfl | rfl⟩ := mem_modWhere hg'
  · exact h b hb g' hg sl' hsl'
  obtain ⟨sl, hsl, rfl | rfl⟩ := mem_modWhere hsl'
  · exact h b hb g hg sl' hsl
  · exact hf sl (h b hb g hg sl hsl)

/-- A word of which no part has faulted raises nothing. -/
theorem raiseWord_eq_self {s : State} (h : s.NoneFailed) (bid gang grp : Nat) : s.raiseWord bid gang grp = s := by
  unfold State.raiseWord
  split
  · rfl
  next b hb =>
  split
  · rfl
  next g hg =>
  have hparts : ∀ sl ∈ g.slices, sl.failedParts grp = [] := fun sl hsl => by
    unfold Slice.failedParts
    rw [List.flatMap_eq_nil_iff]
    intro a ha
    have hnone := h b (List.mem_of_find?_eq_some hb) g (List.mem_of_find?_eq_some hg) sl hsl a ha
    split
    · rfl
    · rw [List.filterMap_eq_nil_iff]
      intro q hq
      cases hst : q.st with
      | failed code => exact (hnone q hq code hst).elim
      | _ => rfl
  have hfound : (g.slices.flatMap fun sl => (sl.failedParts grp).map fun x => (sl, x)) = [] := by
    rw [List.flatMap_eq_nil_iff]
    intro sl hsl
    rw [hparts sl hsl, List.map_nil]
  dsimp only
  rw [hfound]
  rfl

/-! ### The only access of a slice is complete (R94) -/

theorem mem_dropDone {l : List Access} {path : Nat} {x : Access} (h : x ∈ dropDone l path) : x ∈ l := by
  induction l with
  | nil => exact h
  | cons a r ih =>
    unfold dropDone at h
    split at h
    · split at h
      · exact List.mem_cons_of_mem _ (ih h)
      · exact h
    · exact (List.mem_cons.mp h).elim (fun e => e ▸ List.mem_cons_self) fun hr => List.mem_cons_of_mem _ (ih hr)

/-- The accesses of an issuer once the counters of all paths have fallen. -/
def dropAll (l : List Access) : List Access := (List.range 9).foldl dropDone l

theorem mem_dropAll {l : List Access} {x : Access} (h : x ∈ dropAll l) : x ∈ l :=
  List.foldlRecOn (motive := fun m : List Access => ∀ y ∈ m, y ∈ l) (List.range 9) dropDone (fun _ hy => hy)
    (fun _ hm _ _ _ hy => hm _ (mem_dropDone hy)) x h

theorem dropDone_one {a : Access} (hcomplete : a.complete = true) (path : Nat) : dropDone [a] path = if a.path = path then [] else [a] := by
  unfold dropDone
  simp only [hcomplete, beq_iff_eq, if_true]
  rfl

theorem foldl_dropDone_one {a : Access} (hcomplete : a.complete = true) (l : List Nat) :
    l.foldl dropDone [a] = if a.path ∈ l then [] else [a] := by
  induction l with
  | nil => rfl
  | cons k r ih =>
    rw [List.foldl_cons, dropDone_one hcomplete]
    by_cases hk : a.path = k
    · rw [if_pos hk, if_pos (hk ▸ List.mem_cons_self)]
      exact List.foldl_fixed' (fun _ => rfl) r
    · rw [if_neg hk, ih]
      simp [hk]

theorem dropAll_one {a : Access} (hcomplete : a.complete = true) (hpath : a.path < 9) : dropAll [a] = [] :=
  (foldl_dropDone_one hcomplete _).trans (if_pos (List.mem_range.mpr hpath))

/-- What the fall of the counters leaves of a slice. -/
def Slice.drained (sl : Slice) : Slice := { sl with acc := dropAll sl.acc }

theorem drain_eq {w : Issuer} (hw : w.slice ≠ seqSlice) (s : State) :
    s.drain w = { s.modSlice w Slice.drained with work := (s.drain w).work } := by
  have hslice : (w.slice == seqSlice) = false := beq_false_of_ne hw
  unfold State.drain State.modAccs
  simp only [hslice, Bool.false_eq_true, if_false]
  split <;> rfl

theorem accAcquire_eq (s : State) (a : Access) : s.accAcquire a = { s with cores := (s.accAcquire a).cores } := by
  unfold State.accAcquire
  split
  · split
    · exact acquire_eq ..
    · rfl
  · rfl

theorem accs_of_slice {s : State} {w : Issuer} {sl : Slice} (hw : w.slice ≠ seqSlice) (hslice : s.slice w = some sl) : s.accs w = sl.acc := by
  unfold State.accs
  rw [beq_false_of_ne hw, if_neg Bool.false_ne_true, hslice]

/-- The counter of a complete access that is its slice's only one falls. -/
theorem settle_one {s : State} {w : Issuer} {sl : Slice} {a : Access} (hw : w.slice ≠ seqSlice) (hslice : s.slice w = some sl) (hacc : sl.acc = [a])
    (hcomplete : a.complete = true) (hpath : a.path < 8) (hnone : s.NoneFailed) :
    (s.settle w a.id).slice w = some { sl with acc := [] } ∧ (s.settle w a.id).mem = s.mem ∧ (s.settle w a.id).vault = s.vault := by
  have hfind : (s.accs w).find? (fun x => x.id == a.id) = some a := by
    rw [accs_of_slice hw hslice, hacc, List.find?_cons, beq_self_eq_true]
  have hsettle : ∃ (u : State) (l : List Event), u = { s with cores := u.cores, work := u.work } ∧
      s.settle w a.id = ((u.drain w).push l).raiseWord w.blk w.gang a.grp := by
    unfold State.settle
    rw [hfind]
    refine ⟨_, _, ?_, rfl⟩
    split
    · rw [accAcquire_eq]
      rfl
    · rw [accAcquire_eq]
  obtain ⟨u, l, hu, hsettle⟩ := hsettle
  have hblocks : u.blocks = s.blocks := by rw [hu]
  have hdrained := drain_eq hw u
  have hfallen : ((u.drain w).push l).NoneFailed := by
    refine State.NoneFailed.congr (s := u.modSlice w Slice.drained) ((hnone.congr hblocks).modSlice w fun x hx y hy => hx y (mem_dropAll hy)) ?_
    rw [hdrained]
    rfl
  rw [hsettle, raiseWord_eq_self hfallen]
  refine ⟨?_, ?_, ?_⟩
  · have hat : (u.modSlice w Slice.drained).slice w = some { sl with acc := [] } := by
      rw [State.slice_modSlice_self u w Slice.drained fun _ => rfl, State.slice_congr hblocks, hslice, Option.map_some, Slice.drained, hacc,
        dropAll_one hcomplete (by omega)]
    rw [← hat]
    refine State.slice_congr ?_ w
    rw [hdrained]
    rfl
  · rw [hdrained, hu]
    rfl
  · rw [hdrained, hu]
    rfl

/-! ### The only access of a slice comes on (R80, R94) -/

/-- An access with the part of a lane done. -/
def Access.partDone (a : Access) (lane : Nat) : Access :=
  { a with parts := modWhere (fun p => p.lane == lane) (fun p => { p with st := .done }) a.parts }

/-- What the end of a part of an access leaves of the accesses of a slice. -/
def Slice.partDone (id lane : Nat) (sl : Slice) : Slice :=
  { sl with acc := modWhere (fun x => x.id == id) (fun x => x.partDone lane) sl.acc }

theorem Access.NoneFailed.partDone {a : Access} (h : a.NoneFailed) (lane : Nat) : (a.partDone lane).NoneFailed := by
  intro q' hq' code
  obtain ⟨q, hq, rfl | rfl⟩ := mem_modWhere hq'
  · exact h q' hq code
  · exact PartSt.noConfusion

theorem partDone_noneFailed {sl : Slice} (h : ∀ a ∈ sl.acc, a.NoneFailed) (id lane : Nat) : ∀ a ∈ (sl.partDone id lane).acc, a.NoneFailed := by
  intro a' ha'
  obtain ⟨a, ha, rfl | rfl⟩ := mem_modWhere ha'
  · exact h a' ha
  · exact (h a ha).partDone lane

theorem modPart_done {a : Access} (hw : a.who.slice ≠ seqSlice) (s : State) (lane : Nat) :
    (s.modPart a lane fun p => { p with st := .done }) = s.modSlice a.who (Slice.partDone a.id lane) := by
  unfold State.modPart State.modAcc State.modAccs
  rw [beq_false_of_ne hw, if_neg Bool.false_ne_true]
  rfl

/-- An access of one part whose part is done is complete. -/
theorem partDone_one {a : Access} {p : Part} (hparts : a.parts = [p]) : (a.partDone p.lane).complete = true := by
  unfold Access.partDone Access.complete modWhere
  rw [hparts]
  simp

/-- A part that is the only one of the only access before which it could wait is not held up. -/
theorem blocked_one {a : Access} {p : Part} (hparts : a.parts = [p]) (hcpya : ∀ size slot, a.kind ≠ .cpya size slot) :
    blocked [a] [] a p = false := by
  have hbefore : a.before a = false := by simp [Access.before]
  unfold blocked
  simp only [hbefore, hparts, Bool.false_and, List.any_cons, List.any_nil, bne_self_eq_false, lt_irrefl, decide_false, Bool.or_false, Bool.false_or]
  split
  · rfl
  · split
    · next size slot hkind => exact (hcpya _ _ hkind).elim
    · rfl

/-- A slice whose only access is one part at the vault, which nothing is before (R80, R94). -/
structure VaultTurn (s : State) (w : SliceRef) (sl : Slice) (b : Block) (a : Access) (p : Part) : Prop where
  slice : s.slice w = some sl
  blk : s.blk w.blk = some b
  lane : w.slice ≠ seqSlice
  acc : sl.acc = [a]
  who : a.who = w
  parts : a.parts = [p]
  todo : p.st = .todo
  unspilt : p.spilt = none
  path : a.path < 8
  known : s.accOf a.id = some a
  siblings : s.siblings a = []
  order : s.order a = [a]
  upsets : s.upsets = []
  noneFailed : s.NoneFailed

section
variable {s : State} {w : SliceRef} {sl : Slice} {b : Block} {a : Access} {p : Part}

theorem VaultTurn.who_lane (h : VaultTurn s w sl b a p) : a.who.slice ≠ seqSlice := by
  rw [h.who]
  exact h.lane

theorem VaultTurn.die (h : VaultTurn s w sl b a p) : dieOf (s.coreOfAcc a) = dieOf b.core := by
  unfold State.coreOfAcc
  rw [h.who, h.blk]

/-- The access has its turn at the vault, and its counter falls. -/
theorem VaultTurn.comesOn (h : VaultTurn s w sl b a p) (hvault : a.kind.vault = true) (hstep : s.stepPart a p = s.stepVault a p) :
    exec (.accessCompletion a.id) s = .next ((s.stepVault a p).settle w a.id) := by
  have hmeet : s.meetAccess a.id = s := by
    unfold State.meetAccess
    rw [h.upsets]
    rfl
  have hopen : (a.complete && !a.parts.isEmpty) = false := by
    unfold Access.complete
    rw [h.parts]
    simp [h.todo]
  have hkeep : s.keepTr a p = (s, p) := by
    unfold State.keepTr
    simp [hvault]
  have hcpya : ∀ size slot, a.kind ≠ .cpya size slot := fun size slot hkind => by
    rw [hkind] at hvault
    exact Bool.false_ne_true hvault
  have hpart : s.advancePart a.id p.lane = s.stepVault a p := by
    unfold State.advancePart
    rw [h.known]
    dsimp only
    rw [h.parts]
    simp only [List.find?_cons, beq_self_eq_true, h.todo, h.order, h.siblings, blocked_one h.parts hcpya, hkeep, hstep]
    rfl
  rw [exec_accessCompletion, execAccessCompletion, hmeet]
  refine congrArg Host.Outcome.next ?_
  unfold State.advance
  rw [h.known]
  dsimp only
  rw [hopen, h.parts, h.who]
  simp only [Bool.false_eq_true, if_false, List.foldl_cons, List.foldl_nil, hpart]

/-- Once the part is done, the access is gone from its slice. -/
theorem VaultTurn.settle (h : VaultTurn s w sl b a p) {u : State} {x : Slice} (hslice : u.slice w = some x) (hacc : x.acc = [a]) (hnone : u.NoneFailed) :
    (((u.modPart a p.lane fun p => { p with st := .done }).settle w a.id).slice w = some { x with acc := [] }) ∧
      ((u.modPart a p.lane fun p => { p with st := .done }).settle w a.id).mem = u.mem ∧
      ((u.modPart a p.lane fun p => { p with st := .done }).settle w a.id).vault = u.vault := by
  rw [modPart_done h.who_lane, h.who]
  have hdone : (u.modSlice w (Slice.partDone a.id p.lane)).slice w = some (x.partDone a.id p.lane) := by
    rw [State.slice_modSlice_self u w (Slice.partDone a.id p.lane) fun _ => rfl, hslice, Option.map_some]
  have honly : (x.partDone a.id p.lane).acc = [a.partDone p.lane] := by
    unfold Slice.partDone modWhere
    rw [hacc]
    simp
  exact settle_one (sl := x.partDone a.id p.lane) (a := a.partDone p.lane) h.lane hdone honly (partDone_one h.parts) h.path (hnone.modSlice w fun y hy => partDone_noneFailed hy a.id p.lane)

/-! ### Vault stores (R80, R302) -/

/-- A store writes its data at its address. -/
theorem VaultTurn.vstore (h : VaultTurn s w sl b a p) (hkind : a.kind = .vstore) :
    ∃ t, exec (.accessCompletion a.id) s = .next t ∧ t.slice w = some { sl with acc := [] } ∧ t.mem = s.mem ∧
      t.vault = (s.vlWr (dieOf b.core) p.addr a.esz p.data.toNat).vault := by
  have hstep : s.stepVault a p =
      (s.vaultPut (dieOf b.core) p.addr a.esz p.data.toNat).modPart a p.lane fun p => { p with st := .done } := by
    unfold State.stepVault State.donePart State.deliver
    rw [h.die]
    simp [hkind, AccKind.loads]
  have hsettled := h.settle (u := s.vaultPut (dieOf b.core) p.addr a.esz p.data.toNat) ((State.slice_congr rfl w).trans h.slice) h.acc
    (h.noneFailed.congr rfl)
  rw [← hstep] at hsettled
  obtain ⟨hslice, hmem, hvault⟩ := hsettled
  exact ⟨_, h.comesOn (by rw [hkind]; rfl) (by unfold State.stepPart; rw [hkind]), hslice, hmem, hvault⟩

end

/-! ### Vault loads (R299, R302) -/

/-- A slice in which a load has written its registers, after the results that are due. -/
def Slice.loaded (now : Nat) (a : Access) (p : Part) (v : DWord) (sl : Slice) : Slice :=
  let x := (sl.landTo now).setPhys p.dst p.lane (lo32 v)
  if a.esz = 8 then x.setPhys (p.dst + 1) p.lane (hi32 v) else x

theorem Slice.landTo_keeps (sl : Slice) (t : Nat) : (sl.landTo t).num = sl.num ∧ (sl.landTo t).acc = sl.acc :=
  List.foldlRecOn (motive := fun x : Slice => x.num = sl.num ∧ x.acc = sl.acc) (dueBy sl.pend t) Slice.land ⟨rfl, rfl⟩ fun x hx q _ => by
    unfold Slice.land
    split <;> exact hx

theorem Slice.loaded_eq (now : Nat) (a : Access) (p : Part) (v : DWord) (sl : Slice) :
    sl.loaded now a p v = { sl.landTo now with vregs := (sl.loaded now a p v).vregs } := by
  unfold Slice.loaded
  dsimp only
  split <;> rfl

theorem Slice.vphys_setPhys (sl : Slice) (r j : Nat) (v : Word) (r' j' : Nat) :
    (sl.setPhys r j v).vphys r' j' = if 4 * r' + j' = 4 * r + j then v else sl.vphys r' j' := by
  unfold Slice.vphys Slice.setPhys
  dsimp only
  rw [mget_mset]
  split <;> rfl

/-- What a register reads after a load has written its own. -/
theorem Slice.vphys_loaded {p : Part} (hlane : p.lane < 4) (now : Nat) (a : Access) (v : DWord) (sl : Slice) {j : Nat} (hj : j < 4) (r : Nat) :
    (sl.loaded now a p v).vphys r j = if j = p.lane ∧ a.esz = 8 ∧ r = p.dst + 1 then hi32 v else if j = p.lane ∧ r = p.dst then lo32 v
      else (sl.landTo now).vphys r j := by
  have hkey : ∀ q, 4 * r + j = 4 * q + p.lane ↔ j = p.lane ∧ r = q := fun q => by omega
  unfold Slice.loaded
  dsimp only
  by_cases hwide : a.esz = 8
  · rw [if_pos hwide]
    simp only [Slice.vphys_setPhys, hkey, hwide, true_and]
  · rw [if_neg hwide]
    simp only [Slice.vphys_setPhys, hkey, hwide, false_and, and_false, if_false]

theorem lo32_ofNat (v : Nat) : lo32 (BitVec.ofNat 64 v) = BitVec.ofNat 32 v := by
  rw [← BitVec.toNat_inj]
  simp only [lo32, BitVec.extractLsb'_toNat, BitVec.toNat_ofNat, Nat.shiftRight_zero]
  omega

theorem hi32_ofNat (v : Nat) : hi32 (BitVec.ofNat 64 v) = BitVec.ofNat 32 (v / 2 ^ 32) := by
  rw [← BitVec.toNat_inj]
  simp only [hi32, BitVec.extractLsb'_toNat, BitVec.toNat_ofNat, Nat.shiftRight_eq_div_pow]
  omega

/-- A value of 8 bytes is not extended. -/
theorem loadExt_wide (sx : Bool) (v : Nat) : loadExt sx 8 v = BitVec.ofNat 64 v := by
  cases sx <;> rfl

/-- The word that a narrower load leaves in its register. -/
theorem lo32_loadExt (sx : Bool) (n v : Nat) : lo32 (loadExt sx n v) =
    if sx ∧ n = 1 then (BitVec.ofNat 8 v).signExtend 32 else if sx ∧ n = 2 then (BitVec.ofNat 16 v).signExtend 32 else BitVec.ofNat 32 v := by
  unfold loadExt
  split
  · exact (lo32_setWidth _).trans (if_pos ⟨rfl, rfl⟩).symm
  · exact (lo32_setWidth _).trans ((if_neg (by decide)).trans (if_pos ⟨rfl, rfl⟩)).symm
  · next hbyte hhalf =>
    rw [if_neg fun ⟨hsx, hn⟩ => hbyte hsx hn, if_neg fun ⟨hsx, hn⟩ => hhalf hsx hn, lo32_ofNat]

/-- What a vault load delivers. -/
theorem deliver_vload {a : Access} {p : Part} (hw : a.who.slice ≠ seqSlice) {sx : Bool} (hkind : a.kind = .vload sx) (hunspilt : p.spilt = none)
    (s : State) (v : Nat) : s.deliver a p v = s.modSlice a.who (Slice.loaded s.now a p (loadExt sx a.esz v)) := by
  unfold State.deliver
  rw [hkind, beq_false_of_ne hw, hunspilt]
  simp only [AccKind.loads, resultLanes, Bool.not_true, Bool.false_eq_true, if_false, List.foldl_cons, List.foldl_nil, Bool.or_false, beq_iff_eq]
  rfl

section
variable {s : State} {w : SliceRef} {sl : Slice} {b : Block} {a : Access} {p : Part}

/-- A load writes its registers, and no byte. -/
theorem VaultTurn.vload (h : VaultTurn s w sl b a p) {sx : Bool} (hkind : a.kind = .vload sx)
    (hgood : s.badVaultAt (dieOf b.core) p.addr a.esz = false) :
    ∃ t, exec (.accessCompletion a.id) s = .next t ∧
      t.slice w = some { sl.loaded s.now a p (loadExt sx a.esz (s.vlRd (dieOf b.core) p.addr a.esz)) with acc := [] } ∧
      t.mem = s.mem ∧ t.vault = s.vault := by
  set v := s.vlRd (dieOf b.core) p.addr a.esz with hv
  set load := Slice.loaded s.now a p (loadExt sx a.esz v) with hload
  have hnum : ∀ x, (load x).num = x.num := fun x => by rw [hload, Slice.loaded_eq]; exact (x.landTo_keeps s.now).1
  have hacc : ∀ x, (load x).acc = x.acc := fun x => by rw [hload, Slice.loaded_eq]; exact (x.landTo_keeps s.now).2
  have hstep : s.stepVault a p = (s.modSlice w load).modPart a p.lane fun p => { p with st := .done } := by
    unfold State.stepVault State.donePart
    rw [h.die]
    dsimp only
    rw [hgood]
    simp only [hkind, Bool.false_and, Bool.false_eq_true, if_false]
    rw [deliver_vload h.who_lane hkind h.unspilt, h.who]
  have hslice : (s.modSlice w load).slice w = some (load sl) := by
    rw [State.slice_modSlice_self s w load hnum, h.slice, Option.map_some]
  have hsettled := h.settle hslice ((hacc sl).trans h.acc) (h.noneFailed.modSlice w fun x hx y hy => hx y (hacc x ▸ hy))
  rw [← hstep] at hsettled
  obtain ⟨hat, hmem, hvault⟩ := hsettled
  exact ⟨_, h.comesOn (by rw [hkind]; rfl) (by unfold State.stepPart; rw [hkind]), hat, hmem, hvault⟩

end

/-- Settles O31: R80, R94, R299, R302. -/
theorem vaultAccess : Obligations.VaultAccess := by
  intro s w sl b a p hslice hblk hlane hacc hwho hparts htodo hunspilt hpartLane hpath hknown hsiblings horder hupsets hnone _ d v
  have h : VaultTurn s w sl b a p := ⟨hslice, hblk, hlane, hacc, hwho, hparts, htodo, hunspilt, hpath, hknown, hsiblings, horder, hupsets,
    noneFailed_of_allAccs hnone⟩
  refine ⟨fun sx hkind hgood => ?load, fun hkind => ?store⟩
  case load =>
    obtain ⟨t, hexec, hat, hmem, hvault⟩ := h.vload hkind hgood
    have hreads := fun r j (hj : j < 4) => Slice.vphys_loaded hpartLane s.now a (loadExt sx a.esz v) sl hj r
    refine ⟨t, _, hexec, hat, hvault, hmem, ?_, fun hwide => ?_, fun hnarrow => ?_, fun r j hj hother => ?_⟩
    · rw [Slice.loaded_eq]
    · have hext : loadExt sx a.esz v = BitVec.ofNat 64 v := by rw [hwide, loadExt_wide]
      refine ⟨(hreads p.dst p.lane hpartLane).trans ?_, (hreads (p.dst + 1) p.lane hpartLane).trans ?_⟩
      · rw [if_neg (by omega), if_pos ⟨rfl, rfl⟩, hext, lo32_ofNat]
      · rw [if_pos ⟨rfl, hwide, rfl⟩, hext, hi32_ofNat]
    · refine (hreads p.dst p.lane hpartLane).trans ?_
      rw [if_neg (by omega), if_pos ⟨rfl, rfl⟩, lo32_loadExt]
    · refine (hreads r j hj).trans ?_
      rw [if_neg fun ⟨hl, hwide, hr⟩ => hother ⟨hl, .inr ⟨hwide, hr⟩⟩, if_neg fun ⟨hl, hr⟩ => hother ⟨hl, .inl hr⟩]
  case store =>
    obtain ⟨t, hexec, hat, hmem, hvault⟩ := h.vstore hkind
    refine ⟨t, hexec, hat, hmem, ?_, fun x hx => ?_⟩
    · rw [State.vlRd, hvault]
      exact vlRd_vlWr s d p.addr a.esz p.data.toNat
    · rw [hvault]
      exact byte_vault_vlWr_of_ne s d p.addr a.esz _ hx

end Sys2Proof.Machine

namespace Sys2Proof.Machine

/-! ## Token coherence on a sector of the package class (R101 to R131, R453) -/

/-! ### Homes, agents and messages of the package class (R102, R103, R107) -/

theorem isFab_of_package {sec : Nat} (h : sec * 64 < 2 ^ 51) : isFab sec = false :=
  decide_eq_false (Nat.not_le.mpr h)

section
variable {sec : Nat} (h : sec * 64 < 2 ^ 51) (s : State)
include h

theorem homeHere_of_package : s.homeHere sec = true := by
  rw [State.homeHere, isFab_of_package h]
  rfl

theorem agentOf_of_package (d : Nat) : s.agentOf sec d = d := by
  rw [State.agentOf, isFab_of_package h, if_neg Bool.false_ne_true]

theorem agentDie_of_package {a : Nat} (ha : a < 8) : s.agentDie sec a = some a := by
  rw [State.agentDie, isFab_of_package h, if_neg Bool.false_ne_true, if_pos ha]

theorem agents_of_package : s.agents sec = Terms.dies8 := by
  rw [State.agents, isFab_of_package h]
  rfl

theorem reachable_of_package : s.reachable sec = Terms.dies8 := by
  rw [State.reachable, agents_of_package h, isFab_of_package h]
  rfl

theorem memAddr_of_package : memAddr (sec * 64) = sec * 64 := if_pos h

end

/-- A token message to an agent or home of this device is due there. -/
theorem sendTok_package (s : State) (m : TokMsg) (h : m.sec * 64 < 2 ^ 51) (hdst : ∀ a, m.dst = .l2 a → a < 8) :
    s.sendTok m = s.push [.tokenArrival m] := by
  unfold State.sendTok
  split
  · next a ha => rw [agentDie_of_package h s (hdst a ha)]
  · rw [homeHere_of_package h, if_pos rfl]

/-- So is a transient request. -/
theorem sendReq_package (s : State) (m : ReqMsg) (h : m.sec * 64 < 2 ^ 51) (hdst : ∀ a, m.dst = .l2 a → a < 8) :
    s.sendReq m = s.push [.transientRequest m] := by
  unfold State.sendReq
  split
  · next a ha => rw [agentDie_of_package h s (hdst a ha)]
  · rw [homeHere_of_package h, if_pos rfl]

theorem push_push (s : State) (l m : List Event) : (s.push l).push m = s.push (l ++ m) := by
  unfold State.push
  rw [List.append_assoc]

/-- One step made due after another. -/
theorem foldl_push {α : Type} (f : α → Event) (l : List α) (s : State) : l.foldl (fun s x => s.push [f x]) s = s.push (l.map f) := by
  induction l generalizing s with
  | nil => rw [List.foldl_nil, List.map_nil, State.push, List.append_nil]
  | cons x r ih => rw [List.foldl_cons, ih, push_push, List.map_cons, List.singleton_append]

/-- A change of what one home keeps, with steps, timers, memory and messages. -/
theorem homeTo_of_homes {s t : State} {sec : Nat} (f : HomeSector → HomeSector)
    (hrest : t = { s with homes := t.homes, work := t.work, timers := t.timers, mem := t.mem, outs := t.outs })
    (hhomes : t.homes = (s.modHome sec f).homes) : Terms.homeTo s t sec (f (s.home sec)) := by
  have hhome : ∀ y, t.home y = (s.modHome sec f).home y := fun y => by
    unfold State.home State.sectorT State.exportOf State.expKey
    rw [hrest, hhomes]
    rfl
  refine ⟨hrest, ?_, fun y hy => ?_⟩
  · rw [hhome, State.home_modHome, if_pos rfl]
  · rw [hhome, State.home_modHome, if_neg hy]

/-! ### What an L2 holds of a sector (R104, R105) -/

theorem l2_setL2 (s : State) (d sec : Nat) (x : L2Sector) (d' sec' : Nat) :
    (s.setL2 d sec x).l2 d' sec' = if d' = d ∧ sec' = sec then (if x.tokn = 0 then {} else x) else s.l2 d' sec' := by
  unfold State.l2 State.setL2
  rw [State.die_modDie]
  by_cases hd : d' = d
  · subst hd
    simp only [if_true, true_and, beq_iff_eq]
    split
    · rw [mgetD, mget_mdel]
      split <;> rfl
    · rw [mgetD_mset]
  · simp [hd]

theorem l2_modDie_of_l2 (s : State) (d : Nat) {f : Die → Die} (hf : ∀ x, (f x).l2 = x.l2) (d' sec : Nat) :
    (s.modDie d f).l2 d' sec = s.l2 d' sec := by
  unfold State.l2
  rw [State.die_modDie]
  split
  · next hd => rw [hf, hd]
  · rfl

theorem die_modDie_ne (s : State) {d k : Nat} (f : Die → Die) (h : k ≠ d) : (s.modDie d f).die k = s.die k := by
  rw [State.die_modDie, if_neg h]

theorem die_setL2_ne (s : State) {d k : Nat} (sec : Nat) (x : L2Sector) (h : k ≠ d) : (s.setL2 d sec x).die k = s.die k := die_modDie_ne s _ h

/-! ### Requests (R111 to R114) -/

theorem exec_transientRequest_l2 {s : State} {m : ReqMsg} {a d : Nat} (hdst : m.dst = .l2 a) (hdie : s.agentDie m.sec a = some d) :
    exec (.transientRequest m) s = .next (s.answerL2 d m) := by
  rw [exec_transientRequest, execTransientRequest, hdst]
  simp only [hdie]

theorem exec_transientRequest_home {s : State} {m : ReqMsg} (hdst : m.dst = .home) (hhere : s.homeHere m.sec = true) :
    exec (.transientRequest m) s = .next (s.answerHome m) := by
  rw [exec_transientRequest, execTransientRequest, hdst]
  simp only [hhere, if_true]

section
variable {s : State} {d sec : Nat} (hsec : sec * 64 < 2 ^ 51)
include hsec

/-- The message with which an owner answers a read: one token, and the data. -/
def State.oneToken (s : State) (d sec a t : Nat) : TokMsg :=
  let x := s.l2 d sec
  { sec, dst := .l2 a, src := .l2 d, n := 1, own := false, ser := x.ser, t, data := some x.data, dirty := false, bad := x.bad }

/-- The message in which a home sends all its tokens. -/
def State.homeTokens (s : State) (sec d : Nat) : TokMsg :=
  let h := s.home sec
  { sec, dst := .l2 d, src := .home, n := h.tokn, own := h.own, ser := h.ser, t := h.t,
    data := if h.own then some (s.memSector sec) else none, dirty := false }

/-- R112: the owner of two tokens or more answers a read with one token and the data. -/
theorem transientRequest_read (hd : d < 8) {a : Nat} (ha : a < 8) (hne : a ≠ d) (hpend : s.pendReq d sec true = false) (hpact : s.pact d sec = none)
    (hown : (s.l2 d sec).own = true) (htwo : 2 ≤ (s.l2 d sec).tokn) (ht : (s.l2 d sec).t = s.sectorT sec) :
    ∃ t, exec (.transientRequest ⟨sec, .l2 d, a, false, s.sectorT sec, false⟩) s = .next t ∧
      t.l2 d sec = { s.l2 d sec with tokn := (s.l2 d sec).tokn - 1 } ∧ (∀ k, k ≠ d → t.die k = s.die k) ∧
      t = { s with dies := t.dies, work := t.work } ∧
      t.work = s.work ++ [.tokenArrival (s.oneToken d sec a (s.sectorT sec))] := by
  have hanswer : s.answerL2 d ⟨sec, .l2 d, a, false, s.sectorT sec, false⟩ = (s.takeL2 d sec 1 false).sendTok (s.oneToken d sec a (s.sectorT sec)) := by
    have hpos : (s.l2 d sec).tokn ≠ 0 := by omega
    unfold State.answerL2
    simp [agentOf_of_package hsec, hne, ht, hpend, hpact, hown, hpos, htwo, State.oneToken]
  rw [sendTok_package _ (s.oneToken d sec a (s.sectorT sec)) hsec fun _ hx => Holder.l2.inj hx ▸ ha] at hanswer
  have hexec : exec (.transientRequest ⟨sec, .l2 d, a, false, s.sectorT sec, false⟩) s = .next (s.answerL2 d _) :=
    exec_transientRequest_l2 rfl (agentDie_of_package hsec s hd)
  refine ⟨_, hexec.trans (congrArg _ hanswer), ?_, fun k hk => ?_, rfl, rfl⟩
  case refine_2 => exact die_setL2_ne s sec _ hk
  refine (l2_setL2 ..).trans ?_
  have hleft : (s.l2 d sec).tokn - 1 ≠ 0 := by omega
  have hdv : (1 < (s.l2 d sec).tokn) = True := eq_true (by omega)
  simp [hleft, hdv]

theorem homeGive_package (s : State) (hd : d < 8) (htokn : (s.home sec).tokn ≠ 0) : s.homeGive sec (.l2 d) =
    (s.modHome sec fun h => { h with tokn := 0, own := false }).push [.tokenArrival (s.homeTokens sec d)] := by
  have hgive : s.homeGive sec (.l2 d) = (s.modHome sec fun h => { h with tokn := 0, own := false }).sendTok (s.homeTokens sec d) := by
    unfold State.homeGive
    simp [htokn, State.homeTokens]
  rw [hgive, sendTok_package _ (s.homeTokens sec d) hsec fun _ hx => Holder.l2.inj hx ▸ hd]

/-- R112: a home answers a write with all its tokens. -/
theorem transientRequest_home (hd : d < 8) (hactive : (s.home sec).active = none) (hreq : (s.home sec).req = none) (hpage : s.hostPage sec = false)
    (hlost : (s.home sec).lost = false) (htokn : (s.home sec).tokn ≠ 0) (hport : s.cxlPort sec = none) (hcxl : (s.home sec).cxl = none) :
    ∃ t, exec (.transientRequest ⟨sec, .home, d, true, s.sectorT sec, false⟩) s = .next t ∧
      Terms.homeTo s t sec { s.home sec with tokn := 0, own := false } ∧ t.mem = s.mem ∧ t.outs = s.outs ∧ t.timers = s.timers ∧
      t.work = s.work ++ [.tokenArrival (s.homeTokens sec d)] := by
  have hanswer : s.answerHome ⟨sec, .home, d, true, s.sectorT sec, false⟩ = s.homeGive sec (.l2 d) := by
    unfold State.answerHome State.homeRefuses State.cxlOk State.biSnoop
    simp [isFab_of_package hsec, hactive, hreq, hpage, hlost, htokn, hport, hcxl]
  rw [homeGive_package hsec s hd htokn] at hanswer
  have hexec : exec (.transientRequest ⟨sec, .home, d, true, s.sectorT sec, false⟩) s = .next (s.answerHome _) :=
    exec_transientRequest_home rfl (homeHere_of_package hsec s)
  refine ⟨_, hexec.trans (congrArg _ hanswer), ?_, rfl, rfl, rfl, rfl⟩
  exact homeTo_of_homes (fun h => { h with tokn := 0, own := false }) rfl rfl

end

theorem foldl_sendReq_package {sec : Nat} (hsec : sec * 64 < 2 ^ 51) (src : Nat) (write : Bool) (t : Nat) {l : List Holder}
    (hl : ∀ a, Holder.l2 a ∈ l → a < 8) (s : State) :
    l.foldl (fun s h => s.sendReq { sec, dst := h, src, write, t }) s = s.push (l.map fun h => .transientRequest ⟨sec, h, src, write, t, false⟩) := by
  rw [← foldl_push]
  refine List.foldl_ext _ _ _ fun u h hh => sendReq_package u ⟨sec, h, src, write, t, false⟩ hsec fun a ha => hl a ?_
  obtain rfl : h = .l2 a := ha
  exact hh

/-- Every agent but one, and the home. -/
theorem others_filter (d : Nat) : (Terms.dies8.map Holder.l2 ++ [Holder.home]).filter (fun h => h != Holder.l2 d) =
    (Terms.dies8.filter fun k => k ≠ d).map Holder.l2 ++ [Holder.home] := by
  have hne : ((fun h => h != Holder.l2 d) ∘ Holder.l2) = fun k : Nat => decide (k ≠ d) := funext fun k => by
    rw [Bool.eq_iff_iff]
    simp
  rw [List.filter_append, List.filter_map, hne]
  rfl

/-- Changes a request of a die. -/
def Die.modReq (r : TokReq) (f : TokReq → TokReq) (x : Die) : Die :=
  { x with reqs := modWhere (fun y => y.sec == r.sec && y.write == r.write) f x.reqs }

section
variable {s : State} {d sec : Nat} (hsec : sec * 64 < 2 ^ 51)
include hsec

/-- A broadcast of a request goes to every holder but its sender. -/
theorem sendRound_broadcast (s : State) (d : Nat) {r : TokReq} (hr : r.sec = sec) : s.sendRound d r true =
    (s.push (((Terms.dies8.filter fun k => k ≠ d).map Holder.l2 ++ [Holder.home]).map fun to' =>
      .transientRequest ⟨sec, to', d, r.write, r.t, false⟩)).timer
      (s.gtime + 2000) (.transientTimeout d sec) := by
  have hdies : ∀ a, Holder.l2 a ∈ (Terms.dies8.filter fun k => k ≠ d).map Holder.l2 ++ [Holder.home] → a < 8 := fun a ha => by
    simp only [List.mem_append, List.mem_map, List.mem_filter, List.mem_singleton, reduceCtorEq, or_false, Holder.l2.injEq, exists_eq_right] at ha
    exact List.mem_range.mp ha.1
  unfold State.sendRound
  simp only [hr, agentOf_of_package hsec, agents_of_package hsec, if_true, others_filter, foldl_sendReq_package hsec d r.write r.t hdies]
  rfl

/-- R114: a request without a complete answer is sent again to every holder, or raises a press. -/
theorem transientTimeout_request {r : TokReq} {a : Nat} (hd : d < 8) (hreqs : (s.die d).reqs = [r]) (hr : r.sec = sec) (hpressed : r.pressed = false)
    (htime : r.timeout ≤ s.gtime) (hasids : r.asids = [a]) :
    ∃ t, exec (.transientTimeout d sec) s = .next t ∧ t = { s with dies := t.dies, work := t.work, timers := t.timers } ∧
      (r.sends ≤ s.retryOf a → (t.die d).reqs = [{ r with sends := r.sends + 1, timeout := s.gtime + 2000 }] ∧
        t.timers = s.timers ++ [(s.gtime + 2000, .transientTimeout d sec)] ∧
        t.work = s.work ++ ((Terms.dies8.filter fun k => k ≠ d).map Holder.l2 ++ [Holder.home]).map fun to' =>
          Event.transientRequest ⟨sec, to', d, r.write, r.t, false⟩) ∧
      (s.retryOf a < r.sends → (t.die d).reqs = [{ r with pressed := true }] ∧ t.timers = s.timers ∧
        t.work = s.work ++ [.pressRequest ⟨sec, .l2 d, r.write, r.t, []⟩]) := by
  subst hr
  have hexec : exec (.transientTimeout d r.sec) s = .next (s.requestTimeout d r) := by
    have hhere : (d == 8) = false := beq_false_of_ne (by omega)
    rw [exec_transientTimeout, execTransientTimeout, hhere, hreqs]
    simp [hpressed, htime]
  have hlimit : s.retryLimit r = s.retryOf a := by
    unfold State.retryLimit
    rw [hasids]
    rfl
  have hset : ∀ f : TokReq → TokReq, ((s.modDie d (Die.modReq r f)).die d).reqs = [f r] := fun f => by
    rw [State.die_modDie, if_pos rfl, Die.modReq, hreqs]
    simp [modWhere]
  by_cases hagain : r.sends ≤ s.retryOf a
  · have hstep : s.requestTimeout d r = (s.modDie d (Die.modReq r fun _ => { r with sends := r.sends + 1, timeout := s.gtime + 2000 })).sendRound d
        { r with sends := r.sends + 1, timeout := s.gtime + 2000 } true := by
      unfold State.requestTimeout
      simp only [hlimit, if_pos hagain]
      rfl
    rw [sendRound_broadcast hsec _ d (r := { r with sends := r.sends + 1, timeout := s.gtime + 2000 }) rfl] at hstep
    rw [hstep] at hexec
    exact ⟨_, hexec, rfl, fun _ => ⟨hset _, rfl, rfl⟩, fun hlast => absurd hagain (Nat.not_le.mpr hlast)⟩
  · have hstep : s.requestTimeout d r = (s.modDie d (Die.modReq r fun y => { y with pressed := true })).push
        [.pressRequest ⟨r.sec, .l2 d, r.write, r.t, []⟩] := by
      unfold State.requestTimeout State.sendPress
      simp only [hlimit, if_neg hagain, homeHere_of_package hsec, agentOf_of_package hsec, if_true]
      rfl
    rw [hstep] at hexec
    exact ⟨_, hexec, rfl, fun hmore => absurd hmore hagain, fun _ => ⟨hset _, rfl, rfl⟩⟩

end

/-! ### Tokens that arrive (R113, R122, R123) -/

section
variable {s : State} (h : Terms.noWaiters s) (d sec : Nat)
include h

theorem allAccs_of_noWaiters : s.allAccs = [] := by
  rw [State.allAccs, h.1]
  rfl

theorem performWaiting_of_noWaiters : s.performWaiting d sec = s := by
  have haccs := allAccs_of_noWaiters h
  obtain ⟨-, hcores, hjobs, -⟩ := h
  unfold State.performWaiting
  simp only [haccs, hcores, hjobs, List.filter_nil, List.flatMap_nil, List.map_nil, List.foldl_nil]

theorem feed_of_noWaiters (data : Sector) : s.feed d sec data = s := by
  obtain ⟨hblocks, hcores, -, -⟩ := h
  unfold State.feed State.engWaits State.pullWaits
  simp only [hblocks, hcores, List.filter_nil, List.flatMap_nil, List.foldl_nil]

theorem homeTurns_of_noWaiters : s.homeTurns = [] := by
  have haccs := allAccs_of_noWaiters h
  unfold State.homeTurns State.homeOps
  rw [haccs, h.2.1]
  rfl

end

theorem pact_modDie_of_pact (s : State) (d : Nat) {f : Die → Die} (hf : ∀ x, (f x).pact = x.pact) (d' sec : Nat) :
    (s.modDie d f).pact d' sec = s.pact d' sec := by
  unfold State.pact
  rw [State.die_modDie]
  split
  · next hd => rw [hf, hd]
  · rfl

theorem pact_setL2 (s : State) (d sec : Nat) (x : L2Sector) (d' sec' : Nat) : (s.setL2 d sec x).pact d' sec' = s.pact d' sec' := by
  rw [State.setL2, pact_modDie_of_pact]
  exact fun _ => rfl

/-- A die that keeps some of its requests. -/
def Die.filterReqs (p : TokReq → Bool) (y : Die) : Die := { y with reqs := y.reqs.filter p }

/-- A die whose requests have noted from whom tokens have come (R116). -/
def Die.noteTokens (m : TokMsg) (y : Die) : Die :=
  { y with
    reqs := y.reqs.map fun r =>
      if r.sec == m.sec then { r with senders := r.senders ++ [m.src], ownFrom := if m.own then some m.src else r.ownFrom } else r }

/-- What an L2 holds of a sector once the tokens of a message have been counted (R113). -/
def L2Sector.take (x : L2Sector) (m : TokMsg) : L2Sector :=
  { ser := if x.tokn == 0 then m.ser else x.ser, own := x.own || m.own, dv := x.dv || m.data.isSome, dirty := x.dirty || (m.own && m.dirty),
    tokn := x.tokn + m.n, data := if x.dv then x.data else m.data.getD x.data, t := m.t, bad := if x.dv then x.bad else m.bad }

/-- With no request outstanding nothing completes. -/
theorem requestsDone_of_noReqs {s : State} (h : Terms.noWaiters s) {d : Nat} (hreqs : (s.die d).reqs = []) (sec : Nat) :
    ∃ p, s.requestsDone d sec = s.modDie d (Die.filterReqs p) := by
  refine ⟨fun r => !(r.sec == sec && (if r.write then decide ((s.l2 d sec).tokn == r.t) && (s.l2 d sec).dv
    else decide (1 ≤ (s.l2 d sec).tokn) && (s.l2 d sec).dv)), ?_⟩
  unfold State.requestsDone
  simp only [hreqs, List.filter_nil, List.foldl_nil, List.any_nil, Bool.false_and, Bool.false_eq_true, if_false]
  exact performWaiting_of_noWaiters (s := s.modDie d (Die.filterReqs _)) h d sec

/-- What follows once the tokens of a message have been counted (R113, R118 step 3). -/
def State.afterTokens (s : State) (d : Nat) (m : TokMsg) : State :=
  let x := s.l2 d m.sec
  let s := if x.dv then s.feed d m.sec x.data else s
  let s := s.requestsDone d m.sec
  match s.pact d m.sec with
  | some h => if h == .l2 (s.agentOf m.sec d) then s else s.giveAll d m.sec h
  | none => s

theorem takeTokens_eq {s : State} {d : Nat} {m : TokMsg} (hn : m.n ≠ 0) (hserial : s.serialOk d m = true) (hroom : s.l2Room d m.sec = true) :
    s.takeTokens d m = ((s.setL2 d m.sec ((s.l2 d m.sec).take m)).modDie d (Die.noteTokens m)).afterTokens d m := by
  have hroomed : s.makeRoom d m.sec = s := if_pos hroom
  unfold State.takeTokens
  rw [if_neg (by simpa using hn), hserial, hroomed, if_neg (by decide)]
  dsimp only
  rw [hroom, if_neg (by decide)]
  rfl

/-- Tokens that an L2 with room takes while nothing waits for them are counted, and change nothing else. -/
theorem takeTokens_of_noWaiters {s : State} {d : Nat} {m : TokMsg} (hw : Terms.noWaiters s) (hn : m.n ≠ 0) (hserial : s.serialOk d m = true)
    (hreqs : (s.die d).reqs = []) (hpact : s.pact d m.sec = none) (hroom : s.l2Room d m.sec = true) :
    ∃ p, s.takeTokens d m = ((s.setL2 d m.sec ((s.l2 d m.sec).take m)).modDie d (Die.noteTokens m)).modDie d (Die.filterReqs p) := by
  rw [takeTokens_eq hn hserial hroom]
  set u := (s.setL2 d m.sec ((s.l2 d m.sec).take m)).modDie d (Die.noteTokens m) with hu
  have hureqs : (u.die d).reqs = [] := by
    rw [hu, State.die_modDie, if_pos rfl, State.setL2, State.die_modDie, if_pos rfl]
    unfold Die.noteTokens
    rw [hreqs, List.map_nil]
  obtain ⟨p, hdone⟩ := requestsDone_of_noReqs (s := u) hw hureqs m.sec
  have hupact : (u.modDie d (Die.filterReqs p)).pact d m.sec = none := by
    rw [pact_modDie_of_pact _ _ (f := Die.filterReqs p) fun _ => rfl, hu, pact_modDie_of_pact _ _ (f := Die.noteTokens m) fun _ => rfl, pact_setL2, hpact]
  have hfed : ∀ data, u.feed d m.sec data = u := feed_of_noWaiters (s := u) hw d m.sec
  unfold State.afterTokens
  exact ⟨p, by simp only [hfed, ite_self, hdone, hupact]⟩

/-- R113: tokens that arrive are counted at an L2. -/
theorem tokenArrival_l2 {s : State} {d : Nat} {m : TokMsg} (hsec : m.sec * 64 < 2 ^ 51) (hd : d < 8) (hdst : m.dst = .l2 d) (hw : Terms.noWaiters s)
    (hn : m.n ≠ 0) (hserial : s.serialOk d m = true) (hreqs : (s.die d).reqs = []) (hpact : s.pact d m.sec = none) (hroom : s.l2Room d m.sec = true) :
    ∃ t, exec (.tokenArrival m) s = .next t ∧ t = { s with dies := t.dies } ∧ (∀ k, k ≠ d → t.die k = s.die k) ∧
      (∀ y, y ≠ m.sec → t.l2 d y = s.l2 d y) ∧ t.l2 d m.sec = (s.l2 d m.sec).take m := by
  obtain ⟨p, htake⟩ := takeTokens_of_noWaiters hw hn hserial hreqs hpact hroom
  have hexec : exec (.tokenArrival m) s = .next (s.takeTokens d m) := by
    rw [exec_tokenArrival, execTokenArrival, hdst]
    simp only [agentDie_of_package hsec s hd]
  have hl2 : ∀ y, (((s.setL2 d m.sec ((s.l2 d m.sec).take m)).modDie d (Die.noteTokens m)).modDie d (Die.filterReqs p)).l2 d y =
      if y = m.sec then (s.l2 d m.sec).take m else s.l2 d y := fun y => by
    have hpos : ((s.l2 d m.sec).take m).tokn ≠ 0 := by
      have : (s.l2 d m.sec).tokn + m.n ≠ 0 := by omega
      exact this
    rw [l2_modDie_of_l2 _ _ (f := Die.filterReqs p) fun _ => rfl, l2_modDie_of_l2 _ _ (f := Die.noteTokens m) fun _ => rfl, l2_setL2, if_neg hpos]
    simp
  rw [htake] at hexec
  refine ⟨_, hexec, rfl, fun k hk => ?_, fun y hy => (hl2 y).trans (if_neg hy), (hl2 m.sec).trans (if_pos rfl)⟩
  rw [die_modDie_ne _ _ hk, die_modDie_ne _ _ hk, die_setL2_ne _ _ _ hk]

theorem toNat_lt_of_bytes {n : Nat} (v : BitVec (8 * n)) : v.toNat < 256 ^ n := by
  have hv := v.isLt
  rwa [Nat.pow_mul] at hv

theorem memSector_setMemSector (s : State) (sec : Nat) (v : Sector) : (s.setMemSector sec v).memSector sec = v := by
  unfold State.memSector State.setMemSector
  rw [Memory.readN_writeN, Nat.mod_eq_of_lt (toNat_lt_of_bytes (n := 64) v), BitVec.ofNat_toNat, BitVec.setWidth_eq]

theorem byte_setMemSector_ne (s : State) {sec : Nat} (h : sec * 64 < 2 ^ 51) (v : Sector) {a : Nat} (ha : a < 64 * sec ∨ 64 * sec + 64 ≤ a) :
    Memory.byte (s.setMemSector sec v).mem a = Memory.byte s.mem a := by
  unfold State.setMemSector
  rw [memAddr_of_package h]
  exact Memory.byte_writeN_ne _ _ _ _ _ (by omega)

/-- A home at which no press is active and no census is held keeps the tokens that come to it; the owner's dirty data goes to memory. -/
theorem homeTake_of_idle {s : State} {m : TokMsg} {v : Sector} (hdata : m.data = some v) (hser : m.ser = (s.home m.sec).ser) (hbad : m.bad = 0)
    (hactive : (s.home m.sec).active = none) (hcensus : (s.home m.sec).census = none) (hport : s.cxlPort m.sec = none) :
    s.homeTake m = (if m.own && m.dirty then s.setMemSector m.sec v else s).modHome m.sec
      fun h => { h with tokn := h.tokn + m.n, own := h.own || m.own } := by
  set u := if m.own && m.dirty then s.setMemSector m.sec v else s with hu
  have hhome : u.home m.sec = s.home m.sec := by
    rw [hu]
    split <;> rfl
  have huport : u.cxlPort m.sec = none := by
    rw [hu]
    split <;> exact hport
  unfold State.homeTake
  rw [if_neg (by simp [hser])]
  extract_lets stored counted h
  have hstored : stored = u := by
    cases hown : m.own with
    | false => simp only [stored, hu, hown, Bool.false_and, Bool.false_eq_true, if_false]
    | true =>
      cases hdirty : m.dirty with
      | false => simp only [stored, hu, hown, hdirty, Bool.and_false, Bool.false_eq_true, if_false]
      | true => simp only [stored, hu, hown, hdirty, hdata, hbad, Bool.and_self, beq_self_eq_true, if_true]
  have hcounted : counted = u.modHome m.sec fun h => { h with tokn := h.tokn + m.n, own := h.own || m.own } := by
    unfold counted
    rw [hstored, huport]
    simp only [Option.isSome_none, Bool.and_false, Bool.false_eq_true, if_false]
  have hh : h = { s.home m.sec with tokn := (s.home m.sec).tokn + m.n, own := (s.home m.sec).own || m.own } := by
    unfold h
    rw [hcounted, State.home_modHome, if_pos rfl, hhome]
  rw [hh, hcensus, hactive]
  exact hcounted

theorem with_homeWait_eq (s : State) {l : List (Nat × Event)} (h : l = s.homeWait) : { s with homeWait := l } = s := by
  subst h
  rfl

theorem push_nil (s : State) : s.push [] = s := by
  unfold State.push
  rw [List.append_nil]

/-- Nothing that has waited goes on. -/
theorem homeRise_of_noWaiters {s : State} (hw : Terms.noWaiters s) {sec : Nat} (hreq : (s.home sec).req = none) : s.homeRise sec s.homeTurns = s := by
  rw [homeTurns_of_noWaiters hw]
  obtain ⟨-, -, -, hwait⟩ := hw
  unfold State.homeRise
  rw [hreq]
  simp only [hwait, List.filter_nil, List.map_nil, List.append_nil, Option.isSome_none, Bool.false_eq_true, if_false, push_nil,
    with_homeWait_eq s hwait.symm, ite_self]

/-- R105, R122, R123: tokens that come to a home are counted there, and the owner's dirty data goes to memory. -/
theorem tokenArrival_home {s : State} {m : TokMsg} {v : Sector} (hsec : m.sec * 64 < 2 ^ 51) (hdst : m.dst = .home) (hdata : m.data = some v)
    (hser : m.ser = (s.home m.sec).ser) (hbad : m.bad = 0) (hactive : (s.home m.sec).active = none) (hcensus : (s.home m.sec).census = none)
    (hreq : (s.home m.sec).req = none) (hport : s.cxlPort m.sec = none) (hw : Terms.noWaiters s) :
    ∀ i ∈ [Instr.tokenArrival m, .writeBack m], ∃ t, exec i s = .next t ∧
      Terms.homeTo s t m.sec { s.home m.sec with tokn := (s.home m.sec).tokn + m.n, own := (s.home m.sec).own || m.own } ∧
      t.work = s.work ∧ t.timers = s.timers ∧ t.outs = s.outs ∧
      t.memSector m.sec = (if m.own && m.dirty then v else s.memSector m.sec) ∧
      ∀ a, a < 64 * m.sec ∨ 64 * m.sec + 64 ≤ a → Memory.byte t.mem a = Memory.byte s.mem a := by
  set u := if m.own && m.dirty then s.setMemSector m.sec v else s with hu
  set t := u.modHome m.sec fun h => { h with tokn := h.tokn + m.n, own := h.own || m.own } with ht
  have htake : s.homeTake m = t := homeTake_of_idle hdata hser hbad hactive hcensus hport
  have hurest : u = { s with mem := u.mem } := by
    rw [hu]
    split <;> rfl
  have htrest : t = { s with homes := t.homes, mem := t.mem } := by
    rw [ht, hurest]
    rfl
  have htw : Terms.noWaiters t := by
    rw [htrest]
    exact hw
  have hto := homeTo_of_homes (s := s) (t := t) (sec := m.sec) (fun h => { h with tokn := h.tokn + m.n, own := h.own || m.own })
    (by rw [htrest]) (by rw [ht, hurest]; rfl)
  have htreq : (t.home m.sec).req = none := by rw [hto.2.1]; exact hreq
  have hrise : t.homeRise m.sec t.homeTurns = t := homeRise_of_noWaiters htw htreq
  have hhere := homeHere_of_package hsec s
  have harrive : exec (.tokenArrival m) s = .next t := by
    rw [exec_tokenArrival, execTokenArrival, hdst]
    simp only [hhere, hcensus, Option.isSome_none, Bool.and_false, Bool.false_eq_true, if_false, if_true, htake, hrise]
  have hback : exec (.writeBack m) s = .next t := by
    have hevict : t.evictDone m = t := by
      unfold State.evictDone
      rw [allAccs_of_noWaiters htw]
      rfl
    rw [exec_writeBack, execWriteBack, hhere, htake]
    simp only [hevict, hrise, Bool.not_true, Bool.false_eq_true, if_false]
  have hmem : t.mem = u.mem := rfl
  intro i hi
  refine ⟨t, ?_, hto, by rw [htrest], by rw [htrest], by rw [htrest], ?_, fun a ha => ?_⟩
  · rcases List.mem_pair.mp hi with rfl | rfl
    · exact harrive
    · exact hback
  · show u.memSector m.sec = _
    rw [hu]
    split
    · exact memSector_setMemSector s m.sec v
    · rfl
  · rw [hmem, hu]
    split
    · exact byte_setMemSector_ne s hsec v ha
    · rfl

/-! ### Presses (R117 to R121) -/

section
variable {s : State} {d sec : Nat}

theorem filter_mset_length_le {α : Type _} {p : Nat × α → Bool} {k : Nat} {v : α} (hv : p (k, v) = false) (l : List (Nat × α)) :
    ((mset l k v).filter p).length ≤ (l.filter p).length := by
  induction l with
  | nil => simp [mset, hv]
  | cons x r ih =>
    obtain ⟨i, w⟩ := x
    unfold mset
    split
    · rw [List.filter_cons, hv, if_neg Bool.false_ne_true]
    · split
      · rw [List.filter_cons, hv, if_neg Bool.false_ne_true]
        exact (List.sublist_cons_self _ _).filter p |>.length_le
      · rw [List.filter_cons, List.filter_cons]
        split
        · exact Nat.succ_le_succ ih
        · exact ih

/-- A home at which no press is active takes no place among the active presses of its class. -/
theorem activeAt_modHome_le {f : HomeSector → HomeSector} (hactive : (f (s.home sec)).active = none) (hdeacting : (f (s.home sec)).deacting = false)
    (cls : Nat) : (s.modHome sec f).activeAt cls ≤ s.activeAt cls := by
  refine filter_mset_length_le ?_ s.homes
  dsimp only
  rw [hactive, hdeacting]
  exact Bool.and_false _

/-- A home at rest: no press is active, none is ending, and no census is held. -/
def HomeSector.resting (h : HomeSector) : Prop := h.active = none ∧ h.deacting = false ∧ h.census = none

theorem exec_pressRequest_package {m : PressReq} (hsec : m.sec * 64 < 2 ^ 51) (ht : m.t = s.sectorT m.sec) :
    exec (.pressRequest m) s = .next (s.pressAdd m) := by
  have hok : s.pressRefused m = none := by
    unfold State.pressRefused
    split
    · rfl
    · simp [State.homeRefuses, isFab_of_package hsec, ht]
  rw [exec_pressRequest, execPressRequest, homeHere_of_package hsec, hok]
  rfl

/-- R117, R119: a home at rest takes a press request into its next round, which it opens in a turn of its own (entry 25). -/
theorem pressRequest_queued {m : PressReq} (hsec : m.sec * 64 < 2 ^ 51) (hsrc : m.src = .l2 d) (ht : m.t = s.sectorT m.sec)
    (hrest : (s.home m.sec).resting) (hnew : ∀ y ∈ (s.home m.sec).pending ++ (s.home m.sec).round, y.src ≠ .l2 d) :
    ∃ t, exec (.pressRequest m) s = .next t ∧ Terms.homeTo s t m.sec { s.home m.sec with pending := (s.home m.sec).pending ++ [m] } ∧
      t.mem = s.mem ∧ t.outs = s.outs ∧ t.timers = s.timers ∧ t.work = s.work ++ [.pressAcknowledgement noAgent m.sec false] := by
  obtain ⟨hactive, hdeacting, hcensus⟩ := hrest
  have hpending : (s.home m.sec).pending.any (fun x => x.src == m.src) = false := List.any_eq_false.mpr fun y hy => by
    simpa [hsrc] using hnew y (List.mem_append_left _ hy)
  have hround : (s.home m.sec).round.any (fun x => x.src == m.src) = false := List.any_eq_false.mpr fun y hy => by
    simpa [hsrc] using hnew y (List.mem_append_right _ hy)
  set f : HomeSector → HomeSector := fun h =>
    if (h.pending.any fun x => x.src == m.src) then
      { h with pending := modWhere (fun x => x.src == m.src) (fun x => { x with write := x.write || m.write, ops := x.ops ++ m.ops }) h.pending }
    else if h.round.any fun x => x.src == m.src then
      { h with round := modWhere (fun x => x.src == m.src) (fun x => { x with write := x.write || m.write, ops := x.ops ++ m.ops }) h.round }
    else if m.src == .home then { h with pending := m :: h.pending, recalled := true }
    else { h with pending := h.pending ++ [m] } with hf
  have hqueued : f (s.home m.sec) = { s.home m.sec with pending := (s.home m.sec).pending ++ [m] } := by
    have hagent : (m.src == Holder.home) = false := by rw [hsrc]; rfl
    simp only [hf, hpending, hround, hagent, Bool.false_eq_true, if_false]
  have hhome : (s.modHome m.sec f).home m.sec = { s.home m.sec with pending := (s.home m.sec).pending ++ [m] } := by
    rw [State.home_modHome, if_pos rfl, hqueued]
  have hadd : s.pressAdd m = (s.modHome m.sec f).push [.pressAcknowledgement noAgent m.sec false] := by
    unfold State.pressAdd
    extract_lets both u h
    have hu : u = s.modHome m.sec f := rfl
    have hh : h = { s.home m.sec with pending := (s.home m.sec).pending ++ [m] } := hhome
    rw [hh, hactive, hdeacting, hcensus, hu]
    rfl
  have hto := homeTo_of_homes (s := s) (t := (s.modHome m.sec f).push [.pressAcknowledgement noAgent m.sec false]) (sec := m.sec) f rfl rfl
  rw [hqueued] at hto
  exact ⟨_, (exec_pressRequest_package hsec ht).trans (congrArg _ hadd), hto, rfl, rfl, rfl, rfl⟩

end

theorem mset_mset {α : Type _} (l : List (Nat × α)) (k : Nat) (v w : α) : mset (mset l k v) k w = mset l k w := by
  induction l with
  | nil => simp [mset]
  | cons x r ih =>
    obtain ⟨i, y⟩ := x
    unfold mset
    by_cases hlt : k < i
    · simp [hlt, mset]
    · by_cases heq : k = i
      · subst heq
        simp [mset]
      · simp [hlt, heq, mset, ih]

theorem modHome_modHome (s : State) (k : Nat) (f g : HomeSector → HomeSector) : (s.modHome k f).modHome k g = s.modHome k (g ∘ f) := by
  have hhome := s.home_modHome k k f
  rw [if_pos rfl] at hhome
  unfold State.modHome at hhome ⊢
  rw [hhome]
  dsimp only
  rw [mset_mset]
  rfl

/-- A home at which no press is active or ending goes on to the next. -/
theorem pressOn_of_noPress {s : State} {sec : Nat} (hactive : (s.home sec).active = none) (hdeacting : (s.home sec).deacting = false) :
    s.pressOn sec = s.pressNext sec := by
  have hend : s.pressEnd sec = s := by
    unfold State.pressEnd
    simp only [hactive]
  unfold State.pressOn
  simp only [hend, hactive, hdeacting, Option.isSome_none, Bool.false_eq_true, if_false, Bool.not_false, if_true]

/-- One whose press is active and not ending waits. -/
theorem pressOn_of_active {s : State} {sec : Nat} {m : PressReq} (hactive : (s.home sec).active = some m) (hdeacting : (s.home sec).deacting = false) :
    s.pressOn sec = s := by
  have hend : s.pressEnd sec = s := by
    unfold State.pressEnd
    simp only [hactive, hdeacting, Bool.false_and, Bool.false_eq_true, if_false]
  unfold State.pressOn
  simp only [hend, hactive, Option.isSome_some, if_true]

section
variable {s : State} {d sec : Nat} (hsec : sec * 64 < 2 ^ 51)
include hsec

/-- An activation, or its end, goes to every agent of the package (R118). -/
theorem pressAll_package (s : State) (on : Bool) (m : PressReq) :
    s.pressAll sec on m = s.push (Terms.dies8.map fun k => if on then .pressActivation k m else .pressClear k sec) := by
  unfold State.pressAll
  rw [reachable_of_package hsec, ← foldl_push]
  refine List.foldl_ext _ _ _ fun u k hk => ?_
  rw [agentDie_of_package hsec u (List.mem_range.mp hk)]

theorem exec_pressAcknowledgement_package (s : State) (a : Nat) (act : Bool) :
    exec (.pressAcknowledgement a sec act) s = .next ((s.modHome sec fun h =>
      if act then { h with acksDue := h.acksDue.erase a } else { h with deacks := h.deacks.erase a }).pressOn sec) := by
  rw [exec_pressAcknowledgement, execPressAcknowledgement, homeHere_of_package hsec]
  rfl

/-- The home's tokens go to an agent whose press is active (R118). -/
theorem pressServe_package {m : PressReq} (hd : d < 8) (hsrc : m.src = .l2 d) (hpage : s.hostPage sec = false) (hlost : (s.home sec).lost = false)
    (hport : s.cxlPort sec = none) (hcxl : (s.home sec).cxl = none) (htokn : (s.home sec).tokn ≠ 0) : s.pressServe sec m false =
      (s.modHome sec fun h => { h with tokn := 0, own := false }).push [.tokenArrival (s.homeTokens sec d)] := by
  rw [← homeGive_package hsec s hd htokn]
  unfold State.pressServe State.cxlOk State.biSnoop
  simp [hsrc, hpage, hlost, hport, hcxl]

end

/-- What a home keeps once the only request of its round has become active (R118). -/
def HomeSector.activated (now : Nat) (m : PressReq) (h : HomeSector) : HomeSector :=
  { h with pending := [], round := [], active := some m, activeAt := now, acksDue := Terms.dies8, deacting := false }

/-- A home at rest with one request pending opens a round of it and activates it (R118, R119). -/
theorem pressNext_of_pending {s : State} {sec : Nat} {m : PressReq} (hsec : sec * 64 < 2 ^ 51) (hrest : (s.home sec).resting)
    (hround : (s.home sec).round = []) (hpending : (s.home sec).pending = [m]) (hplace : s.pressPlace sec = true) (hqueue : s.pressQueue = []) :
    s.pressNext sec = ((((s.modHome sec (HomeSector.activated s.gtime m)).timer (s.gtime + s.tokrcTimeout.toNat) (.tokenRecreation sec)).pressAll
      sec true m).pressServe sec m false) := by
  obtain ⟨hactive, hdeacting, hcensus⟩ := hrest
  have hidle : ((s.home sec).active.isSome || (s.home sec).deacting || (s.home sec).census.isSome) = false := by
    rw [hactive, hdeacting, hcensus]
    rfl
  have hsame : ({ s with pressQueue := s.pressQueue.filter fun x => x != sec } : State) = s := by
    have hnil : (s.pressQueue.filter fun x => x != sec) = s.pressQueue := by rw [hqueue]; rfl
    rw [hnil]
  unfold State.pressNext
  dsimp only
  rw [hidle, if_neg Bool.false_ne_true, hround, hpending]
  simp only [List.isEmpty_nil, if_true, sortBy, List.foldl_cons, List.foldl_nil, insertBy, hplace, Bool.not_true, Bool.false_eq_true, if_false, hsame,
    reachable_of_package hsec]
  rfl

/-- What the home keeps once its tokens have gone to the agent of that request. -/
def HomeSector.served (now : Nat) (m : PressReq) (h : HomeSector) : HomeSector := { h.activated now m with tokn := 0, own := false }

/-- The tokens of the home go to the agent whose request has become active (R118). -/
theorem pressNext_serves {s : State} {d sec : Nat} {m : PressReq} (hsec : sec * 64 < 2 ^ 51) (hd : d < 8) (hsrc : m.src = .l2 d)
    (hrest : (s.home sec).resting) (hround : (s.home sec).round = []) (hpending : (s.home sec).pending = [m]) (hplace : s.pressPlace sec = true)
    (hqueue : s.pressQueue = []) (hpage : s.hostPage sec = false) (hlost : (s.home sec).lost = false) (hport : s.cxlPort sec = none)
    (hcxl : (s.home sec).cxl = none) (htokn : (s.home sec).tokn ≠ 0) : s.pressNext sec =
      ((s.modHome sec (HomeSector.served s.gtime m)).timer (s.gtime + s.tokrcTimeout.toNat) (.tokenRecreation sec)).push
        (Terms.dies8.map (fun k => Event.pressActivation k m) ++ [.tokenArrival (s.homeTokens sec d)]) := by
  set w := ((s.modHome sec (HomeSector.activated s.gtime m)).timer (s.gtime + s.tokrcTimeout.toNat) (.tokenRecreation sec)).push
    (Terms.dies8.map fun k => .pressActivation k m) with hw
  have hhome : w.home sec = (s.home sec).activated s.gtime m := (s.home_modHome sec sec _).trans (if_pos rfl)
  have htokens : w.homeTokens sec d = s.homeTokens sec d := by
    unfold State.homeTokens
    rw [hhome]
    rfl
  have hserve : w.pressServe sec m false = (w.modHome sec fun h => { h with tokn := 0, own := false }).push [.tokenArrival (w.homeTokens sec d)] := by
    refine pressServe_package hsec hd hsrc hpage ?_ hport ?_ ?_
    all_goals rw [hhome]
    · exact hlost
    · exact hcxl
    · exact htokn
  have htwice : w.modHome sec (fun h => { h with tokn := 0, own := false }) =
      ((s.modHome sec (HomeSector.served s.gtime m)).timer (s.gtime + s.tokrcTimeout.toNat) (.tokenRecreation sec)).push
        (Terms.dies8.map fun k => .pressActivation k m) := by
    have hboth := modHome_modHome s sec (HomeSector.activated s.gtime m) fun h => { h with tokn := 0, own := false }
    exact congrArg (fun u : State => (u.timer (s.gtime + s.tokrcTimeout.toNat) (.tokenRecreation sec)).push
      (Terms.dies8.map fun k => .pressActivation k m)) hboth
  rw [pressNext_of_pending hsec hrest hround hpending hplace hqueue, pressAll_package hsec, ← push_push, ← htwice, ← htokens]
  exact hserve

/-- R118, R119: a home at rest that has its turn activates the request that is pending at every agent, and passes its tokens on. -/
theorem pressAcknowledgement_opens {s : State} {d sec : Nat} {m : PressReq} (hsec : sec * 64 < 2 ^ 51) (hd : d < 8) (hsrc : m.src = .l2 d)
    (hrest : (s.home sec).resting) (hround : (s.home sec).round = []) (hpending : (s.home sec).pending = [m]) (hdeacks : noAgent ∉ (s.home sec).deacks)
    (hplace : s.activeAt (homeClass sec) < 8) (hqueue : s.pressQueue = []) (hpage : s.hostPage sec = false) (hlost : (s.home sec).lost = false)
    (hport : s.cxlPort sec = none) (hcxl : (s.home sec).cxl = none) (htokn : (s.home sec).tokn ≠ 0) :
    ∃ t, exec (.pressAcknowledgement noAgent sec false) s = .next t ∧
      Terms.homeTo s t sec
        { s.home sec with pending := [], active := some m, activeAt := s.gtime, acksDue := Terms.dies8, tokn := 0, own := false } ∧
      t.mem = s.mem ∧ t.outs = s.outs ∧ t.timers = s.timers ++ [(s.gtime + s.tokrcTimeout.toNat, .tokenRecreation sec)] ∧
      t.work = s.work ++ Terms.dies8.map (fun k => Event.pressActivation k m) ++ [.tokenArrival (s.homeTokens sec d)] := by
  set f : HomeSector → HomeSector := fun h => { h with deacks := h.deacks.erase noAgent } with hf
  set u := s.modHome sec f with hu
  have hsame : f (s.home sec) = s.home sec := by
    rw [hf]
    dsimp only
    rw [List.erase_of_not_mem hdeacks]
  have huhome : u.home sec = s.home sec := by rw [hu, State.home_modHome, if_pos rfl, hsame]
  have hurest : (u.home sec).resting := by rwa [huhome]
  have hplaced : u.pressPlace sec = true := by
    have hfree : u.activeAt (homeClass sec) < 8 :=
      lt_of_le_of_lt (activeAt_modHome_le (by rw [hsame, hrest.1]) (by rw [hsame, hrest.2.1]) _) hplace
    have hline : u.pressLine (homeClass sec) = [] := by
      unfold State.pressLine
      rw [show u.pressQueue = [] from hqueue]
      rfl
    unfold State.pressPlace
    simp [hfree, hline]
  have hnext := pressNext_serves (s := u) hsec hd hsrc hurest (by rw [huhome, hround]) (by rw [huhome, hpending]) hplaced hqueue hpage
    (by rw [huhome, hlost]) hport (by rw [huhome, hcxl]) (by rwa [huhome])
  have htokens : u.homeTokens sec d = s.homeTokens sec d := by
    unfold State.homeTokens
    rw [huhome]
    rfl
  rw [htokens] at hnext
  have hexec : exec (.pressAcknowledgement noAgent sec false) s = .next (u.pressOn sec) := exec_pressAcknowledgement_package hsec s noAgent false
  rw [pressOn_of_noPress hurest.1 hurest.2.1, hnext] at hexec
  refine ⟨_, hexec, ?_, rfl, rfl, rfl, (List.append_assoc ..).symm⟩
  have hhomes : (u.modHome sec (HomeSector.served s.gtime m)).homes = (s.modHome sec (HomeSector.served s.gtime m ∘ f)).homes :=
    congrArg State.homes (modHome_modHome s sec f (HomeSector.served s.gtime m))
  have hto := homeTo_of_homes (s := s) (sec := sec) (t := ((u.modHome sec (HomeSector.served u.gtime m)).timer (u.gtime + u.tokrcTimeout.toNat)
      (.tokenRecreation sec)).push (Terms.dies8.map (fun k => Event.pressActivation k m) ++ [.tokenArrival (s.homeTokens sec d)]))
    (HomeSector.served s.gtime m ∘ f) rfl hhomes
  have hfields : (HomeSector.served s.gtime m ∘ f) (s.home sec) =
      { s.home sec with pending := [], active := some m, activeAt := s.gtime, acksDue := Terms.dies8, tokn := 0, own := false } := by
    rw [Function.comp_apply, hsame, HomeSector.served, HomeSector.activated, ← hround, ← hrest.2.1]
  rwa [hfields] at hto

/-! ### What an agent does with an activation and its end (R118, R121) -/

theorem tokn_l2_takeAll (s : State) (d sec : Nat) (own : Bool) : ((s.takeL2 d sec (s.l2 d sec).tokn own).l2 d sec).tokn = 0 := by
  unfold State.takeL2
  rw [l2_setL2]
  simp

section
variable {d sec : Nat} (hsec : sec * 64 < 2 ^ 51)
include hsec

theorem allToks_package (s : State) (d : Nat) (dst : Holder) (grant : Bool) : s.allToks d sec dst grant = Terms.allOf s d sec dst grant := by
  unfold State.allToks
  rw [agentOf_of_package hsec]
  rfl

/-- A die whose predictor has taken an entry (R116). -/
def Die.train (sec : Nat) (e : Word) (x : Die) : Die := { x with pred := msetD x.pred (predKey sec) e 0 }

/-- An L2 passes all its tokens of a sector on to an agent, and keeps none (R118). -/
theorem giveAll_package (s : State) {a : Nat} (ha : a < 8) (htokn : (s.l2 d sec).tokn ≠ 0) :
    let t := s.giveAll d sec (.l2 a)
    t = { s with dies := t.dies, work := s.work ++ [.tokenArrival (Terms.allOf s d sec (.l2 a) false)] } ∧ (∀ k, k ≠ d → t.die k = s.die k) ∧
      t.pact d sec = s.pact d sec ∧ (t.l2 d sec).tokn = 0 := by
  set u := s.takeL2 d sec (s.l2 d sec).tokn true with hu
  have hsend : u.sendTok (Terms.allOf s d sec (.l2 a) false) = u.push [.tokenArrival (Terms.allOf s d sec (.l2 a) false)] :=
    sendTok_package _ (Terms.allOf s d sec (.l2 a) false) hsec fun _ hx => Holder.l2.inj hx ▸ ha
  have hgive : s.giveAll d sec (.l2 a) = (if (s.l2 d sec).own then (u.push [.tokenArrival (Terms.allOf s d sec (.l2 a) false)]).trainSent d sec a
      else u.push [.tokenArrival (Terms.allOf s d sec (.l2 a) false)]) := by
    unfold State.giveAll
    simp only [beq_iff_eq, htokn, if_false, allToks_package hsec, ← hu, hsend]
  have htrain : ∀ v : State, (v.trainSent d sec a = { v with dies := (v.trainSent d sec a).dies }) ∧
      (∀ k, k ≠ d → (v.trainSent d sec a).die k = v.die k) ∧ (v.trainSent d sec a).pact d sec = v.pact d sec ∧ (v.trainSent d sec a).l2 d sec = v.l2 d sec := fun v =>
    ⟨rfl, fun k hk => die_modDie_ne v _ hk, pact_modDie_of_pact v d (f := Die.train _ _) (fun _ => rfl) d sec,
      l2_modDie_of_l2 v d (f := Die.train _ _) (fun _ => rfl) d sec⟩
  have hzero : (u.l2 d sec).tokn = 0 := tokn_l2_takeAll s d sec true
  have hothers : ∀ k, k ≠ d → u.die k = s.die k := fun k hk => die_setL2_ne s sec _ hk
  have hpact : u.pact d sec = s.pact d sec := pact_setL2 s d sec _ d sec
  intro t
  rw [show t = _ from hgive]
  split
  · obtain ⟨hrest, hdie, hp, hl⟩ := htrain (u.push [.tokenArrival (Terms.allOf s d sec (.l2 a) false)])
    exact ⟨hrest, fun k hk => (hdie k hk).trans (hothers k hk), hp.trans hpact, hl.symm ▸ hzero⟩
  · exact ⟨rfl, hothers, hpact, hzero⟩

theorem pressAck_package (s : State) (a : Nat) (act : Bool) : s.pressAck a sec act = s.push [.pressAcknowledgement a sec act] :=
  if_pos (homeHere_of_package hsec s)

/-- A die that has recorded an activation. -/
def Die.recordPress (m : PressReq) (x : Die) : Die := { x with pact := x.pact ++ [m] }

/-- R118: an agent records an activation for another agent, passes its tokens on and acknowledges. -/
theorem pressActivation_other {s : State} {a : Nat} (hd : d < 8) (ha : a < 8) (hne : a ≠ d) (w : Bool) (tt : Nat) (hpact : s.pact d sec = none)
    (htokn : (s.l2 d sec).tokn ≠ 0) (hw : Terms.noWaiters s) :
    ∃ t, exec (.pressActivation d ⟨sec, .l2 a, w, tt, []⟩) s = .next t ∧ t = { s with dies := t.dies, work := t.work } ∧
      t.pact d sec = some (.l2 a) ∧ (t.l2 d sec).tokn = 0 ∧ (∀ k, k ≠ d → t.die k = s.die k) ∧
      t.work = s.work ++ [.tokenArrival (Terms.allOf s d sec (.l2 a) false), .pressAcknowledgement d sec true] := by
  set m : PressReq := ⟨sec, .l2 a, w, tt, []⟩ with hm
  set u := s.modDie d (Die.recordPress m) with hu
  have hexec : exec (.pressActivation d m) s = .next (s.pressRecord d d m) := by
    rw [exec_pressActivation, execPressActivation]
    simp only [hm, agentDie_of_package hsec s hd, isFab_of_package hsec, Bool.false_and, Bool.false_eq_true, if_false]
  have hl2 : u.l2 d sec = s.l2 d sec := l2_modDie_of_l2 s d (f := Die.recordPress m) (fun _ => rfl) d sec
  have hall : Terms.allOf u d sec (.l2 a) false = Terms.allOf s d sec (.l2 a) false := by
    unfold Terms.allOf
    rw [hl2]
  have hrecord : s.pressRecord d d m = (u.giveAll d sec (.l2 a)).push [.pressAcknowledgement d sec true] := by
    have hsrc : (Holder.l2 a == Holder.l2 d) = false := beq_false_of_ne fun h => hne (Holder.l2.inj h)
    have hhome : (Holder.l2 a == Holder.home) = false := rfl
    have hsrc' : (Holder.l2 a != Holder.l2 d) = true := by rw [bne, hsrc]; rfl
    have hwait := performWaiting_of_noWaiters (s := u) hw d sec
    unfold State.pressRecord
    simp only [hm, hsrc, hhome, hsrc', Bool.or_self, Bool.false_and, Bool.false_eq_true, if_false, if_true, pressAck_package hsec]
    exact congrArg (fun v : State => (v.giveAll d sec (.l2 a)).push [.pressAcknowledgement d sec true]) hwait
  obtain ⟨hrest, hdie, hp, hl⟩ := giveAll_package hsec u ha (hl2.symm ▸ htokn)
  have hupact : u.pact d sec = some (.l2 a) := by
    have hnone : (s.die d).pact.find? (fun x => x.sec == sec) = none := by
      rw [State.pact, Option.map_eq_none_iff] at hpact
      exact hpact
    unfold State.pact
    rw [hu, State.die_modDie, if_pos rfl, Die.recordPress]
    simp [List.find?_append, hnone, hm]
  have hwork : (u.giveAll d sec (.l2 a)).work = s.work ++ [.tokenArrival (Terms.allOf s d sec (.l2 a) false)] := by
    rw [hrest, hall]
    rfl
  refine ⟨_, hexec.trans (congrArg _ hrecord), ?_, hp.trans hupact, hl, fun k hk => (hdie k hk).trans (die_modDie_ne s _ hk), ?_⟩
  · rw [hrest]
    rfl
  · exact (congrArg (· ++ _) hwork).trans (List.append_assoc ..)

/-- A die that has cleared its press entries of a sector. -/
def Die.clearPress (sec : Nat) (x : Die) : Die := { x with pact := x.pact.filter fun y => y.sec != sec }

/-- R118 step 5: the end of a press reaches an agent, which clears its entry and acknowledges. -/
theorem pressClear_cleared {s : State} (hd : d < 8) (hheld : (s.die d).heldActs = []) (hmine : ∀ m ∈ (s.die d).pact, m.sec = sec → m.src ≠ .l2 d) :
    ∃ t, exec (.pressClear d sec) s = .next t ∧ t.pact d sec = none ∧ (∀ k, k ≠ d → t.die k = s.die k) ∧
      t = { s with dies := t.dies, work := s.work ++ [.pressAcknowledgement d sec false] } := by
  have hnone : ((s.die d).pact.filter fun m => m.sec == sec && m.src == .l2 d) = [] := List.filter_eq_nil_iff.mpr fun m hm => by
    simpa using hmine m hm
  set u := s.modDie d (Die.clearPress sec) with hu
  have huheld : (u.die d).heldActs = [] := by rw [hu, State.die_modDie, if_pos rfl]; exact hheld
  have hdrop : s.pressDrop d d sec = u := by
    unfold State.pressDrop State.takeHeld
    simp only [hnone, List.foldl_nil]
    exact congrArg (List.foldl _ u) huheld
  have hexec : exec (.pressClear d sec) s = .next (u.push [.pressAcknowledgement d sec false]) := by
    rw [exec_pressClear, execPressClear]
    simp only [agentDie_of_package hsec s hd, hdrop, pressAck_package hsec]
  refine ⟨_, hexec, ?_, fun k hk => die_modDie_ne s (Die.clearPress sec) hk, rfl⟩
  have hpact : (u.die d).pact.find? (fun x => x.sec == sec) = none := by
    rw [hu, State.die_modDie, if_pos rfl, List.find?_eq_none]
    intro x hx
    simpa using (List.mem_filter.mp hx).2
  show ((u.die d).pact.find? fun x => x.sec == sec).map (·.src) = none
  rw [hpact]
  rfl

/-! ### The end of an activation at its home (R118) -/

/-- What a home keeps of a press whose end it has sent to every agent. -/
def HomeSector.ended (m : PressReq) (h : HomeSector) : HomeSector :=
  { h with active := none, deacks := Terms.dies8, deacting := true, recalled := h.recalled && m.src != .home }

/-- R118 step 5: the requester ends its press, and its home sends the end to every agent. -/
theorem pressDeactivation_ends {s : State} {m : PressReq} (hactive : (s.home sec).active = some m) (hacks : (s.home sec).acksDue = []) :
    ∃ t, exec (.pressDeactivation sec m.src) s = .next t ∧
      Terms.homeTo s t sec { s.home sec with active := none, deacting := true, deacks := Terms.dies8,
                                             recalled := (s.home sec).recalled && m.src != .home } ∧
      t.mem = s.mem ∧ t.outs = s.outs ∧ t.timers = s.timers ∧ t.work = s.work ++ Terms.dies8.map fun k => Event.pressClear k sec := by
  set u := s.modHome sec fun h => { h with deacting := true } with hu
  set v := (s.modHome sec (HomeSector.ended m)).push (Terms.dies8.map fun k => Event.pressClear k sec) with hv
  have huhome : u.home sec = { s.home sec with deacting := true } := (s.home_modHome sec sec _).trans (if_pos rfl)
  have hvhome : v.home sec = (s.home sec).ended m := (s.home_modHome sec sec _).trans (if_pos rfl)
  have hend : u.pressEnd sec = v := by
    unfold State.pressEnd
    simp only [huhome, hactive, hacks, List.isEmpty_nil, Bool.and_self, if_true, reachable_of_package hsec]
    rw [hu, modHome_modHome, pressAll_package hsec]
    rfl
  have hexec : exec (.pressDeactivation sec m.src) s = .next v := by
    have hon : u.pressOn sec = v := by
      unfold State.pressOn
      simp only [hend, hvhome]
      rfl
    rw [exec_pressDeactivation, execPressDeactivation, homeHere_of_package hsec, hactive]
    simp only [Bool.not_true, Bool.false_eq_true, if_false, beq_self_eq_true, if_true, ← hu, hon]
  exact ⟨v, hexec, homeTo_of_homes (s := s) (t := v) (HomeSector.ended m) rfl rfl, rfl, rfl, rfl, rfl⟩

/-- R118: an acknowledgement of an activation is counted while the press is not ending. -/
theorem pressAcknowledgement_counted {s : State} (hdeacting : (s.home sec).deacting = false) (hactive : (s.home sec).active ≠ none) (d : Nat) :
    ∃ t, exec (.pressAcknowledgement d sec true) s = .next t ∧ Terms.homeTo s t sec { s.home sec with acksDue := (s.home sec).acksDue.erase d } ∧
      t.work = s.work ∧ t.timers = s.timers ∧ t.mem = s.mem ∧ t.outs = s.outs := by
  obtain ⟨m, hm⟩ := Option.ne_none_iff_exists'.mp hactive
  set u := s.modHome sec fun h => { h with acksDue := h.acksDue.erase d } with hu
  have hhome : u.home sec = { s.home sec with acksDue := (s.home sec).acksDue.erase d } := (s.home_modHome sec sec _).trans (if_pos rfl)
  have hon : u.pressOn sec = u := pressOn_of_active (by rw [hhome]; exact hm) (by rw [hhome]; exact hdeacting)
  have hexec : exec (.pressAcknowledgement d sec true) s = .next (u.pressOn sec) := exec_pressAcknowledgement_package hsec s d true
  exact ⟨u, hexec.trans (congrArg _ hon), homeTo_of_homes (s := s) (t := u) (fun h => { h with acksDue := h.acksDue.erase d }) rfl rfl, rfl, rfl, rfl, rfl⟩

/-! ### The census (R453) -/

theorem sendCensus_package (s : State) (ser : BitVec 8) : s.sendCensus sec ser Terms.dies8 = s.push (Terms.dies8.map fun k => .census k sec ser) := by
  unfold State.sendCensus
  rw [← foldl_push]
  refine List.foldl_ext _ _ _ fun u k hk => ?_
  rw [agentDie_of_package hsec u (List.mem_range.mp hk)]

/-- R453: a press that has not ended in time begins a census of all agents, which is sent again after 2 µs (entry 11). -/
theorem tokenRecreation_begins {s : State} {m : PressReq} (hcensus : (s.home sec).census = none) (hactive : (s.home sec).active = some m)
    (htime : (s.home sec).activeAt + s.tokrcTimeout.toNat ≤ s.gtime) (hlast : (s.home sec).lastCensus = none) :
    ∃ t, exec (.tokenRecreation sec) s = .next t ∧
      Terms.homeTo s t sec { s.home sec with census := some ((s.home sec).ser + 1, Terms.dies8), lastCensus := some s.gtime } ∧
      t.mem = s.mem ∧ t.outs = s.outs ∧ t.timers = s.timers ++ [(s.gtime + 2000, .tokenRecreation sec)] ∧
      t.work = s.work ++ Terms.dies8.map fun k => Event.census k sec ((s.home sec).ser + 1) := by
  set f : HomeSector → HomeSector := fun h => { h with census := some ((s.home sec).ser + 1, Terms.dies8), lastCensus := some s.gtime } with hf
  have hexec : exec (.tokenRecreation sec) s = .next (((s.modHome sec f).push
      (Terms.dies8.map fun k => .census k sec ((s.home sec).ser + 1))).timer (s.gtime + 2000) (.tokenRecreation sec)) := by
    rw [exec_tokenRecreation, execTokenRecreation, ← sendCensus_package hsec]
    have hlate : ¬ s.gtime < (s.home sec).activeAt + s.tokrcTimeout.toNat := Nat.not_lt.mpr htime
    simp only [hcensus, homeHere_of_package hsec, hactive, hlate, hlast, reachable_of_package hsec]
    rfl
  exact ⟨_, hexec, homeTo_of_homes (s := s) (t := ((s.modHome sec f).push (Terms.dies8.map fun k => .census k sec ((s.home sec).ser + 1))).timer
    (s.gtime + 2000) (.tokenRecreation sec)) f rfl rfl, rfl, rfl, rfl, rfl⟩

/-- What a die keeps when it has answered a census of a sector. -/
def Die.counted (sec : Nat) (ser : BitVec 8) (y : Die) : Die :=
  { y with pact := y.pact.filter fun z => z.sec != sec, heldActs := y.heldActs.filter fun z => z.sec != sec, serials := mset y.serials sec ser }

/-- R453: an agent answers a census with all its tokens, and clears what it keeps of the sector. -/
theorem census_answered {s : State} (hd : d < 8) (ser : BitVec 8) (htokn : (s.l2 d sec).tokn ≠ 0) (hheld : (s.die d).heldActs = []) :
    ∃ t, exec (.census d sec ser) s = .next t ∧ t = { s with dies := t.dies, work := t.work } ∧ (t.l2 d sec).tokn = 0 ∧
      t.pact d sec = none ∧ mget (t.die d).serials sec = some ser ∧ (∀ k, k ≠ d → t.die k = s.die k) ∧
      t.work = s.work ++ [.tokenArrival (Terms.allOf s d sec .home true)] := by
  set u := (s.setL2 d sec {}).modDie d (Die.counted sec ser) with hu
  have hudie : u.die d = ((s.setL2 d sec {}).die d).counted sec ser := (State.die_modDie ..).trans (if_pos rfl)
  have huheld : (u.die d).heldActs = [] := by
    rw [hudie, State.setL2, State.die_modDie, if_pos rfl, Die.counted]
    simp only [hheld, List.filter_nil]
  have hexec : exec (.census d sec ser) s = .next (u.push [.tokenArrival (Terms.allOf s d sec .home true)]) := by
    have hsend : u.sendTok (Terms.allOf s d sec .home true) = u.push [.tokenArrival (Terms.allOf s d sec .home true)] :=
      sendTok_package u (Terms.allOf s d sec .home true) hsec fun _ hx => nomatch hx
    have hkeep : (u.push [.tokenArrival (Terms.allOf s d sec .home true)]).takeHeld d = u.push [.tokenArrival (Terms.allOf s d sec .home true)] := by
      unfold State.takeHeld
      rw [show ((u.push [.tokenArrival (Terms.allOf s d sec .home true)]).die d).heldActs = [] from huheld]
      rfl
    have hser : ({ s.allToks d sec .home true with ser := if (s.l2 d sec).tokn == 0 then ser - 1 else (s.l2 d sec).ser } : TokMsg) =
        Terms.allOf s d sec .home true := by
      rw [allToks_package hsec, if_neg (by simpa using htokn)]
      rfl
    rw [exec_census, execCensus, agentDie_of_package hsec s hd]
    dsimp only
    rw [hser]
    exact congrArg _ ((congrArg (State.takeHeld · d) hsend).trans hkeep)
  refine ⟨_, hexec, rfl, ?_, ?_, ?_, fun k hk => (die_modDie_ne _ _ hk).trans (die_setL2_ne s sec _ hk), rfl⟩
  · show (u.l2 d sec).tokn = 0
    rw [hu, l2_modDie_of_l2 _ _ (f := Die.counted sec ser) fun _ => rfl, l2_setL2, if_pos ⟨rfl, rfl⟩, if_pos rfl]
  · show ((u.die d).pact.find? fun x => x.sec == sec).map (·.src) = none
    rw [hudie, Option.map_eq_none_iff, List.find?_eq_none]
    intro x hx
    simpa using (List.mem_filter.mp hx).2
  · show mget (u.die d).serials sec = some ser
    rw [hudie, Die.counted, mget_mset, if_pos rfl]

end

/-- Settles O58: R111 to R123, R453, with the turn in which a home at rest opens its round (entry 25) and the census that is sent again
after 2 µs (entry 11). -/
theorem coherenceSteps : Obligations.CoherenceSteps := by
  intro s d sec hd hsec x h free
  refine ⟨fun a ha hne hpend hpact hown htwo ht => transientRequest_read hsec hd ha hne hpend hpact hown htwo ht,
    fun hactive hreq hpage hlost htokn hport hcxl => transientRequest_home hsec hd hactive hreq hpage hlost htokn hport hcxl,
    fun r a hreqs hr hpressed htime hasids => transientTimeout_request hsec hd hreqs hr hpressed htime hasids, ?_, ?_, ?_, ?_,
    fun a w tt ha hne hpact htokn hw => pressActivation_other hsec hd ha hne w tt hpact htokn hw,
    fun m hactive hacks => pressDeactivation_ends hsec hactive hacks, fun hheld hmine => pressClear_cleared hsec hd hheld hmine,
    fun hdeacting hactive => pressAcknowledgement_counted hsec hdeacting hactive d,
    fun m hcensus hactive htime hlast => tokenRecreation_begins hsec hcensus hactive htime hlast,
    fun ser htokn hheld => census_answered hsec hd ser htokn hheld⟩
  case refine_1 =>
    rintro m rfl hdst hn hserial hreqs hpact hroom hw
    obtain ⟨t, hexec, hrest, hdies, hsecs, hl2⟩ := tokenArrival_l2 hsec hd hdst hw hn hserial hreqs hpact hroom
    refine ⟨t, hexec, hrest, hdies, hsecs, hl2.trans ?_⟩
    simp only [L2Sector.take, beq_iff_eq]
    rfl
  case refine_2 =>
    rintro m v rfl hdst hdata hser hbad hactive hcensus hreq hport hw
    exact tokenArrival_home hsec hdst hdata hser hbad hactive hcensus hreq hport hw
  case refine_3 =>
    rintro m rfl hsrc ht hrest hnew
    exact pressRequest_queued hsec hsrc ht hrest hnew
  case refine_4 =>
    rintro m rfl hsrc hrest hround hpending hdeacks hplace hqueue hpage hlost hport hcxl htokn
    exact pressAcknowledgement_opens hsec hd hsrc hrest hround hpending hdeacks hplace hqueue hpage hlost hport hcxl htokn

end Sys2Proof.Machine

namespace Sys2Proof.Machine

/-! ## Packets, hosts and notices that reach the device (R126 to R153, R191 to R201, R439, R447, R458) -/

/-! ### Markers (R126, R304) -/

theorem with_markersIn_eq (s : State) {l : List MarkerIn} (h : l = s.markersIn) : { s with markersIn := l } = s := by
  subst h
  rfl

/-- A marker that waits for copies is not answered. -/
theorem markersGo_of_waiting {s : State} (h : ∀ m ∈ s.markersIn, m.got ≠ m.copies) : s.markersGo = s := by
  have hnone : (s.markersIn.filter fun m => m.got == m.copies && m.jobs.isEmpty) = [] := List.filter_eq_nil_iff.mpr fun m hm => by simp [h m hm]
  have hall : (s.markersIn.filter fun m => !(m.got == m.copies && m.jobs.isEmpty)) = s.markersIn := List.filter_eq_self.mpr fun m hm => by simp [h m hm]
  unfold State.markersGo
  simp only [hnone, List.foldl_nil]
  exact with_markersIn_eq s hall

/-- What the home keeps of the first copy of a marker. -/
def firstCopy (m : Marker) : MarkerIn := { id := m.id, src := m.src, copies := m.copies, got := 1 }

theorem exec_markerCopy_first {s : State} (hin : s.markersIn = []) (hjobs : s.vecJobs = []) (m : Marker) :
    exec (.markerCopy m) s = .next ({ s with markersIn := [firstCopy m] } : State).markersGo := by
  rw [exec_markerCopy, execMarkerCopy]
  simp only [hin, hjobs, List.find?_nil, Option.getD_none, List.filter_nil, List.map_nil, ite_self, List.nil_append]
  rfl

/-- R126: the only copy of a marker is answered. -/
theorem markerCopy_last {s : State} (hin : s.markersIn = []) (hjobs : s.vecJobs = []) {m : Marker} (hone : m.copies = 1) :
    exec (.markerCopy m) s = .next { s with outs := s.outs ++ [.markerDone m.src m.id] } := by
  have hgo : ({ s with markersIn := [firstCopy m] } : State).markersGo = s.send (.markerDone m.src m.id) := by
    unfold State.markersGo
    simp only [firstCopy, hone, beq_self_eq_true, List.isEmpty_nil, Bool.and_self, List.filter_cons_of_pos, List.filter_nil, Bool.not_true,
      List.foldl_cons, List.foldl_nil, Bool.false_eq_true, not_false_eq_true, List.filter_cons_of_neg]
    exact congrArg (State.send · _) (with_markersIn_eq s hin.symm)
  rw [exec_markerCopy_first hin hjobs, hgo]
  rfl

/-- R126: the first of several copies waits for the others. -/
theorem markerCopy_first {s : State} (hin : s.markersIn = []) (hjobs : s.vecJobs = []) {m : Marker} (hmore : 1 < m.copies) :
    exec (.markerCopy m) s = .next { s with markersIn := [firstCopy m] } := by
  rw [exec_markerCopy_first hin hjobs]
  refine congrArg _ (markersGo_of_waiting fun x hx => ?_)
  obtain rfl := List.mem_singleton.mp hx
  exact Nat.ne_of_lt hmore

/-- R126, R111: an answer to a marker on the home's own behalf lets what waits at the home go on. -/
theorem markerCompletion_home {s : State} {m : MarkerOut} (hout : s.markersOut = [m]) (hacc : m.acc = 0) :
    exec (.markerCompletion m.id m.dev) s = .next { s with markersOut := [], work := s.work ++ s.homeOps.map Event.accessCompletion } := by
  rw [exec_markerCompletion, execMarkerCompletion, hout]
  simp only [beq_self_eq_true, Bool.and_self, List.find?_cons_of_pos, hacc, if_true, Bool.true_or, List.erase_cons_head]
  rfl

/-! ### Kick notices (R147, R363, R426) -/

section
variable {s : State} {n : Notice} {x : Block} (htdev : n.tdev = s.devNum) (hsdev : n.sdev = s.devNum) (hlen : noticeLenOk n = true)
  (hblock : s.dstBlock n = some x)
include htdev hsdev hlen hblock

theorem exec_kickNoticeArrival_local : exec (.kickNoticeArrival n) s = .next (if 32 ≤ (s.core x.core).kicks.length then s.kickAgain n
    else (s.modCore x.core fun c => { c with kicks := c.kicks ++ [n] }).push [.copyEnginePull x.core]) := by
  have hsame : (n.sdev == s.devNum) = true := beq_iff_eq.mpr hsdev
  have hunpack : s.unpackKick n = s := if_pos hsame
  have hallowed : s.kickAllowed n = true := by rw [State.kickAllowed, hsame, Bool.true_or]
  have hdev : (n.tdev != s.devNum) = false := by rw [htdev, bne_self_eq_false]
  rw [exec_kickNoticeArrival, execKickNoticeArrival]
  rw [hunpack, hdev, hsame, if_neg Bool.false_ne_true, if_pos rfl]
  dsimp only
  rw [State.kickEnter, hallowed, hlen, hblock, hsame]
  simp only [Bool.not_true, Bool.false_eq_true, if_false, if_true]

/-- R147, R363: a notice from this device joins the queue of its core, which has room for 32. -/
theorem kickNoticeArrival_queued (hroom : (s.core x.core).kicks.length < 32) : ∃ t, exec (.kickNoticeArrival n) s = .next t ∧
    (t.core x.core).kicks = (s.core x.core).kicks ++ [n] ∧ t = { s with cores := t.cores, work := s.work ++ [.copyEnginePull x.core] } := by
  refine ⟨_, (exec_kickNoticeArrival_local htdev hsdev hlen hblock).trans (congrArg _ (if_neg (Nat.not_le.mpr hroom))), ?_, rfl⟩
  have hcore := (s.core_modCore x.core x.core fun c => { c with kicks := c.kicks ++ [n] }).trans (if_pos rfl)
  exact congrArg Core.kicks hcore

/-- R147: with a full queue it is tried again after 1 µs. -/
theorem kickNoticeArrival_retried (hfull : 32 ≤ (s.core x.core).kicks.length) :
    exec (.kickNoticeArrival n) s = .next { s with timers := s.timers ++ [(s.gtime + 1000, .kickRetry n)] } := by
  rw [exec_kickNoticeArrival_local htdev hsdev hlen hblock, if_pos hfull, State.kickAgain, if_pos (beq_iff_eq.mpr hsdev)]
  rfl

end

theorem kickRetry_local {s : State} {n : Notice} (htdev : n.tdev = s.devNum) :
    exec (.kickRetry n) s = .next { s with work := s.work ++ [.kickNoticeArrival n] } := by
  rw [exec_kickRetry, execKickRetry, if_pos (beq_iff_eq.mpr htdev)]
  rfl

/-! ### Interrupts from peers and hosts (R191 to R194, R353) -/

section
variable {s : State} {target i mask : Nat} {v : BitVec 6} (p : DWord) (huse : s.inUse target = true) (hbase : s.uiBase target ≠ 0)
  (hmask : mask.testBit v.toNat = true)
include huse hbase hmask

theorem uiSend_permitted {who : Sender} (hentry : s.uiEntry target who = some (i, mask)) :
    s.uiSend target v.toNat p who = .inl (s.uiApply target v.toNat p i) := by
  unfold State.uiSend
  rw [huse, beq_false_of_ne hbase, hentry]
  exact if_pos hmask

theorem peerSend_permitted {dev asid : Nat} (hentry : s.uiEntry target (.peer dev asid) = some (i, mask)) :
    ∃ t, exec (.peerSend dev asid target v p) s = .next t ∧
      t = { s.uiApply target v.toNat p i with outs := (s.uiApply target v.toNat p i).outs ++ [.kickAck dev 0] } := by
  refine ⟨_, ?_, rfl⟩
  rw [exec_peerSend, execPeerSend, uiSend_permitted p huse hbase hmask hentry]
  rfl

theorem hostUiSend_permitted {port : Nat} {pasid : BitVec 20} {x : BitVec 128} (hentry : s.uiEntry target (.host port pasid.toNat) = some (i, mask))
    (htarget : (x.extractLsb' 64 12).toNat = target) (hvector : x.extractLsb' 80 6 = v) (hpay : x.extractLsb' 0 64 = p) :
    exec (.hostUiSend port pasid x) s = .next (s.uiApply target v.toNat p i) := by
  subst htarget hvector hpay
  rw [exec_hostUiSend, execHostUiSend]
  rw [uiSend_permitted _ huse hbase hmask hentry]

end

/-! ### The end of a host system call (R200, R201) -/

theorem scAsk_lane {s : State} {r : ScRec} {l : Nat × Nat × List DWord} (hsc : s.sc = [r]) (hlanes : r.lanes = [l]) (ring : Nat × Nat × Nat) :
    s.scAsk r ring = { s with
      sc := [{ r with ended := true }]
      outs := s.outs ++ [.hostRead ring.2.2 s.freeTag (ring.1 + 2048 * r.slot + 1792 + 8 * l.1) 8]
      timers := s.timers ++ [(s.gtime + 50000000, .hostCompletionTimeout s.freeTag)]
      hostReqs := s.hostReqs ++ [{ tag := s.freeTag, acc := 0, lane := l.1, port := ring.2.2, addr := ring.1 + 2048 * r.slot + 1792 + 8 * l.1,
                                   atomic := false, time := s.gtime, sc := some r.id }] } := by
  unfold State.scAsk
  simp only [hsc, hlanes, modWhere, List.map_cons, List.map_nil, beq_self_eq_true, if_true, List.foldl_cons, List.foldl_nil]
  rfl

/-- R201: a host that ends a system call is asked for the result of its lane. -/
theorem hostSyscallEnd_asks {s : State} {port : Nat} {pasid : BitVec 20} {x : BitVec 128} {r : ScRec} {l : Nat × Nat × List DWord} (hsc : s.sc = [r])
    (huse : s.inUse r.asid = true) (hport : (s.scRing r.asid true).2.2 = port)
    (hentry : (s.uiEntry r.asid (.host port pasid.toNat)).isSome = true) (hhost : r.host = true) (hposted : r.posted = true)
    (hended : r.ended = false) (hlanes : r.lanes = [l]) (hslot : (x.extractLsb' 0 16).toNat = r.slot)
    (hasid : (x.extractLsb' 64 12).toNat = r.asid) (hroom : s.hostRoom port 1 = true) :
    exec (.hostSyscallEnd port pasid x) s = .next (s.scAsk r (s.scRing r.asid true)) := by
  rw [exec_hostSyscallEnd, execHostSyscallEnd]
  rw [hslot, hasid, huse, hport, hentry, hsc]
  simp only [beq_self_eq_true, Bool.and_self, if_true, hhost, hposted, hended, Bool.not_false, List.find?_cons_of_pos, hlanes, List.length_singleton, hroom]

/-! ### What hosts do to memory of the device (R128, R130, R149, R153) -/

theorem cxlPort_lt {s : State} {port sec : Nat} (h : s.cxlPort sec = some port) : sec * 64 < 2 ^ 51 := by
  have hclass : paClass (sec * 64) = some .host := by
    unfold State.cxlPort at h
    split at h
    · next hc => exact beq_iff_eq.mp hc
    · exact nomatch h
  unfold paClass at hclass
  split at hclass
  · exact nomatch hclass
  split at hclass
  · exact nomatch hclass
  split at hclass
  · next hlt =>
    simp only [Bool.and_eq_true, decide_eq_true_eq] at hlt
    omega
  split at hclass <;> exact nomatch hclass

section
variable {s : State} {port sec : Nat}

/-- What the device tells a host that snoops a line that it has modified. -/
def State.snoopData (s : State) (port sec : Nat) : List OutMsg :=
  if (s.home sec).cxl = some .modified then [.cxl port sec 2 (some (s.memSector sec))] else []

/-- R128: a snoop of a sector whose tokens are all home is answered, a modified line with its data (entry 25: Shared after SnpData). -/
theorem exec_hostSnoop_home (hport : s.cxlPort sec = some port) (hall : s.allHome sec = true) {kind : Snoop} {code : Nat}
    {f : HomeSector → HomeSector} (hkind : (kind, code, f) ∈ [(Snoop.inv, 5, fun h : HomeSector => { h with cxl := none }),
      (.data, 6, fun h => { h with cxl := h.cxl.map fun _ => .shared })]) :
    exec (.hostSnoop port sec kind) s = .next ((({ s with outs := s.outs ++ s.snoopData port sec } : State).modHome sec f).send (.cxl port sec code none)) := by
  have hevict : (if (s.home sec).cxl == some .modified then s.send (.cxl port sec 2 (some (s.memSector sec))) else s) =
      ({ s with outs := s.outs ++ s.snoopData port sec } : State) := by
    unfold State.snoopData
    by_cases hm : (s.home sec).cxl = some .modified
    · rw [if_pos hm, if_pos (beq_iff_eq.mpr hm)]
      rfl
    · rw [if_neg hm, if_neg (by simpa using hm), List.append_nil]
  rw [exec_hostSnoop, execHostSnoop, hport, hall]
  simp only [bne_self_eq_false, Bool.false_eq_true, if_false, Bool.not_true, hevict]
  rcases List.mem_pair.mp hkind with h | h <;> obtain ⟨rfl, rfl, rfl⟩ := h <;> rfl

theorem hostSnoop_answered (hport : s.cxlPort sec = some port) (hall : s.allHome sec = true) {kind : Snoop} {code : Nat}
    {f : HomeSector → HomeSector} (hkind : (kind, code, f) ∈ [(Snoop.inv, 5, fun h : HomeSector => { h with cxl := none }),
      (.data, 6, fun h => { h with cxl := h.cxl.map fun _ => .shared })]) :
    ∃ t, exec (.hostSnoop port sec kind) s = .next t ∧
      t = { s with homes := t.homes, outs := s.outs ++ s.snoopData port sec ++ [.cxl port sec code none] } ∧ t.home sec = f (s.home sec) ∧
      ∀ y, y ≠ sec → t.home y = s.home y := by
  refine ⟨_, exec_hostSnoop_home hport hall hkind, rfl, ?_, fun y hy => ?_⟩
  · exact (State.home_modHome ..).trans (if_pos rfl)
  · exact (State.home_modHome ..).trans (if_neg hy)

/-- R128: the host's answer gives the home the line in its new state, with its data. -/
theorem goDataResponse_granted (hport : s.cxlPort sec = some port) (hactive : (s.home sec).active = none)
    (hreqs : ∀ d < 8, ∀ r ∈ (s.die d).reqs, r.sec ≠ sec) (st : CxlState) (data : Option Sector) :
    ∃ t, exec (.goDataResponse port sec st data) s = .next t ∧
      t = { s with homes := t.homes, mem := t.mem, work := s.work ++ s.homeTurns } ∧
      t.home sec = { s.home sec with cxl := some st } ∧ t.memSector sec = data.getD (s.memSector sec) ∧
      ∀ a, a < 64 * sec ∨ 64 * sec + 64 ≤ a → Memory.byte t.mem a = Memory.byte s.mem a := by
  set u : State := data.elim s (s.setMemSector sec) with hu
  have hurest : u = { s with mem := u.mem } := by
    rw [hu]
    cases data <;> rfl
  set t := (u.modHome sec fun h => { h with cxl := some st }).push s.homeTurns with ht
  have hhome : t.home sec = { s.home sec with cxl := some st } := by
    have hgrant := (u.home_modHome sec sec fun h => { h with cxl := some st }).trans (if_pos rfl)
    rw [hurest] at hgrant
    rw [ht, hurest]
    exact hgrant
  have hturns : (u.modHome sec fun h => { h with cxl := some st }).homeTurns = s.homeTurns := by
    rw [hurest]
    rfl
  have hnone : ∀ d ∈ List.range 8, ((t.die d).reqs.filter fun r => r.sec == sec && !r.pressed) = [] := fun d hd => by
    have hdie : t.die d = s.die d := by
      rw [ht, hurest]
      rfl
    rw [hdie, List.filter_eq_nil_iff]
    intro r hr
    simp [hreqs d (List.mem_range.mp hd) r hr]
  have hkeep : (List.range 8).foldl (fun s d => ((s.die d).reqs.filter fun r => r.sec == sec && !r.pressed).foldl (fun s r =>
      s.answerHome { sec, dst := .home, src := d, write := r.write, t := r.t }) s) t = t :=
    List.foldlRecOn (motive := fun u : State => u = t) _ _ rfl fun v hv d hd => by
      rw [hv, hnone d hd, List.foldl_nil]
  have hexec : exec (.goDataResponse port sec st data) s = .next t := by
    refine congrArg Host.Outcome.next ((if_neg (by rw [hport]; simp)).trans ?_)
    extract_lets u' v' w'
    have hu' : u' = u := by cases data <;> rfl
    have hw' : w' = t := by
      unfold w' v'
      rw [hu', hturns]
    rw [hw', hhome]
    simp only [hactive, hkeep]
  refine ⟨t, hexec, ?_, hhome, ?_, fun a ha => ?_⟩
  · rw [ht, hurest]
    rfl
  · show u.memSector sec = _
    rw [hu]
    cases data with
    | none => rfl
    | some d => exact memSector_setMemSector s sec d
  · show Memory.byte u.mem a = _
    rw [hu]
    cases data with
    | none => rfl
    | some d => exact byte_setMemSector_ne s (cxlPort_lt hport) d ha

/-- R149: a host reads memory of the device through a BAR. -/
theorem barMemoryAccess_read {pa n : Nat} (h : s.barHolds port pa n = true) :
    exec (.barMemoryAccess port pa (.read n)) s = .next { s with outs := s.outs ++ [.barData port (s.rdBytes pa n)] } := by
  rw [exec_barMemoryAccess, execBarMemoryAccess]
  exact congrArg _ (if_pos h)

/-- R153: a host reads device memory over CXL.mem at one instant (entry 24); the home notes that the host shares the sector. -/
theorem cxlMemAccess_read {pa n : Nat} (hports : s.cxlPorts.contains port = true) (hholds : s.hdmHolds port pa n = true) (hpos : 0 < n)
    (hin : pa % 64 + n ≤ 64) (hall : s.allHome (pa / 64) = true) :
    ∃ t, exec (.cxlMemAccess ⟨port, pa⟩ (.read n)) s = .next t ∧
      t.home (pa / 64) = { s.home (pa / 64) with cxl := some .shared, bisPorts := addNew (s.home (pa / 64)).bisPorts port } ∧
      t = { s with homes := t.homes, outs := s.outs ++ [.barData port (s.rdBytes pa n)], work := s.work ++ s.homeOps.map Event.accessCompletion } ∧
      ∀ y, y ≠ pa / 64 → t.home y = s.home y := by
  have hone : (pa % 64 + n + 63) / 64 = 1 := by omega
  set u := (s.send (.barData port (s.rdBytes pa n))).modHome (pa / 64) fun h => { h with cxl := some .shared, bisPorts := addNew h.bisPorts port } with hu
  have hexec : exec (.cxlMemAccess ⟨port, pa⟩ (.read n)) s = .next (u.push (u.homeOps.map Event.accessCompletion)) := by
    rw [exec_cxlMemAccess, execCxlMemAccess]
    simp only [BarReq.len, hone, List.range_one, List.map_cons, List.map_nil, Nat.add_zero, hholds, hports, Bool.not_true, Bool.or_self,
      Bool.false_eq_true, if_false, hall, List.find?_cons_of_neg, not_false_eq_true, List.find?_nil, List.foldl_cons, List.foldl_nil]
    rfl
  have hhome : ∀ y, u.home y = _ := fun y => (s.send (.barData port (s.rdBytes pa n))).home_modHome (pa / 64) y _
  exact ⟨_, hexec, (hhome (pa / 64)).trans (if_pos rfl), rfl, fun y hy => (hhome y).trans (if_neg hy)⟩

end

/-! ### Bytes that a host writes at one instant (R149) -/

theorem wrSector_data {sec : Nat} {f : Sector → Sector} (y : Die) {x : L2Sector} (h : mget (y.wrSector sec f).l2 sec = some x) :
    ∃ z, mget y.l2 sec = some z ∧ x.data = f z.data := by
  unfold Die.wrSector at h
  split at h
  · next z hz =>
    split at h
    · rw [mget_mdel, if_pos rfl] at h
      exact nomatch h
    · rw [mget_mset, if_pos rfl] at h
      exact ⟨z, hz, Option.some.inj h ▸ rfl⟩
  · next hz => exact nomatch hz.symm.trans h

theorem mget_wrSector_ne {sec sec' : Nat} (h : sec' ≠ sec) (f : Sector → Sector) (y : Die) : mget (y.wrSector sec f).l2 sec' = mget y.l2 sec' := by
  unfold Die.wrSector
  split
  · dsimp only
    split
    · rw [mget_mdel, if_neg h]
    · rw [mget_mset, if_neg h]
  · rfl

/-- Every copy of a byte, in an L2, in a message and in memory, is `v`. -/
def State.Copies (s : State) (pa : Nat) (v : Byte) : Prop :=
  (∀ d < 8, ∀ x, mget (s.die d).l2 (pa / 64) = some x → secByte x.data (pa % 64) = v) ∧
    (∀ x, s.inFlight (pa / 64) = some x → secByte x (pa % 64) = v) ∧ Memory.byte s.mem (memAddr pa) = v

theorem State.Copies.rd1 {s : State} {pa : Nat} {v : Byte} (h : s.Copies pa v) : s.rd1 pa = v := by
  obtain ⟨hl2, hmsg, hmem⟩ := h
  unfold State.rd1
  cases hd : (List.range 8).find? fun d => (s.l2 d (pa / 64)).own && (s.l2 d (pa / 64)).dv with
  | some d =>
    have hown := List.find?_some hd
    have hlt := List.mem_range.mp (List.mem_of_find?_eq_some hd)
    unfold State.l2 mgetD at hown ⊢
    cases hx : mget (s.die d).l2 (pa / 64) with
    | none =>
      rw [hx] at hown
      exact nomatch hown
    | some x =>
      dsimp only
      rw [hx]
      exact hl2 d hlt x hx
  | none =>
    cases hx : s.inFlight (pa / 64) with
    | some x => exact hmsg x hx
    | none => exact hmem

theorem byte_wr1 (s : State) (pa q : Nat) (v : Byte) :
    Memory.byte (s.wr1 pa v).mem q = if q = memAddr pa then v else Memory.byte s.mem q := by
  rw [wr1_def, foldl_wrDie_eq]
  exact mgetD_msetD ..

/-- A byte that is written is written in every copy. -/
theorem copies_wr1 (s : State) (pa : Nat) (v : Byte) : (s.wr1 pa v).Copies pa v := by
  have hbyte : ∀ d : Sector, secByte (setSecByte d (pa % 64) v) (pa % 64) = v := fun d => by
    rw [secByte_setSecByte d (by omega) (by omega), if_pos rfl]
  refine ⟨fun d hd x hx => ?_, fun x hx => ?_, by rw [byte_wr1, if_pos rfl]⟩
  · rw [die_wr1 s pa v hd] at hx
    obtain ⟨y, -, hy⟩ := wrSector_data _ hx
    rw [hy, hbyte]
  · rw [inFlight_wr1, Option.map_eq_some_iff] at hx
    obtain ⟨y, -, rfl⟩ := hx
    rw [if_pos rfl, hbyte]

/-- The copies of a byte stay while another byte is written. -/
theorem State.Copies.wr1 {s : State} {pa q : Nat} {v : Byte} (h : s.Copies pa v) (hne : memAddr pa ≠ memAddr q) (w : Byte) :
    (s.wr1 q w).Copies pa v := by
  obtain ⟨hl2, hmsg, hmem⟩ := h
  have hbyte : pa / 64 = q / 64 → ∀ d : Sector, secByte (setSecByte d (q % 64) w) (pa % 64) = secByte d (pa % 64) := fun hs d => by
    rw [secByte_setSecByte d (by omega) (by omega), if_neg]
    intro hr
    exact hne (by rw [show pa = q by omega])
  refine ⟨fun d hd x hx => ?_, fun x hx => ?_, by rw [byte_wr1, if_neg hne, hmem]⟩
  · rw [die_wr1 s q w hd] at hx
    by_cases hs : pa / 64 = q / 64
    · rw [hs] at hx
      obtain ⟨y, hy, hdata⟩ := wrSector_data _ hx
      rw [hdata, hbyte hs, hl2 d hd y (hs.symm ▸ hy)]
    · rw [mget_wrSector_ne hs] at hx
      exact hl2 d hd x hx
  · rw [inFlight_wr1, Option.map_eq_some_iff] at hx
    obtain ⟨y, hy, rfl⟩ := hx
    split
    · next hs => rw [hbyte hs, hmsg y hy]
    · exact hmsg y hy

theorem State.Copies.wrBytes {s : State} {pa q : Nat} {v : Byte} (h : s.Copies pa v) {l : List Byte}
    (hne : ∀ k < l.length, memAddr pa ≠ memAddr (q + k)) : (s.wrBytes q l).Copies pa v := by
  induction l generalizing s q with
  | nil => exact h
  | cons b r ih =>
    rw [wrBytes_cons]
    refine ih (h.wr1 (hne 0 (by simp)) b) fun k hk => ?_
    rw [show q + 1 + k = q + (k + 1) by omega]
    exact hne (k + 1) (by simpa using hk)

/-- Bytes below the fabric are read back as they were written. -/
theorem rdBytes_wrBytes {s : State} {pa : Nat} {l : List Byte} (h : ∀ k < l.length, memAddr (pa + k) = pa + k) :
    (s.wrBytes pa l).rdBytes pa l.length = l := by
  have hread : ∀ k x, l[k]? = some x → (s.wrBytes pa l).rd1 (pa + k) = x := by
    induction l generalizing s pa with
    | nil => exact fun k x hk => nomatch hk
    | cons b r ih =>
      have hnext : ∀ k < r.length, memAddr (pa + 1 + k) = pa + 1 + k := fun k hk => by
        rw [show pa + 1 + k = pa + (k + 1) by omega]
        exact h (k + 1) (by simpa using hk)
      rw [wrBytes_cons]
      intro k x hk
      cases k with
      | zero =>
        obtain rfl : b = x := by simpa using hk
        refine State.Copies.rd1 ((copies_wr1 s pa b).wrBytes fun j hj => ?_)
        rw [hnext j hj, show memAddr pa = pa from h 0 (by simp)]
        omega
      | succ k =>
        rw [show pa + (k + 1) = pa + 1 + k by omega]
        exact ih hnext k x (by simpa using hk)
  refine List.ext_getElem? fun k => ?_
  unfold State.rdBytes
  rw [List.getElem?_map]
  by_cases hk : k < l.length
  · rw [List.getElem?_range hk, List.getElem?_eq_getElem hk]
    exact congrArg some (hread k _ (List.getElem?_eq_getElem hk))
  · rw [List.getElem?_eq_none (by simpa using hk), List.getElem?_eq_none (Nat.le_of_not_lt hk)]
    rfl

/-- Memory elsewhere stays. -/
theorem byte_wrBytes_ne {s : State} {pa a : Nat} {l : List Byte} (h : ∀ k < l.length, memAddr (pa + k) ≠ a) :
    Memory.byte (s.wrBytes pa l).mem a = Memory.byte s.mem a := by
  induction l generalizing s pa with
  | nil => rfl
  | cons b r ih =>
    have hfirst : a ≠ memAddr pa := Ne.symm (h 0 (Nat.succ_pos _))
    rw [wrBytes_cons, ih fun k hk => ?_, byte_wr1, if_neg hfirst]
    rw [show pa + 1 + k = pa + (k + 1) by omega]
    exact h (k + 1) (by simpa using hk)

theorem memAddr_of_package_class {pa : Nat} (h : paClass pa = some .package) : memAddr pa = pa := by
  refine if_pos ?_
  unfold paClass at h
  split at h
  · omega
  split at h
  · next hlt =>
    simp only [Bool.and_eq_true, decide_eq_true_eq] at hlt
    omega
  split at h
  · exact nomatch h
  split at h <;> exact nomatch h

/-- R149: a host writes memory of the device through a BAR, at one instant (entry 24). -/
theorem barMemoryAccess_write {s : State} {port pa : Nat} {l : List Byte} (h : s.barHolds port pa l.length = true) :
    ∃ t, exec (.barMemoryAccess port pa (.write l)) s = .next t ∧ t.rdBytes pa l.length = l ∧ t.outs = s.outs ∧
      ∀ a, a < pa ∨ pa + l.length ≤ a → Memory.byte t.mem a = Memory.byte s.mem a := by
  have hclass : ∀ k < l.length, memAddr (pa + k) = pa + k := fun k hk => by
    have hk' := List.all_eq_true.mp h k (List.mem_range.mpr hk)
    rw [Bool.and_eq_true, beq_iff_eq] at hk'
    exact memAddr_of_package_class hk'.1
  have hexec : exec (.barMemoryAccess port pa (.write l)) s = .next ((s.wrBytes pa l).healMem pa l.length) := by
    rw [exec_barMemoryAccess, execBarMemoryAccess]
    exact congrArg _ (if_pos h)
  refine ⟨_, hexec, rdBytes_wrBytes hclass, stored_outs s pa _ l, fun a ha => byte_wrBytes_ne fun k hk => ?_⟩
  rw [hclass k hk]
  omega

/-! ### The end of a page walk (R439, R440) -/

theorem mem_addNew {α : Type} [BEq α] [LawfulBEq α] {l : List α} {x y : α} : y ∈ addNew l x ↔ y ∈ l ∨ y = x := by
  unfold addNew
  split
  · next h =>
    rw [List.contains_iff_mem] at h
    exact ⟨Or.inl, fun hy => hy.elim id fun he => he ▸ h⟩
  · rw [List.mem_append, List.mem_singleton]

theorem mem_foldl_addNew {α : Type} [BEq α] [LawfulBEq α] {m l : List α} {y : α} : y ∈ m.foldl addNew l ↔ y ∈ l ∨ y ∈ m := by
  induction m generalizing l with
  | nil => simp
  | cons x r ih => rw [List.foldl_cons, ih, mem_addNew, List.mem_cons, or_assoc]

/-- What is read is the same where the L2s keep the same, and memory and the messages that carry data are the same. -/
theorem rd1_of_l2 {s t : State} (hl2 : ∀ d sec, t.l2 d sec = s.l2 d sec) (hmem : t.mem = s.mem) (hmsg : ∀ sec, t.inFlight sec = s.inFlight sec)
    (q : Nat) : t.rd1 q = s.rd1 q := by
  unfold State.rd1
  simp only [hl2, hmem, hmsg]

theorem rd_of_rd1 {s t : State} (h : ∀ q, t.rd1 q = s.rd1 q) (pa n : Nat) : t.rd pa n = s.rd pa n := by
  induction n generalizing pa with
  | zero => rfl
  | succ n ih => rw [State.rd, State.rd, ih, h]

/-- A walk reads the page tables alone. -/
theorem walk_of_rd1 {s t : State} (h : ∀ q, t.rd1 q = s.rd1 q) (hbound : t.bound = s.bound) (hcx : t.cx = s.cx) (asid va : Nat) :
    t.walk asid va = s.walk asid va := by
  have hfrom : ∀ level table, t.walkFrom va level table = s.walkFrom va level table := fun level => by
    induction level with
    | zero => intro table; unfold State.walkFrom; simp only [rd_of_rd1 h]
    | succ n ih => intro table; unfold State.walkFrom; simp only [rd_of_rd1 h, ih]
  unfold State.walk State.inUse State.cxr
  rw [hbound, hcx, hfrom]

theorem modDie_congr {s : State} {d : Nat} {f g : Die → Die} (h : f (s.die d) = g (s.die d)) : s.modDie d f = s.modDie d g := by
  unfold State.modDie
  rw [h]

/-- A die whose walks have ended. -/
def Die.noWalks (x : Die) : Die := { x with walks := [] }

section
variable (s : State) (d : Nat)

theorem walk_noWalks (asid va : Nat) : (s.modDie d Die.noWalks).walk asid va = s.walk asid va := by
  have hl2 := l2_modDie_of_l2 s d (f := Die.noWalks) fun _ => rfl
  exact walk_of_rd1 (rd1_of_l2 (s := s) (t := s.modDie d Die.noWalks) hl2 rfl fun _ => rfl) rfl rfl asid va

theorem walkers_noWalks (die asid page : Nat) : (s.modDie d Die.noWalks).walkers die asid page = s.walkers die asid page := by
  have htlb : ∀ k, ((s.modDie d Die.noWalks).die k).tlb = (s.die k).tlb := fun k => by
    rw [State.die_modDie]
    split
    · next hk => rw [hk]; rfl
    · rfl
  have hfind : ∀ k asid va, (s.modDie d Die.noWalks).tlbFind k asid va = s.tlbFind k asid va := fun k asid va => by
    unfold State.tlbFind
    rw [htlb]
  have haddr : ∀ a p, (s.modDie d Die.noWalks).walkAddr a p = s.walkAddr a p := fun a p => by
    have hmiss : ∀ n, (s.modDie d Die.noWalks).kickMiss (dieOf (s.coreOfAcc a)) a.asid n = s.kickMiss (dieOf (s.coreOfAcc a)) a.asid n := fun n => by
      unfold State.kickMiss
      simp only [hfind]
      rfl
    unfold State.walkAddr
    cases a.kind with
    | kick n => exact hmiss n
    | _ => rfl
  unfold State.walkers
  simp only [haddr]
  rfl

end

/-- A die that has taken a translation. -/
def Die.addTlb (e : TlbEntry) (x : Die) : Die := { x with tlb := tlbAdd x.tlb e }

theorem mem_tlbAdd {l : List TlbEntry} {e : TlbEntry} (h : (l.filter fun x => x.unit == e.unit).length < 4096) (x : TlbEntry) :
    x ∈ tlbAdd l e ↔ x ∈ l ∨ x = e := by
  rw [← mem_addNew]
  unfold tlbAdd addNew
  rw [if_pos h]

theorem walkOps_of_unasked {s : State} {die asid page : Nat} (h : ∀ b ∈ s.blocks, ∀ op ∈ b.ops, walkKey (65536 * page) ∉ op.asked) (bad : Bool) :
    s.walkOps die asid page bad = s := by
  have hnone : ((s.blocks.filter fun b => b.asid == asid && dieOf b.core == die).flatMap fun b =>
      (b.ops.filter fun op => op.asked.contains (walkKey (65536 * page))).map fun op => (b, op)) = [] := by
    refine List.flatMap_eq_nil_iff.mpr fun b hb => List.map_eq_nil_iff.mpr (List.filter_eq_nil_iff.mpr fun op hop => ?_)
    simpa using h b (List.mem_filter.mp hb).1 op hop
  unfold State.walkOps
  dsimp only
  rw [hnone, List.foldl_nil]

theorem walkFetches_of_unasked {s : State} {die asid page : Nat} (h : ∀ x ∈ s.cores, fetchWalk asid (65536 * page) ∉ x.2.pullAsked) (bad : Bool) :
    s.walkFetches die asid page bad = s := by
  have hnone : (s.cores.filter fun x => dieOf x.1 == die && x.2.pullAsked.contains (fetchWalk asid (65536 * page))) = [] :=
    List.filter_eq_nil_iff.mpr fun x hx => by simp [h x hx]
  unfold State.walkFetches
  dsimp only
  rw [hnone, List.foldl_nil]

/-- R439, R440: a page walk that ends gives its die the translation, and what waits for it goes on. -/
theorem pageWalkEnd_translated {s : State} {d asid page size : Nat} {e : DWord} (hwalks : (s.die d).walks = [(asid, page)])
    (hqueue : (s.die d).walkQ = []) (hwalk : s.walk asid (page * 65536) = .ok e size)
    (hops : ∀ b ∈ s.blocks, ∀ op ∈ b.ops, walkKey (65536 * page) ∉ op.asked)
    (hfetch : ∀ x ∈ s.cores, fetchWalk asid (65536 * page) ∉ x.2.pullAsked) :
    let new : TlbEntry := { asid, vpage := page * 65536 / 2 ^ size, size, entry := e, unit := tlbUnit asid (page * 65536) }
    ((s.die d).tlb.filter fun x => x.unit == new.unit).length < 4096 → ∃ t, exec (.pageWalkEnd d asid page) s = .next t ∧
      t = { s with dies := t.dies, work := t.work } ∧ t.die d = { s.die d with walks := [], tlb := (t.die d).tlb } ∧
      (∀ x, x ∈ (t.die d).tlb ↔ x ∈ (s.die d).tlb ∨ x = new) ∧
      ∀ i, i ∈ t.work ↔ i ∈ s.work ∨ ∃ x ∈ s.walkers d asid page, i = .accessCompletion x.1.id := by
  intro new hroom
  set l := (((s.walkers d asid page).map fun x => x.1.id).foldl addNew []).map Event.accessCompletion with hl
  set u := (s.modDie d Die.noWalks).modDie d (Die.addTlb new) with hu
  have hudie : u.die d = (s.die d).noWalks.addTlb new := by
    rw [hu, State.die_modDie, if_pos rfl, State.die_modDie, if_pos rfl]
  have hexec : exec (.pageWalkEnd d asid page) s = .next (u.push l) := by
    have hended : (s.modDie d fun x => { x with walks := x.walks.erase (asid, page) }) = s.modDie d Die.noWalks := modDie_congr (by
      rw [hwalks, List.erase_cons_head]
      rfl)
    have hnext : (s.modDie d Die.noWalks).nextWalk d = s.modDie d Die.noWalks := by
      have hnone : ((s.modDie d Die.noWalks).die d).walkQ = [] := by
        rw [State.die_modDie, if_pos rfl]
        exact hqueue
      unfold State.nextWalk
      simp only [hnone]
    have hwops := walkOps_of_unasked (s := u) (die := d) (asid := asid) (page := page) hops false
    have hwfetch := walkFetches_of_unasked (s := u) (die := d) (asid := asid) (page := page) hfetch false
    have hcontains : (s.die d).walks.contains (asid, page) = true := by rw [hwalks]; simp
    rw [exec_pageWalkEnd, execPageWalkEnd, hcontains]
    simp only [Bool.not_true, Bool.false_eq_true, if_false, hended, hnext, walk_noWalks, hwalk, walkers_noWalks]
    exact congrArg (fun v : State => Host.Outcome.next (v.push l)) ((congrArg (State.walkFetches · d asid page false) hwops).trans hwfetch)
  refine ⟨_, hexec, rfl, ?_, fun x => ?_, fun i => ?_⟩
  · show u.die d = { s.die d with walks := [], tlb := (u.die d).tlb }
    rw [hudie]
    rfl
  · show x ∈ (u.die d).tlb ↔ _
    rw [hudie]
    exact mem_tlbAdd hroom x
  · show i ∈ s.work ++ l ↔ _
    rw [List.mem_append, hl, List.mem_map]
    simp only [mem_foldl_addNew, List.not_mem_nil, false_or, List.mem_map]
    refine or_congr_right ⟨?_, ?_⟩
    · rintro ⟨_, ⟨x, hx, rfl⟩, rfl⟩
      exact ⟨x, hx, rfl⟩
    · rintro ⟨x, hx, rfl⟩
      exact ⟨_, ⟨x, hx, rfl⟩, rfl⟩

/-! ### Requests over the fabric without an answer (R85, R146) -/

/-- A packet is sent as it is or compressed; its stream is noted (R143). -/
theorem compress_eq (s : State) (p : VPkt) : ∃ q l, s.compress p = (q, { s with sendCtx := l }) ∧
    q = { p with compressed := q.compressed, scx := q.scx, delta := q.delta } := by
  unfold State.compress
  extract_lets mine step fits put
  split
  · exact ⟨_, _, rfl, rfl⟩
  · exact ⟨_, _, rfl, rfl⟩

theorem fabricRequestTimeout_resent {s : State} {r : FabReq} (hreqs : s.fabReqs = [r]) (htime : r.time + 8000 ≤ s.gtime) (hsends : r.sends < 3) :
    ∃ t q, exec (.fabricRequestTimeout r.rid) s = .next t ∧
      t = { s with outs := s.outs ++ [.fabric q], sendCtx := t.sendCtx, fabReqs := [{ r with sends := r.sends + 1, time := s.gtime }],
                   timers := s.timers ++ [(s.gtime + 8000, .fabricRequestTimeout r.rid)] } ∧
      q = { r.pkt with path := s.pathTo r.pkt.dst, link := (s.pathTo r.pkt.dst).headD 0, compressed := q.compressed, scx := q.scx, delta := q.delta } := by
  obtain ⟨q, l, hcompress, hq⟩ := compress_eq s { r.pkt with path := s.pathTo r.pkt.dst, link := (s.pathTo r.pkt.dst).headD 0 }
  have hsend : s.sendPkt r.pkt = ({ s with sendCtx := l } : State).send (.fabric q) := by
    unfold State.sendPkt
    dsimp only
    rw [hcompress]
  have hexec : exec (.fabricRequestTimeout r.rid) s = .next { s with
      outs := s.outs ++ [.fabric q], sendCtx := l, fabReqs := [{ r with sends := r.sends + 1, time := s.gtime }]
      timers := s.timers ++ [(s.gtime + 8000, .fabricRequestTimeout r.rid)] } := by
    rw [exec_fabricRequestTimeout, execFabricRequestTimeout]
    simp only [hreqs, beq_self_eq_true, List.find?_cons_of_pos, Nat.not_lt.mpr htime, if_false, hsends, if_true, hsend]
    simp [State.send, State.timer, modWhere]
  exact ⟨_, q, hexec, rfl, hq⟩

/-! ### Bytes of a sector -/

theorem getLsbD_secByte (d : Sector) (k : Nat) {b : Nat} (hb : b < 8) : (secByte d k).getLsbD b = d.getLsbD (8 * k + b) := by
  unfold secByte
  rw [BitVec.getLsbD_extractLsb']
  simp [hb]

/-- The bytes of a sector after some have been put. -/
theorem secByte_secPut (d : Sector) {off n : Nat} (v : Nat) (h : off + n ≤ 64) {k : Nat} (hk : k < 64) : secByte (secPut d off n v) k =
    if off ≤ k ∧ k < off + n then BitVec.ofNat 8 (v / 256 ^ (k - off) % 256) else secByte d k := by
  induction n with
  | zero => exact (if_neg (by omega)).symm
  | succ n ih =>
    have hstep : secPut d off (n + 1) v = setSecByte (secPut d off n v) (off + n) (BitVec.ofNat 8 (v / 256 ^ n % 256)) := by
      unfold secPut
      rw [List.range_succ, List.foldl_append]
      rfl
    rw [hstep, secByte_setSecByte _ hk (by omega), ih (by omega)]
    by_cases hlast : k = off + n
    · rw [if_pos hlast, if_pos (by omega), hlast, Nat.add_sub_cancel_left]
    · rw [if_neg hlast]
      by_cases hin : off ≤ k ∧ k < off + n
      · rw [if_pos hin, if_pos (by omega)]
      · rw [if_neg hin, if_neg (by omega)]

/-- Bytes that have been put are read back. -/
theorem secBytes_secPut (d : Sector) {off n : Nat} (v : Nat) (h : off + n ≤ 64) : secBytes (secPut d off n v) off n = v % 256 ^ n := by
  have hpow : ∀ k, 256 ^ k = 2 ^ (8 * k) := fun k => by rw [Nat.pow_mul]
  refine Nat.eq_of_testBit_eq fun i => ?_
  rw [hpow, secBytes, Nat.testBit_mod_two_pow, Nat.testBit_mod_two_pow, Nat.testBit_div_two_pow]
  by_cases hi : i < 8 * n
  · have hbit := getLsbD_secByte (secPut d off n v) (off + i / 8) (b := i % 8) (by omega)
    have h256 : (256 : Nat) = 2 ^ 8 := rfl
    rw [secByte_secPut d v h (by omega), if_pos (by omega), Nat.add_sub_cancel_left, BitVec.getLsbD_ofNat, h256, ← Nat.pow_mul,
      Nat.testBit_mod_two_pow, Nat.testBit_div_two_pow, show 8 * (off + i / 8) + i % 8 = i + 8 * off by omega,
      show i % 8 + 8 * (i / 8) = i by omega] at hbit
    have hlow : i % 8 < 8 := by omega
    simp only [hlow, decide_true, Bool.true_and] at hbit
    rw [hbit]
    rfl
  · simp [hi]

/-! ### Packets at their home (R126, R142, R143, R304) -/

/-- A state whose stream of a packet that is not compressed is noted (R143). -/
def State.noteStream (s : State) (p : VPkt) : State :=
  { s with streams := mset s.streams (64 * p.link + p.scx) { dst := p.dst, src := p.src, ctx := p.ctx, page := p.page } }

/-- A packet that is not refused and not a repeat is served. -/
theorem servePkt_served {s : State} {p : VPkt} (hplain : p.compressed = false) (hdst : p.dst = s.devNum) (hnew : s.answerOf p.src p.rid = none)
    (hok : s.pktRefused p = none) (f : State → VPkt → State) : s.servePkt p f = f (s.noteStream p) p := by
  have hunpack : s.unpack p = (some p, s.noteStream p) := by
    unfold State.unpack
    rw [hplain]
    rfl
  have hdev : (p.dst != (s.noteStream p).devNum) = false := by
    rw [hdst]
    exact bne_self_eq_false _
  have hnew' : (s.noteStream p).answerOf p.src p.rid = none := hnew
  have hok' : (s.noteStream p).pktRefused p = none := hok
  unfold State.servePkt
  rw [hunpack]
  simp only [hdev, Bool.false_eq_true, if_false, hnew', hok']

/-- R142, R304: a home answers a read with the current value of each element. -/
theorem vectorRead_answered {s : State} {p : VPkt} (hvault : p.vault = false) (hplain : p.compressed = false) (hdst : p.dst = s.devNum)
    (hnew : s.answerOf p.src p.rid = none) (hok : s.pktRefused p = none) :
    ∃ t, exec (.vectorRead p) s = .next t ∧ t = { s with streams := t.streams, answers := t.answers, outs := t.outs } ∧
      t.outs = s.outs ++ [.fabResp 4 p.src p.rid ((pktAddrs p).map fun pa => BitVec.ofNat 64 (s.rd pa p.esz))] := by
  have hread : ∀ pa, (s.noteStream p).rd pa p.esz = s.rd pa p.esz := fun pa =>
    rd_of_rd1 (rd1_of_same (s := s) (t := s.noteStream p) rfl rfl fun _ => rfl) pa p.esz
  have hexec : exec (.vectorRead p) s = .next ((s.noteStream p).respond p.src p.rid
      (.fabResp 4 p.src p.rid ((pktAddrs p).map fun pa => BitVec.ofNat 64 (s.rd pa p.esz)))) := by
    rw [exec_vectorRead, execVectorRead, hvault, if_neg Bool.false_ne_true, servePkt_served hplain hdst hnew hok]
    simp only [hread]
  exact ⟨_, hexec, rfl, rfl⟩

/-- A performed write at an L2 puts its bytes into the sector. -/
theorem l2_l2Write {s : State} {d pa n : Nat} (htokn : (s.l2 d (pa / 64)).tokn ≠ 0) (v : Nat) :
    ((s.l2Write d pa n v).l2 d (pa / 64)).data = secPut (s.l2 d (pa / 64)).data (pa % 64) n v := by
  have hset := l2_setL2 s d (pa / 64) { s.l2 d (pa / 64) with
    data := secPut (s.l2 d (pa / 64)).data (pa % 64) n v, dirty := true, bad := (s.l2 d (pa / 64)).bad &&& ~~~granules (pa % 64) n true } d (pa / 64)
  rw [if_pos ⟨rfl, rfl⟩, if_neg htokn] at hset
  exact congrArg L2Sector.data hset

/-- The one job of a packet. -/
def packetJob (p : VPkt) (id pa : Nat) (v : DWord) : VecJob :=
  { id, src := p.src, rid := p.rid, kind := p.kind, aop := p.aop, esz := p.esz, todo := [(0, pa, v, p.cmp.getD 0 0)] }

/-- What a packet's element stores: its operand, or the result of the atomic. -/
def elemStores (p : VPkt) (old : Nat) (v : DWord) : Nat :=
  if p.kind == 3 then atomicNew p.aop p.esz old v.toNat (p.cmp.getD 0 0).toNat else v.toNat

/-- A job whose elements have all been performed leaves, and the results of an atomic are answered (R126, R143). -/
theorem runJob_done {s u : State} {j : VecJob} {got : List (Nat × DWord)} (hjobs : s.vecJobs = [j]) (hmark : u.markersIn = [])
    (hdone : j.todo.foldl (jobElem j) (s, [], j.got) = (u, [], got)) (hsame : u.vecJobs = [j]) : s.runJob j.id =
      if j.kind == 3 then ({ u with vecJobs := [] } : State).respond j.src j.rid
        (.fabResp 6 j.src j.rid ((sortBy (fun (x y : Nat × DWord) => decide (x.1 ≤ y.1)) got).map (·.2)))
      else { u with vecJobs := [] } := by
  have hfind : s.vecJobs.find? (fun x => x.id == j.id) = some j := by
    rw [hjobs]
    exact List.find?_cons_of_pos (beq_self_eq_true _)
  have hend : ({ u with vecJobs := u.vecJobs.filter fun x => x.id != j.id, markersIn := u.markersIn.map fun m => { m with jobs := m.jobs.erase j.id } } :
      State) = { u with vecJobs := [] } := by
    have hnomark : (u.markersIn.map fun m => { m with jobs := m.jobs.erase j.id }) = u.markersIn := by
      rw [hmark]
      rfl
    have hnojob : (u.vecJobs.filter fun x => x.id != j.id) = [] := by simp [hsame]
    rw [hnomark, hnojob]
  have hgo : ∀ v : State, v.markersIn = [] → v.markersGo = v := fun v hv => markersGo_of_waiting fun m hm => by
    rw [hv] at hm
    exact nomatch hm
  unfold State.runJob
  rw [hfind]
  dsimp only
  rw [hdone]
  dsimp only
  rw [hend]
  simp only [List.isEmpty_nil, if_true]
  refine hgo _ ?_
  split <;> exact hmark

/-- The state in which the element of a packet at `pa` has been performed. -/
def State.elemDone (s : State) (p : VPkt) (pa : Nat) (v : DWord) : State :=
  ({ s with nextId := s.nextId + 1 } : State).l2Write (homeDie pa) pa p.esz
    (elemStores p (secBytes (s.l2 (homeDie pa) (pa / 64)).data (pa % 64) p.esz) v)

/-- R126: the one element of a packet, on a sector that its L2 holds wholly, is performed at once. -/
theorem takeJob_performed {s : State} {p : VPkt} {pa : Nat} {v : DWord} (haddrs : pktAddrs p = [pa]) (hdata : p.data = [v]) (hjobs : s.vecJobs = [])
    (hmark : s.markersIn = []) (hall : (s.l2 (homeDie pa) (pa / 64)).tokn = s.sectorT (pa / 64)) (hdv : (s.l2 (homeDie pa) (pa / 64)).dv = true) :
    s.takeJob p = if p.kind == 3 then (s.elemDone p pa v).respond p.src p.rid
        (.fabResp 6 p.src p.rid [BitVec.ofNat 64 (secBytes (s.l2 (homeDie pa) (pa / 64)).data (pa % 64) p.esz)])
      else s.elemDone p pa v := by
  have htodo : pktElems p = [(0, pa, v, p.cmp.getD 0 0)] := by
    unfold pktElems
    rw [haddrs, hdata]
    rfl
  set w : State := { s with nextId := s.nextId + 1, vecJobs := [packetJob p s.nextId pa v] } with hw
  have htake : s.takeJob p = w.runJob s.nextId := by
    unfold State.takeJob
    rw [htodo]
    simp only [State.newId, hjobs]
    rfl
  have hholds : ((s.l2 (homeDie pa) (pa / 64)).tokn == s.sectorT (pa / 64) && (s.l2 (homeDie pa) (pa / 64)).dv) = true := by
    rw [Bool.and_eq_true, beq_iff_eq]
    exact ⟨hall, hdv⟩
  have helem : (packetJob p s.nextId pa v).todo.foldl (jobElem (packetJob p s.nextId pa v)) (w, [], (packetJob p s.nextId pa v).got) =
      ({ s.elemDone p pa v with vecJobs := [packetJob p s.nextId pa v] }, [],
        [(0, BitVec.ofNat 64 (secBytes (s.l2 (homeDie pa) (pa / 64)).data (pa % 64) p.esz))]) := if_pos hholds
  have hu : ({ s.elemDone p pa v with vecJobs := [] } : State) = s.elemDone p pa v := by
    have hnojobs : (s.elemDone p pa v).vecJobs = [] := hjobs
    rw [← hnojobs]
  have hrun := runJob_done (s := w) (u := { s.elemDone p pa v with vecJobs := [packetJob p s.nextId pa v] }) (j := packetJob p s.nextId pa v)
    rfl hmark helem rfl
  dsimp only at hrun
  rw [hu] at hrun
  rw [htake]
  exact hrun

theorem elemDone_outs (s : State) (p : VPkt) (pa : Nat) (v : DWord) : (s.elemDone p pa v).outs = s.outs := rfl
theorem elemDone_vecJobs (s : State) (p : VPkt) (pa : Nat) (v : DWord) : (s.elemDone p pa v).vecJobs = s.vecJobs := rfl
theorem elemDone_mem (s : State) (p : VPkt) (pa : Nat) (v : DWord) : (s.elemDone p pa v).mem = s.mem := rfl

/-- The element's bytes are in the sector. -/
theorem secBytes_elemDone (s : State) (p : VPkt) {pa : Nat} (v : DWord) (htokn : (s.l2 (homeDie pa) (pa / 64)).tokn ≠ 0) (hin : pa % 64 + p.esz ≤ 64) :
    secBytes ((s.elemDone p pa v).l2 (homeDie pa) (pa / 64)).data (pa % 64) p.esz =
      elemStores p (secBytes (s.l2 (homeDie pa) (pa / 64)).data (pa % 64) p.esz) v % 256 ^ p.esz := by
  unfold State.elemDone
  rw [l2_l2Write (s := { s with nextId := s.nextId + 1 }) htokn, secBytes_secPut _ _ hin]

section
variable {s : State} {p : VPkt} {pa : Nat} {v : DWord} (hplain : p.compressed = false) (hdst : p.dst = s.devNum)
  (hnew : s.answerOf p.src p.rid = none) (hok : s.pktRefused p = none) (haddrs : pktAddrs p = [pa]) (hdata : p.data = [v]) (hjobs : s.vecJobs = [])
  (hmark : s.markersIn = []) (hall : (s.l2 (homeDie pa) (pa / 64)).tokn = s.sectorT (pa / 64)) (hdv : (s.l2 (homeDie pa) (pa / 64)).dv = true)
  (htokn : (s.l2 (homeDie pa) (pa / 64)).tokn ≠ 0) (hin : pa % 64 + p.esz ≤ 64)
include hplain hdst hnew hok haddrs hdata hjobs hmark hall hdv htokn hin

/-- R126, R143: a write of one element, to a sector that its L2 holds wholly, is performed and accepted. -/
theorem vectorWrite_performed : ∃ t, exec (.vectorWrite p) s = .next t ∧ t.outs = s.outs ++ [.fabResp 5 p.src p.rid []] ∧ t.vecJobs = [] ∧
    t.mem = s.mem ∧ secBytes (t.l2 (homeDie pa) (pa / 64)).data (pa % 64) p.esz = v.toNat % 256 ^ p.esz := by
  set u := (s.noteStream p).respond p.src p.rid (.fabResp 5 p.src p.rid []) with hu
  have hexec : exec (.vectorWrite p) s = .next (u.takeJob { p with kind := 2 }) := by
    rw [exec_vectorWrite, execVectorWrite, servePkt_served hplain hdst hnew hok]
  have htake : u.takeJob { p with kind := 2 } = u.elemDone { p with kind := 2 } pa v := takeJob_performed haddrs hdata hjobs hmark hall hdv
  rw [htake] at hexec
  refine ⟨_, hexec, ?_, ?_, ?_, secBytes_elemDone u { p with kind := 2 } v htokn hin⟩
  · rw [elemDone_outs]
    rfl
  · rw [elemDone_vecJobs]
    exact hjobs
  · rw [elemDone_mem]
    rfl

/-- R126, R143: an atomic on one element is performed, and the old value answered. -/
theorem vectorAtomic_performed : let old := secBytes (s.l2 (homeDie pa) (pa / 64)).data (pa % 64) p.esz
    ∃ t, exec (.vectorAtomic p) s = .next t ∧ t.outs = s.outs ++ [.fabResp 6 p.src p.rid [BitVec.ofNat 64 old]] ∧ t.vecJobs = [] ∧ t.mem = s.mem ∧
      secBytes (t.l2 (homeDie pa) (pa / 64)).data (pa % 64) p.esz = atomicNew p.aop p.esz old v.toNat (p.cmp.getD 0 0).toNat % 256 ^ p.esz := by
  intro old
  set u := (s.noteStream p).noteAnswer p.src p.rid none with hu
  have hexec : exec (.vectorAtomic p) s = .next (u.takeJob { p with kind := 3 }) := by
    rw [exec_vectorAtomic, execVectorAtomic, servePkt_served hplain hdst hnew hok]
  have htake : u.takeJob { p with kind := 3 } = (u.elemDone { p with kind := 3 } pa v).respond p.src p.rid (.fabResp 6 p.src p.rid [BitVec.ofNat 64 old]) :=
    takeJob_performed haddrs hdata hjobs hmark hall hdv
  rw [htake] at hexec
  refine ⟨_, hexec, ?_, ?_, ?_, secBytes_elemDone u { p with kind := 3 } v htokn hin⟩
  · show (u.elemDone { p with kind := 3 } pa v).outs ++ _ = _
    rw [elemDone_outs]
    rfl
  · exact (elemDone_vecJobs u { p with kind := 3 } pa v).trans hjobs
  · exact elemDone_mem u { p with kind := 3 } pa v

end

/-! ### The delivery of an interrupt (R191, R192) -/

theorem uiWr_blocks (s : State) (asid off n v : Nat) : (s.uiWr asid off n v).blocks = s.blocks := by
  unfold State.uiWr
  split
  · rfl
  · exact vwr_blocks ..

/-- The frame of a gang's only slice is laid down, its registers are spilled, and the vector is taken: what a delivery does before the slice
enters the handler (R192, R194). -/
def State.uiTaken (s : State) (asid v bid gn : Nat) (b : Block) (g : Gang) (y x : Slice) : State :=
  let s := s.uiWr asid 0 8 (Nat.xor (s.uiRd asid 0 8) (2 ^ v))
  let s := ({ s with fresh := s.fresh + 1 } : State).acquire b.core [asid] .dev
  let sp := (g.splitOf y.num).getD { slices := [y.num] }
  let r := resumeAt sp y
  let s := s.vlWrBytes (dieOf b.core) (b.frameAddr y.num) (frameBytes y r.1 r.2 (sp.slices.headD 0))
  (s.setUi { s.uiOf asid with running := some (bid, gn) }).writeSpill b gn y x

theorem writeSpill_blocks (s : State) (b : Block) (gn : Nat) (y x : Slice) : (s.writeSpill b gn y x).blocks = s.blocks := by
  rw [writeSpill_eq]

theorem uiTaken_blocks (s : State) (asid v bid gn : Nat) (b : Block) (g : Gang) (y x : Slice) : (s.uiTaken asid v bid gn b g y x).blocks = s.blocks := by
  unfold State.uiTaken
  dsimp only
  rw [writeSpill_blocks, State.setUi, State.vlWrBytes_blocks, acquire_eq, uiWr_blocks]

theorem uiOf_asid (s : State) (asid : Nat) : (s.uiOf asid).asid = asid := by
  unfold State.uiOf
  cases h : s.ui.find? fun x => x.asid == asid with
  | none => rfl
  | some x => exact beq_iff_eq.mp (List.find?_some (p := fun x : UiState => x.asid == asid) h)

theorem uiOf_setUi (s : State) (u : UiState) : (s.setUi u).uiOf u.asid = u := by
  have hnone : (s.ui.filter fun x => x.asid != u.asid).find? (fun x => x.asid == u.asid) = none := List.find?_eq_none.mpr fun x hx => by
    simpa using (List.mem_filter.mp hx).2
  unfold State.uiOf State.setUi
  rw [List.find?_append, hnone]
  simp

theorem uiTaken_running (s : State) (asid v bid gn : Nat) (b : Block) (g : Gang) (y x : Slice) :
    ((s.uiTaken asid v bid gn b g y x).uiOf asid).running = some (bid, gn) := by
  unfold State.uiTaken
  dsimp only
  rw [writeSpill_eq]
  generalize hw : State.vlWrBytes _ _ _ _ = w
  have hset := uiOf_setUi w { w.uiOf asid with running := some (bid, gn) }
  rw [show ({ w.uiOf asid with running := some (bid, gn) } : UiState).asid = asid from uiOf_asid w asid] at hset
  exact congrArg UiState.running hset

/-- The gang whose only slice has entered the handler. -/
def Gang.entered (g : Gang) (now : Nat) (y x : Slice) (entry : BitVec 48) (pay : DWord) (orig : Word) (gg : Gang) : Gang :=
  { gg with
    slices := gg.slices.map fun sl =>
      if sl.gone then sl
      else match [(y, (.inl x : Sum Slice Nat))].find? fun z => z.1.num == sl.num with
        | some (_, .inl sl') => { sl'.enter entry pay orig with frameAt := none }
        | _ => sl
    splits := [{ slices := [y.num], readyAt := g.readyAfter (now + 1) }] }

theorem gone_of_live {sl : Slice} (h : sl.live ≠ []) : sl.gone = false := by
  unfold Slice.gone
  simpa using h

/-- R192: the handler is entered by the gang's only slice, in its new frame. -/
theorem uiEnter_single {s : State} {asid v bid gn : Nat} {b : Block} {g : Gang} {sl x : Slice} (hb : s.blk bid = some b) (hg : b.gang gn = some g)
    (hone : g.slices = [sl]) (hlive : sl.live ≠ [])
    (hgrow : (sl.landTo (s.now + 16)).grow b.spillCap g.budget b.whey.isSome (sl.landTo (s.now + 16)).n 32 none s.fresh = .inl x) :
    ∃ orig, s.uiEnter asid v bid gn false = (s.uiTaken asid v bid gn b g (sl.landTo (s.now + 16)) x).modGang bid gn
      (Gang.entered g (s.uiTaken asid v bid gn b g (sl.landTo (s.now + 16)) x).now (sl.landTo (s.now + 16)) x ((s.cxr asid 0x110).extractLsb' 0 48)
        (BitVec.ofNat 64 (s.uiRd asid (0x200 + 8 * v) 8)) orig) := by
  have hslices : g.liveSlices = [sl] := by
    unfold Gang.liveSlices
    rw [hone]
    simp [gone_of_live hlive]
  refine ⟨BitVec.ofNat 32 (2 ^ 31 + v * 2 ^ 24 + s.uiRd asid (0x101 + 4 * v) 1 * 256 + s.uiRd asid (0x100 + 4 * v) 1), ?_⟩
  unfold State.uiEnter
  simp only [hb, hg, hslices, List.map_cons, List.map_nil, List.zipIdx_cons, List.zipIdx_nil, Nat.add_zero, hgrow, Bool.false_eq_true, if_false,
    List.filterMap_cons, List.filterMap_nil, List.foldl_cons, List.foldl_nil]
  rfl

theorem enter_payload (sl : Slice) (entry : BitVec 48) (pay : DWord) (orig : Word) :
    (sl.enter entry pay orig).s 62 = lo32 pay ∧ (sl.enter entry pay orig).s 63 = hi32 pay := by
  have hs : ∀ i, (sl.enter entry pay orig).s i = (sl.setS64 62 pay).s i := fun i => rfl
  rw [hs, hs, s_setS64, s_setS64]
  exact ⟨rfl, rfl⟩

/-- R192: a pending vector is delivered to its handler, which has the entry address and the payload. -/
theorem uiDelivery_entered {s : State} {asid v bid gn : Nat} {b : Block} {g : Gang} {sl x : Slice} (htaker : s.uiTaker asid = some (v, bid, gn))
    (hb : s.blk bid = some b) (hg : b.gang gn = some g) (hone : g.slices = [sl]) (hlive : sl.live ≠ [])
    (hgrow : (sl.landTo (s.now + 16)).grow b.spillCap g.budget b.whey.isSome (sl.landTo (s.now + 16)).n 32 none s.fresh = .inl x) :
    let pay : DWord := BitVec.ofNat 64 (s.uiRd asid (0x200 + 8 * v) 8)
    ∃ t sl', exec (.uiDelivery asid) s = .next t ∧ (t.uiOf asid).running = some (bid, gn) ∧ t.slice ⟨bid, gn, sl.num⟩ = some sl' ∧
      sl'.pc = (s.cxr asid 0x110).setWidth 48 ∧ sl'.s 62 = lo32 pay ∧ sl'.s 63 = hi32 pay := by
  intro pay
  obtain ⟨orig, henter⟩ := uiEnter_single (asid := asid) (v := v) hb hg hone hlive hgrow
  set y := sl.landTo (s.now + 16) with hy
  set u := s.uiTaken asid v bid gn b g y x with hu
  set entry : BitVec 48 := (s.cxr asid 0x110).extractLsb' 0 48 with hentry
  have hexec : exec (.uiDelivery asid) s = .next (u.modGang bid gn (Gang.entered g u.now y x entry pay orig)) := by
    rw [exec_uiDelivery, execUiDelivery, htaker]
    exact congrArg _ henter
  have hynum : y.num = sl.num := (Slice.landTo_keeps sl (s.now + 16)).1
  have hslices : (Gang.entered g u.now y x entry pay orig g).slices = [{ x.enter entry pay orig with frameAt := none }] := by
    unfold Gang.entered
    simp [hone, gone_of_live hlive, hynum]
  obtain ⟨h62, h63⟩ := enter_payload x entry pay orig
  refine ⟨_, { x.enter entry pay orig with frameAt := none }, hexec, uiTaken_running s asid v bid gn b g y x, ?_, ?_, h62, h63⟩
  · have hub : u.blk bid = some b := by
      unfold State.blk
      rw [hu, uiTaken_blocks]
      exact hb
    have hnum : x.num = sl.num := (Slice.grow_num hgrow).trans hynum
    unfold State.slice
    rw [State.blk_modGang, if_pos rfl, hub]
    simp only [Option.map_some]
    rw [Block.gang_modGang _ _ _ (Gang.entered g u.now y x entry pay orig) fun _ => rfl, if_pos rfl, hg]
    simp only [Option.map_some]
    unfold Gang.slice
    rw [hslices]
    exact List.find?_cons_of_pos (beq_iff_eq.mpr (show x.num = sl.num from hnum))
  · exact (BitVec.setWidth_eq_extractLsb' (by decide)).symm

end Sys2Proof.Machine

namespace Sys2Proof.Machine

/-! ### The only access on the device comes on with its answer (R85, R146, R149) -/

theorem length_flatMap_modWhere {α β : Type _} {p : α → Bool} {f : α → α} {g : α → List β} (h : ∀ x, (g (f x)).length = (g x).length)
    (l : List α) : ((modWhere p f l).flatMap g).length = (l.flatMap g).length := by
  unfold modWhere
  rw [List.flatMap_map, List.length_flatMap, List.length_flatMap]
  refine congrArg List.sum (List.map_congr_left fun x _ => ?_)
  split
  · exact h x
  · rfl

/-- A change of a slice that keeps how many accesses it has keeps how many there are. -/
theorem length_allAccs_modSlice (s : State) (w : SliceRef) {f : Slice → Slice} (h : ∀ x, (f x).acc.length = x.acc.length) :
    (s.modSlice w f).allAccs.length = s.allAccs.length := by
  refine length_flatMap_modWhere (f := fun b => b.modGang w.gang fun g => g.modSlice w.slice f) (fun b => ?_) s.blocks
  refine (List.length_append ..).trans (Eq.trans ?_ (List.length_append ..).symm)
  refine congrArg (b.seq.acc.length + ·) ?_
  refine length_flatMap_modWhere (f := fun g => g.modSlice w.slice f) (fun g => ?_) b.gangs
  exact length_flatMap_modWhere h g.slices

theorem mem_allAccs_of_slice {s : State} {w : SliceRef} {x : Slice} (hslice : s.slice w = some x) {a : Access} (ha : a ∈ x.acc) : a ∈ s.allAccs := by
  unfold State.slice at hslice
  split at hslice
  · next b hb =>
    split at hslice
    · next g hg =>
      exact List.mem_flatMap.mpr ⟨b, List.mem_of_find?_eq_some hb, List.mem_append_right _ (List.mem_flatMap.mpr
        ⟨g, List.mem_of_find?_eq_some hg, List.mem_flatMap.mpr ⟨x, List.mem_of_find?_eq_some hslice, ha⟩⟩)⟩
    · exact nomatch hslice
  · exact nomatch hslice

/-- The only access on the device is `a`, of the slice `x` at `w`. -/
structure State.Only (s : State) (w : SliceRef) (x : Slice) (a : Access) : Prop where
  slice : s.slice w = some x
  acc : x.acc = [a]
  len : s.allAccs.length = 1

section
variable {s : State} {w : SliceRef} {x : Slice} {a : Access}

theorem State.Only.allAccs (h : s.Only w x a) : s.allAccs = [a] := by
  obtain ⟨y, hy⟩ := List.length_eq_one_iff.mp h.len
  have hmem := mem_allAccs_of_slice h.slice (a := a) (by rw [h.acc]; exact List.mem_singleton_self a)
  rw [hy, List.mem_singleton] at hmem
  rw [hy, hmem]

theorem State.Only.accOf (h : s.Only w x a) : s.accOf a.id = some a := by
  unfold State.accOf
  rw [h.allAccs]
  exact List.find?_cons_of_pos (beq_self_eq_true _)

theorem State.Only.noneFailed (h : s.Only w x a) (hnone : a.NoneFailed) : s.NoneFailed := noneFailed_of_allAccs fun y hy => by
  rw [h.allAccs, List.mem_singleton] at hy
  exact hy ▸ hnone

theorem State.Only.congr {u : State} (h : s.Only w x a) (hblocks : u.blocks = s.blocks) : u.Only w x a := by
  refine ⟨(State.slice_congr hblocks w).trans h.slice, h.acc, ?_⟩
  unfold State.allAccs
  rw [hblocks]
  exact h.len

theorem State.Only.modSlice {f : Slice → Slice} {a' : Access} (h : s.Only w x a) (hnum : ∀ y, (f y).num = y.num)
    (hlen : ∀ y, (f y).acc.length = y.acc.length) (hacc : (f x).acc = [a']) : (s.modSlice w f).Only w (f x) a' := by
  refine ⟨?_, hacc, (length_allAccs_modSlice s w hlen).trans h.len⟩
  rw [State.slice_modSlice_self s w f hnum, h.slice, Option.map_some]

/-- A change of the accesses of the slice. -/
theorem State.Only.modAccs {f : List Access → List Access} {a' : Access} (h : s.Only w x a) (hw : w.slice ≠ seqSlice)
    (hlen : ∀ l, (f l).length = l.length) (hacc : f [a] = [a']) : (s.modAccs w f).Only w { x with acc := [a'] } a' := by
  have hmod : s.modAccs w f = s.modSlice w fun sl => { sl with acc := f sl.acc } := by
    unfold State.modAccs
    rw [beq_false_of_ne hw, if_neg Bool.false_ne_true]
  have honly := h.modSlice (f := fun sl => { sl with acc := f sl.acc }) (a' := a') (fun _ => rfl) (fun y => hlen y.acc) (by rw [h.acc, hacc])
  rw [h.acc, hacc] at honly
  rw [hmod]
  exact honly

end

/-- A state in which only blocks, cores and due steps are other than in `s`. -/
def State.Stirs (s t : State) : Prop := t = { s with blocks := t.blocks, cores := t.cores, work := t.work }

theorem State.Stirs.trans {s t u : State} (h : s.Stirs t) (h' : t.Stirs u) : s.Stirs u := by
  unfold State.Stirs at h h'
  rw [h] at h'
  exact h'

theorem drain_stirs {w : Issuer} (hw : w.slice ≠ seqSlice) (s : State) : s.Stirs (s.drain w) := by
  unfold State.Stirs
  rw [drain_eq hw]
  rfl

/-- While no part has faulted, what follows an access changes no more than blocks, cores and due steps (R94). -/
theorem settle_stirs {s : State} {w : Issuer} (hw : w.slice ≠ seqSlice) (hnone : s.NoneFailed) (id : Nat) : s.Stirs (s.settle w id) := by
  unfold State.settle
  split
  · rfl
  next a ha =>
  extract_lets acquired moved todo sib next stuck turned
  have hturned : s.Stirs turned := by
    unfold State.Stirs turned acquired
    split
    · rw [accAcquire_eq]
      rfl
    · rw [accAcquire_eq]
  have hblocks : turned.blocks = s.blocks := by
    unfold turned acquired
    split
    · rw [accAcquire_eq]
      rfl
    · rw [accAcquire_eq]
  have hdrained : ((turned.drain w).push (next.map Event.accessCompletion)).NoneFailed := by
    refine State.NoneFailed.congr (s := turned.modSlice w Slice.drained) ((hnone.congr hblocks).modSlice w fun x hx y hy => hx y (mem_dropAll hy)) ?_
    show (turned.drain w).blocks = _
    rw [drain_eq hw]
  rw [raiseWord_eq_self hdrained]
  refine hturned.trans ((drain_stirs hw turned).trans ?_)
  rfl

/-- Once the one part of the only access is done, its counter falls and nothing of it is left. -/
theorem State.Only.settles {s : State} {w : SliceRef} {x : Slice} {a : Access} (h : s.Only w x a) (hw : w.slice ≠ seqSlice)
    (hcomplete : a.complete = true) (hpath : a.path < 8) :
    s.settleOn w a.id = s.settle w a.id ∧ (s.settle w a.id).slice w = some { x with acc := [] } ∧ s.Stirs (s.settle w a.id) := by
  have hnone : s.NoneFailed := h.noneFailed fun q hq code hst => by
    have hdone := List.all_eq_true.mp hcomplete q hq
    rw [hst] at hdone
    exact nomatch hdone
  have hslice := (settle_one hw h.slice h.acc hcomplete hpath hnone).1
  refine ⟨?_, hslice, settle_stirs hw hnone a.id⟩
  unfold State.settleOn
  simp only [accs_of_slice hw hslice, List.find?_nil]

/-- The part that `Terms.waits` speaks of waits for an answer. -/
structure Awaits (s : State) (w : SliceRef) (sl : Slice) (b : Block) (a : Access) (p : Part) (tag : Nat) : Prop where
  only : s.Only w sl a
  blk : s.blk w.blk = some b
  lane : w.slice ≠ seqSlice
  who : a.who = w
  parts : a.parts = [p]
  sent : p.st = .sent tag
  unspilt : p.spilt = none
  partLane : p.lane < 4
  path : a.path < 8

theorem awaits_of_waits {s : State} {w : SliceRef} {sl : Slice} {b : Block} {a : Access} {p : Part} {tag : Nat}
    (h : Terms.waits s w sl b a p tag) : Awaits s w sl b a p tag := by
  obtain ⟨hslice, hblk, hlane, hacc, hwho, hparts, hsent, hunspilt, hpartLane, hpath, hall⟩ := h
  exact ⟨⟨hslice, hacc, by rw [hall]; rfl⟩, hblk, hlane, hwho, hparts, hsent, hunspilt, hpartLane, hpath⟩

section
variable {s : State} {w : SliceRef} {sl : Slice} {b : Block} {a : Access} {p : Part} {tag : Nat}

theorem Awaits.congr (h : Awaits s w sl b a p tag) {u : State} (hblocks : u.blocks = s.blocks) : Awaits u w sl b a p tag := by
  refine ⟨h.only.congr hblocks, ?_, h.lane, h.who, h.parts, h.sent, h.unspilt, h.partLane, h.path⟩
  have hblk := h.blk
  unfold State.blk at hblk ⊢
  rw [hblocks]
  exact hblk

theorem Awaits.who_lane (h : Awaits s w sl b a p tag) : a.who.slice ≠ seqSlice := by
  rw [h.who]
  exact h.lane

/-- Once the part is done, in a state in which the access is still the only one. -/
theorem Awaits.partDone (h : Awaits s w sl b a p tag) {u : State} {x : Slice} (hu : u.Only w x a) :
    (u.modPart a p.lane fun p => { p with st := .done }).Only w (x.partDone a.id p.lane) (a.partDone p.lane) := by
  rw [modPart_done h.who_lane, h.who]
  refine hu.modSlice (f := Slice.partDone a.id p.lane) (fun _ => rfl) (fun y => ?_) ?_
  · exact List.length_map ..
  · unfold Slice.partDone modWhere
    rw [hu.acc]
    simp

/-- Its slice then has no access more. -/
theorem Awaits.ends (h : Awaits s w sl b a p tag) {u : State} {x : Slice} (hu : u.Only w x a) :
    let t := u.modPart a p.lane fun p => { p with st := .done }
    t.accOf a.id = some (a.partDone p.lane) ∧ t.settleOn w a.id = t.settle w a.id ∧ (t.settle w a.id).slice w = some { x with acc := [] } ∧
      u.Stirs (t.settle w a.id) := by
  intro t
  have honly := h.partDone hu
  obtain ⟨hon, hslice, hstirs⟩ := honly.settles h.lane (partDone_one h.parts) h.path
  refine ⟨honly.accOf, hon, hslice, State.Stirs.trans (t := t) ?_ hstirs⟩
  unfold State.Stirs t
  rw [modPart_done h.who_lane]
  rfl

end

/-! ### What an answer delivers -/

theorem loadExt_unsigned (n v : Nat) : loadExt false n v = BitVec.ofNat 64 v := by
  unfold loadExt
  split
  · next h => exact nomatch h
  · next h => exact nomatch h
  · rfl

/-- The kinds of access whose answer is a value for a register, not extended. -/
def AccKind.unextended (k : AccKind) : Prop := k = .load false ∨ ∃ op, k = .atomic op

theorem deliver_unextended {a : Access} {p : Part} (hw : a.who.slice ≠ seqSlice) (hkind : a.kind.unextended) (hunspilt : p.spilt = none)
    (s : State) (v : Nat) : s.deliver a p v = s.modSlice a.who (Slice.loaded s.now a p (BitVec.ofNat 64 v)) := by
  unfold State.deliver
  rw [beq_false_of_ne hw, hunspilt]
  rcases hkind with hk | ⟨op, hk⟩ <;> rw [hk] <;>
    simp only [AccKind.loads, resultLanes, Bool.not_true, Bool.false_eq_true, if_false, List.foldl_cons, List.foldl_nil, Bool.or_false, beq_iff_eq,
      loadExt_unsigned] <;> rfl

theorem donePart_unextended {a : Access} {p : Part} (hw : a.who.slice ≠ seqSlice) (hkind : a.kind.unextended) (hunspilt : p.spilt = none)
    (s : State) (v : Nat) : ∃ u : State, s.Stirs u ∧ u.blocks = s.blocks ∧
      s.donePart a p v = (u.modSlice a.who (Slice.loaded s.now a p (BitVec.ofNat 64 v))).modPart a p.lane fun p => { p with st := .done } := by
  unfold State.donePart
  rcases id hkind with hk | ⟨op, hk⟩
  · refine ⟨s, rfl, rfl, ?_⟩
    rw [hk]
    dsimp only
    rw [deliver_unextended hw hkind hunspilt]
  · refine ⟨s.modCore (s.coreOfAcc a) fun c => c.l1DropPa p.pa, rfl, rfl, ?_⟩
    rw [hk]
    dsimp only
    rw [deliver_unextended hw hkind hunspilt]
    rfl

section
variable {s : State} {w : SliceRef} {sl : Slice} {b : Block} {a : Access} {p : Part} {tag : Nat}

/-- The value that is answered is in the registers of its lane (R85, R146). -/
theorem landed_of_loaded {t : State} {v v' : DWord} (hlane : p.lane < 4) (hslice : t.slice w = some { sl.loaded t.now a p v' with acc := [] })
    (hlo : lo32 v' = lo32 v) (hhi : a.esz = 8 → hi32 v' = hi32 v) : Terms.landed t w sl a p v := by
  have hreads := fun r j (hj : j < 4) => Slice.vphys_loaded hlane t.now a v' sl hj r
  refine ⟨_, hslice, by rw [Slice.loaded_eq], ?_, fun hwide => ?_, fun r j hj hother => ?_⟩
  · refine (hreads p.dst p.lane hlane).trans ?_
    rw [if_neg (by omega), if_pos ⟨rfl, rfl⟩, hlo]
  · refine (hreads (p.dst + 1) p.lane hlane).trans ?_
    rw [if_pos ⟨rfl, hwide, rfl⟩, hhi hwide]
  · refine (hreads r j hj).trans ?_
    rw [if_neg fun ⟨hl, hwide, hr⟩ => hother ⟨hl, .inr ⟨hwide, hr⟩⟩, if_neg fun ⟨hl, hr⟩ => hother ⟨hl, .inl hr⟩]

/-- A value comes for the part: its slice has it, and the access is over. -/
theorem Awaits.fetched (h : Awaits s w sl b a p tag) (hkind : a.kind.unextended) (v : Nat) :
    (s.donePart a p v).accOf a.id = some (a.partDone p.lane) ∧
      (s.donePart a p v).settleOn w a.id = (s.donePart a p v).settle w a.id ∧
      ((s.donePart a p v).settle w a.id).slice w = some { sl.loaded s.now a p (BitVec.ofNat 64 v) with acc := [] } ∧
      s.Stirs ((s.donePart a p v).settle w a.id) := by
  obtain ⟨u, hstirs, hblocks, hdone⟩ := donePart_unextended h.who_lane hkind h.unspilt s v
  set load := Slice.loaded s.now a p (BitVec.ofNat 64 v) with hload
  have hkeeps : ∀ x, (load x).num = x.num ∧ (load x).acc = x.acc := fun x => by
    rw [hload, Slice.loaded_eq]
    exact x.landTo_keeps s.now
  have hloaded : (u.modSlice w load).Only w (load sl) a :=
    (h.only.congr hblocks).modSlice (fun x => (hkeeps x).1) (fun x => by rw [(hkeeps x).2]) ((hkeeps sl).2.trans h.only.acc)
  rw [hdone, h.who]
  obtain ⟨hacc, hon, hslice, hends⟩ := h.ends hloaded
  exact ⟨hacc, hon, hslice, hstirs.trans (State.Stirs.trans (t := u.modSlice w load) rfl hends)⟩

/-- The end of a store, or of a MARK, which deliver nothing. -/
theorem Awaits.done (h : Awaits s w sl b a p tag) (hkind : a.kind = .store ∨ a.kind = .mark) (v : Nat) :
    (s.donePart a p v).accOf a.id = some (a.partDone p.lane) ∧
      (s.donePart a p v).settleOn w a.id = (s.donePart a p v).settle w a.id ∧
      ((s.donePart a p v).settle w a.id).slice w = some { sl with acc := [] } ∧ s.Stirs ((s.donePart a p v).settle w a.id) := by
  have hdone : ∃ u : State, s.Stirs u ∧ u.blocks = s.blocks ∧ s.donePart a p v = u.modPart a p.lane fun p => { p with st := .done } := by
    unfold State.donePart State.deliver
    rcases hkind with hk | hk
    · exact ⟨s.leavePath a p.lane, rfl, rfl, by rw [hk]; rfl⟩
    · exact ⟨s, rfl, rfl, by rw [hk]; rfl⟩
  obtain ⟨u, hstirs, hblocks, hdone⟩ := hdone
  rw [hdone]
  obtain ⟨hacc, hon, hslice, hends⟩ := h.ends (h.only.congr hblocks)
  exact ⟨hacc, hon, hslice, hstirs.trans hends⟩

end

section
variable {s : State} {w : SliceRef} {sl : Slice} {b : Block} {a : Access} {p : Part} {tag : Nat}

/-- A request whose answer has come is out no more. -/
theorem takeReq_only {r : FabReq} (hreqs : s.fabReqs = [r]) : s.takeReq r.rid = (some r, { s with fabReqs := [] }) := by
  unfold State.takeReq
  rw [hreqs]
  simp

/-- The part that waits is found by its tag. -/
theorem Awaits.part_found (h : Awaits s w sl b a p tag) : a.parts.find? (fun q => q.lane == p.lane && q.st == .sent tag) = some p := by
  rw [h.parts]
  exact List.find?_cons_of_pos (by simp [h.sent])

/-- What a packet answers for the part alone. -/
theorem Awaits.partsDone (h : Awaits s w sl b a p tag) (hkind : ∀ x, a.kind ≠ .stcw x) (v : DWord)
    (hacc : (s.donePart a p v.toNat).accOf a.id = some (a.partDone p.lane))
    (hon : (s.donePart a p v.toNat).settleOn w a.id = (s.donePart a p v.toNat).settle w a.id) :
    s.partsDone tag [((a.id, p.lane), v)] = (s.donePart a p v.toNat).settle w a.id := by
  have hmsix : s.stcwMsix a p.pa = s := by
    unfold State.stcwMsix
    split
    · next x hk => exact (hkind _ hk).elim
    · rfl
  have hwho : (a.partDone p.lane).who = w := h.who
  unfold State.partsDone
  simp only [List.foldl_cons, List.foldl_nil, h.only.accOf, Option.bind_some, h.part_found, Option.map_some, hmsix, List.map_cons, List.map_nil, addNew,
    List.contains_nil, Bool.false_eq_true, if_false, List.nil_append, hacc, hwho, hon]

/-- What follows an answer over the fabric: no request is out, and no byte of memory has changed. -/
theorem stirs_answered {u t : State} (h : State.Stirs { u with fabReqs := [] } t) : t.fabReqs = [] ∧ t.mem = u.mem ∧ t.now = u.now := by
  unfold State.Stirs at h
  rw [h]
  exact ⟨rfl, rfl, rfl⟩

section
variable {r : FabReq} (h : Awaits s w sl b a p r.rid) (hreqs : s.fabReqs = [r]) (hacc : r.acc = a.id) (hparts : r.parts = [(a.id, p.lane)])
  (heng : r.eng = none) (hpull : r.pull = none)
include h hreqs hparts

omit hreqs in
/-- A value for the part lands in its slice. -/
theorem Awaits.answered (hkind : a.kind.unextended) (v : DWord) : ∃ t, State.partsDone { s with fabReqs := [] } r.rid (r.parts.zip [v]) = t ∧
    t.fabReqs = [] ∧ t.mem = s.mem ∧ Terms.landed t w sl a p v := by
  have hnow := h.congr (u := { s with fabReqs := [] }) rfl
  obtain ⟨hknown, hon, hslice, hstirs⟩ := hnow.fetched hkind v.toNat
  obtain ⟨hfab, hmem, htime⟩ := stirs_answered hstirs
  refine ⟨_, ?_, hfab, hmem, landed_of_loaded (v' := BitVec.ofNat 64 v.toNat) h.partLane ?_ (by rw [BitVec.ofNat_toNat, BitVec.setWidth_eq])
    fun _ => by rw [BitVec.ofNat_toNat, BitVec.setWidth_eq]⟩
  · rw [hparts]
    refine hnow.partsDone (fun x hk => ?_) v hknown hon
    rcases hkind with hl | ⟨op, hl⟩ <;> exact nomatch hk.symm.trans hl
  · rw [htime]
    exact hslice

include hpull in
/-- R85, R146: the answer of a load lands in its slice. -/
theorem Awaits.readResponse (hkind : a.kind = .load false) (v : DWord) :
    ∃ t, exec (.readResponse r.rid [v]) s = .next t ∧ t.fabReqs = [] ∧ t.mem = s.mem ∧ Terms.landed t w sl a p v := by
  obtain ⟨t, ht, hrest⟩ := h.answered hparts (.inl hkind) v
  refine ⟨t, ?_, hrest⟩
  rw [exec_readResponse, execReadResponse, takeReq_only hreqs]
  simp only [List.isEmpty_cons, Bool.false_eq_true, if_false, hpull, ht]

/-- R85, R146: so does the old value of an atomic. -/
theorem Awaits.atomicResponse {op : BitVec 5} (hkind : a.kind = .atomic op) (v : DWord) :
    ∃ t, exec (.atomicResponse r.rid [v]) s = .next t ∧ t.fabReqs = [] ∧ t.mem = s.mem ∧ Terms.landed t w sl a p v := by
  obtain ⟨t, ht, hrest⟩ := h.answered hparts (.inr ⟨op, hkind⟩) v
  refine ⟨t, ?_, hrest⟩
  rw [exec_atomicResponse, execAtomicResponse, takeReq_only hreqs]
  simp only [List.isEmpty_cons, Bool.false_eq_true, if_false, ht]

include hacc heng in
/-- R85, R146: the acceptance of a write ends its store. -/
theorem Awaits.writeAcceptance (hkind : a.kind = .store) :
    ∃ t, exec (.writeAcceptance r.rid 0) s = .next t ∧ t.fabReqs = [] ∧ t.mem = s.mem ∧ t.slice w = some { sl with acc := [] } := by
  have hnow := h.congr (u := { s with fabReqs := [] }) rfl
  obtain ⟨hknown, hon, hslice, hstirs⟩ := hnow.done (.inl hkind) (0 : DWord).toNat
  obtain ⟨hfab, hmem, -⟩ := stirs_answered hstirs
  have hdone := hnow.partsDone (fun x hk => nomatch hk.symm.trans hkind) 0 hknown hon
  have hfound := hnow.only.accOf
  refine ⟨_, ?_, hfab, hmem, hslice⟩
  rw [exec_writeAcceptance, execWriteAcceptance, takeReq_only hreqs]
  simp only [hacc, heng, hfound, Option.map_some, hkind, hparts, List.map_cons, List.map_nil, hdone]
  rfl

end

/-! ### Completions of hosts (R149, R458) -/

theorem lo32_low {v : BitVec 128} {n : Nat} (h : n = 4 ∨ n = 8) : lo32 (BitVec.ofNat 64 (v.toNat % 2 ^ (8 * n))) = lo32 (v.setWidth 64) := by
  rw [lo32_ofNat, ← BitVec.toNat_inj]
  simp only [lo32, BitVec.extractLsb'_toNat, BitVec.toNat_setWidth, BitVec.toNat_ofNat, Nat.shiftRight_zero]
  rcases h with rfl | rfl <;> omega

theorem ofNat_low (v : BitVec 128) : BitVec.ofNat 64 (v.toNat % 2 ^ 64) = v.setWidth 64 := by
  rw [← BitVec.toNat_inj, BitVec.toNat_ofNat, BitVec.toNat_setWidth, Nat.mod_mod]

theorem hostFree_of_room {s : State} {r : HostReq} (h : s.hostReqs = []) : s.hostFree r = s := by
  refine if_pos ?_
  unfold State.hostRoom
  rw [h]
  rfl

section
variable {r : HostReq} (h : Awaits s w sl b a p r.tag) (hreqs : s.hostReqs = [r]) (hacc : r.acc = a.id) (hlane : r.lane = p.lane)
  (heng : r.eng = none) (hpull : r.pull = none) (hsc : r.sc = none) (hzero : r.zero = false) (hkind : a.kind = .load false)
include h hreqs hacc hlane heng hpull hsc hzero hkind

/-- R149: what a host answers to a load lands in its slice. -/
theorem Awaits.hostCompletion (hsize : a.esz = 4 ∨ a.esz = 8) (v : BitVec 128) :
    ∃ t, exec (.hostCompletion r.tag .ok v) s = .next t ∧ t.hostReqs = [] ∧ t.mem = s.mem ∧ Terms.landed t w sl a p (v.setWidth 64) := by
  have hnow := h.congr (u := { s with hostReqs := [] }) rfl
  obtain ⟨-, hon, hslice, hstirs⟩ := hnow.fetched (.inl hkind) (v.toNat % 2 ^ (8 * a.esz))
  have hexec : exec (.hostCompletion r.tag .ok v) s = .next (({ s with hostReqs := [] } : State).hostDone r v) := by
    rw [exec_hostCompletion, execHostCompletion, hreqs]
    simp only [beq_self_eq_true, List.find?_cons_of_pos, List.erase_cons_head, hostFree_of_room]
  have hdone : ({ s with hostReqs := [] } : State).hostDone r v =
      (({ s with hostReqs := [] } : State).donePart a p (v.toNat % 2 ^ (8 * a.esz))).settle w a.id := by
    have hdata : ({ s with hostReqs := [] } : State).hostData a p v.toNat =
        ({ s with hostReqs := [] } : State).donePart a p (v.toNat % 2 ^ (8 * a.esz)) := by
      unfold State.hostData
      rw [hkind]
    unfold State.hostDone
    simp only [heng, hpull, hsc, hzero, Bool.false_eq_true, if_false, hacc, hnow.only.accOf, hlane, hnow.part_found, hdata, h.who, hon]
  rw [hdone] at hexec
  generalize (({ s with hostReqs := [] } : State).donePart a p (v.toNat % 2 ^ (8 * a.esz))).settle w a.id = t at hexec hslice hstirs
  have hreqs' : t.hostReqs = [] := by rw [hstirs]
  have hmem : t.mem = s.mem := by rw [hstirs]
  have htime : t.now = s.now := by rw [hstirs]
  refine ⟨t, hexec, hreqs', hmem, landed_of_loaded (v' := BitVec.ofNat 64 (v.toNat % 2 ^ (8 * a.esz))) h.partLane ?_ (lo32_low hsize) fun hwide => ?_⟩
  · rw [htime]
    exact hslice
  · rw [hwide, ofNat_low]

end

/-! ### The answer to the markers of a MARK (R126, R304) -/

/-- A MARK whose last marker is answered is over. -/
theorem Awaits.markerCompletion {m : MarkerOut} (h : Awaits s w sl b a p 0) (hout : s.markersOut = [m]) (hkind : a.kind = .mark)
    (hacc : m.acc = a.id) (hid : a.id ≠ 0) :
    ∃ t, exec (.markerCompletion m.id m.dev) s = .next t ∧ t.markersOut = [] ∧ t.slice w = some { sl with acc := [] } := by
  have hnow := h.congr (u := { s with markersOut := [] }) rfl
  obtain ⟨-, -, hslice, hstirs⟩ := hnow.done (.inr hkind) 0
  have hout' : ((({ s with markersOut := [] } : State).donePart a p 0).settle w a.id).markersOut = [] := by rw [hstirs]
  refine ⟨_, ?_, hout', hslice⟩
  have hfound := hnow.only.accOf
  rw [exec_markerCompletion, execMarkerCompletion, hout]
  simp only [beq_self_eq_true, Bool.and_self, List.find?_cons_of_pos, List.erase_cons_head, hacc, beq_iff_eq, hid, if_false, List.any_nil,
    hfound, h.parts, List.foldl_cons, List.foldl_nil, h.who]
  simp [hid]

end

/-! ### A request that fails halts its block (R402, R409, R434) -/

section
variable {bid : Nat} {code : BitVec 8} {s : State}

theorem HaltedAs.freeze (h : HaltedAs bid code s) (r : SliceRef) (lanes : List Nat) (f : FInfo) (rpc : BitVec 48) :
    HaltedAs bid code (s.freeze r lanes f rpc) := by
  unfold State.freeze
  split
  · split
    · exact h.haltContext ..
    · exact HaltedAs.modGang (.modSlice (h.of_blocks rfl) _ _) _ _ _
  · exact h

theorem HaltedAs.chargeWord (h : HaltedAs bid code s) (b : Block) (g : Gang) (found : List (Slice × Access × Part × BitVec 8)) :
    HaltedAs bid code (s.chargeWord b g found) :=
  h.foldl (fun _ _ hu => .either _ (hu.recordParts ..) (hu.stopHeld ..)) _

/-- What a halted block does about its word: the codes that concern a context are recorded, the splits that can stop do, and without a
handler the context halts (R402, R405, R409). -/
def State.wordStops (s : State) (i : Nat) (b : Block) (g : Gang) (found : List (Slice × Access × Part × BitVec 8)) (charged : List (BitVec 8))
    (c : BitVec 8) : State :=
  let s := (if charged.isEmpty then s else s.chargeWord b g found).stopIdle i
  if !(s.cxr b.asid 0x11E).getLsbD 63 then s.haltContext b.asid c else s

theorem HaltedAs.wordStops (h : HaltedAs bid code s) (i : Nat) (b : Block) (g : Gang) (found : List (Slice × Access × Part × BitVec 8))
    (charged : List (BitVec 8)) (c : BitVec 8) : HaltedAs bid code (s.wordStops i b g found charged c) := by
  have hstopped : HaltedAs bid code ((if charged.isEmpty then s else s.chargeWord b g found).stopIdle i) :=
    (HaltedAs.either _ h (h.chargeWord ..)).stopIdle i
  exact .either _ (hstopped.haltContext ..) hstopped

theorem HaltedAs.raiseWord (h : HaltedAs bid code s) (i gang grp : Nat) : HaltedAs bid code (s.raiseWord i gang grp) := by
  unfold State.raiseWord
  split
  · exact h
  next b hb =>
  split
  · exact h
  next g hg =>
  extract_lets found sup hold acc held replay codes charged raised
  refine .either _ h ?_
  have hheld : HaltedAs bid code held := h.modGang ..
  clear_value held replay codes charged
  have hraised : HaltedAs bid code raised := by
    unfold raised
    split
    · exact .either _ hheld (hheld.chargeWord ..)
    · refine .either _ ?_ ?_
      · refine (hheld.chargeWord ..).foldl (fun u sl hu => ?_) _
        dsimp only
        split
        · exact hu
        · exact hu.freeze ..
      · exact (hheld.haltBlock ..).wordStops i b g found charged _
  split
  · exact hraised
  · exact hraised.haltContext ..

theorem HaltedAs.drain (h : HaltedAs bid code s) {w : Issuer} (hw : w.slice ≠ seqSlice) : HaltedAs bid code (s.drain w) := by
  refine (h.modSlice w Slice.drained).of_blocks ?_
  rw [drain_eq hw]

theorem HaltedAs.settle (h : HaltedAs bid code s) {w : Issuer} (hw : w.slice ≠ seqSlice) (id : Nat) : HaltedAs bid code (s.settle w id) := by
  unfold State.settle
  split
  · exact h
  extract_lets acquired moved todo sib next stuck turned
  have hacquired : HaltedAs bid code acquired := h.of_blocks (by
    unfold acquired
    rw [accAcquire_eq])
  have hturned : HaltedAs bid code turned := .either _ (hacquired.of_blocks rfl) hacquired
  exact (HaltedAs.of_blocks (t := (turned.drain w).push (next.map Event.accessCompletion)) (hturned.drain hw) rfl).raiseWord w.blk w.gang _

theorem HaltedAs.settleOn (h : HaltedAs bid code s) {w : Issuer} (hw : w.slice ≠ seqSlice) (id : Nat) : HaltedAs bid code (s.settleOn w id) := by
  have hsettled := h.settle hw id
  unfold State.settleOn
  dsimp only
  split
  · exact .either _ (hsettled.of_blocks rfl) hsettled
  · exact hsettled

end

/-! ### A failed part of the only access is raised -/

theorem slice_found {s : State} {w : SliceRef} {x : Slice} {b : Block} (hslice : s.slice w = some x) (hblk : s.blk w.blk = some b) :
    ∃ g, b.gang w.gang = some g ∧ g.slice w.slice = some x := by
  unfold State.slice at hslice
  rw [hblk] at hslice
  dsimp only at hslice
  split at hslice
  · next g hg => exact ⟨g, hg, hslice⟩
  · exact nomatch hslice

theorem mem_allAccs {s : State} {b : Block} {g : Gang} {sl : Slice} {a : Access} (hb : b ∈ s.blocks) (hg : g ∈ b.gangs) (hsl : sl ∈ g.slices)
    (ha : a ∈ sl.acc) : a ∈ s.allAccs :=
  List.mem_flatMap.mpr ⟨b, hb, List.mem_append_right _ (List.mem_flatMap.mpr ⟨g, hg, List.mem_flatMap.mpr ⟨sl, hsl, ha⟩⟩)⟩

/-- The parts that have failed, of the only access on the device. -/
theorem State.Only.failedParts {s : State} {w : SliceRef} {x : Slice} {a : Access} (h : s.Only w x a) {p : Part} {c : BitVec 8}
    (hparts : a.parts = [p]) (hst : p.st = .failed c) {b : Block} {g : Gang} (hb : s.blk w.blk = some b) (hg : b.gang w.gang = some g)
    (hx : g.slice w.slice = some x) :
    let found := g.slices.flatMap fun sl => (sl.failedParts a.grp).map fun y => (sl, y)
    (x, a, p, c) ∈ found ∧ ∀ y ∈ found, y.2.2.2 = c := by
  have hone : ∀ sl ∈ g.slices, ∀ y ∈ sl.failedParts a.grp, y.2.2 = c := fun sl hsl y hy => by
    unfold Slice.failedParts at hy
    obtain ⟨a', ha', hy⟩ := List.mem_flatMap.mp hy
    have hmem := mem_allAccs (List.mem_of_find?_eq_some hb) (List.mem_of_find?_eq_some hg) hsl ha'
    rw [h.allAccs, List.mem_singleton] at hmem
    subst hmem
    rw [bne_self_eq_false, if_neg Bool.false_ne_true, hparts] at hy
    simp only [List.filterMap_cons, hst, List.filterMap_nil, List.mem_singleton] at hy
    rw [hy]
  intro found
  refine ⟨List.mem_flatMap.mpr ⟨x, List.mem_of_find?_eq_some hx, List.mem_map.mpr ⟨(a, p, c), ?_, rfl⟩⟩, fun y hy => ?_⟩
  · unfold Slice.failedParts
    rw [h.acc]
    simp [hparts, hst]
  · obtain ⟨sl, hsl, hy⟩ := List.mem_flatMap.mp hy
    obtain ⟨z, hz, rfl⟩ := List.mem_map.mp hy
    exact hone sl hsl z hz

/-- Outside supervisor contexts, its word raises it: the block halts with its code (R402, R434). -/
theorem State.Only.raises {s : State} {w : SliceRef} {x : Slice} {a : Access} (h : s.Only w x a) {p : Part} {c : BitVec 8} (hparts : a.parts = [p])
    (hst : p.st = .failed c) (hcode : contextCode c = false) {b : Block} (hb : s.blk w.blk = some b) (hh : b.halt = none) (hsup : s.sup b.asid = false) :
    HaltedAs w.blk c (s.raiseWord w.blk w.gang a.grp) := by
  obtain ⟨g, hg, hx⟩ := slice_found h.slice hb
  obtain ⟨hmem, hall⟩ := h.failedParts hparts hst hb hg hx
  have hclosed : b.wordOpen a.grp = false := by
    refine List.any_eq_false.mpr fun y hy => ?_
    have hya : y ∈ s.allAccs := List.mem_flatMap.mpr ⟨b, List.mem_of_find?_eq_some hb, hy⟩
    rw [h.allAccs, List.mem_singleton] at hya
    rw [hya, hparts]
    simp [hst]
  unfold State.raiseWord
  simp -zeta only [hb, hg]
  extract_lets found sup hold acc held replay codes charged raised
  have hopen : ¬ ((found.isEmpty || b.wordOpen a.grp) = true) := by
    rw [hclosed, Bool.or_false, List.isEmpty_iff]
    exact List.ne_nil_of_mem hmem
  have hcharged : charged = [] := by
    have hnone : (found.map (·.2.2.2)).filter (chargedIn sup) = [] := List.filter_eq_nil_iff.mpr fun k hk => by
      obtain ⟨y, hy, rfl⟩ := List.mem_map.mp hk
      rw [show sup = false from hsup, hall y hy]
      simpa [chargedIn] using hcode
    unfold charged
    rw [hnone]
    rfl
  have hcodes : ∃ r, codes = c :: r := by
    have hin : c ∈ codes := mem_sortBy_of (List.mem_map.mpr ⟨_, List.mem_filter.mpr ⟨hmem, by
      rw [show sup = false from hsup]
      simpa [chargedIn] using hcode⟩, rfl⟩)
    have hsame : ∀ k ∈ codes, k = c := fun k hk => by
      obtain ⟨y, hy, rfl⟩ := List.mem_map.mp (mem_sortBy hk)
      exact hall y (List.mem_filter.mp hy).1
    cases hl : codes with
    | nil => rw [hl] at hin; exact nomatch hin
    | cons k r => exact ⟨r, by rw [hsame k (by rw [hl]; exact List.mem_cons_self)]⟩
  have hheld : held.blk w.blk = some (b.modGang w.gang fun g => { g with slices := g.slices.map fun sl => { sl with acc := sl.acc.map acc } }) := by
    unfold held
    rw [State.blk_modGang, if_pos rfl, hb]
    rfl
  have hraised : HaltedAs w.blk c raised := by
    obtain ⟨r, hr⟩ := hcodes
    have hsup' : ¬ (sup = true) := by
      rw [show sup = false from hsup]
      exact Bool.false_ne_true
    unfold raised
    rw [hr]
    dsimp only
    rw [if_neg hsup']
    exact (haltBlock_haltedAs hheld hh c []).wordStops w.blk b g found charged c
  rw [if_neg hopen, hcharged]
  exact hraised

/-! ### The requests to hosts stay while a fault is taken -/

section
variable (s : State)

theorem wrBytes_hostReqs (pa : Nat) (l : List Byte) : (s.wrBytes pa l).hostReqs = s.hostReqs := by
  rw [wrBytes_eq]

theorem vwr_hostReqs (asid va : Nat) (l : List Byte) : (s.vwr asid va l).hostReqs = s.hostReqs := by
  unfold State.vwr
  split
  · exact wrBytes_hostReqs ..
  · rfl

theorem putRecord_hostReqs (asid : Nat) (r : List Byte) : (s.putRecord asid r).hostReqs = s.hostReqs := by
  unfold State.putRecord
  dsimp only
  split
  · exact vwr_hostReqs ..
  · rfl

theorem putDevice_hostReqs (r : List Byte) : (s.putDevice r).hostReqs = s.hostReqs := by
  have hevac : ∀ (u : State) (l : List Event) {p : Prop} (d : Decidable p), (@ite _ p d u (u.push l)).hostReqs = u.hostReqs := fun u l p d => by
    split <;> rfl
  unfold State.putDevice
  dsimp only
  split
  · exact (wrBytes_hostReqs ..).trans (hevac ..)
  · exact hevac ..

theorem record_hostReqs (b : Block) (gang : Nat) (f : FInfo) (smask lmask orig : Nat) : (s.record b gang f smask lmask orig).hostReqs = s.hostReqs := by
  refine (putRecord_hostReqs ..).trans ?_
  split
  · exact putDevice_hostReqs ..
  · rfl

theorem foldl_hostReqs {α : Type} {f : State → α → State} (hf : ∀ u x, (f u x).hostReqs = u.hostReqs) (l : List α) :
    (l.foldl f s).hostReqs = s.hostReqs :=
  List.foldlRecOn (motive := fun u : State => u.hostReqs = s.hostReqs) l f rfl fun u hu x _ => (hf u x).trans hu

theorem ite_hostReqs {t u : State} {p : Prop} (d : Decidable p) (ht : t.hostReqs = s.hostReqs) (hu : u.hostReqs = s.hostReqs) :
    (@ite _ p d t u).hostReqs = s.hostReqs := by
  split
  · exact ht
  · exact hu

theorem recordParts_hostReqs (b : Block) (g : Gang) (c : BitVec 8) (l : List (Slice × Access × Part)) :
    (s.recordParts b g c l).hostReqs = s.hostReqs := by
  cases l with
  | nil => rfl
  | cons x r => exact record_hostReqs ..

theorem writeEntries_hostReqs (b : Block) (g : Gang) (sl : Slice) (lanes : List Nat) (c : BitVec 8) (rpc : BitVec 48) :
    (s.writeEntries b g sl lanes c rpc).hostReqs = s.hostReqs := by
  unfold State.writeEntries
  dsimp only
  rw [foldl_hostReqs _ fun u j => u.vlWrBytes_hostReqs _ _ _]
  rfl

theorem stopHeld_hostReqs (b : Block) (g : Gang) (found : List (Slice × Access × Part × BitVec 8)) : (s.stopHeld b g found).hostReqs = s.hostReqs := by
  unfold State.stopHeld
  extract_lets keys sorted recorded marked _ _ _
  have hmarked : marked.hostReqs = s.hostReqs := foldl_hostReqs s (fun u _ => recordParts_hostReqs u ..) _
  refine ite_hostReqs s _ hmarked ((foldl_hostReqs marked (fun u x => ?_) _).trans hmarked)
  exact writeEntries_hostReqs ..

theorem stopRecord_hostReqs (b : Block) (g : Gang) (sp : Split) (hl : Halt) : (s.stopRecord b g sp hl).hostReqs = s.hostReqs :=
  ite_hostReqs s _ (stopHeld_hostReqs ..) (ite_hostReqs s _ rfl (record_hostReqs ..))

theorem stopIdle_hostReqs (i : Nat) : (s.stopIdle i).hostReqs = s.hostReqs := by
  unfold State.stopIdle
  split
  · rfl
  · split
    · rfl
    · dsimp only
      have hstopped : ∀ (l : List (Gang × Split)) (b : Block) (hl : Halt), (l.foldl (fun s x => s.stopRecord b x.1 x.2 hl) s).hostReqs = s.hostReqs :=
        fun l b hl => foldl_hostReqs s (fun u x => stopRecord_hostReqs u ..) l
      refine ite_hostReqs s _ ?_ (hstopped ..)
      refine ite_hostReqs s _ (hstopped ..) ?_
      exact (record_hostReqs ..).trans (hstopped ..)

theorem haltContext_hostReqs (asid : Nat) (c : BitVec 8) : (s.haltContext asid c).hostReqs = s.hostReqs := by
  have hall : ∀ l : List Nat, (l.foldl (fun s b => (s.haltBlock b c []).stopIdle b) s).hostReqs = s.hostReqs :=
    foldl_hostReqs s fun u i => (stopIdle_hostReqs ..).trans rfl
  exact hall _

theorem freeze_hostReqs (r : SliceRef) (lanes : List Nat) (f : FInfo) (rpc : BitVec 48) : (s.freeze r lanes f rpc).hostReqs = s.hostReqs := by
  unfold State.freeze
  split
  · split
    · exact haltContext_hostReqs s _ f.code
    · simp only [State.modGang, State.modSlice, State.modBlk_hostReqs, State.vlWrBytes_hostReqs]
  · rfl

theorem chargeWord_hostReqs (b : Block) (g : Gang) (found : List (Slice × Access × Part × BitVec 8)) :
    (s.chargeWord b g found).hostReqs = s.hostReqs :=
  foldl_hostReqs s (fun u _ => ite_hostReqs u _ (recordParts_hostReqs ..) (stopHeld_hostReqs ..)) _

theorem wordStops_hostReqs (i : Nat) (b : Block) (g : Gang) (found : List (Slice × Access × Part × BitVec 8)) (charged : List (BitVec 8))
    (c : BitVec 8) : (s.wordStops i b g found charged c).hostReqs = s.hostReqs := by
  have hstopped : ((if charged.isEmpty then s else s.chargeWord b g found).stopIdle i).hostReqs = s.hostReqs :=
    (stopIdle_hostReqs ..).trans (ite_hostReqs s _ rfl (chargeWord_hostReqs ..))
  exact ite_hostReqs s _ ((haltContext_hostReqs ..).trans hstopped) hstopped

theorem raiseWord_hostReqs (i gang grp : Nat) : (s.raiseWord i gang grp).hostReqs = s.hostReqs := by
  unfold State.raiseWord
  split
  · rfl
  next b hb =>
  split
  · rfl
  next g hg =>
  extract_lets found sup hold acc held replay codes charged raised
  refine ite_hostReqs s _ rfl ?_
  have hheld : held.hostReqs = s.hostReqs := rfl
  clear_value held replay codes charged
  have hraised : raised.hostReqs = s.hostReqs := by
    unfold raised
    split
    · exact ite_hostReqs s _ hheld ((chargeWord_hostReqs ..).trans hheld)
    · refine ite_hostReqs s _ ?_ ?_
      · refine (foldl_hostReqs _ (fun u sl => ?_) _).trans ((chargeWord_hostReqs ..).trans hheld)
        dsimp only
        split
        · rfl
        · exact freeze_hostReqs ..
      · exact (wordStops_hostReqs _ i b g found charged _).trans hheld
  split
  · exact hraised
  · exact (haltContext_hostReqs ..).trans hraised

theorem settleOn_hostReqs {w : Issuer} (hw : w.slice ≠ seqSlice) (id : Nat) : (s.settleOn w id).hostReqs = s.hostReqs := by
  have hsettled : (s.settle w id).hostReqs = s.hostReqs := by
    unfold State.settle
    split
    · rfl
    extract_lets acquired moved todo sib next stuck turned
    have hacquired : acquired.hostReqs = s.hostReqs := by
      unfold acquired
      rw [accAcquire_eq]
    have hturned : turned.hostReqs = s.hostReqs := ite_hostReqs s _ hacquired hacquired
    have hdrained : (turned.drain w).hostReqs = turned.hostReqs := by
      rw [drain_eq hw]
      rfl
    exact (raiseWord_hostReqs ((turned.drain w).push (next.map Event.accessCompletion)) w.blk w.gang _).trans (hdrained.trans hturned)
  unfold State.settleOn
  dsimp only
  split
  · exact ite_hostReqs s _ hsettled hsettled
  · exact hsettled

end

/-! ### A request without an answer (R85, R149, R402, R434) -/

/-- A block that runs, of an ASID. -/
def State.Runs (s : State) (i asid : Nat) : Prop := ∃ b, s.blk i = some b ∧ b.halt = none ∧ b.asid = asid

section
variable {s : State} {w : Issuer} {x : Slice} {a : Access}

theorem State.Runs.modAccs {asid : Nat} (h : s.Runs w.blk asid) (hw : w.slice ≠ seqSlice) (f : List Access → List Access) :
    (s.modAccs w f).Runs w.blk asid := by
  obtain ⟨b, hb, hh, hasid⟩ := h
  unfold State.modAccs
  rw [beq_false_of_ne hw, if_neg Bool.false_ne_true]
  refine ⟨b.modGang w.gang fun g => g.modSlice w.slice fun sl => { sl with acc := f sl.acc }, ?_, hh, hasid⟩
  refine (s.blk_modGang ..).trans ?_
  rw [if_pos rfl, hb]
  rfl

theorem modAccs_hostReqs (s : State) (w : Issuer) (f : List Access → List Access) : (s.modAccs w f).hostReqs = s.hostReqs := by
  unfold State.modAccs
  split <;> rfl

theorem modAccs_sup (s : State) (w : Issuer) (f : List Access → List Access) (asid : Nat) : (s.modAccs w f).sup asid = s.sup asid := by
  unfold State.modAccs
  split <;> rfl

/-- What a change of one access leaves of a list of accesses that has it alone. -/
theorem modWhere_one {a : Access} {n : Nat} (hid : a.id = n) (f : Access → Access) : modWhere (fun y => y.id == n) f [a] = [f a] := by
  unfold modWhere
  simp [hid]

theorem State.Only.modAcc (h : s.Only w x a) (hw : w.slice ≠ seqSlice) {n : Nat} (hid : a.id = n) (f : Access → Access) :
    (s.modAcc w n f).Only w { x with acc := [f a] } (f a) :=
  h.modAccs hw (fun _ => List.length_map ..) (modWhere_one hid f)

/-- An access with another state of the part of a lane. -/
def Access.withPart (lane : Nat) (f : Part → Part) (a : Access) : Access := { a with parts := modWhere (fun p => p.lane == lane) f a.parts }

theorem withPart_one {p : Part} (hparts : a.parts = [p]) (f : Part → Part) : (a.withPart p.lane f).parts = [f p] := by
  unfold Access.withPart modWhere
  simp [hparts]

theorem markBehind_one {p : Part} (hparts : a.parts = [p]) (hst : p.st ≠ .todo) : markBehind [a] = [a] := by
  refine congrArg (fun l => [{ a with parts := l }]) ?_
  rw [hparts]
  simp [hst]

theorem length_markBehind (l : List Access) : (markBehind l).length = l.length := List.length_map ..

/-- The part of the only access, outside supervisor contexts, fails with a code that concerns its word: its block halts with the code. -/
theorem State.Only.failOn (h : s.Only w x a) {p : Part} (hparts : a.parts = [p]) (hw : w.slice ≠ seqSlice) (hwho : a.who = w) {asid : Nat}
    (hruns : s.Runs w.blk asid) (hsup : s.sup asid = false) {code : BitVec 8} (hcode : contextCode code = false) (n lvl : Nat) (info : DWord) :
    HaltedAs w.blk code (s.failOn { a with tries := n } p code lvl info) ∧ (s.failOn { a with tries := n } p code lvl info).hostReqs = s.hostReqs := by
  subst hwho
  obtain ⟨b, hb, hh, rfl⟩ := id hruns
  have hbid : b.id = a.who.blk := State.blk_id hb
  set noted : Part → Part := fun p => { p with lvl, out := info } with hnoted
  set fails : Part → Part := fun p => { p with st := .failed code } with hfails
  set tried := s.modAcc a.who a.id fun y => { y with tries := n } with htried
  set told := tried.modAcc a.who a.id (Access.withPart p.lane noted) with htold
  set failed := told.modAcc a.who a.id (Access.withPart p.lane fails) with hfailed
  set behind := failed.modAccs a.who markBehind with hbehind
  have hpart : s.failPart { a with tries := n } p code lvl info = behind.raiseWord a.who.blk a.who.gang a.grp := by
    have htoldSup : told.sup b.asid = false := (modAccs_sup ..).trans ((modAccs_sup ..).trans hsup)
    unfold State.failPart
    simp -zeta only [hb]
    extract_lets told' p'
    have htold' : told' = told := rfl
    rw [htold', hcode, htoldSup, beq_false_of_ne hw, hbid]
    rfl
  have htriedOnly := h.modAcc hw rfl fun y => { y with tries := n }
  have htoldOnly := htriedOnly.modAcc hw (n := a.id) rfl (Access.withPart p.lane noted)
  have hfailedOnly := htoldOnly.modAcc hw (n := a.id) rfl (Access.withPart p.lane fails)
  have htoldParts : (Access.withPart p.lane noted { a with tries := n }).parts = [noted p] := withPart_one (a := { a with tries := n }) hparts noted
  have hfailedParts : (Access.withPart p.lane fails (Access.withPart p.lane noted { a with tries := n })).parts = [fails (noted p)] :=
    withPart_one (p := noted p) htoldParts fails
  have hbehindOnly := hfailedOnly.modAccs hw length_markBehind (markBehind_one hfailedParts PartSt.noConfusion)
  obtain ⟨b', hb', hh', hasid'⟩ := ((((hruns.modAccs hw _).modAccs hw _).modAccs hw _).modAccs hw markBehind : behind.Runs a.who.blk b.asid)
  have hsup' : behind.sup b'.asid = false :=
    (modAccs_sup ..).trans ((modAccs_sup ..).trans ((modAccs_sup ..).trans ((modAccs_sup ..).trans (hasid'.symm ▸ hsup))))
  have hraised := hbehindOnly.raises hfailedParts rfl hcode hb' hh' hsup'
  have hreqs : (behind.raiseWord a.who.blk a.who.gang a.grp).hostReqs = s.hostReqs :=
    (raiseWord_hostReqs ..).trans ((modAccs_hostReqs ..).trans ((modAccs_hostReqs ..).trans ((modAccs_hostReqs ..).trans (modAccs_hostReqs ..))))
  unfold State.failOn
  rw [hpart]
  exact ⟨hraised.settleOn hw a.id, (settleOn_hostReqs _ hw a.id).trans hreqs⟩

end

section
variable {s : State} {w : SliceRef} {sl : Slice} {b : Block} {a : Access} {p : Part} (hsup : s.sup b.asid = false) (hh : b.halt = none)
include hsup hh

/-- R149, R458: a load that no host answers in time halts its block with 0x2B. -/
theorem Awaits.hostCompletionTimeout {r : HostReq} (h : Awaits s w sl b a p r.tag) (hreqs : s.hostReqs = [r]) (hacc : r.acc = a.id)
    (hlane : r.lane = p.lane) (heng : r.eng = none) (hpull : r.pull = none) (hsc : r.sc = none) (hzero : r.zero = false)
    (htime : r.time + 50000000 ≤ s.gtime) :
    ∃ t, exec (.hostCompletionTimeout r.tag) s = .next t ∧ t.hostReqs = [] ∧ Terms.haltedWith t b.id 0x2B := by
  have hnow := h.congr (u := { s with hostReqs := [] }) rfl
  obtain ⟨hhalted, hnone⟩ := hnow.only.failOn hnow.parts hnow.lane hnow.who (asid := b.asid) ⟨b, hnow.blk, hh, rfl⟩ hsup (code := 0x2B) rfl 1 0xFF
    (BitVec.ofNat 64 0)
  rw [State.blk_id h.blk]
  refine ⟨_, ?_, hnone, hhalted⟩
  rw [exec_hostCompletionTimeout, execHostCompletionTimeout, hreqs]
  simp only [beq_self_eq_true, List.find?_cons_of_pos, Nat.not_lt.mpr htime, if_false, List.erase_cons_head, hostFree_of_room]
  unfold State.hostFail
  simp only [heng, hpull, hsc, hzero, Bool.false_eq_true, if_false, hacc, hnow.only.accOf, hlane, hnow.part_found]

/-- R85, R146: a load that has been asked for three times over the fabric without an answer halts its block with 0x2B. -/
theorem Awaits.fabricRequestTimeout {r : FabReq} (h : Awaits s w sl b a p r.rid) (hreqs : s.fabReqs = [r]) (hacc : r.acc = a.id)
    (hparts : r.parts = [(a.id, p.lane)]) (heng : r.eng = none) (hpull : r.pull = none) (hkind : a.kind = .load false)
    (htime : r.time + 8000 ≤ s.gtime) (hsends : 3 ≤ r.sends) :
    ∃ t, exec (.fabricRequestTimeout r.rid) s = .next t ∧ Terms.haltedWith t b.id 0x2B := by
  have hnow := h.congr (u := { s with fabReqs := [] }) rfl
  set info : Nat := if r.pkt.kind == 3 then 1 else 0 with hinfo
  set a' : Access := { a with tries := 3 } with ha'
  set u : State := (({ s with fabReqs := [] } : State).modAcc a.who a.id fun y => { y with tries := 3 }).leavePath a' p.lane with hu
  have honly : u.Only w { sl with acc := [a'] } a' := by
    have htried := hnow.only.modAcc h.lane rfl fun y => { y with tries := 3 }
    rw [hu, h.who]
    exact htried.congr rfl
  have hruns : u.Runs w.blk b.asid := by
    obtain ⟨b', hb', hrest⟩ := State.Runs.modAccs (s := { s with fabReqs := [] }) (w := w) ⟨b, hnow.blk, hh, rfl⟩ h.lane
      (modWhere (fun y => y.id == a.id) fun y => { y with tries := 3 })
    rw [hu, h.who]
    exact ⟨b', hb', hrest⟩
  have husup : u.sup b.asid = false := (modAccs_sup ..).trans hsup
  obtain ⟨hhalted, -⟩ := honly.failOn (p := p) h.parts h.lane h.who hruns husup (code := 0x2B) rfl 3 0xFF (BitVec.ofNat 64 info)
  rw [State.blk_id h.blk]
  refine ⟨_, ?_, hhalted⟩
  have hfail : ({ s with fabReqs := [] } : State).reqFail r 0x2B 3 info = u.failOn { a' with tries := 3 } p 0x2B 0xFF (BitVec.ofNat 64 info) := by
    have hwaiting : [p].filter (fun q => q.st == .sent r.rid) = [p] := by simp [h.sent]
    have hids : (r.parts.map (·.1)).foldl addNew [] = [a.id] := by
      rw [hparts]
      rfl
    have hparts' : ({ s with fabReqs := [] } : State).partsFail r.rid [a.id] 0x2B 3 info =
        u.failOn { a' with tries := 3 } p 0x2B 0xFF (BitVec.ofNat 64 info) := by
      unfold State.partsFail
      rw [List.foldl_cons, List.foldl_nil, hnow.only.accOf]
      dsimp only
      rw [h.parts, hwaiting]
      rfl
    have hpartsOnly : ({ s with fabReqs := [] } : State).reqFail r 0x2B 3 info = ({ s with fabReqs := [] } : State).partsFail r.rid [a.id] 0x2B 3 info := by
      unfold State.reqFail
      rw [heng, hpull]
      dsimp only
      rw [hacc, hnow.only.accOf]
      dsimp only
      rw [hkind, hids]
    exact hpartsOnly.trans hparts'
  rw [exec_fabricRequestTimeout, execFabricRequestTimeout, hreqs]
  simp only [beq_self_eq_true, List.find?_cons_of_pos, Nat.not_lt.mpr htime, if_false, Nat.not_lt.mpr hsends, List.erase_cons_head]
  exact congrArg _ hfail

end

/-- Settles O59: R85, R126 to R153, R191 to R201, R304, R439, R440, R447, R458, with the state of a line after SnpData (entry 25) and the
accesses of hosts at one instant (entry 24). -/
theorem fabricHostSteps : Obligations.FabricHostSteps := by
  intro s
  refine ⟨?packets, ?answers, fun r hreqs htime hsends => fabricRequestTimeout_resent hreqs htime hsends, ?completions,
    fun m hin hjobs => ⟨fun hone => markerCopy_last hin hjobs hone, fun hmore => markerCopy_first hin hjobs hmore⟩, ?markers, ?snoops,
    fun port sec st data hport hactive hreqs => goDataResponse_granted hport hactive hreqs st data, fun port pa n h => barMemoryAccess_read h,
    fun port pa l h => barMemoryAccess_write h, fun port pa n hports hholds hpos hin hall => cxlMemAccess_read hports hholds hpos hin hall,
    fun d asid page e size hwalks hqueue hwalk hops hfetch => pageWalkEnd_translated hwalks hqueue hwalk hops hfetch,
    fun n x htdev hsdev hlen hblock => ⟨fun hroom => kickNoticeArrival_queued htdev hsdev hlen hblock hroom,
      fun hfull => kickNoticeArrival_retried htdev hsdev hlen hblock hfull⟩,
    fun n htdev => kickRetry_local htdev,
    fun target v p i mask huse hbase hmask => ⟨fun dev asid hentry => peerSend_permitted p huse hbase hmask hentry,
      fun port pasid x hentry htarget hvector hpay => hostUiSend_permitted p huse hbase hmask hentry htarget hvector hpay⟩,
    fun asid v bid gn b g sl x htaker hb hg hone hlive hgrow => uiDelivery_entered htaker hb hg hone hlive hgrow, ?calls⟩
  case packets =>
    intro p hvault hplain hdst hnew hok
    refine ⟨vectorRead_answered hvault hplain hdst hnew hok, fun pa v haddrs hdata hjobs hmark hall hdv htokn hin => ⟨?_, ?_⟩⟩
    · exact vectorWrite_performed hplain hdst hnew hok haddrs hdata hjobs hmark hall hdv htokn hin
    · exact vectorAtomic_performed hplain hdst hnew hok haddrs hdata hjobs hmark hall hdv htokn hin
  case answers =>
    intro r w sl b a p v hreqs hacc hparts heng hpull hwaits _
    have h := awaits_of_waits hwaits
    exact ⟨fun hkind => h.readResponse hreqs hparts hpull hkind v, fun op hkind => h.atomicResponse hreqs hparts hkind v,
      fun hkind => h.writeAcceptance hreqs hacc hparts heng hkind,
      fun hkind hsup hh htime hsends => h.fabricRequestTimeout hsup hh hreqs hacc hparts heng hpull hkind htime hsends⟩
  case completions =>
    intro r w sl b a p v hreqs hacc hlane heng hpull hsc hzero hwaits hkind hsize
    have h := awaits_of_waits hwaits
    exact ⟨h.hostCompletion hreqs hacc hlane heng hpull hsc hzero hkind hsize v,
      fun hsup hh htime => h.hostCompletionTimeout hsup hh hreqs hacc hlane heng hpull hsc hzero htime⟩
  case markers =>
    exact fun m hout => ⟨fun hacc => markerCompletion_home hout hacc,
      fun w sl b a p hwaits hkind hacc hid => (awaits_of_waits hwaits).markerCompletion hout hkind hacc hid⟩
  case snoops =>
    intro port sec hport hall h evict x hx
    rcases List.mem_pair.mp hx with rfl | rfl
    · exact hostSnoop_answered hport hall (f := fun h => { h with cxl := none }) (by simp)
    · exact hostSnoop_answered hport hall (f := fun h => { h with cxl := h.cxl.map fun _ => .shared }) (by simp)
  case calls =>
    intro port pasid x r l hsc huse hport hentry hhost hposted hended hlanes hslot hasid addr hroom
    subst hport
    have hexec := hostSyscallEnd_asks hsc huse rfl hentry hhost hposted hended hlanes hslot hasid hroom
    rw [scAsk_lane hsc hlanes] at hexec
    exact ⟨_, hexec, rfl, rfl, rfl, rfl, rfl⟩

end Sys2Proof.Machine

namespace Sys2Proof.Machine

/-! ### A turn with nothing scheduled (R133, R134, R137, R138) -/

theorem turn_of_unplanned {s : State} (hplan : s.plan = []) : s.turn = s.turnFree := by
  unfold State.turn
  rw [hplan]

theorem step_of_turn {s t : State} (h : s.turn = .next t) : step s = .next t.poke := by
  unfold step
  rw [h]

theorem turnFree_due {s : State} {e : Event} {rest : List Event} (hwork : s.work = e :: rest) (harrived : s.arrived e = true) :
    s.turnFree = runEvent e { s with work := rest } := by
  have hdue : s.dueStep = some e := by
    unfold State.dueStep
    rw [hwork, List.find?_cons_of_pos harrived]
  unfold State.turnFree
  rw [hdue]
  dsimp only
  rw [hwork, List.erase_cons_head]

theorem turnFree_hop {s : State} {k : Nat} (hdue : s.dueStep = none) (hk : k < s.net.length) (hfirst : ∀ j < k, s.canHop j = false)
    (hhop : s.canHop k = true) : s.turnFree = .next (s.hop k) := by
  have hfound : (List.range s.net.length).find? s.canHop = some k :=
    List.find?_range_eq_some.mpr ⟨hhop, List.mem_range.mpr hk, fun j hj => by simp [hfirst j hj]⟩
  unfold State.turnFree
  rw [hdue]
  dsimp only
  rw [hfound]

theorem hop_net_length (s : State) (k : Nat) : (s.hop k).net.length = s.net.length := by
  unfold State.hop
  split
  · exact List.length_mapIdx
  · rfl

/-- Settles O25: R133, R134, R137, R138, R156. -/
theorem stepRunsEvent : Obligations.StepRunsEvent := by
  unfold Obligations.StepRunsEvent
  refine ⟨?due, ?hop⟩
  case due =>
    intro s e rest hplan hwork harrived
    have hturn : s.turn = runEvent e { s with work := rest } := (turn_of_unplanned hplan).trans (turnFree_due hwork harrived)
    rw [← hturn]
    rfl
  case hop =>
    intro s k p hplan hdue hfirst hhop hp
    have hk : k < s.net.length := (List.getElem?_eq_some_iff.mp hp).1
    have hturn : s.turn = .next (s.hop k) := (turn_of_unplanned hplan).trans (turnFree_hop hdue hk hfirst hhop)
    exact ⟨s.hop k, step_of_turn hturn, s.hop_eq k, hop_net_length s k, fun j hj => s.hop_other j k hj, s.hop_self k p hp hhop⟩

end Sys2Proof.Machine

namespace Sys2Proof.Machine

/-! ### Folds over dies, homes and messages -/

section
variable (s : State)

/-- The copies of a marker, one for each path that a list names, are all that is sent. -/
theorem foldl_send_marker (d id copies slice : Nat) (l : List Nat) :
    l.foldl (fun s k => s.send (.marker d { id, src := s.devNum, copies, path := k, slice })) s =
      { s with outs := s.outs ++ l.map fun k => .marker d { id, src := s.devNum, copies, path := k, slice } } := by
  induction l generalizing s with
  | nil => rw [List.foldl_nil, List.map_nil, List.append_nil]
  | cons k r ih =>
    rw [List.foldl_cons, ih, List.map_cons, List.append_cons]
    rfl

theorem foldl_modDie_eq (f : Die → Die) (l : List Nat) :
    l.foldl (fun s d => s.modDie d f) s = { s with dies := (l.foldl (fun s d => s.modDie d f) s).dies } :=
  List.foldlRecOn (motive := fun u : State => u = { s with dies := u.dies }) l _ rfl fun u hu d _ => by
    rw [hu]
    rfl

theorem die_foldl_modDie (f : Die → Die) {l : List Nat} (hl : l.Nodup) (k : Nat) :
    (l.foldl (fun s d => s.modDie d f) s).die k = if k ∈ l then f (s.die k) else s.die k := by
  induction l generalizing s with
  | nil => rfl
  | cons d r ih =>
    obtain ⟨hd, hr⟩ := List.nodup_cons.mp hl
    rw [List.foldl_cons, ih _ hr, State.die_modDie]
    by_cases hk : k = d
    · subst hk
      rw [if_neg hd, if_pos rfl, if_pos List.mem_cons_self]
    · simp [hk]

/-- Each of the eight dies has been changed, and no other. -/
theorem die_foldl_modDie_range (f : Die → Die) {d : Nat} (hd : d < 8) :
    ((List.range 8).foldl (fun s d => s.modDie d f) s).die d = f (s.die d) := by
  rw [die_foldl_modDie s f List.nodup_range, if_pos (List.mem_range.mpr hd)]

theorem foldl_modHome_eq (f : HomeSector → HomeSector) (l : List Nat) :
    l.foldl (fun s k => s.modHome k f) s = { s with homes := (l.foldl (fun s k => s.modHome k f) s).homes } :=
  List.foldlRecOn (motive := fun u : State => u = { s with homes := u.homes }) l _ rfl fun u hu k _ => by
    rw [hu]
    rfl

/-- A change that says the same when it is made twice has been made at each home of a list, and at no other. -/
theorem home_foldl_modHome {f : HomeSector → HomeSector} (hf : ∀ h, f (f h) = f h) (l : List Nat) (k : Nat) :
    (l.foldl (fun s k => s.modHome k f) s).home k = if k ∈ l then f (s.home k) else s.home k := by
  induction l generalizing s with
  | nil => rfl
  | cons d r ih =>
    rw [List.foldl_cons, ih, State.home_modHome]
    by_cases hk : k = d
    · subst hk
      simp [hf]
    · simp [hk]

end

/-- A list of pairs filtered by their keys holds under a key what it held, or nothing. -/
theorem mget_filter_key {α : Type} (p : Nat → Bool) (l : List (Nat × α)) (k : Nat) :
    mget (l.filter fun x => p x.1) k = if p k = true then mget l k else none := by
  induction l with
  | nil => simp
  | cons x r ih =>
    obtain ⟨i, v⟩ := x
    rw [List.filter_cons]
    by_cases hk : k = i
    · subst hk
      cases hp : p k <;> simp [hp, ih, mget_cons]
    · cases hp : p i <;> simp [hk, ih, mget_cons]

theorem exists_mget_of_mem {α : Type} {l : List (Nat × α)} {x : Nat × α} (h : x ∈ l) : ∃ v, mget l x.1 = some v := by
  induction l with
  | nil => exact nomatch h
  | cons y r ih =>
    rw [mget_cons]
    rcases List.mem_cons.mp h with rfl | hr
    · exact ⟨_, if_pos (beq_self_eq_true _)⟩
    · split
      · exact ⟨_, rfl⟩
      · exact ih hr

/-! ### The phases of an evacuation (R393 to R395) -/

theorem evacGo_begins (s : State) {v : DWord} (hgo : v.getLsbD 63 = true) (hphase : s.evacPhase = 0) :
    exec (.evacGo v) s = .next { s with
      evacCtl := BitVec.ofNat 64 (v.toNat / 2 ^ 48 % 512 * 2 ^ 48), evacErr := 0, evacPhase := 1, evacStart := s.gtime,
      work := s.work ++ [if v.toNat / 2 ^ 48 % 512 ∈ s.members then .evacCopying else .evacFailure 1] } := by
  rw [exec_evacGo, execEvacGo, State.evacBegin, if_pos hgo, if_neg (by simp [hphase])]
  refine congrArg Host.Outcome.next ?_
  by_cases hmem : v.toNat / 2 ^ 48 % 512 ∈ s.members
  · have hcontains : s.members.contains (fld v 48 9) = true := List.contains_iff_mem.mpr hmem
    rw [if_pos hmem]
    exact if_neg (by simpa using hcontains)
  · have hcontains : s.members.contains (fld v 48 9) = false := Bool.eq_false_iff.mpr fun h => hmem (List.contains_iff_mem.mp h)
    rw [if_neg hmem]
    exact if_pos (by simpa using hcontains)

theorem evacGo_underWay (s : State) {v : DWord} (hgo : v.getLsbD 63 = true) (hphase : s.evacPhase ≠ 0) : exec (.evacGo v) s = .next s := by
  rw [exec_evacGo, execEvacGo, State.evacBegin, if_pos hgo, if_pos (by simpa using hphase)]

theorem evacGo_withoutGo (s : State) {v : DWord} (hgo : v.getLsbD 63 = false) :
    exec (.evacGo v) s = .next (if s.evacPhase = 0 then { s with evacCtl := BitVec.ofNat 64 (v.toNat / 2 ^ 48 % 512 * 2 ^ 48) } else s) := by
  rw [exec_evacGo, execEvacGo, State.evacBegin, if_neg (Bool.eq_false_iff.mp hgo)]
  simp only [beq_iff_eq]
  rfl

/-- A block of those asked to yield is asked, and its unit is to be saved (R168). -/
theorem raiseYield_asks {s : State} {p : Block → Bool} {cause : SaveCause} {i : Nat} {b : Block} (hb : s.blk i = some b) (hp : p b = true) :
    (s.raiseYield p cause).blk i = some (b.askYield cause) ∧ .unitSave i ∈ (s.raiseYield p cause).work := by
  have hid : b.id = i := State.blk_id hb
  constructor
  · refine (find_map_key Block.id (fun b => if p b then b.askYield cause else b) (fun x => by split <;> rfl) s.blocks i).trans ?_
    rw [show s.blocks.find? (fun x => x.id == i) = some b from hb, Option.map_some, if_pos hp]
  · refine List.mem_append_right _ (List.mem_map.mpr ⟨i, List.mem_map.mpr ⟨b, ?_, hid⟩, rfl⟩)
    exact List.mem_filter.mpr ⟨List.mem_append_left _ (List.mem_of_find?_eq_some hb), hp⟩

theorem evacCopying_yields {s : State} (hphase : s.evacPhase = 1) :
    exec .evacCopying s = .next ({ s with evacPhase := 2 }.raiseYield (fun _ => true) .evac) := by
  rw [exec_evacCopying, execEvacCopying]
  exact congrArg Host.Outcome.next (if_pos (beq_iff_eq.mpr hphase))

/-- With every token at home there is none to recall. -/
theorem foldl_recall_allHome {s : State} {l : List Nat} (h : ∀ sec ∈ l, s.homeHere sec = true → s.allHome sec = true) :
    l.foldl (fun s sec => if s.homeHere sec then s.recall sec else s) s = s :=
  List.foldlRecOn (motive := fun u : State => u = s) l _ rfl fun u hu sec hsec => by
    subst hu
    split
    · next hhere => rw [State.recall, h sec hsec hhere, Bool.true_or, if_pos rfl]
    · rfl

theorem evacCopying_saved {s : State} (hphase : s.evacPhase = 2) (hidle : s.noUnits = true)
    (hhome : ∀ x ∈ s.homes, s.homeHere x.1 = true → s.allHome x.1 = true) :
    exec .evacCopying s = .next (if s.reaches (s.evacCtl.toNat / 2 ^ 48 % 512) = true
      then { s with evacPhase := 3, outs := s.outs ++ [.evacuate (s.evacCtl.toNat / 2 ^ 48 % 512) s.bound] }
      else { s with evacPhase := 3, work := s.work ++ [.evacFailure 3] }) := by
  have hrecall := foldl_recall_allHome (s := { s with evacPhase := 3 }) (l := s.homes.map (·.1)) fun sec hsec => by
    obtain ⟨x, hx, rfl⟩ := List.mem_map.mp hsec
    exact hhome x hx
  rw [exec_evacCopying, execEvacCopying]
  dsimp only
  rw [if_neg (by simp [hphase]), if_neg (by simp [hphase, hidle]), hrecall]
  show Host.Outcome.next (if (!s.reaches (s.evacCtl.toNat / 2 ^ 48 % 512)) = true then { s with evacPhase := 3 }.push [.evacFailure 3]
    else { s with evacPhase := 3 }.send (.evacuate (s.evacCtl.toNat / 2 ^ 48 % 512) s.bound)) = _
  cases s.reaches (s.evacCtl.toNat / 2 ^ 48 % 512) <;> rfl

/-- An evacuation's marker has gone to a device, one copy on each of `n` paths (R146, R394). -/
def State.Marked (s : State) (d n : Nat) : Prop :=
  ∃ m ∈ s.markersOut, m.dev = d ∧ m.who = evacWho ∧ ∀ k < n, ∃ x, .marker d x ∈ s.outs ∧ x.id = m.id ∧ x.path = k ∧ x.copies = n

/-- A marker to a device adds its copies to what has been sent, and itself to those that are out. -/
theorem sendMarker_eq (s : State) (w : Issuer) (acc d : Nat) :
    s.sendMarker w acc d = { s with
      nextId := s.nextId + 1
      outs := s.outs ++ (List.range (s.paths d).length).map fun k =>
        .marker d { id := s.nextId, src := s.devNum, copies := (s.paths d).length, path := k, slice := w.blk * 4096 + w.gang * 16 + w.slice }
      markersOut := s.markersOut ++ [{ id := s.nextId, who := w, acc, dev := d }] } := by
  unfold State.sendMarker
  simp only [State.newId]
  rw [foldl_send_marker]
  rfl

theorem sendMarker_marks (s : State) (d : Nat) : (s.sendMarker evacWho 0 d).Marked d (s.paths d).length := by
  rw [sendMarker_eq]
  exact ⟨_, List.mem_append_right _ (List.mem_singleton_self _), rfl, rfl, fun k hk =>
    ⟨_, List.mem_append_right _ (List.mem_map.mpr ⟨k, List.mem_range.mpr hk, rfl⟩), rfl, rfl, rfl⟩⟩

theorem State.Marked.sendMarker {s : State} {d n : Nat} (h : s.Marked d n) (w : Issuer) (acc d' : Nat) : (s.sendMarker w acc d').Marked d n := by
  obtain ⟨m, hm, hdev, hwho, hcopies⟩ := h
  rw [sendMarker_eq]
  exact ⟨m, List.mem_append_left _ hm, hdev, hwho, fun k hk => (hcopies k hk).imp fun x hx => ⟨List.mem_append_left _ hx.1, hx.2⟩⟩

theorem foldl_sendMarker_eq (s : State) (l : List Nat) : let t := l.foldl (fun s d => s.sendMarker evacWho 0 d) s
    t = { s with nextId := t.nextId, markersOut := t.markersOut, outs := t.outs } :=
  List.foldlRecOn (motive := fun u : State => u = { s with nextId := u.nextId, markersOut := u.markersOut, outs := u.outs }) l _ rfl
    fun u hu d _ => by
      rw [sendMarker_eq, hu]

theorem foldl_sendMarker_marks (s : State) {l : List Nat} {d : Nat} (hd : d ∈ l) :
    (l.foldl (fun s d => s.sendMarker evacWho 0 d) s).Marked d (s.paths d).length := by
  induction l generalizing s with
  | nil => exact nomatch hd
  | cons x r ih =>
    rw [List.foldl_cons]
    rcases List.mem_cons.mp hd with rfl | hr
    · exact List.foldlRecOn (motive := fun u : State => u.Marked d (s.paths d).length) r _ (sendMarker_marks s d) fun u hu y _ => hu.sendMarker ..
    · have hpaths : (s.sendMarker evacWho 0 x).paths d = s.paths d := by
        rw [sendMarker_eq]
        rfl
      rw [← hpaths]
      exact ih _ hr

/-- The other devices that this one's partition or routes name. -/
def State.otherDevs (s : State) : List Nat := ((s.members ++ s.routes.map (·.1)).foldl addNew []).filter fun d => d != s.devNum

theorem mem_otherDevs {s : State} {d : Nat} (h : d ∈ s.members ∨ d ∈ s.routes.map (·.1)) (hne : d ≠ s.devNum) : d ∈ s.otherDevs :=
  List.mem_filter.mpr ⟨mem_foldl_addNew.mpr (.inr (List.mem_append.mpr h)), by simpa using hne⟩

theorem evacDraining_marks {s : State} (hphase : s.evacPhase = 3) (hhome : ∀ x ∈ s.homes, s.homeHere x.1 = true → s.allHome x.1 = true) :
    exec .evacDraining s = .next (s.otherDevs.foldl (fun s d => s.sendMarker evacWho 0 d)
      ({ s with evacPhase := 4 }.send (s.evacData (fld s.evacCtl 48 9)))) := by
  have hdone : (s.homes.any fun x => s.homeHere x.1 && !s.allHome x.1) = false := List.any_eq_false.mpr fun x hx => by
    simpa using hhome x hx
  rw [exec_evacDraining, execEvacDraining]
  simp only [hphase, hdone]
  rfl

theorem evacDraining_spec {s : State} (hphase : s.evacPhase = 3) (hhome : ∀ x ∈ s.homes, s.homeHere x.1 = true → s.allHome x.1 = true) :
    ∃ t : State, exec .evacDraining s = .next t ∧ t = { s with evacPhase := 4, nextId := t.nextId, markersOut := t.markersOut, outs := t.outs } ∧
      ∀ d, d ∈ s.members ∨ d ∈ s.routes.map (·.1) → d ≠ s.devNum → ∃ m ∈ t.markersOut, m.dev = d ∧ m.who = evacWho ∧
        ∀ k < (s.paths d).length, ∃ x, .marker d x ∈ t.outs ∧ x.id = m.id ∧ x.path = k ∧ x.copies = (s.paths d).length := by
  have heq := foldl_sendMarker_eq ({ s with evacPhase := 4 }.send (s.evacData (fld s.evacCtl 48 9))) s.otherDevs
  refine ⟨_, evacDraining_marks hphase hhome, ?_, fun d hd hne => ?_⟩
  · exact heq
  · exact foldl_sendMarker_marks ({ s with evacPhase := 4 }.send (s.evacData (fld s.evacCtl 48 9))) (mem_otherDevs hd hne)

/-- A die whose queues the neighbour has. -/
def Die.emptied (x : Die) : Die := { x with queues := [], lastOf := [], chosen := [] }

theorem evacLatchFree_frees {s : State} (hphase : s.evacPhase = 4) (hdone : ∀ m ∈ s.markersOut, m.who ≠ evacWho) :
    exec .evacLatchFree s = .next ({ (List.range 8).foldl (fun s d => s.modDie d Die.emptied) s with
      evacPhase := 5, latch := true, saved := [], launches := [], bound := [], slots := [], slotHeld := [], slotPrev := [] } : State).platEvent := by
  have hnone : (s.markersOut.any fun m => m.who == evacWho) = false := List.any_eq_false.mpr fun m hm => by
    simpa using hdone m hm
  rw [exec_evacLatchFree, execEvacLatchFree]
  simp only [hphase, hnone]
  rfl

theorem evacLatchFree_spec {s : State} (hphase : s.evacPhase = 4) (hdone : ∀ m ∈ s.markersOut, m.who ≠ evacWho) :
    ∃ t : State, exec .evacLatchFree s = .next t ∧ t.evacPhase = 5 ∧ t.latch = true ∧ t.saved = [] ∧ t.launches = [] ∧ t.bound = [] ∧ t.slots = [] ∧
      (∀ d < 8, ∀ q, t.queue d q = []) ∧ t.mem = s.mem ∧ t.work = s.work := by
  have hexec := evacLatchFree_frees hphase hdone
  have heq := foldl_modDie_eq s Die.emptied (List.range 8)
  have hdies : ∀ d < 8, _ := fun d hd => die_foldl_modDie_range s Die.emptied (d := d) hd
  generalize (List.range 8).foldl (fun s d => s.modDie d Die.emptied) s = u at hexec heq hdies
  refine ⟨_, hexec, rfl, rfl, rfl, rfl, rfl, rfl, fun d hd q => ?_, ?_, ?_⟩
  · show mgetD (u.die d).queues q [] = []
    rw [hdies d hd]
    rfl
  · show u.mem = s.mem
    rw [heq]
  · show u.work = s.work
    rw [heq]

/-! ### An evacuation that fails (R396, R482) -/

theorem dropCause_launches (s : State) (asid : Nat) (cause : SaveCause) : (s.dropCause asid cause).saved.map (·.launch) = s.saved.map (·.launch) := by
  refine (List.map_map ..).trans (List.map_congr_left fun u _ => ?_)
  dsimp only [Function.comp]
  split <;> rfl

theorem foldl_dropCause_eq (s : State) (cause : SaveCause) (l : List Nat) : let t := l.foldl (fun s a => s.dropCause a cause) s
    t = { s with blocks := t.blocks, saved := t.saved, cores := t.cores } :=
  List.foldlRecOn (motive := fun u : State => u = { s with blocks := u.blocks, saved := u.saved, cores := u.cores }) l _ rfl fun u hu a _ => by
    rw [hu]
    rfl

theorem foldl_dropCause_launches (s : State) (cause : SaveCause) (l : List Nat) :
    (l.foldl (fun s a => s.dropCause a cause) s).saved.map (·.launch) = s.saved.map (·.launch) :=
  List.foldlRecOn (motive := fun u : State => u.saved.map (·.launch) = s.saved.map (·.launch)) l _ rfl fun u hu a _ =>
    (dropCause_launches u a cause).trans hu

theorem skipFirings_eq (s : State) : s.skipFirings = { s with slots := s.skipFirings.slots, timers := s.skipFirings.timers } := by
  unfold State.skipFirings
  dsimp only
  refine List.foldlRecOn (motive := fun u : State => u = { s with slots := u.slots, timers := u.timers }) _ _ rfl fun u hu x _ => ?_
  split
  · rw [hu]
    rfl
  · exact hu

/-- The end of an evacuation that fails: its phase and cause are recorded, and its markers are forgotten (R482). -/
def State.evacEnded (s : State) (cause : BitVec 8) : State :=
  { s with evacErr := BitVec.ofNat 32 (s.evacPhase * 256 + cause.toNat), evacPhase := 0, markersOut := s.markersOut.filter fun m => m.who != evacWho }

/-- A device that has taken its work up again after an evacuation that failed: its units are asked no longer, and firings are skipped. -/
structure EvacResumed (s u : State) (cause : BitVec 8) : Prop where
  eq : u = { s.evacEnded cause with blocks := u.blocks, saved := u.saved, cores := u.cores, slots := u.slots, timers := u.timers }
  launches : u.saved.map (·.launch) = s.saved.map (·.launch)

theorem evacFailure_resumes {s : State} (cause : BitVec 8) (hbegun : s.evacPhase ≠ 0) (hopen : s.evacPhase ≠ 5) :
    ∃ u, EvacResumed s u cause ∧ exec (.evacFailure cause) s =
      .next (u.push ((List.range 8).flatMap fun d => (u.die d).qbind.map fun x => Event.entryGrant d x.1)).wakeSched.platEvent := by
  set l := ((s.blocks.map (·.asid)) ++ s.saved.map (·.asid)).foldl addNew []
  have hdropped := foldl_dropCause_eq (s.evacEnded cause) .evac l
  have hlaunches := foldl_dropCause_launches (s.evacEnded cause) .evac l
  have hexec : exec (.evacFailure cause) s = .next (((l.foldl (fun s a => s.dropCause a .evac) (s.evacEnded cause)).skipFirings.push
      ((List.range 8).flatMap fun d => ((l.foldl (fun s a => s.dropCause a .evac) (s.evacEnded cause)).skipFirings.die d).qbind.map
        fun x => Event.entryGrant d x.1)).wakeSched.platEvent) := by
    rw [exec_evacFailure, execEvacFailure, if_neg (by simp [hbegun, hopen])]
    rfl
  generalize l.foldl (fun s a => s.dropCause a .evac) (s.evacEnded cause) = v at hdropped hlaunches hexec
  have hskipped := skipFirings_eq v
  generalize v.skipFirings = u at hskipped hexec
  refine ⟨u, ⟨?_, ?_⟩, hexec⟩
  · rw [hskipped, hdropped]
  · rw [hskipped]
    exact hlaunches

theorem unitRestore_mem_wakeSched {s : State} {n : Nat} (h : n ∈ s.saved.map (·.launch)) : .unitRestore n ∈ s.wakeSched.work := by
  obtain ⟨u, hu, rfl⟩ := List.mem_map.mp h
  exact List.mem_append_right _ (List.mem_append_left _ (List.mem_append_left _ (List.mem_map.mpr ⟨u, hu, rfl⟩)))

theorem evacFailure_spec {s : State} (cause : BitVec 8) (hbegun : s.evacPhase ≠ 0) (hopen : s.evacPhase ≠ 5) :
    ∃ t : State, exec (.evacFailure cause) s = .next t ∧ t.evacPhase = 0 ∧ t.latch = s.latch ∧
      t.evacErr = BitVec.ofNat 32 (s.evacPhase * 256 + cause.toNat) ∧ (∀ m ∈ t.markersOut, m.who ≠ evacWho) ∧
      (∀ u ∈ s.saved, .unitRestore u.launch ∈ t.work) ∧ ∀ d < 8, ∀ x ∈ (s.die d).qbind, .entryGrant d x.1 ∈ t.work := by
  obtain ⟨u, ⟨heq, hlaunches⟩, hexec⟩ := evacFailure_resumes cause hbegun hopen
  have hdie : ∀ d, u.die d = s.die d := fun d => by
    rw [heq]
    rfl
  refine ⟨_, hexec, ?_, ?_, ?_, fun m hm => ?_, fun x hx => ?_, fun d hd x hx => ?_⟩
  · show u.evacPhase = 0
    rw [heq]
    rfl
  · show u.latch = s.latch
    rw [heq]
    rfl
  · show u.evacErr = _
    rw [heq]
    rfl
  · have hmem : m ∈ u.markersOut := hm
    rw [heq] at hmem
    simpa using (List.mem_filter.mp hmem).2
  · exact unitRestore_mem_wakeSched (s := u.push _) (hlaunches ▸ List.mem_map.mpr ⟨x, hx, rfl⟩)
  · refine List.mem_append_left _ (List.mem_append_right _ (List.mem_flatMap.mpr ⟨d, List.mem_range.mpr hd, List.mem_map.mpr ⟨x, ?_, rfl⟩⟩))
    rwa [hdie]

end Sys2Proof.Machine

namespace Sys2Proof.Machine

/-! ### Links (R398, R404, R405, R450, R451) -/

theorem satInc_toNat (x : Word) : (satInc x).toNat = min (2 ^ 32 - 1) (x.toNat + 1) := by
  unfold satInc
  split
  · next h =>
    rw [eq_of_beq h]
    rfl
  · next h =>
    have hne : x.toNat ≠ 4294967295 := fun he => h (beq_iff_eq.mpr (BitVec.eq_of_toNat_eq he))
    have hx := x.isLt
    rw [BitVec.toNat_add, show (1 : Word).toNat = 1 from rfl]
    omega

theorem chargeErr_eq {r : DvReg} {k : Nat} (h : errKey r = some k) (s : State) :
    s.chargeErr r = { s with errs := msetD s.errs k (satInc (mgetD s.errs k 0)) 0 } := by
  unfold State.chargeErr
  rw [h]

/-- A counter that is charged counts one more, up to its largest value, and no other changes (R405). -/
theorem chargeErr_counts {r : DvReg} {k : Nat} (h : errKey r = some k) (s : State) (i : Nat) :
    (mgetD (s.chargeErr r).errs i 0).toNat = if i = k then min (2 ^ 32 - 1) ((mgetD s.errs i 0).toNat + 1) else (mgetD s.errs i 0).toNat := by
  rw [chargeErr_eq h, mgetD_msetD]
  split
  · next hi => rw [hi, satInc_toNat]
  · rfl

/-- The error counter of a link (R405). -/
def linkCounter : LinkRef → DvReg
  | .kazath p => .errLnk p
  | .internal _ => .errInt

theorem exec_linkReplay_charges (l : LinkRef) (s : State) : exec (.linkReplay l) s = .next (s.chargeErr (linkCounter l)) := by
  rw [exec_linkReplay]
  cases l <;> rfl

theorem linkReplay_charged {l : LinkRef} {k : Nat} (h : errKey (linkCounter l) = some k) (s : State) :
    ∃ t : State, exec (.linkReplay l) s = .next t ∧ t = { s with errs := t.errs } ∧
      ∀ i, (mgetD t.errs i 0).toNat = if i = k then min (2 ^ 32 - 1) ((mgetD s.errs i 0).toNat + 1) else (mgetD s.errs i 0).toNat := by
  refine ⟨_, exec_linkReplay_charges l s, ?_, chargeErr_counts h s⟩
  rw [chargeErr_eq h]

/-- What a record on the device ring changes: the ring's register, memory, due steps and messages (R404, R482). -/
theorem putDevice_eq (s : State) (r : List Byte) : s.putDevice r = { s with
    fltCtl := (ringPut s.fltBase s.fltCtl).2, work := (s.putDevice r).work, mem := (s.putDevice r).mem, dies := (s.putDevice r).dies,
    outs := (s.putDevice r).outs } := by
  have hevac : ∀ (u : State) (l : List Event) {p : Prop} (d : Decidable p),
      @ite _ p d u (u.push l) = { u with work := (@ite _ p d u (u.push l)).work } := fun u l p d => by
    split <;> rfl
  unfold State.putDevice
  dsimp only
  cases (ringPut s.fltBase s.fltCtl).1 with
  | some a =>
    dsimp only
    rw [wrBytes_eq, hevac]
    rfl
  | none =>
    rw [hevac]
    rfl

/-- The state in which the record of a link that goes down is written (R451). -/
def State.cutOff (s : State) (l : LinkRef) : State := { s.keepPaths.clearStreams l with linksDown := addNew s.linksDown l }

theorem linkDown_cuts {l : LinkRef} (hl : linkOk l = true) (s : State) : ∃ r, exec (.linkDown l) s = .next ((s.cutOff l).putDevice r) := by
  rw [exec_linkDown]
  unfold execLinkDown
  rw [if_neg (by simp [hl])]
  cases l <;> exact ⟨_, rfl⟩

theorem paths_avoid_down {s : State} {p : Nat} (h : .kazath p ∈ s.linksDown) (d : Nat) : ∀ q ∈ s.paths d, q.headD 0 ≠ p := by
  intro q hq he
  have hup := (List.mem_filter.mp hq).2
  rw [he] at hup
  simp [h] at hup

theorem filter_streams (p : Nat) (l : List (Nat × Stream)) : (l.filter fun x => x.1 / 64 != p) = l.filter fun x => x.1 / 64 ≠ p :=
  List.filter_congr fun x _ => by simp [bne, Bool.beq_eq_decide_eq]

theorem linkDown_spec {l : LinkRef} (hl : linkOk l = true) (s : State) :
    ∃ t : State, exec (.linkDown l) s = .next t ∧ l ∈ t.linksDown ∧ (∀ x ∈ s.linksDown, x ∈ t.linksDown) ∧ t.fltCtl = (ringPut s.fltBase s.fltCtl).2 ∧
      t.vault = s.vault ∧ ∀ p, l = .kazath p → (∀ d, ∀ q ∈ t.paths d, q.headD 0 ≠ p) ∧ t.streams = (s.streams.filter fun x => x.1 / 64 ≠ p) ∧
        t.sendCtx = s.sendCtx.filter fun x => x.1 / 64 ≠ p := by
  obtain ⟨r, hexec⟩ := linkDown_cuts hl s
  have heq := putDevice_eq (s.cutOff l) r
  have hcut : s.cutOff l = { s.keepPaths with linksDown := addNew s.linksDown l, streams := (s.cutOff l).streams, sendCtx := (s.cutOff l).sendCtx } := by
    cases l <;> rfl
  generalize (s.cutOff l).putDevice r = t at hexec heq
  have hdown : t.linksDown = addNew s.linksDown l := by rw [heq]; rfl
  have hin : l ∈ t.linksDown := by rw [hdown]; exact mem_addNew.mpr (.inr rfl)
  refine ⟨t, hexec, hin, fun x hx => ?_, ?_, ?_, fun p hp => ?_⟩
  · rw [hdown]
    exact mem_addNew.mpr (.inl hx)
  · rw [heq, hcut]
    rfl
  · rw [heq, hcut]
    rfl
  · subst hp
    refine ⟨paths_avoid_down hin, ?_, ?_⟩
    · rw [heq]
      exact filter_streams p s.streams
    · rw [heq]
      exact filter_streams p s.sendCtx

theorem linkUp_spec {l : LinkRef} (hl : linkOk l = true) (s : State) :
    ∃ t : State, exec (.linkUp l) s = .next t ∧
      t = { s with linksDown := t.linksDown, streams := t.streams, sendCtx := t.sendCtx, outPast := t.outPast } ∧
      (∀ x, x ∈ t.linksDown ↔ x ∈ s.linksDown ∧ x ≠ l) ∧ ∀ p, l = .kazath p → t.streams = (s.streams.filter fun x => x.1 / 64 ≠ p) ∧
        t.sendCtx = s.sendCtx.filter fun x => x.1 / 64 ≠ p := by
  have hexec : exec (.linkUp l) s = .next { s.keepPaths.clearStreams l with linksDown := s.linksDown.filter fun x => x != l } := by
    rw [exec_linkUp, execLinkUp, if_neg (by simp [hl])]
    cases l <;> rfl
  refine ⟨_, hexec, ?_, fun x => ?_, fun p hp => ?_⟩
  · cases l <;> rfl
  · simp [List.mem_filter]
  · subst hp
    exact ⟨filter_streams p s.streams, filter_streams p s.sendCtx⟩

theorem link_absent {l : LinkRef} (hl : linkOk l = false) (s : State) : exec (.linkDown l) s = .next s ∧ exec (.linkUp l) s = .next s := by
  rw [exec_linkDown, exec_linkUp]
  unfold execLinkDown execLinkUp
  rw [if_pos (by simp [hl]), if_pos (by simp [hl])]
  exact ⟨rfl, rfl⟩

/-! ### Turning (R136) -/

theorem turn_moves {x : NetPkt} {d : Nat} {sw : Sw} {i : Nat} {b : Sw × Nat} (hpos : x.pos = .buf d sw i) (hwalk : walkOk (turnLinks x.plane) = true)
    (hto : turnTo (turnLinks x.plane) (sw, i) = some b) : x.turn d = { x with pos := .buf d b.1 b.2, displaced := true } := by
  unfold NetPkt.turn
  rw [hpos]
  dsimp only
  rw [hwalk, hto, beq_self_eq_true]
  rfl

theorem turn_eq (d : Nat) (x : NetPkt) : x.turn d = { x with pos := (x.turn d).pos, displaced := (x.turn d).displaced } := by
  unfold NetPkt.turn
  split
  · dsimp only
    split
    · split <;> rfl
    · rfl
  · rfl

/-! ### Tokens lost with their message (R453) -/

theorem count_erase_two {α : Type} [BEq α] [LawfulBEq α] [DecidableEq α] {a b : α} (hne : a ≠ b) (l : List α) (e : α) :
    ((l.erase a).erase b).count e = l.count e - if e = a ∨ e = b then 1 else 0 := by
  rw [List.count_erase, List.count_erase]
  by_cases ha : e = a
  · subst ha
    simp [hne.symm]
  · by_cases hb : e = b
    · subst hb
      simp [hne]
    · simp [ha, hb, Ne.symm ha, Ne.symm hb]

/-! ### A route withdrawn (R455) -/

/-- The home of a sector is at another device, by the number that its address bears (R73). -/
def homedAt (dev sec : Nat) : Bool := isFab sec && fabDev (sec * 64) == dev

/-- A die without what it holds of a device's sectors. -/
def Die.forget (dev : Nat) (x : Die) : Die :=
  { x with l2 := x.l2.filter fun y => !homedAt dev y.1, pact := x.pact.filter fun y => !homedAt dev y.sec,
           heldActs := x.heldActs.filter fun y => !homedAt dev y.sec }

/-- A die that holds no activations takes none. -/
theorem takeHeld_of_none {s : State} {d : Nat} (h : (s.die d).heldActs = []) : s.takeHeld d = s := by
  unfold State.takeHeld
  rw [h]
  rfl

theorem heldActs_forget {s : State} {d k : Nat} (dev : Nat) (h : (s.die k).heldActs = []) : ((s.modDie d (Die.forget dev)).die k).heldActs = [] := by
  rw [State.die_modDie]
  split
  · next hk =>
    subst hk
    rw [Die.forget, h]
    rfl
  · exact h

theorem foldl_forget_takeHeld (dev : Nat) {l : List Nat} {s : State} (h : ∀ d ∈ l, (s.die d).heldActs = []) :
    l.foldl (fun s d => (s.modDie d (Die.forget dev)).takeHeld d) s = l.foldl (fun s d => s.modDie d (Die.forget dev)) s := by
  induction l generalizing s with
  | nil => rfl
  | cons d r ih =>
    rw [List.foldl_cons, List.foldl_cons, takeHeld_of_none (heldActs_forget dev (h d List.mem_cons_self))]
    exact ih fun k hk => heldActs_forget dev (h k (List.mem_cons_of_mem d hk))

theorem l2_forget (dev : Nat) (x : Die) (sec : Nat) :
    mgetD (x.forget dev).l2 sec {} = if isFab sec = true ∧ fabDev (sec * 64) = dev then {} else mgetD x.l2 sec {} := by
  have hits : homedAt dev sec = decide (isFab sec = true ∧ fabDev (sec * 64) = dev) := by
    simp [homedAt, Bool.beq_eq_decide_eq]
  rw [mgetD, Die.forget, mget_filter_key fun k => !homedAt dev k, hits]
  by_cases h : isFab sec = true ∧ fabDev (sec * 64) = dev <;> simp [h, mgetD]

/-- A device that is home to no sector counts no agent as gone. -/
theorem foldl_agentGone_of_none {s : State} (h : s.homes = []) (dev : Nat) :
    ((s.homes.map (·.1)).filter fun sec => isFab sec).foldl (fun s sec => s.agentGone sec dev) s = s := by
  rw [h]
  rfl

/-- The device with no path to another, with the paths of what it has sent noted (R141). -/
def State.withdrawn (s : State) (dev : Nat) : State := { s.keepPaths with routes := mset s.routes dev [] }

theorem paths_withdrawn (s : State) (dev d : Nat) : (s.withdrawn dev).paths d = if d = dev then [] else s.paths d := by
  show (mgetD (mset s.routes dev []) d [[0]]).filter _ = _
  rw [mgetD_mset]
  split <;> rfl

theorem routeWithdrawal_drops {s : State} {dev : Nat} (hdev : dev ≠ s.devNum) (hhomes : s.homes = []) (hheld : ∀ d < 8, (s.die d).heldActs = []) :
    exec (.routeWithdrawal dev) s = .next ((List.range 8).foldl (fun s d => s.modDie d (Die.forget dev)) (s.withdrawn dev)) := by
  have hfold := foldl_forget_takeHeld dev (l := List.range 8) (s := s.withdrawn dev) fun d hd => hheld d (List.mem_range.mp hd)
  have hnone : ((List.range 8).foldl (fun s d => State.modDie s d (Die.forget dev)) (s.withdrawn dev)).homes = [] := by
    rw [foldl_modDie_eq]
    exact hhomes
  rw [exec_routeWithdrawal, execRouteWithdrawal, if_neg (by simpa using hdev), ← hfold]
  rw [← hfold] at hnone
  exact congrArg Host.Outcome.next (foldl_agentGone_of_none hnone dev)

theorem routeWithdrawal_spec {s : State} {dev : Nat} (hdev : dev ≠ s.devNum) (hhomes : s.homes = []) (hheld : ∀ d < 8, (s.die d).heldActs = []) :
    ∃ t : State, exec (.routeWithdrawal dev) s = .next t ∧ t = { s with routes := t.routes, dies := t.dies, outPast := t.outPast } ∧
      t.reaches dev = false ∧ (∀ d, d ≠ dev → t.paths d = s.paths d) ∧
      ∀ d < 8, ∀ sec, t.l2 d sec = if isFab sec = true ∧ fabDev (sec * 64) = dev then {} else s.l2 d sec := by
  have hexec := routeWithdrawal_drops hdev hhomes hheld
  have heq := foldl_modDie_eq (s.withdrawn dev) (Die.forget dev) (List.range 8)
  have hdies : ∀ d < 8, _ := fun d hd => die_foldl_modDie_range (s.withdrawn dev) (Die.forget dev) (d := d) hd
  generalize (List.range 8).foldl (fun s d => s.modDie d (Die.forget dev)) (s.withdrawn dev) = t at hexec heq hdies
  have hpaths : ∀ d, t.paths d = if d = dev then [] else s.paths d := fun d => by
    rw [← paths_withdrawn, heq]
    rfl
  refine ⟨t, hexec, ?_, ?_, fun d hd => ?_, fun d hd sec => ?_⟩
  · rw [heq]
    rfl
  · have hnum : t.devNum = s.devNum := by
      rw [heq]
      rfl
    rw [State.reaches, hpaths, if_pos rfl, hnum, beq_eq_false_iff_ne.mpr hdev]
    rfl
  · rw [hpaths, if_neg hd]
  · rw [State.l2, hdies d hd, l2_forget]
    rfl

/-! ### A range exported (R486) -/

/-- An exported range holds an address, with its T and its devices. -/
def Export.holds (e : Export) (a k : Nat) (ds : List Nat) : Prop := e.base ≤ a ∧ a < e.base + e.len ∧ e.t = k ∧ e.devs = ds

/-- What an exported range has below an address. -/
def Export.below (e : Export) (base : Nat) : List Export := if e.base < base then [{ e with len := base - e.base }] else []

/-- What an exported range has from an address on. -/
def Export.above (e : Export) (stop : Nat) : List Export :=
  if stop < e.base + e.len then [{ e with base := stop, len := e.base + e.len - stop }] else []

theorem below_holds {e : Export} {base : Nat} (hmeets : base < e.base + e.len) (a k : Nat) (ds : List Nat) :
    (∃ x ∈ e.below base, x.holds a k ds) ↔ e.holds a k ds ∧ a < base := by
  unfold Export.below
  split
  · simp only [List.mem_singleton, exists_eq_left, Export.holds]
    exact ⟨fun ⟨hlo, hhi, hkind⟩ => ⟨⟨hlo, by omega, hkind⟩, by omega⟩, fun ⟨⟨hlo, hhi, hkind⟩, ha⟩ => ⟨hlo, by omega, hkind⟩⟩
  · exact ⟨fun ⟨_, hx, _⟩ => (nomatch hx), fun ⟨⟨hlo, _⟩, ha⟩ => by omega⟩

theorem above_holds {e : Export} {stop : Nat} (hmeets : e.base < stop) (a k : Nat) (ds : List Nat) :
    (∃ x ∈ e.above stop, x.holds a k ds) ↔ e.holds a k ds ∧ stop ≤ a := by
  unfold Export.above
  split
  · simp only [List.mem_singleton, exists_eq_left, Export.holds]
    exact ⟨fun ⟨hlo, hhi, hkind⟩ => ⟨⟨by omega, by omega, hkind⟩, hlo⟩, fun ⟨⟨hlo, hhi, hkind⟩, ha⟩ => ⟨ha, by omega, hkind⟩⟩
  · exact ⟨fun ⟨_, hx, _⟩ => (nomatch hx), fun ⟨⟨_, hhi, _⟩, ha⟩ => by omega⟩

/-- What stays of an exported range holds what it held, outside the one exported anew. -/
theorem less_holds (e : Export) (base len a k : Nat) (ds : List Nat) :
    (∃ x ∈ e.less base len, x.holds a k ds) ↔ e.holds a k ds ∧ ¬ (base ≤ a ∧ a < base + len) := by
  by_cases hmeets : e.base < base + len ∧ base < e.base + e.len
  · have hless : e.less base len = e.below base ++ e.above (base + len) := if_pos (by simpa using hmeets)
    have hout : (a < base ∨ base + len ≤ a) ↔ ¬ (base ≤ a ∧ a < base + len) := by omega
    simp only [hless, List.mem_append, or_and_right, exists_or]
    rw [below_holds hmeets.2, above_holds hmeets.1, ← and_or_left, hout]
  · have hless : e.less base len = [e] := if_neg (by simpa using hmeets)
    simp only [hless, List.mem_singleton, exists_eq_left]
    exact ⟨fun h => ⟨h, fun hin => hmeets ⟨by have := h.1; omega, by have := h.2.1; omega⟩⟩, fun h => h.1⟩

end Sys2Proof.Machine

namespace Sys2Proof.Machine

/-- A home whose range is exported with T: it holds all tokens, the owner token among them. -/
def HomeSector.exported (n : Nat) (h : HomeSector) : HomeSector := { h with tokn := n, t := n, own := true }

/-- The exports after a range has been exported anew: of each earlier one what lies beside the range, and the new one. -/
def State.exporting (s : State) (base len n : Nat) (devs : List Nat) : State :=
  { s with exports := (s.exports.flatMap fun e => e.less base len) ++ [{ base, len, t := n, devs }] }

/-- The listed sectors of a range. -/
def State.rangeHomes (s : State) (base len : Nat) : List Nat := (s.homes.map (·.1)).filter (s.inRange base len)

theorem rangeHomes_allHome {s : State} {base len : Nat} (hhome : ∀ x ∈ s.homes, s.inRange base len x.1 = true → s.allHome x.1 = true) :
    (s.rangeHomes base len).all s.allHome = true :=
  List.all_eq_true.mpr fun sec hsec => by
    obtain ⟨hmem, hin⟩ := List.mem_filter.mp hsec
    obtain ⟨x, hx, rfl⟩ := List.mem_map.mp hmem
    exact hhome x hx hin

theorem mem_rangeHomes {s : State} {x : Nat × HomeSector} (hx : x ∈ s.homes) (base len : Nat) :
    x.1 ∈ s.rangeHomes base len ↔ s.inRange base len x.1 = true := by
  rw [State.rangeHomes, List.mem_filter]
  exact and_iff_right (List.mem_map_of_mem hx)

theorem rangeExport_exports {s : State} {base len n : Nat} {devs : List Nat} (hn : n = 64 ∨ n = 256) (hdevs : devs.length ≤ n / 8)
    (hhome : ∀ x ∈ s.homes, s.inRange base len x.1 = true → s.allHome x.1 = true) :
    exec (.rangeExport base len n devs) s = .next ((s.rangeHomes base len).foldl
      (fun s sec => s.modHome sec (HomeSector.exported n)) (s.exporting base len n devs)) := by
  have hall := rangeHomes_allHome hhome
  have hroom : decide (n / 8 < devs.length) = false := by simpa using hdevs
  rw [exec_rangeExport]
  refine congrArg Host.Outcome.next ((if_neg fun h => ?_).trans ?_)
  · rw [show ((s.homes.map (·.1)).filter (s.inRange base len)).all s.allHome = true from hall, hroom] at h
    rcases hn with rfl | rfl <;> exact nomatch h
  · rcases hn with rfl | rfl <;> rfl

theorem less_exports_holds (s : State) (base len a k : Nat) (ds : List Nat) :
    (∃ e ∈ s.exports.flatMap fun e => e.less base len, e.holds a k ds) ↔
      (∃ e ∈ s.exports, e.holds a k ds) ∧ ¬ (base ≤ a ∧ a < base + len) := by
  constructor
  · rintro ⟨x, hx, hholds⟩
    obtain ⟨e, he, hless⟩ := List.mem_flatMap.mp hx
    obtain ⟨hin, hout⟩ := (less_holds e base len a k ds).mp ⟨x, hless, hholds⟩
    exact ⟨⟨e, he, hin⟩, hout⟩
  · rintro ⟨⟨e, he, hholds⟩, hout⟩
    obtain ⟨x, hless, hx⟩ := (less_holds e base len a k ds).mpr ⟨hholds, hout⟩
    exact ⟨x, List.mem_flatMap.mpr ⟨e, he, hless⟩, hx⟩

/-- What a home keeps for a listed sector does not depend on the exports. -/
theorem home_of_listed {s t : State} (hhomes : t.homes = s.homes) {x : Nat × HomeSector} (hx : x ∈ s.homes) : t.home x.1 = s.home x.1 := by
  obtain ⟨v, hv⟩ := exists_mget_of_mem hx
  unfold State.home
  rw [hhomes, hv]
  rfl

theorem rangeExport_spec {s : State} {base len n : Nat} {devs : List Nat} (hn : n = 64 ∨ n = 256) (hdevs : devs.length ≤ n / 8)
    (hhome : ∀ x ∈ s.homes, s.inRange base len x.1 = true → s.allHome x.1 = true) :
    ∃ t : State, exec (.rangeExport base len n devs) s = .next t ∧ t = { s with exports := t.exports, homes := t.homes } ∧
      t.exports = (s.exports.flatMap fun e => e.less base len) ++ [{ base, len, t := n, devs }] ∧
      ∀ x ∈ s.homes, (s.inRange base len x.1 = true → t.home x.1 = (s.home x.1).exported n) ∧
        (s.inRange base len x.1 = false → t.home x.1 = s.home x.1) := by
  have hexec := rangeExport_exports hn hdevs hhome
  have heq := foldl_modHome_eq (s.exporting base len n devs) (HomeSector.exported n) (s.rangeHomes base len)
  have hhomes := home_foldl_modHome (s.exporting base len n devs) (f := HomeSector.exported n) (fun _ => rfl) (s.rangeHomes base len)
  generalize (s.rangeHomes base len).foldl (fun s k => s.modHome k (HomeSector.exported n)) (s.exporting base len n devs) = t at hexec heq hhomes
  refine ⟨t, hexec, ?_, ?_, fun x hx => ?_⟩
  · rw [heq]
    rfl
  · rw [heq]
    rfl
  · rw [hhomes, home_of_listed (s := s) (t := s.exporting base len n devs) rfl hx]
    have hlisted := mem_rangeHomes hx base len
    exact ⟨fun hin => if_pos (hlisted.mpr hin), fun hout => if_neg fun hmem => Bool.eq_false_iff.mp hout (hlisted.mp hmem)⟩

/-! ### The statement -/

/-- Settles O55: R136, R146, R393 to R396, R398, R404, R405, R450, R451, R453, R455, R482, R486. How the phases of an evacuation advance and
what a range exported earlier keeps beside one exported anew are the model's choices (entries 31 and 25). -/
theorem evacuationLinks : Obligations.EvacuationLinks := by
  unfold Obligations.EvacuationLinks
  intro s
  refine ⟨?go, fun v hgo => ⟨_, evacGo_withoutGo s hgo, rfl⟩, ?yields, ?copied, ?draining, ?latch,
    fun cause hbegun hopen => evacFailure_spec cause hbegun hopen, ?replay, fun l hl => linkDown_spec hl s, fun l hl => link_absent hl s,
    fun l hl => linkUp_spec hl s, ?turning, ?expiry, ?withdrawal, ?exported⟩
  case go =>
    intro v n hgo
    by_cases hphase : s.evacPhase = 0
    · exact ⟨_, evacGo_begins s hgo hphase, fun h => absurd hphase h, fun _ => rfl⟩
    · exact ⟨s, evacGo_underWay s hgo hphase, fun _ => rfl, fun h => absurd h hphase⟩
  case yields =>
    intro hphase
    refine ⟨_, evacCopying_yields hphase, rfl, fun i b hb => ?_⟩
    obtain ⟨hblk, hwork⟩ := raiseYield_asks (s := { s with evacPhase := 2 }) (p := fun _ => true) (cause := .evac) hb rfl
    exact ⟨_, hblk, rfl, mem_addNew.mpr (.inr rfl), hwork⟩
  case copied =>
    intro hphase hidle hhome
    exact ⟨_, evacCopying_saved hphase hidle hhome, rfl⟩
  case draining =>
    intro hphase hhome
    exact evacDraining_spec hphase hhome
  case latch =>
    intro hphase hdone
    exact evacLatchFree_spec hphase hdone
  case replay =>
    intro l k hk
    refine linkReplay_charged ?_ s
    cases l with
    | kazath p =>
      obtain ⟨hp, rfl⟩ := hk
      exact if_pos hp
    | internal i => exact congrArg some hk.symm
  case turning =>
    intro d
    refine ⟨_, (exec_turning d s).trans (execTurning_eq d s), rfl, rfl, fun x sw i hpos hwalk b hto => turn_moves hpos hwalk hto, turn_eq d, ?_,
      fun k hk => die_modDie_ne _ _ hk⟩
    rw [State.die_modDie, if_pos rfl]
    rfl
  case expiry =>
    intro m
    exact ⟨_, exec_tokenMessageExpiry m s, rfl, count_erase_two (a := .tokenArrival m) (b := .writeBack m) (by simp) s.work⟩
  case withdrawal =>
    intro dev hdev hhomes hheld
    exact routeWithdrawal_spec hdev hhomes hheld
  case exported =>
    intro base len n devs hn hdevs hhome
    obtain ⟨t, hexec, heq, hexports, hhomes⟩ := rangeExport_spec hn hdevs hhome
    refine ⟨t, hexec, heq, ⟨_, hexports, fun a k ds => less_exports_holds s base len a k ds⟩, fun x hx => ?_⟩
    obtain ⟨hin, hout⟩ := hhomes x hx
    exact ⟨fun h => by rw [hin h]; exact ⟨rfl, rfl, rfl⟩, hout⟩

end Sys2Proof.Machine

namespace Sys2Proof.Machine

/-! ### A scheduled agent issues its word (R166, R462) -/

/-- Where no array holds an error, the word that issues meets none. -/
theorem meetIssue_of_clean {s : State} (h : s.upsets = []) (core : Nat) : s.meetIssue core = (false, s) := by
  unfold State.meetIssue
  rw [h]
  rfl

/-- The turn of an agent that may issue. -/
theorem turn_issue {s : State} {a : Agent} {x : Sum PortSplit Block} {rest : List Turn} (hplan : s.plan = .issue a :: rest) (hmay : s.mayIssue a = some x) :
    s.turn = State.issue { s with plan := rest } x := by
  unfold State.turn
  rw [hplan]
  dsimp only
  rw [hmay]

/-- A word that has been fetched is issued. -/
theorem issueSplit_of_fetched {s sf : State} {x : PortSplit} {w : DWord} (hfetch : s.fetch x.b (x.g.splitPc x.sp) = .word w sf) (hclean : sf.upsets = []) :
    s.issueSplit x = sf.issueWord x w := by
  unfold State.issueSplit
  dsimp only
  rw [hfetch]
  dsimp only
  rw [meetIssue_of_clean hclean]

/-- The state in which the word of a split executes: its run has begun, and its port has given it the pipes. -/
def State.wordBegins (s : State) (x : PortSplit) (w : DWord) (p : Port) : State :=
  ((s.startRun x).modCore x.b.core fun c =>
    { c with ports := c.ports.mapIdx fun n q => if n == x.g.port then { p with last := some (s.startRun x).now } else q }).beginSplit x w

/-- A word with free pipes in which the checks find nothing is executed. -/
theorem issueWord_of_checked {s : State} {x : PortSplit} {w : DWord} {code : Nat} {i : Instr} {p : Port} {b : Block} {g : Gang} {sp : Split}
    (hdecode : decodeWord x.b.table w = .instr code i)
    (hpipes : (((s.startRun x).core x.b.core).ports.getD x.g.port {}).take (s.startRun x).now (.instr code i) = some p)
    (hblk : (s.wordBegins x w p).blk x.b.id = some b) (hgang : b.gang x.g.num = some g) (hsplit : g.splitOf (x.sp.slices.headD 0) = some sp)
    (hfault : (s.wordBegins x w p).wordFault b false g sp w = none) : s.issueWord x w = exec i (s.wordBegins x w p) := by
  unfold State.wordBegins at hblk hfault ⊢
  unfold State.issueWord
  simp only [hdecode, hpipes, hblk, hgang, hsplit, hfault, Option.bind_none]
  rfl

/-- The word of a sequencer in which the checks find nothing, and which names no register that a load holds, is executed. -/
theorem issueSeq_of_checked {s sf : State} {b b' : Block} {w : DWord} {code : Nat} {i : Instr} (hfetch : s.fetch b b.seq.pc = .word w sf)
    (hclean : sf.upsets = []) (hblk : (sf.beginSeq b.id w).blk b.id = some b') (hdecode : decodeWord b'.table w = .instr code i)
    (hfault : (sf.beginSeq b.id w).wordFault b' true { num := 16 } { slices := [] } w = none) (hheld : heldBy b'.seq i = none) :
    s.issueSeq b = exec i (sf.beginSeq b.id w) := by
  have hparts : (Decoded.parts (.instr code i)).findSome? (heldBy b'.seq) = none := by
    simp only [Decoded.parts, List.findSome?_cons, hheld, List.findSome?_nil]
  unfold State.issueSeq
  simp only [hfetch, meetIssue_of_clean hclean, hblk, hfault, hdecode, hparts]
  rfl

/-- Settles O24: R166, R462. Whose turn it is and what comes due are the model's schedule (entry 3). -/
theorem stepRunsWord : Obligations.StepRunsWord := by
  unfold Obligations.StepRunsWord
  refine ⟨?split, ?sequencer⟩
  case split =>
    intro s sf bid gn k rest x w code i p hclean hplan hmay hfetch hdecode s1 hpipes s2 ⟨b, g, sp, hblk, hgang, hsplit, hfault⟩
    have hturn : s.turn = exec i s2 := (turn_issue hplan hmay).trans
      ((issueSplit_of_fetched hfetch hclean).trans (issueWord_of_checked hdecode hpipes hblk hgang hsplit hfault))
    rw [← hturn]
    rfl
  case sequencer =>
    intro s sf b b' bid rest w code i hclean hplan hmay hfetch s2 hblk hdecode hfault hheld
    have hturn : s.turn = exec i s2 := (turn_issue hplan hmay).trans (issueSeq_of_checked hfetch hclean hblk hdecode hfault hheld)
    rw [← hturn]
    rfl

end Sys2Proof.Machine

namespace Sys2Proof.Machine

/-! ### A word of one lane puts its item into a queue (R160, R163, R360, R361) -/

/-- A slice whose lane has been noted as having enqueued, and that has forgotten it as its word ends. -/
def Slice.enqueuedOnce (sp : Split) (k j : Nat) (x : Slice) : Slice :=
  let noted := if x.num == k then { x with sent := x.sent ++ [j] } else x
  if sp.slices.contains noted.num then { noted with sent := [] } else noted

theorem Slice.enqueuedOnce_num (sp : Split) (k j : Nat) (x : Slice) : (x.enqueuedOnce sp k j).num = x.num := by
  unfold Slice.enqueuedOnce
  dsimp only
  split <;> split <;> rfl

theorem Slice.enqueuedOnce_of_unsent {sp : Split} {x : Slice} (hmember : sp.slices.contains x.num = true) (hsent : x.sent = []) (j : Nat) :
    x.enqueuedOnce sp x.num j = x := by
  unfold Slice.enqueuedOnce
  dsimp only
  rw [if_pos (beq_self_eq_true _), if_pos hmember, ← hsent]

theorem Slice.enqueuedOnce_of_outside {sp : Split} {k : Nat} {x : Slice} (hmember : sp.slices.contains k = true) (hout : sp.slices.contains x.num = false)
    (j : Nat) : x.enqueuedOnce sp k j = x := by
  have hne : (x.num == k) = false := beq_false_of_ne fun hk => by
    rw [hk, hmember] at hout
    exact Bool.false_ne_true hout.symm
  unfold Slice.enqueuedOnce
  dsimp only
  rw [hne, if_neg Bool.false_ne_true, hout, if_neg Bool.false_ne_true]

section
variable {s u : State} {b : Block} {g : Gang} {sp : Split} {c : Ctl} {sl : Slice}

/-- The only enqueue of a word is done, and its slice goes on. -/
theorem enqEnd_done (hi : Issues u b g sp) (hh : b.halt = none) (hfull : c.slot = .full) (hsole : memberSlices g sp = [sl]) (hsent : sl.sent = [])
    {f : State → Nat → EnqRes} {a : Nat} (hdone : f s a = .done u) (j : Nat) (w : Nat → Wait) (all : Bool) :
    wordDone u (enqEnd c b g sp w all (enqAll b g f [(sl, j, a)] s)) b g sp fun sl sl' => Terms.became c sl sl' := by
  have hmember : sp.slices.contains sl.num = true := (mem_memberSlices.mp (hsole ▸ List.mem_singleton_self sl)).2
  have hnotx : (c.slot == .x) = false := by rw [hfull]; rfl
  have hnoted : enqAll b g f [(sl, j, a)] s =
      { s := u.modSlice ⟨b.id, g.num, sl.num⟩ fun y => { y with sent := y.sent ++ [j] } } := by
    unfold enqAll
    simp [hsent, hdone]
  have hput : onMembers (u.modSlice ⟨b.id, g.num, sl.num⟩ fun y => { y with sent := y.sent ++ [j] }) b g sp (fun y => { y with sent := [] }) =
      u.modGang b.id g.num fun gg => { gg with slices := gg.slices.map (Slice.enqueuedOnce sp sl.num j) } := by
    refine (State.modGang_modGang (f := fun gg => gg.modSlice sl.num fun y => { y with sent := y.sent ++ [j] })
      (f' := fun gg => { gg with slices := gg.slices.map fun y => if sp.slices.contains y.num then { y with sent := [] } else y }) (fun _ hg => hg)
      u b.id).trans (State.modGang_congr (fun gg _ => ?_) u b.id)
    exact congrArg (fun l => { gg with slices := l }) (List.map_map ..)
  have hmoved := wordDone_move hi hh c false (Slice.enqueuedOnce sp sl.num j) (Slice.enqueuedOnce_num sp sl.num j)
    (fun x hx => Slice.enqueuedOnce_of_outside hmember hx j) fun x => nextPc x.pc
  rw [hnoted]
  unfold enqEnd finish
  dsimp only
  rw [hput, hnotx, if_neg Bool.false_ne_true, List.isEmpty_nil, if_pos rfl]
  refine wordDone_mono_mem hi hmoved fun x hx _ x' hx' => ?_
  obtain rfl : x = sl := by rw [hsole] at hx; exact List.mem_singleton.mp hx
  have hwent : x' = went c (nextPc x.pc) x := by
    rw [hx', Slice.enqueuedOnce_of_unsent hmember hsent, went, hnotx]
    rfl
  exact hwent ▸ became_went x

/-- The lane of a slice that alone takes a word is the one that stands for it. -/
theorem lowLane_of_effLanes {j : Nat} (hlanes : effLanes c sl = [j]) : lowLane c sl = j := by
  rw [lowLane, hlanes]
  rfl

theorem takes_of_effLanes (hfrozen : sl.frozen = false) {j : Nat} (hlanes : effLanes c sl = [j]) : takes c sl = true := by
  unfold takes
  rw [hfrozen, hlanes]
  rfl

theorem launchOne_done {q a : Nat} {r : List Byte} (hqueue : s.launchQueue (dieOf b.core) q b.asid = true) (hgrant : s.grants (dieOf b.core) q = true)
    (hrecord : s.readRecord b.asid a = .inl r) :
    s.launchOne b q a = .done (s.enqueue (dieOf b.core) q (.launch r a b.asid 0 none none [])) := by
  unfold State.launchOne
  simp only [hqueue, hgrant, hrecord]
  rfl

theorem emitOne_done {node a lr q n tmo : Nat} (halign : a % 64 = 0) (hown : s.vaultOk b a 64 = true)
    (hnode : s.nodeOf b.asid node = some (lr, q, n, tmo)) (hroom : s.emitFull (dieOf b.core) q b.asid = false)
    (hgrant : s.grants (dieOf b.core) q = true) :
    s.emitOne b node a = .done (s.emitPut (dieOf b.core) q b.asid node tmo (leBytes 64 (s.vlRd (dieOf b.core) a 64))) := by
  unfold State.emitOne
  simp only [halign, hown, hnode, hroom, hgrant]
  rfl

theorem emitPut_eq (s : State) (d q asid node tmo : Nat) (data : List Byte) : s.emitPut d q asid node tmo data =
    { s.enqueue d q (.emit asid node data s.gtime) with
      timers := s.timers ++ if tmo = 0 then [] else [(s.gtime + tmo, .nodeFlushTimeout asid node)] } := by
  unfold State.emitPut
  by_cases htmo : tmo = 0
  · rw [if_pos htmo, List.append_nil, htmo]
    rfl
  · rw [if_neg htmo, beq_false_of_ne htmo]
    rfl

theorem wordDone_dies {t : State} {f : Slice → Slice → Prop} (h : wordDone s t b g sp f) : t.dies = s.dies := by rw [h.1]

@[simp] theorem emitPut_cur (s : State) (d q asid node tmo : Nat) (data : List Byte) : (s.emitPut d q asid node tmo data).cur = s.cur := by
  rw [emitPut_eq]
  rfl

@[simp] theorem emitPut_blocks (s : State) (d q asid node tmo : Nat) (data : List Byte) : (s.emitPut d q asid node tmo data).blocks = s.blocks := by
  rw [emitPut_eq]
  rfl

/-- A LAUNCH puts the record that it reads at the end of its queue (R160, R360). -/
theorem launch_enqueues (hi : Issues s b g sp) (hh : b.halt = none) (hfull : c.slot = .full) (hsole : memberSlices g sp = [sl])
    (hfrozen : sl.frozen = false) {j : Nat} (hlanes : effLanes c sl = [j]) (hsent : sl.sent = []) (hrel : relAll s b g sp [sl] .dev = none) (o : ZqOp)
    {r : List Byte} (hqueue : s.launchQueue (dieOf b.core) o.q.toNat b.asid = true) (hgrant : s.grants (dieOf b.core) o.q.toNat = true)
    (hrecord : s.readRecord b.asid (sl.v64 g.budget o.a.toNat j).toNat = .inl r) :
    ∃ t, exec (.launch c o) s = .next t ∧
      wordDone (s.enqueue (dieOf b.core) o.q.toNat (.launch r (sl.v64 g.budget o.a.toNat j).toNat b.asid 0 none none [])) t b g sp fun sl sl' =>
        Terms.became c sl sl' := by
  obtain ⟨k, hcur, -⟩ := hi.cur
  have hexec : exec (.launch c o) s = .next (enqEnd c b g sp .launch true
      (enqAll b g (fun s a => s.launchOne b o.q.toNat a) [(sl, j, (sl.v64 g.budget o.a.toNat j).toNat)] s)) := by
    rw [exec_launch, execLaunch, hcur]
    refine (withSplit_of hi _).trans (congrArg Host.Outcome.next ?_)
    dsimp only
    rw [actLanes_of_sole hsole (takes_of_effLanes hfrozen hlanes), lowLane_of_effLanes hlanes]
    simp only [List.map_cons, List.map_nil, hrel, List.headD_cons]
  refine ⟨_, hexec, enqEnd_done (f := fun s a => s.launchOne b o.q.toNat a) ?_ hh hfull hsole hsent (launchOne_done hqueue hgrant hrecord) j .launch true⟩
  exact hi.congr rfl rfl

/-- An EMIT puts the 64 bytes at its address at the end of the queue of its node, whose flush time starts (R163, R361). -/
theorem emit_enqueues (hi : Issues s b g sp) (hh : b.halt = none) (hfull : c.slot = .full) (hsole : memberSlices g sp = [sl])
    {j : Nat} (hlanes : effLanes c sl = [j]) (hsent : sl.sent = []) (hrel : relAll s b g sp [sl] .dev = none) (o : ZqOp) {lr q n tmo : Nat}
    (halign : (sl.v g.budget o.a.toNat j).toNat % 64 = 0) (hown : s.vaultOk b (sl.v g.budget o.a.toNat j).toNat 64 = true)
    (hnode : s.nodeOf b.asid o.q.toNat = some (lr, q, n, tmo)) (hroom : s.emitFull (dieOf b.core) q b.asid = false)
    (hgrant : s.grants (dieOf b.core) q = true) :
    ∃ t, exec (.emit c o) s = .next t ∧
      wordDone (s.emitPut (dieOf b.core) q b.asid o.q.toNat tmo (leBytes 64 (s.vlRd (dieOf b.core) (sl.v g.budget o.a.toNat j).toNat 64))) t b g sp
        fun sl sl' => Terms.became c sl sl' := by
  obtain ⟨k, hcur, -⟩ := hi.cur
  have hact : actLanes c g sp false = [(sl, [j])] := by
    unfold actLanes
    rw [hsole]
    simp [hlanes]
  have hexec : exec (.emit c o) s = .next (enqEnd c b g sp .emit false
      (enqAll b g (fun s a => s.emitOne b o.q.toNat a) [(sl, j, (sl.v g.budget o.a.toNat j).toNat)] s)) := by
    rw [exec_emit, execEmit, hcur]
    refine (withSplit_of hi _).trans (congrArg Host.Outcome.next ?_)
    dsimp only
    rw [hact]
    simp only [List.map_cons, List.map_nil, hrel, List.flatMap_cons, List.flatMap_nil, List.append_nil]
  refine ⟨_, hexec, enqEnd_done (f := fun s a => s.emitOne b o.q.toNat a) ?_ hh hfull hsole hsent (emitOne_done halign hown hnode hroom hgrant) j .emit false⟩
  exact hi.congr (emitPut_cur ..) (emitPut_blocks ..)

end

/-! ### The newest access -/

/-- Every access but `a` is older than `a`, which stands in a slice at `w`. -/
def State.NewestAt (s : State) (w : SliceRef) (a : Access) : Prop :=
  ∀ b ∈ s.blocks, (∀ y ∈ b.seq.acc, y.id < a.id) ∧ ∀ g ∈ b.gangs, ∀ x ∈ g.slices, ∀ y ∈ x.acc, a.id ≤ y.id →
    y = a ∧ b.id = w.blk ∧ g.num = w.gang ∧ x.num = w.slice

theorem newestAt_of_fresh {s : State} {a : Access} (h : ∀ y ∈ s.allAccs, y.id < a.id) (w : SliceRef) : s.NewestAt w a :=
  fun b hb => ⟨fun y hy => h y (List.mem_flatMap.mpr ⟨b, hb, List.mem_append_left _ hy⟩),
    fun _ hg _ hx y hy hid => (Nat.not_lt.mpr hid (h y (mem_allAccs hb hg hx hy))).elim⟩

section
variable {s : State} {w : SliceRef} {a : Access}

theorem State.NewestAt.eq_of_mem (h : s.NewestAt w a) {y : Access} (hy : y ∈ s.allAccs) (hid : a.id ≤ y.id) : y = a := by
  obtain ⟨b, hb, hy⟩ := List.mem_flatMap.mp hy
  obtain ⟨hseq, hslices⟩ := h b hb
  rcases List.mem_append.mp hy with hy | hy
  · exact (Nat.not_lt.mpr hid (hseq y hy)).elim
  · obtain ⟨g, hg, hy⟩ := List.mem_flatMap.mp hy
    obtain ⟨x, hx, hy⟩ := List.mem_flatMap.mp hy
    exact (hslices g hg x hx y hy hid).1

theorem State.NewestAt.congr {u : State} (h : s.NewestAt w a) (hblocks : u.blocks = s.blocks) : u.NewestAt w a := by
  unfold State.NewestAt
  rw [hblocks]
  exact h

/-- A change of gangs that leaves each slice its number and its accesses. -/
theorem State.NewestAt.modGang (h : s.NewestAt w a) {bid gn : Nat} {f : Gang → Gang} (hnum : ∀ g, (f g).num = g.num)
    (hslices : ∀ g, ∀ x' ∈ (f g).slices, ∃ x ∈ g.slices, x'.num = x.num ∧ x'.acc = x.acc) : (s.modGang bid gn f).NewestAt w a := by
  intro b' hb'
  obtain ⟨b, hb, rfl | rfl⟩ := mem_modWhere hb'
  · exact h b' hb
  obtain ⟨hseq, hold⟩ := h b hb
  refine ⟨hseq, fun g' hg' x' hx' y hy hid => ?_⟩
  obtain ⟨g, hg, rfl | rfl⟩ := mem_modWhere hg'
  · exact hold g' hg x' hx' y hy hid
  · obtain ⟨x, hx, hxnum, hacc⟩ := hslices g x' hx'
    rw [hnum, hxnum]
    exact hold g hg x hx y (hacc ▸ hy) hid

/-- A change of splits alone. -/
theorem State.NewestAt.modSplits (h : s.NewestAt w a) (bid gn : Nat) (f : Gang → List Split) :
    (s.modGang bid gn fun g => { g with splits := f g }).NewestAt w a :=
  h.modGang (fun _ => rfl) fun _ x hx => ⟨x, hx, rfl, rfl⟩

/-- A change of the accesses of the slice, of which `a'` is all that comes of `a`. -/
theorem State.NewestAt.modAccs (h : s.NewestAt w a) {f : List Access → List Access} {a' : Access} (hid : a'.id = a.id)
    (hf : ∀ l, (∀ y ∈ l, a.id ≤ y.id → y = a) → ∀ y ∈ f l, a.id ≤ y.id → y = a') :
    (s.modSlice w fun x => { x with acc := f x.acc }).NewestAt w a' := by
  intro b' hb'
  obtain ⟨b, hb, rfl⟩ := List.mem_map.mp hb'
  obtain ⟨hseq, hold⟩ := h b hb
  rw [hid]
  by_cases hblk : b.id = w.blk
  · rw [if_pos (beq_iff_eq.mpr hblk)]
    refine ⟨hseq, fun g' hg' x' hx' y hy hy' => ?_⟩
    obtain ⟨g, hg, rfl⟩ := List.mem_map.mp hg'
    by_cases hgang : g.num = w.gang
    · rw [if_pos (beq_iff_eq.mpr hgang)] at hx' ⊢
      obtain ⟨x, hx, rfl⟩ := List.mem_map.mp hx'
      by_cases hslice : x.num = w.slice
      · rw [if_pos (beq_iff_eq.mpr hslice)] at hy ⊢
        exact ⟨hf x.acc (fun z hz hz' => (hold g hg x hx z hz hz').1) y hy hy', hblk, hgang, hslice⟩
      · rw [if_neg (by simpa using hslice)] at hy
        exact (hslice (hold g hg x hx y hy hy').2.2.2).elim
    · rw [if_neg (by simpa using hgang)] at hx'
      exact (hgang (hold g hg x' hx' y hy hy').2.2.1).elim
  · rw [if_neg (by simpa using hblk)]
    exact ⟨hseq, fun g hg x hx y hy hy' => (hblk (hold g hg x hx y hy hy').2.1).elim⟩

end

/-! ### The end of a word moves no access -/

/-- A running block's gang, and the newest access. -/
def State.HoldsAt (s : State) (bid gn : Nat) (w : SliceRef) (a : Access) : Prop := Held s bid gn (fun _ => True) ∧ s.NewestAt w a

section
variable {s : State} {bid gn : Nat} {w : SliceRef} {a : Access}

theorem State.HoldsAt.modGang (h : s.HoldsAt bid gn w a) {f : Gang → Gang} (hnum : ∀ g, (f g).num = g.num)
    (hslices : ∀ g, ∀ x' ∈ (f g).slices, ∃ x ∈ g.slices, x'.num = x.num ∧ x'.acc = x.acc) : (s.modGang bid gn f).HoldsAt bid gn w a :=
  ⟨h.1.modGang hnum fun _ h => h, h.2.modGang hnum hslices⟩

theorem State.HoldsAt.modSplits (h : s.HoldsAt bid gn w a) (f : Gang → List Split) :
    (s.modGang bid gn fun g => { g with splits := f g }).HoldsAt bid gn w a :=
  ⟨h.1.modGang (fun _ => rfl) fun _ h => h, h.2.modSplits bid gn f⟩

theorem State.HoldsAt.endRun (h : s.HoldsAt bid gn w a) (k : Nat) : (s.endRun bid gn k).HoldsAt bid gn w a := by
  refine ⟨h.1.endRun fun _ h => h, ?_⟩
  obtain ⟨⟨b, g, hb, hh, hg, -⟩, honly⟩ := h
  have hcore : ∀ c f, (s.modCore c f).NewestAt w a := fun _ _ => honly.congr rfl
  unfold State.endRun
  simp only [hb, hg, hh]
  exact ((hcore _ _).modSplits bid gn _).modSplits bid gn _

theorem State.HoldsAt.foldl {α : Type _} (h : s.HoldsAt bid gn w a) (l : List α) {f : State → α → State}
    (hf : ∀ (u : State) (x : α), u.HoldsAt bid gn w a → (f u x).HoldsAt bid gn w a) : (l.foldl f s).HoldsAt bid gn w a :=
  List.foldlRecOn (motive := fun u : State => u.HoldsAt bid gn w a) l f h fun u hu x _ => hf u x hu

theorem State.HoldsAt.either {u : State} {p : Prop} (d : Decidable p) (hs : s.HoldsAt bid gn w a) (hu : u.HoldsAt bid gn w a) :
    (@ite _ p d s u).HoldsAt bid gn w a := by
  split
  · exact hs
  · exact hu

end

theorem State.HoldsAt.moveSplit {s : State} {b : Block} {g : Gang} {w : SliceRef} {a : Access} (h : s.HoldsAt b.id g.num w a) (sp : Split) (c : Ctl)
    (target : Slice → BitVec 48) (e : Bool) : (moveSplit s b g sp c target e).HoldsAt b.id g.num w a := by
  have hmove : (s.modGang b.id g.num fun gg => { gg with slices := gg.slices.map (advTo (movers g sp target [])) }).HoldsAt b.id g.num w a :=
    h.modGang (fun _ => rfl) fun gg x' hx' => by
      obtain ⟨x, hx, rfl⟩ := List.mem_map.mp hx'
      refine ⟨x, hx, advTo_num .., ?_⟩
      unfold advTo
      split <;> rfl
  unfold Machine.moveSplit
  cases sp.slices with
  | nil => exact hmove
  | cons k r =>
    dsimp only
    refine .either _ (.foldl ?_ _ fun u grp hu => ?_) ?_
    case refine_2 =>
      cases grp with
      | nil => exact hu
      | cons k _ => exact hu.endRun k
    all_goals
      refine .either _ (.modSplits ?_ _) ?_ <;> exact .either _ (hmove.modSplits _) (hmove.modSplits _)

theorem State.HoldsAt.finish {s : State} {b : Block} {g : Gang} {w : SliceRef} {a : Access} (h : s.HoldsAt b.id g.num w a) (sp : Split) (c : Ctl)
    (e : Bool) : (finish s b g sp c e).HoldsAt b.id g.num w a := by
  unfold Machine.finish
  exact .either _ h (h.moveSplit ..)

/-- What a word has made of the only member slice of its split. -/
theorem slice_of_wordDone {s t : State} {b : Block} {g : Gang} {sp : Split} {sl : Slice} {f : Slice → Slice → Prop} (hi : Issues s b g sp)
    (hsole : memberSlices g sp = [sl]) (h : wordDone s t b g sp f) : ∃ sl', t.slice ⟨b.id, g.num, sl.num⟩ = some sl' ∧ f sl sl' := by
  have hmember : sp.slices.contains sl.num = true := (mem_memberSlices.mp (hsole ▸ List.mem_singleton_self sl)).2
  have hslice : g.slice sl.num = some sl := by
    rw [← find_member g sp sl.num hmember, hsole]
    exact List.find?_cons_of_pos (beq_self_eq_true _)
  obtain ⟨-, -, -, hblock⟩ := h
  obtain ⟨b', hb', -, -, hgang⟩ := hblock b hi.blk
  obtain ⟨g', hg', -, -, hslices⟩ := hgang g hi.gang
  obtain ⟨sl', hsl', hf⟩ := hslices sl.num sl hslice
  refine ⟨sl', ?_, by rw [if_pos hmember] at hf; exact hf⟩
  unfold State.slice
  rw [hb']
  dsimp only
  rw [hg']
  exact hsl'

/-! ### The newest access, alone in its slice -/

/-- `a` is the only access of the slice `x` at `w`, and every other access is older. -/
structure State.Bears (s : State) (w : SliceRef) (x : Slice) (a : Access) : Prop where
  slice : s.slice w = some x
  acc : x.acc = [a]
  newest : s.NewestAt w a

section
variable {s : State} {w : SliceRef} {x : Slice} {a : Access}

theorem State.Bears.mem (h : s.Bears w x a) : a ∈ s.allAccs :=
  mem_allAccs_of_slice h.slice (h.acc ▸ List.mem_singleton_self a)

theorem State.Bears.accOf (h : s.Bears w x a) : s.accOf a.id = some a := by
  cases hfound : s.accOf a.id with
  | none => exact (List.find?_eq_none.mp hfound a h.mem (beq_self_eq_true _)).elim
  | some y =>
    have hid : (y.id == a.id) = true := List.find?_some (p := fun y : Access => y.id == a.id) hfound
    rw [h.newest.eq_of_mem (List.mem_of_find?_eq_some hfound) (beq_iff_eq.mp hid).ge]

theorem State.Bears.accs (h : s.Bears w x a) (hw : w.slice ≠ seqSlice) : s.accs w = [a] :=
  (accs_of_slice hw h.slice).trans h.acc

theorem State.Bears.congr {u : State} (h : s.Bears w x a) (hblocks : u.blocks = s.blocks) : u.Bears w x a :=
  ⟨(State.slice_congr hblocks w).trans h.slice, h.acc, h.newest.congr hblocks⟩

/-- A change of the accesses of the slice that makes `a'` of `a`. -/
theorem State.Bears.modAccs (h : s.Bears w x a) (hw : w.slice ≠ seqSlice) {f : List Access → List Access} {a' : Access} (hid : a'.id = a.id)
    (hf : ∀ l, (∀ y ∈ l, a.id ≤ y.id → y = a) → ∀ y ∈ f l, a.id ≤ y.id → y = a') (hacc : f [a] = [a']) :
    (s.modAccs w f).Bears w { x with acc := [a'] } a' := by
  have hmod : s.modAccs w f = s.modSlice w fun x => { x with acc := f x.acc } := by
    unfold State.modAccs
    rw [beq_false_of_ne hw, if_neg Bool.false_ne_true]
  rw [hmod]
  refine ⟨?_, rfl, h.newest.modAccs hid hf⟩
  rw [State.slice_modSlice_self s w (fun x => { x with acc := f x.acc }) fun _ => rfl, h.slice, Option.map_some, h.acc, hacc]

end

/-! ### A part that waits for an answer -/

theorem dropAll_of_waiting {a : Access} (hwaits : a.complete = false) : dropAll [a] = [a] := by
  have hone : ∀ path, dropDone [a] path = [a] := fun path => by
    unfold dropDone
    rw [hwaits]
    split <;> rfl
  exact List.foldl_fixed' hone (List.range 9)

/-- While a part of a word waits for an answer, no fault of the word is raised (entry 20). -/
theorem raiseWord_of_sent {s : State} {w : SliceRef} {x : Slice} {a : Access} {p : Part} {tag : Nat} (hslice : s.slice w = some x) (ha : a ∈ x.acc)
    (hp : p ∈ a.parts) (hsent : p.st = .sent tag) : s.raiseWord w.blk w.gang a.grp = s := by
  unfold State.slice at hslice
  split at hslice
  case h_2 => exact nomatch hslice
  next b hb =>
  split at hslice
  case h_2 => exact nomatch hslice
  next g hg =>
  have hin : a ∈ b.accs := List.mem_append_right _ (List.mem_flatMap.mpr
    ⟨g, List.mem_of_find?_eq_some hg, List.mem_flatMap.mpr ⟨x, List.mem_of_find?_eq_some hslice, ha⟩⟩)
  have hopen : b.wordOpen a.grp = true := by
    refine List.any_eq_true.mpr ⟨a, hin, ?_⟩
    rw [beq_self_eq_true, Bool.true_and]
    exact List.any_eq_true.mpr ⟨p, hp, by rw [hsent]⟩
  unfold State.raiseWord
  simp only [hb, hg, hopen, Bool.or_true, if_true]

/-- What a step may leave that takes no due step away: blocks, cores and due steps alone are other than in `s`, and every due step is still there. -/
def State.Adds (s t : State) : Prop := s.Stirs t ∧ s.work ⊆ t.work

theorem State.Adds.trans {s t u : State} (h : s.Adds t) (h' : t.Adds u) : s.Adds u := ⟨h.1.trans h'.1, fun _ he => h'.2 (h.2 he)⟩

theorem push_adds (s : State) (l : List Event) : s.Adds (s.push l) := ⟨rfl, fun _ he => List.mem_append_left _ he⟩

theorem modAccs_adds {w : SliceRef} (hw : w.slice ≠ seqSlice) (s : State) (f : List Access → List Access) : s.Adds (s.modAccs w f) := by
  unfold State.modAccs
  rw [beq_false_of_ne hw, if_neg Bool.false_ne_true]
  exact ⟨rfl, fun _ he => he⟩

section
variable {s : State} {w : SliceRef} {x : Slice} {a : Access} {p : Part}

/-- The counters do not fall while the access waits. -/
theorem State.Bears.drain (h : s.Bears w x a) (hw : w.slice ≠ seqSlice) (hwaits : a.complete = false) :
    (s.drain w).Bears w x a ∧ s.Adds (s.drain w) := by
  have hkept : (s.modAccs w dropAll).Bears w { x with acc := [a] } a :=
    h.modAccs hw rfl (fun l hl y hy hid => hl y (mem_dropAll hy) hid) (dropAll_of_waiting hwaits)
  have hx : { x with acc := [a] } = x := by rw [← h.acc]
  rw [hx] at hkept
  have hsame : s.drain w = s.modAccs w dropAll := by
    unfold State.drain
    dsimp only
    rw [h.accs hw]
    refine if_pos ?_
    rw [show (s.modAccs w fun l => (List.range 9).foldl dropDone l).accs w = [a] from hkept.accs hw]
    rfl
  rw [hsame]
  exact ⟨hkept, modAccs_adds hw s dropAll⟩

/-- What follows an access whose part waits for an answer (R94). -/
theorem State.Bears.settle (h : s.Bears w x a) (hw : w.slice ≠ seqSlice) (hord : a.ord = .rlx) (hparts : a.parts = [p]) {tag : Nat}
    (hsent : p.st = .sent tag) : (s.settle w a.id).Bears w x a ∧ s.Adds (s.settle w a.id) := by
  have hwaits : a.complete = false := by
    unfold Access.complete
    rw [hparts]
    simp [hsent]
  have hacquire : s.accAcquire a = s := by
    unfold State.accAcquire
    rw [hord]
    rfl
  have hfind : (s.accs w).find? (fun y => y.id == a.id) = some a := by
    rw [h.accs hw]
    exact List.find?_cons_of_pos (beq_self_eq_true _)
  obtain ⟨hdrained, hadds⟩ := h.drain hw hwaits
  have hsettle : ∃ l, s.settle w a.id = (s.drain w).push l := by
    unfold State.settle
    simp only [hfind, hacquire, hparts, hsent, List.any_cons, List.any_nil, Bool.or_false, Bool.false_eq_true, if_false]
    exact ⟨_, raiseWord_of_sent (p := p) (tag := tag) (hdrained.congr rfl).slice (hdrained.acc ▸ List.mem_singleton_self a)
      (hparts ▸ List.mem_singleton_self p) hsent⟩
  obtain ⟨l, hsettle⟩ := hsettle
  rw [hsettle]
  exact ⟨hdrained.congr rfl, hadds.trans (push_adds _ l)⟩

end

/-! ### A notice goes out (R147, R362, R363) -/

/-- A change of one access that leaves it its identity. -/
theorem State.Bears.modAcc {s : State} {w : SliceRef} {x : Slice} {a : Access} (h : s.Bears w x a) (hw : w.slice ≠ seqSlice) (f : Access → Access)
    (hid : ∀ y, (f y).id = y.id) : (s.modAcc w a.id f).Bears w { x with acc := [f a] } (f a) := by
  refine h.modAccs hw (hid a) (fun l hl y' hy' hya => ?_) ?_
  · obtain ⟨y, hy, rfl⟩ := List.mem_map.mp hy'
    by_cases hhit : (y.id == a.id) = true
    · rw [if_pos hhit, hl y hy (beq_iff_eq.mp hhit).ge]
    · rw [if_neg hhit] at hya
      exact (hhit (beq_iff_eq.mpr (congrArg Access.id (hl y hy hya)))).elim
  · unfold modWhere
    simp

/-- An access with the part of a lane on its way. -/
def Access.partSent (a : Access) (lane : Nat) : Access :=
  { a with parts := modWhere (fun p => p.lane == lane) (fun p => { p with st := .sent 0 }) a.parts }

theorem Access.partSent_parts {a : Access} {p : Part} (h : a.parts = [p]) : (a.partSent p.lane).parts = [{ p with st := .sent 0 }] := by
  unfold Access.partSent modWhere
  rw [h]
  simp

/-- The access of a KICK to this device whose source lies in a vault, with its one part. -/
structure Kicks (s : State) (w : SliceRef) (a : Access) (p : Part) (n : Notice) : Prop where
  lane : w.slice ≠ seqSlice
  who : a.who = w
  kind : a.kind = .kick n
  ord : a.ord = .rlx
  parts : a.parts = [p]
  here : n.tdev = s.devNum
  own : n.tasid = a.asid
  vault : n.sv = true

section
variable {s : State} {w : SliceRef} {x : Slice} {a : Access} {p : Part} {n : Notice}

theorem Kicks.complete_eq (h : Kicks s w a p n) (hopen : p.st ≠ .done) : (a.complete && !a.parts.isEmpty) = false := by
  unfold Access.complete
  rw [h.parts]
  simp [hopen]

theorem Kicks.part_found (h : Kicks s w a p n) : a.parts.find? (fun q => q.lane == p.lane) = some p := by
  rw [h.parts]
  exact List.find?_cons_of_pos (beq_self_eq_true _)

theorem Kicks.advance_eq (h : Kicks s w a p n) (hbears : s.Bears w x a) (hopen : p.st ≠ .done) :
    s.advance a.id = (s.advancePart a.id p.lane).settle w a.id := by
  unfold State.advance
  rw [hbears.accOf]
  dsimp only
  rw [h.complete_eq hopen, if_neg Bool.false_ne_true, h.parts, h.who]
  rfl

/-- The state in which the notice is on its way. -/
def State.kickSent (s : State) (a : Access) (p : Part) (n : Notice) : State :=
  (s.modPart a p.lane fun p => { p with st := .sent 0 }).push [.kickNoticeArrival { n with sender := a.id }]

/-- A notice to this device goes to its kick register. -/
theorem sendKick_here {s : State} {n : Notice} (h : n.tdev = s.devNum) (acc : Nat) (lanes : List Nat) (eng : Option (Nat × Ctx × Nat)) :
    s.sendKick n acc lanes eng = s.push [.kickNoticeArrival n] := if_pos (beq_iff_eq.mpr h)

/-- A source in a vault needs no translation: the notice goes out at once. -/
theorem Kicks.stepKick_eq (h : Kicks s w a p n) : s.stepKick a p n = s.kickSent a p n := by
  have hmiss : s.kickMiss (dieOf (s.coreOfAcc a)) a.asid n = none := by
    unfold State.kickMiss
    rw [h.vault]
    rfl
  have hsrc : s.kickSrc (dieOf (s.coreOfAcc a)) a.asid n = .inl n := by
    unfold State.kickSrc
    rw [h.own, bne_self_eq_false, Bool.and_false, if_neg Bool.false_ne_true, if_pos h.vault]
  have hdev : (s.modPart a p.lane fun p => { p with st := .sent 0 }).devNum = s.devNum := by
    unfold State.modPart State.modAcc State.modAccs
    rw [h.who, beq_false_of_ne h.lane, if_neg Bool.false_ne_true]
    rfl
  unfold State.stepKick
  dsimp only
  rw [hmiss]
  dsimp only
  rw [hsrc]
  exact sendKick_here (n := { n with sender := a.id }) (h.here.trans hdev.symm) a.id [p.lane] none

theorem Kicks.advancePart_todo (h : Kicks s w a p n) (hbears : s.Bears w x a) (htodo : p.st = .todo) :
    s.advancePart a.id p.lane = s.kickSent a p n := by
  have hfree : ∀ l sib, blocked l sib a p = false := fun _ _ => by
    unfold blocked
    rw [h.kind]
    rfl
  have hkeep : s.keepTr a p = (s, p) := by
    unfold State.keepTr
    rw [h.kind]
    rfl
  have hstep : s.stepPart a p = s.stepKick a p n := by
    unfold State.stepPart
    rw [h.kind]
  unfold State.advancePart
  rw [hbears.accOf]
  dsimp only
  rw [h.part_found]
  simp only [htodo, hfree, hkeep, hstep, Bool.false_eq_true, if_false]
  exact h.stepKick_eq

/-- The part of a KICK that is sent has no step of its own. -/
theorem Kicks.advancePart_sent (h : Kicks s w a p n) (hbears : s.Bears w x a) (hsent : p.st = .sent 0) : s.advancePart a.id p.lane = s := by
  unfold State.advancePart
  rw [hbears.accOf]
  dsimp only
  rw [h.part_found]
  simp only [hsent, h.kind]

theorem Kicks.partSent (h : Kicks s w a p n) {t : State} (hdev : t.devNum = s.devNum) : Kicks t w (a.partSent p.lane) { p with st := .sent 0 } n :=
  ⟨h.lane, h.who, h.kind, h.ord, Access.partSent_parts h.parts, h.here.trans hdev.symm, h.own, h.vault⟩

theorem Kicks.kickSent_bears (h : Kicks s w a p n) (hbears : s.Bears w x a) :
    (s.kickSent a p n).Bears w { x with acc := [a.partSent p.lane] } (a.partSent p.lane) := by
  refine State.Bears.congr (u := s.kickSent a p n) (hbears.modAcc h.lane (fun y => y.partSent p.lane) fun _ => rfl) ?_
  unfold State.kickSent State.modPart
  rw [h.who]
  rfl

theorem Kicks.kickSent_adds (h : Kicks s w a p n) : s.Adds (s.kickSent a p n) := by
  have hlane : a.who.slice ≠ seqSlice := h.who ▸ h.lane
  unfold State.kickSent State.modPart State.modAcc
  exact (modAccs_adds hlane s _).trans (push_adds _ _)

/-- The notice goes out as the access comes on, which then waits. -/
theorem Kicks.sends (h : Kicks s w a p n) (hbears : s.Bears w x a) (htodo : p.st = .todo) :
    (s.advance a.id).Bears w { x with acc := [a.partSent p.lane] } (a.partSent p.lane) ∧ s.Adds (s.advance a.id) ∧
      .kickNoticeArrival { n with sender := a.id } ∈ (s.advance a.id).work := by
  have hopen : p.st ≠ .done := by rw [htodo]; exact PartSt.noConfusion
  obtain ⟨hsettled, hadds⟩ := (h.kickSent_bears hbears).settle (p := { p with st := .sent 0 }) (tag := 0) h.lane h.ord (Access.partSent_parts h.parts) rfl
  rw [h.advance_eq hbears hopen, h.advancePart_todo hbears htodo]
  exact ⟨hsettled, h.kickSent_adds.trans hadds, hadds.2 (List.mem_append_right _ (List.mem_singleton_self _))⟩

/-- It waits on, however often it comes on. -/
theorem Kicks.waits (h : Kicks s w a p n) (hbears : s.Bears w x a) (hsent : p.st = .sent 0) :
    (s.advance a.id).Bears w x a ∧ s.Adds (s.advance a.id) := by
  have hopen : p.st ≠ .done := by rw [hsent]; exact PartSt.noConfusion
  rw [h.advance_eq hbears hopen, h.advancePart_sent hbears hsent]
  exact hbears.settle h.lane h.ord h.parts hsent

theorem State.Adds.devNum_eq {t : State} (h : s.Adds t) : t.devNum = s.devNum := by rw [h.1]
theorem State.Adds.mem_eq {t : State} (h : s.Adds t) : t.mem = s.mem := by rw [h.1]
theorem State.Adds.vault_eq {t : State} (h : s.Adds t) : t.vault = s.vault := by rw [h.1]

theorem Kicks.waits_foldl (h : Kicks s w a p n) (hbears : s.Bears w x a) (hsent : p.st = .sent 0) {l : List Access} (hl : ∀ y ∈ l, y.id = a.id) :
    (l.foldl (fun s y => s.advance y.id) s).Bears w x a ∧ s.Adds (l.foldl (fun s y => s.advance y.id) s) := by
  induction l generalizing s with
  | nil => exact ⟨hbears, rfl, fun _ he => he⟩
  | cons y r ih =>
    obtain ⟨hnext, hadds⟩ := h.waits hbears hsent
    have hk : Kicks (s.advance a.id) w a p n := { h with here := h.here.trans hadds.devNum_eq.symm }
    obtain ⟨hend, hmore⟩ := ih hk hnext fun z hz => hl z (List.mem_cons_of_mem y hz)
    rw [List.foldl_cons, hl y List.mem_cons_self]
    exact ⟨hend, hadds.trans hmore⟩

/-- The notice is sent once, however many copies of the access are found. -/
theorem Kicks.sends_foldl (h : Kicks s w a p n) (hbears : s.Bears w x a) (htodo : p.st = .todo) {l : List Access} (hl : ∀ y ∈ l, y.id = a.id)
    (hne : l ≠ []) : (l.foldl (fun s y => s.advance y.id) s).Bears w { x with acc := [a.partSent p.lane] } (a.partSent p.lane) ∧
      s.Adds (l.foldl (fun s y => s.advance y.id) s) ∧
      .kickNoticeArrival { n with sender := a.id } ∈ (l.foldl (fun s y => s.advance y.id) s).work := by
  cases l with
  | nil => exact (hne rfl).elim
  | cons y r =>
    obtain ⟨hsent, hadds, hnotice⟩ := h.sends hbears htodo
    obtain ⟨hend, hmore⟩ := (h.partSent hadds.devNum_eq).waits_foldl hsent rfl fun z hz => hl z (List.mem_cons_of_mem y hz)
    rw [List.foldl_cons, hl y List.mem_cons_self]
    exact ⟨hend, hadds.trans hmore, hmore.2 hnotice⟩

end

/-! ### KICK (R147, R362, R363) -/

/-- The vault address that a KICK names in a slice. -/
def noticeAddr (c : Ctl) (o : ZOp) (g : Gang) (sl : Slice) : Nat := (sl.v g.budget o.a.toNat (lowLane c sl)).toNat

/-- The one part of a KICK whose notice lies at an address, its source in a vault. -/
def noticePart (c : Ctl) (sl : Slice) (addr : Nat) : Part := { lane := lowLane c sl, addr, also := Terms.others c sl }

/-- The access that counts a KICK on path 7. -/
def kickAccess (s : State) (b : Block) (g : Gang) (sp : Split) (c : Ctl) (sl : Slice) (addr : Nat) : Access :=
  Terms.issued s b g sp sl (.kick (s.noticeAt b addr)) 7 8 b.asid [noticePart c sl addr]

/-- What lets a KICK of a split of one slice, with nothing in flight, go ahead to this device. -/
structure KickWord (s : State) (b : Block) (g : Gang) (sp : Split) (c : Ctl) (o : ZOp) (sl : Slice) : Prop where
  issues : Issues s b g sp
  running : b.halt = none
  full : c.slot = .full
  sole : memberSlices g sp = [sl]
  takes : takes c sl = true
  idle : sl.acc = []
  lane : sl.num ≠ seqSlice
  fresh : ∀ x ∈ s.allAccs, x.id < s.nextId
  released : relAll s b g sp [sl] (s.kickScope b (s.noticeAt b (noticeAddr c o g sl))) = none
  checked : s.kickChk b (noticeAddr c o g sl) = none
  here : (s.noticeAt b (noticeAddr c o g sl)).tdev = s.devNum
  own : (s.noticeAt b (noticeAddr c o g sl)).tasid = b.asid
  vault : (s.noticeAt b (noticeAddr c o g sl)).sv = true

/-- For one slice, `relEach` waits where `relAll` does. -/
theorem relEach_one {s : State} {b : Block} {g : Gang} {sp : Split} {sl : Slice} {sc : Scope} (h : relAll s b g sp [sl] sc = none) :
    relEach s b g sp [(sl, sc)] = none := by
  unfold relAll at h
  unfold relEach
  simp only [List.foldl_cons, List.foldl_nil, Bool.true_and] at h ⊢
  cases hdone : (s.release ⟨b.id, g.num, sl.num⟩ sc).1 with
  | true => rfl
  | false =>
    rw [hdone] at h
    exact nomatch h

section
variable {s : State} {b : Block} {g : Gang} {sp : Split} {c : Ctl} {o : ZOp} {sl : Slice}

/-- The state in which the access of a KICK has been put in flight and its word has ended. -/
def State.kickIssued (s : State) (b : Block) (g : Gang) (sp : Split) (c : Ctl) (sl : Slice) (addr : Nat) : State :=
  finish ((({ s with nextId := s.nextId + 1 } : State).modSlice ⟨b.id, g.num, sl.num⟩ fun x =>
    { x with acc := x.acc ++ [kickAccess s b g sp c sl addr] }).push [.accessCompletion s.nextId]) b g sp c

theorem issueAccs_kick (hidle : sl.acc = []) {addr : Nat} :
    issueAccs s b g sp c .rlx .blk [{ sl, kind := .kick (s.noticeAt b addr), esz := 8, path := 7, chk := [(lowLane c sl, .go { lane := lowLane c sl, addr })] }] =
      s.kickIssued b g sp c sl addr := by
  have hroom : pathFull sl 7 = false := by
    unfold pathFull
    rw [hidle]
    rfl
  unfold issueAccs
  simp only [hroom, List.any_cons, List.any_nil, Bool.false_and, Bool.or_false, Bool.false_eq_true, if_false, List.foldl_cons, List.foldl_nil,
    List.map_cons, List.map_nil, List.filterMap_cons, List.filterMap_nil, List.isEmpty_cons, List.isEmpty_nil, List.append_nil, AccKind.vault,
    AccKind.system, AccKind.once, State.newId, Bool.or_true, if_true]
  rfl

/-- The access of a KICK. -/
def AccKind.isKick : AccKind → Bool
  | .kick _ => true
  | _ => false

/-- The accesses of KICKs whose identity is not below `first`. -/
def State.newKicks (s : State) (first : Nat) : List Access := s.allAccs.filter fun a => decide (first ≤ a.id) && a.kind.isKick

/-- A KICK puts its access in flight, and lets it come on at once. -/
theorem KickWord.exec_eq (h : KickWord s b g sp c o sl) :
    let u := s.kickIssued b g sp c sl (noticeAddr c o g sl)
    exec (.kick c o) s = .next ((u.newKicks s.nextId).foldl (fun s a => s.advance a.id) u) := by
  intro u
  obtain ⟨k, hcur, -⟩ := h.issues.cur
  have hrel : s.kickRel b (noticeAddr c o g sl) = s.kickScope b (s.noticeAt b (noticeAddr c o g sl)) := by
    unfold State.kickRel
    rw [h.checked]
    rfl
  have hissued : u = issueAccs s b g sp c .rlx .blk _ := (issueAccs_kick h.idle).symm
  rw [exec_kick, execKick, hcur]
  refine (withSplit_of h.issues _).trans (congrArg Host.Outcome.next ?_)
  have hreleased := relEach_one h.released
  rw [← hrel] at hreleased
  have hchecked := h.checked
  have hvault := h.vault
  unfold noticeAddr at hreleased hchecked hvault hissued
  dsimp only
  rw [actLanes_of_sole h.sole h.takes]
  simp only [List.map_cons, List.map_nil, List.headD_cons, hreleased, hchecked, hvault, if_true]
  rw [hissued]
  rfl

/-- The access of a KICK, as its word ends. -/
theorem KickWord.kickIssued_bears (h : KickWord s b g sp c o sl) (addr : Nat) :
    let a := kickAccess s b g sp c sl addr
    let u := s.kickIssued b g sp c sl addr
    u.Bears ⟨b.id, g.num, sl.num⟩ { sl with pc := sl.pc + 8, execMask := none, acc := [a] } a := by
  intro a u
  set w : SliceRef := ⟨b.id, g.num, sl.num⟩
  have hflight : Terms.inFlight s u b g sp a := inFlight_finish h.issues h.running h.full h.sole a
  obtain ⟨sl', hslice, hsl'⟩ := slice_of_wordDone (s := { s with nextId := s.nextId + 1, work := s.work ++ [.accessCompletion s.nextId] })
    (f := fun sl sl' => sl' = { sl with pc := sl.pc + 8, execMask := none, acc := sl.acc ++ [a] }) (h.issues.congr rfl rfl) h.sole hflight
  rw [h.idle] at hsl'
  subst hsl'
  refine ⟨hslice, rfl, ?_⟩
  have hfresh : s.NewestAt w a := newestAt_of_fresh h.fresh w
  have hput : (({ s with nextId := s.nextId + 1 } : State).modSlice w fun x => { x with acc := x.acc ++ [a] }).NewestAt w a :=
    (hfresh.congr rfl).modAccs (f := fun l => l ++ [a]) rfl fun l hl y hy hid =>
      (List.mem_append.mp hy).elim (fun hy => hl y hy hid) List.mem_singleton.mp
  have hheld : Held (({ s with nextId := s.nextId + 1 } : State).modSlice w fun x => { x with acc := x.acc ++ [a] }) b.id g.num fun _ => True :=
    ((h.issues.congr rfl rfl).held h.running).modGang (fun _ => rfl) fun _ _ => trivial
  have hissued : ((({ s with nextId := s.nextId + 1 } : State).modSlice w fun x => { x with acc := x.acc ++ [a] }).push
      [.accessCompletion s.nextId]).HoldsAt b.id g.num w a := ⟨hheld, hput.congr rfl⟩
  exact (hissued.finish sp c false).2

/-- A KICK's notice goes out, and its access waits on path 7; memory and vaults stay as they are. -/
theorem KickWord.notices (h : KickWord s b g sp c o sl) :
    let a := kickAccess s b g sp c sl (noticeAddr c o g sl)
    let n := s.noticeAt b (noticeAddr c o g sl)
    ∃ t, exec (.kick c o) s = .next t ∧
      t.Bears ⟨b.id, g.num, sl.num⟩ { sl with pc := sl.pc + 8, execMask := none, acc := [a.partSent (lowLane c sl)] } (a.partSent (lowLane c sl)) ∧
      .kickNoticeArrival { n with sender := s.nextId } ∈ t.work ∧ t.mem = s.mem ∧ t.vault = s.vault := by
  intro a n
  have hbears := h.kickIssued_bears (noticeAddr c o g sl)
  obtain ⟨hstate, -⟩ : Terms.inFlight s (s.kickIssued b g sp c sl (noticeAddr c o g sl)) b g sp a := inFlight_finish h.issues h.running h.full h.sole a
  have hexec := h.exec_eq
  generalize s.kickIssued b g sp c sl (noticeAddr c o g sl) = u at hbears hstate hexec
  have hdev : u.devNum = s.devNum := by rw [hstate]
  have hmem : u.mem = s.mem := by rw [hstate]
  have hvault : u.vault = s.vault := by rw [hstate]
  have hkicks : Kicks u ⟨b.id, g.num, sl.num⟩ a (noticePart c sl (noticeAddr c o g sl)) n :=
    ⟨h.lane, rfl, rfl, rfl, rfl, h.here.trans hdev.symm, h.own, h.vault⟩
  have hids : ∀ y ∈ u.newKicks s.nextId, y.id = a.id := fun y hy => by
    obtain ⟨hy, hnew⟩ := List.mem_filter.mp hy
    rw [hbears.newest.eq_of_mem hy (of_decide_eq_true (Bool.and_eq_true_iff.mp hnew).1)]
  have hfound : a ∈ u.newKicks s.nextId := List.mem_filter.mpr ⟨hbears.mem, by rw [decide_eq_true (show s.nextId ≤ a.id from le_rfl)]; rfl⟩
  obtain ⟨hend, hadds, hnotice⟩ := hkicks.sends_foldl hbears rfl hids (List.ne_nil_of_mem hfound)
  exact ⟨_, hexec, hend, hnotice, hadds.mem_eq.trans hmem, hadds.vault_eq.trans hvault⟩

end

/-- Settles O42: R147, R160, R163, R360 to R363. A LAUNCH and an EMIT put one item at the end of a queue, and an EMIT's is a queue of the issuing die (the
model's choice, entry 23); a KICK puts one access in flight, whose notice goes out as it comes on. -/
theorem queueWords : Obligations.QueueWords := by
  unfold Obligations.QueueWords
  refine ⟨?enqueues, ?kick⟩
  case enqueues =>
    intro s b g sp c sl o j hi hh hfull hsole hfrozen hlanes hsent hrel d put
    refine ⟨?launch, ?emit⟩
    case launch =>
      intro r a hqueue hgrant hrecord
      obtain ⟨t, hexec, hdone⟩ := launch_enqueues hi hh hfull hsole hfrozen hlanes hsent hrel o hqueue hgrant hrecord
      have hdies := wordDone_dies hdone
      refine ⟨t, hexec, queued_of_dies hdies, ?_⟩
      rw [hdies]
      exact hdone
    case emit =>
      intro lr q n tmo a halign hown hnode hroom hgrant
      obtain ⟨t, hexec, hdone⟩ := emit_enqueues hi hh hfull hsole hlanes hsent hrel o halign hown hnode hroom hgrant
      rw [emitPut_eq] at hdone
      have hdies := wordDone_dies hdone
      refine ⟨t, hexec, queued_of_dies hdies, ?_⟩
      rw [hdies]
      exact hdone
  case kick =>
    intro s b g sp c sl o hi hh hfull hsole htakes hacc hlane hfresh a n hrel hchk hdev hctx hvault
    have hidle : sl.acc = [] := hacc sl (mem_memberSlices.mp (hsole ▸ List.mem_singleton_self sl)).1
    have hkick : KickWord s b g sp c o sl := ⟨hi, hh, hfull, hsole, htakes, hidle, hlane, hfresh, hrel, hchk, hdev, hctx, hvault⟩
    obtain ⟨t, hexec, hbears, hnotice, hmem, hvaults⟩ := hkick.notices
    exact ⟨t, _, hexec, hbears.slice, rfl, ⟨_, rfl, rfl, rfl, rfl⟩, hnotice, hmem, hvaults⟩

end Sys2Proof.Machine
